-- ==== Sys2Proof/Word.lean ====
section
/-! DEFINITION. Word: the word types and nothing else. -/

namespace Sys2Proof

/-- A 64-bit register value (R13). -/
abbrev Word := BitVec 64
/-- One byte of memory. -/
abbrev Byte := BitVec 8
/-- A register number of a 4-bit field. -/
abbrev Reg := BitVec 4

end Sys2Proof
end

