-- ==== Sys2Proof/Config.lean ====
section
/-! DEFINITION. Config: what the spec leaves open, as constants without a body. Nothing in Lean can evaluate one or prove a
value of it; a statement that mentions one holds whatever it is. Each is named in a log entry under notes/assumptions. -/

namespace Sys2Proof

/-- Extra cycles, above the minimum of R440, R268, R332, R351 or R441, that the n-th message in flight takes (log 1). -/
opaque Config.delay : Nat → Nat

/-- How many times the accumulator updates of the n-th matrix row found their bank busy (R194, log 48). -/
opaque Config.bankWaits : Nat → Nat

/-- The two distinct banks of 0..7 the ready pool's LFSR names at its n-th sample, as numbers to reduce (R323, log 10). -/
opaque Config.lfsrBanks : Nat → Nat × Nat

/-- The 64-bit hash of a request of a twin copy (R330, log 9): of a list of request words. -/
opaque Config.twinHash : List Nat → Nat

/-- What the place fields of the n-th message that concerns no tile, and no base die by a rule of its own, hold (R358, R362, log 36):
ROW in bits 7..0, COL in 15..8, the die in 18..16, the launch identifier in 34..19. -/
opaque Config.noTile : Nat → BitVec 35

/-- Whether the n-th built-in self-test of a unit passes (R375, R382, R283, log 1). -/
opaque Config.passes : Nat → Bool

/-- Whether a Falcon-1024 signature of a message verifies under a public key: key, signature, message (R411, log 8). -/
opaque Config.falconVerify : List Byte → List Byte → Nat → Bool

/-- A Falcon-1024 signature of a digest by the identity key of a firmware digest (R414, log 8). -/
opaque Config.falconSign : Nat → Nat → Nat

/-- The identity public key derived from the fused seed and the firmware digest (R413, log 8). -/
opaque Config.identityKey : Nat → Nat

/-- The fused values: key hash, rollback count and serial number (R411, R413, R414, log 8). -/
opaque Config.fuseKeyHash : BitVec 256
opaque Config.fuseRollback : BitVec 64
opaque Config.fuseSerial : BitVec 128

/-- The routine slot table of an image section of type 8, whose layout the spec does not give (R109, log 7): for each filled
slot the relative row, col, slot, entry pc, whether it is readied at launch and its argument. -/
opaque Config.routineTable : List Byte → List (Nat × Nat × Nat × Nat × Bool × Nat)

/-- The group-table entries of an image section of type 0xA (R109, log 7): entry number, whether it holds packages, and the
members as descriptors of R236 with relative tile coordinates. -/
opaque Config.groupEntries : List Byte → List (Nat × Bool × List Nat)

/-- The counter declarations of an image section of type 0xB (R109, R304, log 7): binding address, launch die, and the arm
record of R212 as a 256-bit number when the entry is armed at launch. -/
opaque Config.counterDecls : List Byte → List (Nat × Nat × Option Nat)

/-- The bytes of a save area's field whose layout the spec does not give (R368, log 7), as a number: the field's offset in its
record, and the values it holds. -/
opaque Config.saveField : Nat → List Nat → Nat

end Sys2Proof
end

