-- ==== Sys2Proof/Syntax.lean ====
section
/-! DEFINITION. Syntax: every row of the opcode table as one constructor of `Instr` (spec/opcode_table.json).

A row with a word carries its encoded fields (R77..R99): register fields are numbers, immediates are raw fields, not yet
sign-extended; `LDP` and `SDP` carry half the even register number (R82). A row without a word is one indivisible hardware
step (spec/95); which unit or which message in flight it concerns stands in `Machine.State.ev`. The rows with fields come
first, because Lean's runtime bounds the index of a constructor that has fields. -/

namespace Sys2Proof

/-- One instruction word or one hardware step. -/
inductive Instr where
  /-- ADD (R112): Adds x[a] and x[b] modulo 2^64 into x[d]. -/
  | add (d : BitVec 4) (a : BitVec 4) (b : BitVec 4)
  /-- SUB (R112): Subtracts x[b] from x[a] into x[d]. -/
  | sub (d : BitVec 4) (a : BitVec 4) (b : BitVec 4)
  /-- AND (R112): Bitwise and of x[a] and x[b] into x[d]. -/
  | and (d : BitVec 4) (a : BitVec 4) (b : BitVec 4)
  /-- OR (R112): Bitwise or of x[a] and x[b] into x[d]. -/
  | or (d : BitVec 4) (a : BitVec 4) (b : BitVec 4)
  /-- XOR (R112): Bitwise xor of x[a] and x[b] into x[d]. -/
  | xor (d : BitVec 4) (a : BitVec 4) (b : BitVec 4)
  /-- ANDN (R112): x[a] and not x[b] into x[d]. -/
  | andn (d : BitVec 4) (a : BitVec 4) (b : BitVec 4)
  /-- ORN (R112): x[a] or not x[b] into x[d]. -/
  | orn (d : BitVec 4) (a : BitVec 4) (b : BitVec 4)
  /-- SLL (R112): Shifts x[a] left by x[b][5..0]. -/
  | sll (d : BitVec 4) (a : BitVec 4) (b : BitVec 4)
  /-- SRL (R112): Shifts x[a] right logically by x[b][5..0]. -/
  | srl (d : BitVec 4) (a : BitVec 4) (b : BitVec 4)
  /-- SRA (R112): Shifts x[a] right arithmetically by x[b][5..0]. -/
  | sra (d : BitVec 4) (a : BitVec 4) (b : BitVec 4)
  /-- ROL (R112): Rotates x[a] left by x[b][5..0]. -/
  | rol (d : BitVec 4) (a : BitVec 4) (b : BitVec 4)
  /-- ROR (R112): Rotates x[a] right by x[b][5..0]. -/
  | ror (d : BitVec 4) (a : BitVec 4) (b : BitVec 4)
  /-- SLT (R112): Writes 1 if x[a] < x[b] signed, else 0. -/
  | slt (d : BitVec 4) (a : BitVec 4) (b : BitVec 4)
  /-- SLTU (R112): Writes 1 if x[a] < x[b] unsigned, else 0. -/
  | sltu (d : BitVec 4) (a : BitVec 4) (b : BitVec 4)
  /-- SEQ (R112): Writes 1 if x[a] = x[b], else 0. -/
  | seq (d : BitVec 4) (a : BitVec 4) (b : BitVec 4)
  /-- SNE (R112): Writes 1 if x[a] differs from x[b], else 0. -/
  | sne (d : BitVec 4) (a : BitVec 4) (b : BitVec 4)
  /-- MIN (R112): Signed minimum of x[a] and x[b]. -/
  | min (d : BitVec 4) (a : BitVec 4) (b : BitVec 4)
  /-- MAX (R112): Signed maximum of x[a] and x[b]. -/
  | max (d : BitVec 4) (a : BitVec 4) (b : BitVec 4)
  /-- MINU (R112): Unsigned minimum of x[a] and x[b]. -/
  | minu (d : BitVec 4) (a : BitVec 4) (b : BitVec 4)
  /-- MAXU (R112): Unsigned maximum of x[a] and x[b]. -/
  | maxu (d : BitVec 4) (a : BitVec 4) (b : BitVec 4)
  /-- MUL (R112): Low 64 bits of x[a] times x[b]. -/
  | mul (d : BitVec 4) (a : BitVec 4) (b : BitVec 4)
  /-- MULXS (R112): High 64 bits of the signed by signed product. -/
  | mulxs (d : BitVec 4) (a : BitVec 4) (b : BitVec 4)
  /-- MULXN (R112): High 64 bits of the unsigned by unsigned product. -/
  | mulxn (d : BitVec 4) (a : BitVec 4) (b : BitVec 4)
  /-- MULXSN (R112): High 64 bits of the signed by unsigned product. -/
  | mulxsn (d : BitVec 4) (a : BitVec 4) (b : BitVec 4)
  /-- DIV (R49): Signed division truncating toward zero, with the defined borderline results. -/
  | div (d : BitVec 4) (a : BitVec 4) (b : BitVec 4)
  /-- DIVU (R49): Unsigned division, all ones for a zero divisor. -/
  | divu (d : BitVec 4) (a : BitVec 4) (b : BitVec 4)
  /-- REM (R49): Signed remainder with the sign of the dividend. -/
  | rem (d : BitVec 4) (a : BitVec 4) (b : BitVec 4)
  /-- REMU (R49): Unsigned remainder, the dividend for a zero divisor. -/
  | remu (d : BitVec 4) (a : BitVec 4) (b : BitVec 4)
  /-- CLZ (R112): Counts leading zero bits of x[a]. -/
  | clz (d : BitVec 4) (a : BitVec 4)
  /-- CTZ (R112): Counts trailing zero bits of x[a]. -/
  | ctz (d : BitVec 4) (a : BitVec 4)
  /-- POPC (R112): Counts the 1 bits of x[a]. -/
  | popc (d : BitVec 4) (a : BitVec 4)
  /-- BREV (R112): Reverses the bits of x[a]. -/
  | brev (d : BitVec 4) (a : BitVec 4)
  /-- BSWAP (R112): Reverses the bytes of x[a]. -/
  | bswap (d : BitVec 4) (a : BitVec 4)
  /-- SEXT (R112): Sign-extends the low 8, 16 or 32 bits of x[a]. -/
  | sext (d : BitVec 4) (a : BitVec 4) (w : BitVec 2)
  /-- ZEXT (R112): Zero-extends the low 8, 16 or 32 bits of x[a]. -/
  | zext (d : BitVec 4) (a : BitVec 4) (w : BitVec 2)
  /-- CSEL (R113): Selects x[a] or x[b] by a condition on x[c]. -/
  | csel (d : BitVec 4) (c : BitVec 4) (a : BitVec 4) (b : BitVec 4) (k : BitVec 2)
  /-- MOV (R112): Copies x[a] into x[d]. -/
  | mov (d : BitVec 4) (a : BitVec 4)
  /-- ADDI (R114): Adds a sign-extended immediate to x[a]. -/
  | addi (d : BitVec 4) (a : BitVec 4) (i : BitVec 17)
  /-- ANDI (R114): Ands x[a] with a sign-extended immediate. -/
  | andi (d : BitVec 4) (a : BitVec 4) (i : BitVec 17)
  /-- ORI (R114): Ors x[a] with a sign-extended immediate. -/
  | ori (d : BitVec 4) (a : BitVec 4) (i : BitVec 17)
  /-- XORI (R114): Xors x[a] with a sign-extended immediate. -/
  | xori (d : BitVec 4) (a : BitVec 4) (i : BitVec 17)
  /-- SLTI (R114): Writes 1 if x[a] is below the immediate, signed. -/
  | slti (d : BitVec 4) (a : BitVec 4) (i : BitVec 17)
  /-- SLLI (R114): Shifts x[a] left by an immediate amount. -/
  | slli (d : BitVec 4) (a : BitVec 4) (n : BitVec 6)
  /-- SRLI (R114): Shifts x[a] right logically by an immediate amount. -/
  | srli (d : BitVec 4) (a : BitVec 4) (n : BitVec 6)
  /-- SRAI (R114): Shifts x[a] right arithmetically by an immediate amount. -/
  | srai (d : BitVec 4) (a : BitVec 4) (n : BitVec 6)
  /-- LUI (R114): Writes the sign-extended immediate shifted left by 16. -/
  | lui (d : BitVec 4) (i : BitVec 17)
  /-- PCHI (R114): Writes pc plus the immediate shifted left by 16. -/
  | pchi (d : BitVec 4) (i : BitVec 17)
  /-- MOVK (R117): Sets k[d] to a sign-extended immediate. -/
  | movk (d : BitVec 3) (i : BitVec 17)
  /-- MOVFK (R117): Copies x[a] into k[d]. -/
  | movfk (d : BitVec 3) (a : BitVec 4)
  /-- ACOMP (R118): Composes a window address part into k[d], or the all-invalid value. -/
  | acomp (d : BitVec 3) (a : BitVec 4) (b : BitVec 4) (w : BitVec 4)
  /-- ADEC (R119): Checks x[a] as an address and writes it without its offset into k[d]. -/
  | adec (d : BitVec 3) (a : BitVec 4)
  /-- KGET (R117): Copies k[a] into x[d]. -/
  | kget (d : BitVec 4) (a : BitVec 3)
  /-- BFX (R115): Extracts and sign-extends a bit field of x[a]. -/
  | bfx (d : BitVec 4) (a : BitVec 4) (l : BitVec 6) (p : BitVec 6)
  /-- BFXU (R115): Extracts and zero-extends a bit field of x[a]. -/
  | bfxu (d : BitVec 4) (a : BitVec 4) (l : BitVec 6) (p : BitVec 6)
  /-- BFI (R115): Inserts the low bits of x[a] into a field of x[d]. -/
  | bfi (d : BitVec 4) (a : BitVec 4) (l : BitVec 6) (p : BitVec 6)
  /-- BEQ (R120): Branches when x[a] equals x[b], fields ordered a < b. -/
  | beq (a : BitVec 4) (b : BitVec 4) (o : BitVec 17)
  /-- BNE (R120): Branches when x[a] differs from x[b], fields ordered a > b. -/
  | bne (a : BitVec 4) (b : BitVec 4) (o : BitVec 17)
  /-- BLT (R120): Branches when x[a] < x[b] signed. -/
  | blt (a : BitVec 4) (b : BitVec 4) (o : BitVec 17)
  /-- BGE (R120): Branches when x[a] >= x[b] signed. -/
  | bge (a : BitVec 4) (b : BitVec 4) (o : BitVec 17)
  /-- BLTU (R120): Branches when x[a] < x[b] unsigned. -/
  | bltu (a : BitVec 4) (b : BitVec 4) (o : BitVec 17)
  /-- BGEU (R120): Branches when x[a] >= x[b] unsigned. -/
  | bgeu (a : BitVec 4) (b : BitVec 4) (o : BitVec 17)
  /-- JAL (R121): Writes pc + 4 to x[d] and jumps pc-relative. -/
  | jal (d : BitVec 4) (o : BitVec 21)
  /-- JALR (R121): Jumps to x[s] plus an offset, linking pc + 4, trapping ALIGN on an odd target. -/
  | jalr (d : BitVec 4) (s : BitVec 4) (o : BitVec 9)
  /-- LOOP (R122): Starts a hardware loop with the count in x[c][31..0]. -/
  | loop (c : BitVec 4) (l : BitVec 13)
  /-- LOOPI (R122): Starts a hardware loop with an immediate count. -/
  | loopi (l : BitVec 5) (n : BitVec 12)
  /-- GANG (R125): Forms a flock with the issuer as bellwether, waiting for JOINs or a timeout. -/
  | gang (d : BitVec 4) (c : BitVec 3) (r : BitVec 3)
  /-- WFE (R131): Consumes set event bits into x[d], or sleeps until one is set. -/
  | wfe (d : BitVec 4)
  /-- LB (R145): Loads a sign-extended byte. -/
  | lb (d : BitVec 4) (a : BitVec 4) (b : BitVec 4) (i : BitVec 8) (w : BitVec 2)
  /-- LH (R145): Loads a sign-extended halfword. -/
  | lh (d : BitVec 4) (a : BitVec 4) (b : BitVec 4) (i : BitVec 8) (w : BitVec 2)
  /-- LW (R145): Loads a sign-extended word. -/
  | lw (d : BitVec 4) (a : BitVec 4) (b : BitVec 4) (i : BitVec 8) (w : BitVec 2)
  /-- LD (R145): Loads a dword. -/
  | ld (d : BitVec 4) (a : BitVec 4) (b : BitVec 4) (i : BitVec 8) (w : BitVec 2)
  /-- LDP (R145): Loads a 16-byte pair into x[d] and x[d+1]. -/
  | ldp (d : BitVec 3) (a : BitVec 4) (b : BitVec 4) (i : BitVec 8) (w : BitVec 2)
  /-- LBU (R145): Loads a zero-extended byte. -/
  | lbu (d : BitVec 4) (a : BitVec 4) (b : BitVec 4) (i : BitVec 8) (w : BitVec 2)
  /-- LHU (R145): Loads a zero-extended halfword. -/
  | lhu (d : BitVec 4) (a : BitVec 4) (b : BitVec 4) (i : BitVec 8) (w : BitVec 2)
  /-- LWU (R145): Loads a zero-extended word. -/
  | lwu (d : BitVec 4) (a : BitVec 4) (b : BitVec 4) (i : BitVec 8) (w : BitVec 2)
  /-- SB (R148): Stores a byte, in place or posted. -/
  | sb (d : BitVec 4) (a : BitVec 4) (b : BitVec 4) (i : BitVec 8) (w : BitVec 2)
  /-- SH (R148): Stores a halfword, in place or posted. -/
  | sh (d : BitVec 4) (a : BitVec 4) (b : BitVec 4) (i : BitVec 8) (w : BitVec 2)
  /-- SW (R148): Stores a word, in place or posted. -/
  | sw (d : BitVec 4) (a : BitVec 4) (b : BitVec 4) (i : BitVec 8) (w : BitVec 2)
  /-- SD (R148): Stores a dword, in place or posted. -/
  | sd (d : BitVec 4) (a : BitVec 4) (b : BitVec 4) (i : BitVec 8) (w : BitVec 2)
  /-- SDP (R148): Stores a 16-byte pair from x[d] and x[d+1]. -/
  | sdp (d : BitVec 3) (a : BitVec 4) (b : BitVec 4) (i : BitVec 8) (w : BitVec 2)
  /-- WAITC (R155): Waits until the named posted-store counts are zero, then takes refusal traps. -/
  | waitc (f : BitVec 3)
  /-- WALK (R156): Moves the thread to the tile that x[a] names. -/
  | walk (a : BitVec 4)
  /-- WHERE (R157): Reports what a load of x[a] would do, without access. -/
  | whereOp (d : BitVec 4) (a : BitVec 4)
  /-- AMOADD (R159): Atomic add at the owning controller, returning the old value. -/
  | amoadd (d : BitVec 4) (s : BitVec 1) (a : BitVec 4) (b : BitVec 4) (w : BitVec 2) (n : BitVec 1)
  /-- AMOAND (R159): Atomic and, returning the old value. -/
  | amoand (d : BitVec 4) (s : BitVec 1) (a : BitVec 4) (b : BitVec 4) (w : BitVec 2) (n : BitVec 1)
  /-- AMOOR (R159): Atomic or, returning the old value. -/
  | amoor (d : BitVec 4) (s : BitVec 1) (a : BitVec 4) (b : BitVec 4) (w : BitVec 2) (n : BitVec 1)
  /-- AMOXOR (R159): Atomic xor, returning the old value. -/
  | amoxor (d : BitVec 4) (s : BitVec 1) (a : BitVec 4) (b : BitVec 4) (w : BitVec 2) (n : BitVec 1)
  /-- AMOMIN (R159): Atomic signed minimum, returning the old value. -/
  | amomin (d : BitVec 4) (s : BitVec 1) (a : BitVec 4) (b : BitVec 4) (w : BitVec 2) (n : BitVec 1)
  /-- AMOMAX (R159): Atomic signed maximum, returning the old value. -/
  | amomax (d : BitVec 4) (s : BitVec 1) (a : BitVec 4) (b : BitVec 4) (w : BitVec 2) (n : BitVec 1)
  /-- AMOMINU (R159): Atomic unsigned minimum, returning the old value. -/
  | amominu (d : BitVec 4) (s : BitVec 1) (a : BitVec 4) (b : BitVec 4) (w : BitVec 2) (n : BitVec 1)
  /-- AMOMAXU (R159): Atomic unsigned maximum, returning the old value. -/
  | amomaxu (d : BitVec 4) (s : BitVec 1) (a : BitVec 4) (b : BitVec 4) (w : BitVec 2) (n : BitVec 1)
  /-- AMOSWP (R159): Atomic swap, returning the old value. -/
  | amoswp (d : BitVec 4) (s : BitVec 1) (a : BitVec 4) (b : BitVec 4) (w : BitVec 2) (n : BitVec 1)
  /-- AMOCAS (R159): Atomic compare with k1 and swap, returning the old value. -/
  | amocas (d : BitVec 4) (s : BitVec 1) (a : BitVec 4) (b : BitVec 4) (w : BitVec 2) (n : BitVec 1)
  /-- AMOFADD (R159): Atomic floating add rounded once in the word's mode, returning old value and flags. -/
  | amofadd (d : BitVec 4) (s : BitVec 1) (a : BitVec 4) (b : BitVec 4) (r : BitVec 2) (w : BitVec 2) (n : BitVec 1)
  /-- FADD (R136): Floating add, rounded once. -/
  | fadd (d : BitVec 4) (a : BitVec 4) (b : BitVec 4) (y : BitVec 1) (r : BitVec 2) (p : BitVec 2)
  /-- FSUB (R136): Floating subtract, rounded once. -/
  | fsub (d : BitVec 4) (a : BitVec 4) (b : BitVec 4) (y : BitVec 1) (r : BitVec 2) (p : BitVec 2)
  /-- FMUL (R136): Floating multiply, rounded once. -/
  | fmul (d : BitVec 4) (a : BitVec 4) (b : BitVec 4) (y : BitVec 1) (r : BitVec 2) (p : BitVec 2)
  /-- FDIV (R136): Floating divide, correctly rounded. -/
  | fdiv (d : BitVec 4) (a : BitVec 4) (b : BitVec 4) (y : BitVec 1) (r : BitVec 2) (p : BitVec 2)
  /-- FSQRT (R136): Floating square root, correctly rounded. -/
  | fsqrt (d : BitVec 4) (a : BitVec 4) (y : BitVec 1) (r : BitVec 2) (p : BitVec 2)
  /-- FMIN (R137): Floating minimum under R60. -/
  | fmin (d : BitVec 4) (a : BitVec 4) (b : BitVec 4) (p : BitVec 2)
  /-- FMAX (R137): Floating maximum under R60. -/
  | fmax (d : BitVec 4) (a : BitVec 4) (b : BitVec 4) (p : BitVec 2)
  /-- FABS (R137): Clears the sign bit. -/
  | fabs (d : BitVec 4) (a : BitVec 4) (p : BitVec 2)
  /-- FNEG (R137): Inverts the sign bit. -/
  | fneg (d : BitVec 4) (a : BitVec 4) (p : BitVec 2)
  /-- FSGNJ (R137): Magnitude of a with the sign of b. -/
  | fsgnj (d : BitVec 4) (a : BitVec 4) (b : BitVec 4) (p : BitVec 2)
  /-- FCMP_EQ (R138): Floating compare for equality. -/
  | fcmpEq (d : BitVec 4) (a : BitVec 4) (b : BitVec 4) (p : BitVec 2)
  /-- FCMP_NE (R138): Floating compare for inequality. -/
  | fcmpNe (d : BitVec 4) (a : BitVec 4) (b : BitVec 4) (p : BitVec 2)
  /-- FCMP_LT (R138): Ordered floating less-than. -/
  | fcmpLt (d : BitVec 4) (a : BitVec 4) (b : BitVec 4) (p : BitVec 2)
  /-- FCMP_LE (R138): Ordered floating less-or-equal. -/
  | fcmpLe (d : BitVec 4) (a : BitVec 4) (b : BitVec 4) (p : BitVec 2)
  /-- FCMP_UN (R138): Tests whether either operand is a NaN. -/
  | fcmpUn (d : BitVec 4) (a : BitVec 4) (b : BitVec 4) (p : BitVec 2)
  /-- FCLASS (R139): Writes a one-hot class mask of x[a]. -/
  | fclass (d : BitVec 4) (a : BitVec 4) (p : BitVec 2)
  /-- FRCP (R140): Fixed-bit reciprocal approximation. -/
  | frcp (d : BitVec 4) (a : BitVec 4) (y : BitVec 1) (r : BitVec 2) (p : BitVec 2)
  /-- FRSQ (R140): Fixed-bit reciprocal square root approximation. -/
  | frsq (d : BitVec 4) (a : BitVec 4) (y : BitVec 1) (r : BitVec 2) (p : BitVec 2)
  /-- FRCPN (R140): One Newton step refining a reciprocal. -/
  | frcpn (d : BitVec 4) (a : BitVec 4) (b : BitVec 4) (y : BitVec 1) (r : BitVec 2) (p : BitVec 2)
  /-- FRSQN (R140): One Newton step refining a reciprocal square root. -/
  | frsqn (d : BitVec 4) (a : BitVec 4) (b : BitVec 4) (y : BitVec 1) (r : BitVec 2) (p : BitVec 2)
  /-- FMA (R136): Fused x[a] times x[b] plus x[d]. -/
  | fma (d : BitVec 4) (a : BitVec 4) (b : BitVec 4) (y : BitVec 1) (r : BitVec 2) (p : BitVec 2)
  /-- FMS (R136): Fused x[a] times x[b] minus x[d]. -/
  | fms (d : BitVec 4) (a : BitVec 4) (b : BitVec 4) (y : BitVec 1) (r : BitVec 2) (p : BitVec 2)
  /-- FNMA (R136): Fused minus x[a] times x[b] plus x[d]. -/
  | fnma (d : BitVec 4) (a : BitVec 4) (b : BitVec 4) (y : BitVec 1) (r : BitVec 2) (p : BitVec 2)
  /-- FCVT (R141): Converts between floating precisions. -/
  | fcvt (d : BitVec 4) (s : BitVec 2) (a : BitVec 4) (y : BitVec 1) (r : BitVec 2) (p : BitVec 2)
  /-- FCVTI (R142): Converts floating point to an integer type, saturating. -/
  | fcvti (d : BitVec 4) (a : BitVec 4) (y : BitVec 1) (r : BitVec 2) (p : BitVec 2) (t : BitVec 3)
  /-- ICVTF (R142): Converts an integer type to floating point. -/
  | icvtf (d : BitVec 4) (a : BitVec 4) (y : BitVec 1) (r : BitVec 2) (p : BitVec 2) (t : BitVec 3)
  /-- VADD (R177): Element-wise add issued to the sequencer. -/
  | vadd (d : BitVec 4) (a : BitVec 4) (b : BitVec 4) (r : BitVec 2) (t : BitVec 4)
  /-- VSUB (R177): Element-wise subtract. -/
  | vsub (d : BitVec 4) (a : BitVec 4) (b : BitVec 4) (r : BitVec 2) (t : BitVec 4)
  /-- VMUL (R177): Element-wise multiply. -/
  | vmul (d : BitVec 4) (a : BitVec 4) (b : BitVec 4) (r : BitVec 2) (t : BitVec 4)
  /-- VFMA (R177): Element-wise fused multiply-add into d. -/
  | vfma (d : BitVec 4) (a : BitVec 4) (b : BitVec 4) (r : BitVec 2) (t : BitVec 4)
  /-- VMIN (R177): Element-wise minimum. -/
  | vmin (d : BitVec 4) (a : BitVec 4) (b : BitVec 4) (t : BitVec 4)
  /-- VMAX (R177): Element-wise maximum. -/
  | vmax (d : BitVec 4) (a : BitVec 4) (b : BitVec 4) (t : BitVec 4)
  /-- VABS (R177): Element-wise absolute value. -/
  | vabs (d : BitVec 4) (a : BitVec 4) (r : BitVec 2) (t : BitVec 4)
  /-- VNEG (R177): Element-wise negation. -/
  | vneg (d : BitVec 4) (a : BitVec 4) (r : BitVec 2) (t : BitVec 4)
  /-- VDIV (R177): Element-wise division. -/
  | vdiv (d : BitVec 4) (a : BitVec 4) (b : BitVec 4) (r : BitVec 2) (t : BitVec 4)
  /-- VSQRT (R177): Element-wise square root. -/
  | vsqrt (d : BitVec 4) (a : BitVec 4) (r : BitVec 2) (t : BitVec 4)
  /-- VRCP (R178): Element-wise reciprocal approximation. -/
  | vrcp (d : BitVec 4) (a : BitVec 4) (r : BitVec 2) (t : BitVec 4)
  /-- VRSQ (R178): Element-wise reciprocal square root approximation. -/
  | vrsq (d : BitVec 4) (a : BitVec 4) (r : BitVec 2) (t : BitVec 4)
  /-- VRCPN (R178): Element-wise Newton refinement of a reciprocal. -/
  | vrcpn (d : BitVec 4) (a : BitVec 4) (b : BitVec 4) (r : BitVec 2) (t : BitVec 4)
  /-- VRSQN (R178): Element-wise Newton refinement of a reciprocal square root. -/
  | vrsqn (d : BitVec 4) (a : BitVec 4) (b : BitVec 4) (r : BitVec 2) (t : BitVec 4)
  /-- VEXP2 (R178): Element-wise 2^x rounded once. -/
  | vexp2 (d : BitVec 4) (a : BitVec 4) (r : BitVec 2) (t : BitVec 4)
  /-- VLOG2 (R178): Element-wise log2 x rounded once. -/
  | vlog2 (d : BitVec 4) (a : BitVec 4) (r : BitVec 2) (t : BitVec 4)
  /-- VAND (R179): Element-wise bitwise and. -/
  | vand (d : BitVec 4) (a : BitVec 4) (b : BitVec 4) (t : BitVec 4)
  /-- VOR (R179): Element-wise bitwise or. -/
  | vor (d : BitVec 4) (a : BitVec 4) (b : BitVec 4) (t : BitVec 4)
  /-- VXOR (R179): Element-wise bitwise xor. -/
  | vxor (d : BitVec 4) (a : BitVec 4) (b : BitVec 4) (t : BitVec 4)
  /-- VSHL (R179): Element-wise shift left. -/
  | vshl (d : BitVec 4) (a : BitVec 4) (b : BitVec 4) (t : BitVec 4)
  /-- VSHR (R179): Element-wise shift right by signedness. -/
  | vshr (d : BitVec 4) (a : BitVec 4) (b : BitVec 4) (t : BitVec 4)
  /-- VCMP_EQ (R179): Element-wise equality mask. -/
  | vcmpEq (d : BitVec 4) (a : BitVec 4) (b : BitVec 4) (t : BitVec 4)
  /-- VCMP_NE (R179): Element-wise inequality mask. -/
  | vcmpNe (d : BitVec 4) (a : BitVec 4) (b : BitVec 4) (t : BitVec 4)
  /-- VCMP_LT (R179): Element-wise less-than mask. -/
  | vcmpLt (d : BitVec 4) (a : BitVec 4) (b : BitVec 4) (t : BitVec 4)
  /-- VCMP_LE (R179): Element-wise less-or-equal mask. -/
  | vcmpLe (d : BitVec 4) (a : BitVec 4) (b : BitVec 4) (t : BitVec 4)
  /-- VCMP_UN (R179): Element-wise unordered mask. -/
  | vcmpUn (d : BitVec 4) (a : BitVec 4) (b : BitVec 4) (t : BitVec 4)
  /-- VSEL (R179): Selects a or b by the old d element as mask. -/
  | vsel (d : BitVec 4) (a : BitVec 4) (b : BitVec 4) (t : BitVec 4)
  /-- VCOPY (R179): Copies elements bit for bit. -/
  | vcopy (d : BitVec 4) (a : BitVec 4) (t : BitVec 4)
  /-- VCVT (R179): Converts elements to the word's type. -/
  | vcvt (d : BitVec 4) (a : BitVec 4) (r : BitVec 2) (t : BitVec 4)
  /-- VREDS (R181): Sum reduction in ascending element order. -/
  | vreds (d : BitVec 4) (a : BitVec 4) (r : BitVec 2) (t : BitVec 4)
  /-- VREDM_MIN (R181): Minimum reduction. -/
  | vredmMin (d : BitVec 4) (a : BitVec 4) (t : BitVec 4)
  /-- VREDM_MAX (R181): Maximum reduction. -/
  | vredmMax (d : BitVec 4) (a : BitVec 4) (t : BitVec 4)
  /-- VSCAN (R181): Running sum scan. -/
  | vscan (d : BitVec 4) (a : BitVec 4) (r : BitVec 2) (t : BitVec 4)
  /-- VDOT (R182): Adds exact products into a fold. -/
  | vdot (d : BitVec 4) (a : BitVec 4) (b : BitVec 4) (t : BitVec 4)
  /-- VFOLD (R182): Adds elements exactly into one or N folds. -/
  | vfold (d : BitVec 4) (a : BitVec 4) (t : BitVec 4)
  /-- VUNF (R182): Converts folds to elements of the word's type. -/
  | vunf (d : BitVec 4) (a : BitVec 4) (r : BitVec 2) (t : BitVec 4)
  /-- VIOTA (R180): Writes each element's index converted to the type. -/
  | viota (d : BitVec 4) (r : BitVec 2) (t : BitVec 4)
  /-- VGATH (R184): Gathers elements of a by index. -/
  | vgath (d : BitVec 4) (a : BitVec 4) (b : BitVec 4) (t : BitVec 4)
  /-- VSCAT (R184): Scatters elements of a by index. -/
  | vscat (d : BitVec 4) (a : BitVec 4) (b : BitVec 4) (t : BitVec 4)
  /-- VPERM (R184): Permutes within 16-byte groups by index. -/
  | vperm (d : BitVec 4) (a : BitVec 4) (b : BitVec 4) (t : BitVec 4)
  /-- VXCHG (R185): Arrives at group entry k1's hurdle and exchanges slices among its members. -/
  | vxchg (d : BitVec 4) (a : BitVec 4) (t : BitVec 4)
  /-- VFILL (R180): Fills d with x[a], or pushes x[a] into a queue at issue. -/
  | vfill (d : BitVec 4) (a : BitVec 4) (t : BitVec 4)
  /-- VSHAPE (R165): Copies a checked shape record into h[d] at issue. -/
  | vshape (d : BitVec 3) (a : BitVec 4)
  /-- VLOOP (R171): Repeats the thread's last n sequencer entries c times. -/
  | vloop (a : BitVec 4) (n : BitVec 4)
  /-- MLDB (R192): Queues a load of a record into the tile's B slot. -/
  | mldb (a : BitVec 3) (x : BitVec 2) (t : BitVec 1)
  /-- MMA (R193): Queues C += A x B with A from slice memory. -/
  | mma (d : BitVec 3) (a : BitVec 3)
  /-- MMAP (R193): Queues C += A x B with A popped from a stream, queue or chain. -/
  | mmap (d : BitVec 3) (a : BitVec 3)
  /-- MZRO (R195): Queues zeroing of accumulators. -/
  | mzro (d : BitVec 3)
  /-- MRND (R195): Queues conversion of accumulators to d's type. -/
  | mrnd (d : BitVec 3) (a : BitVec 3) (r : BitVec 2)
  /-- MSTAT (R196): Reports the tile's B slot description. -/
  | mstat (d : BitVec 4)
  /-- MPOLL (R196): Reports the matrix counter word. -/
  | mpoll (d : BitVec 4)
  /-- MWAIT (R196): Waits until a ticket or all own commands are not outstanding. -/
  | mwait (a : BitVec 4)
  /-- MWGT (R196): Sets the tile's matrix arbitration weight. -/
  | mwgt (w : BitVec 4)
  /-- DSET (R203): Writes a drover shadow register. -/
  | dset (a : BitVec 4) (n : BitVec 4)
  /-- DGO (R204): Checks and submits one drover job from the shadow registers. -/
  | dgo (d : BitVec 4)
  /-- DPOLL (R207): Reports a drover job's state. -/
  | dpoll (d : BitVec 4) (a : BitVec 4)
  /-- DWAIT (R207): Waits until a drover job is no longer outstanding. -/
  | dwait (a : BitVec 4)
  /-- DKILL (R207): Kills a queued or running drover job. -/
  | dkill (d : BitVec 4) (a : BitVec 4)
  /-- DMCST (R208): Submits a multicast job writing one 256-byte line to every member of entry k1. -/
  | dmcst (d : BitVec 4) (a : BitVec 4) (b : BitVec 4)
  /-- SBIND (R209): Binds a stream register to a stream job. -/
  | sbind (d : BitVec 3) (a : BitVec 4)
  /-- SUNB (R209): Unbinds a stream register. -/
  | sunb (d : BitVec 3)
  /-- ACARM (R213): Arms an arrival counter from an arm record. -/
  | acarm (d : BitVec 4) (a : BitVec 4) (b : BitVec 4)
  /-- ACRD (R214): Reads an arrival counter entry. -/
  | acrd (d : BitVec 4) (a : BitVec 4)
  /-- ACDIS (R214): Reads and disarms an arrival counter entry. -/
  | acdis (d : BitVec 4) (a : BitVec 4)
  /-- ACCHN (R215): Changes a counter's action to add to another counter. -/
  | acchn (d : BitVec 4) (a : BitVec 4) (b : BitVec 4)
  /-- HARV_ADD (R218): Arrives at a hurdle contributing x[a] to a sum. -/
  | harvAdd (a : BitVec 4) (b : BitVec 4) (m : BitVec 1) (l : BitVec 2)
  /-- HARV_AND (R218): Arrives at a hurdle contributing to a bitwise and. -/
  | harvAnd (a : BitVec 4) (b : BitVec 4) (m : BitVec 1) (l : BitVec 2)
  /-- HARV_OR (R218): Arrives at a hurdle contributing to a bitwise or. -/
  | harvOr (a : BitVec 4) (b : BitVec 4) (m : BitVec 1) (l : BitVec 2)
  /-- HARV_XOR (R218): Arrives at a hurdle contributing to a bitwise xor. -/
  | harvXor (a : BitVec 4) (b : BitVec 4) (m : BitVec 1) (l : BitVec 2)
  /-- HARV_MIN (R218): Arrives at a hurdle contributing to a signed minimum. -/
  | harvMin (a : BitVec 4) (b : BitVec 4) (m : BitVec 1) (l : BitVec 2)
  /-- HARV_MAX (R218): Arrives at a hurdle contributing to a signed maximum. -/
  | harvMax (a : BitVec 4) (b : BitVec 4) (m : BitVec 1) (l : BitVec 2)
  /-- HARV_MINU (R218): Arrives at a hurdle contributing to an unsigned minimum. -/
  | harvMinu (a : BitVec 4) (b : BitVec 4) (m : BitVec 1) (l : BitVec 2)
  /-- HARV_MAXU (R218): Arrives at a hurdle contributing to an unsigned maximum. -/
  | harvMaxu (a : BitVec 4) (b : BitVec 4) (m : BitVec 1) (l : BitVec 2)
  /-- HARN (R218): Arrives at a hurdle with no value. -/
  | harn (m : BitVec 1) (l : BitVec 2)
  /-- HDROP (R218): Arrives at a hurdle and leaves later phases. -/
  | hdrop (m : BitVec 1) (l : BitVec 2)
  /-- HWT (R221): Waits for the pending release and reads its value. -/
  | hwt (d : BitVec 4) (m : BitVec 1) (l : BitVec 2)
  /-- HQRY (R222): Reports the tile's hurdle state for a domain. -/
  | hqry (d : BitVec 4) (m : BitVec 1) (l : BitVec 2)
  /-- HXEND (R223): Ends the tile's level-2 or level-3 exchange phase. -/
  | hxend (l : BitVec 1)
  /-- TTGO (R224): Selects the level-0 or level-1 timetable for later supersteps. -/
  | ttgo (a : BitVec 4) (l : BitVec 1)
  /-- TTSTS (R225): Reports the tile's timetable state. -/
  | ttsts (d : BitVec 4) (l : BitVec 1)
  /-- SENDM (R228): Sends a 24-byte message and waits for its status. -/
  | sendm (d : BitVec 4) (a : BitVec 4) (b : BitVec 4)
  /-- INBOX (R229): Dequeues the head inbox entry to LOCAL memory. -/
  | inbox (d : BitVec 4) (a : BitVec 4)
  /-- INBQ (R229): Reports inbox count and head kind. -/
  | inbq (d : BitVec 4)
  /-- RHOLD (R231): Holds a routine slot. -/
  | rhold (a : BitVec 4)
  /-- RREL (R231): Releases a held routine slot. -/
  | rrel (a : BitVec 4)
  /-- RRDY (R231): Readies a routine slot with an argument. -/
  | rrdy (a : BitVec 4) (b : BitVec 4)
  /-- LNCH (R232): Pushes a child launch packet into the die's pending pool. -/
  | lnch (d : BitVec 4) (a : BitVec 4)
  /-- LSTAT (R235): Reports a launch's state. -/
  | lstat (d : BitVec 4) (a : BitVec 4)
  /-- GRPQ (R237): Reads a group-table member or summary. -/
  | grpq (d : BitVec 4) (a : BitVec 4) (b : BitVec 4)
  /-- GRPSET (R238): Requests a change to a group-table entry. -/
  | grpset (d : BitVec 4) (a : BitVec 4) (b : BitVec 4)
  /-- TRAP (R239): Parks the thread with cause TRAP and code n. -/
  | trap (n : BitVec 8)
  /-- MFC (R243): Reads a control register, clearing RC fields. -/
  | mfc (d : BitVec 4) (c : BitVec 12)
  /-- MTC (R243): Writes a control register that has no behaviour of its own. -/
  | mtc (c : BitVec 12) (s : BitVec 4)
  /-- BRK (R239): Parks with cause BRK, or halts the tile with a debug agent attached. -/
  | brk (n : BitVec 8)
  /-- PARK (R242): Parks the issuing thread or another named thread. -/
  | park (a : BitVec 4)
  /-- XSAVE (R367): Marks a launch and waits to save it at its pre-emption point. -/
  | xsave (a : BitVec 4) (b : BitVec 4)
  /-- XLOAD (R369): Restores a saved launch on the issuing die. -/
  | xload (a : BitVec 4) (b : BitVec 4)
  /-- ADD_C (R99): Compact ADD xd, xd, xb. -/
  | addC (d : BitVec 4) (b : BitVec 4)
  /-- SUB_C (R99): Compact SUB xd, xd, xb. -/
  | subC (d : BitVec 4) (b : BitVec 4)
  /-- AND_C (R99): Compact AND xd, xd, xb. -/
  | andC (d : BitVec 4) (b : BitVec 4)
  /-- OR_C (R99): Compact OR xd, xd, xb. -/
  | orC (d : BitVec 4) (b : BitVec 4)
  /-- XOR_C (R99): Compact XOR xd, xd, xb. -/
  | xorC (d : BitVec 4) (b : BitVec 4)
  /-- SLL_C (R99): Compact SLL xd, xd, xb. -/
  | sllC (d : BitVec 4) (b : BitVec 4)
  /-- SRL_C (R99): Compact SRL xd, xd, xb. -/
  | srlC (d : BitVec 4) (b : BitVec 4)
  /-- SRA_C (R99): Compact SRA xd, xd, xb. -/
  | sraC (d : BitVec 4) (b : BitVec 4)
  /-- MOV_C (R99): Compact MOV xd, xb. -/
  | movC (d : BitVec 4) (b : BitVec 4)
  /-- ADDI_C (R99): Compact ADDI xd, xd with a 4-bit signed immediate. -/
  | addiC (d : BitVec 4) (i : BitVec 4)
  /-- SLLI_C (R99): Compact SLLI xd, xd by 0 to 15. -/
  | slliC (d : BitVec 4) (n : BitVec 4)
  /-- SRLI_C (R99): Compact SRLI xd, xd by 0 to 15. -/
  | srliC (d : BitVec 4) (n : BitVec 4)
  /-- ADDI_X0_C (R99): Compact ADDI xd, x0 with a 6-bit signed immediate. -/
  | addiX0C (d : BitVec 4) (i : BitVec 6)
  /-- LD_C (R99): Compact LD xd, [xb + 8 x sub]. -/
  | ldC (d : BitVec 4) (s : BitVec 2) (b : BitVec 4)
  /-- SD_C (R99): Compact SD xd, [xb + 8 x sub]. -/
  | sdC (d : BitVec 4) (s : BitVec 2) (b : BitVec 4)
  /-- LW_C (R99): Compact LW xd, [xb + 4 x sub]. -/
  | lwC (d : BitVec 4) (s : BitVec 2) (b : BitVec 4)
  /-- SW_C (R99): Compact SW xd, [xb + 4 x sub]. -/
  | swC (d : BitVec 4) (s : BitVec 2) (b : BitVec 4)
  /-- BEQZ_C (R99): Compact branch if x[d] is zero. -/
  | beqzC (d : BitVec 4) (o : BitVec 6)
  /-- BNEZ_C (R99): Compact branch if x[d] is nonzero. -/
  | bnezC (d : BitVec 4) (o : BitVec 6)
  /-- J_C (R99): Compact pc-relative jump. -/
  | jC (o : BitVec 10)
  /-- WFE_C (R99): Compact WFE xd. -/
  | wfeC (d : BitVec 4)
  /-- WAITC_C (R99): Compact WAITC with a count mask. -/
  | waitcC (m : BitVec 3)
  /-- JALR_C (R99): Compact JALR x0, xd, 0. -/
  | jalrC (d : BitVec 4)
  /-- NOP (R116): Changes nothing but pc. -/
  | nop
  /-- JOIN (R126): Waits to attach as follower to a GANG covering the tile. -/
  | join
  /-- SPLIT (R129): Dissolves the flock or leaves it, by role. -/
  | split
  /-- REJOIN (R128): Bellwether sends a notice; a detached follower re-attaches or waits. -/
  | rejoin
  /-- SEV (R132): Sets event bit 0 in every resident thread of the tile. -/
  | sev
  /-- YIELD (R133): Defers the thread's next issue behind the other RUN threads or 8 cc. -/
  | yield
  /-- EXIT (R134): Discards loops and events and waits to free the slot. -/
  | exit
  /-- VSYNC (R172): Waits until the thread's own sequencer entries are done. -/
  | vsync
  /-- ERET (R241): Resumes or ends the parked thread named in k1 if its tag matches. -/
  | eret
  /-- IDLE (R239): Sleeps until a new event bit is set. -/
  | idle
  /-- NOP_C (R99): Compact NOP. -/
  | nopC
  /-- EXIT_C (R99): Compact EXIT. -/
  | exitC
  /-- YIELD_C (R99): Compact YIELD. -/
  | yieldC
  /-- SEV_C (R99): Compact SEV. -/
  | sevC
  /-- VSYNC_C (R99): Compact VSYNC. -/
  | vsyncC
  /-- SPLIT_C (R99): Compact SPLIT. -/
  | splitC
  /-- REJOIN_C (R99): Compact REJOIN. -/
  | rejoinC
  /-- JOIN_C (R99): Compact JOIN. -/
  | joinC
  /-- WALK_DEPART (R16): After the thread's accesses drain, its context leaves as a walk message. -/
  | walkDepart
  /-- WALK_ARRIVAL (R17): A walk message reaches its destination, which gives it a slot or park entry or refuses it. -/
  | walkArrival
  /-- WALK_REFUSAL_RETURN (R17): A refusal returns the context to its origin slot with WST WALKFULL and counts c:WREF. -/
  | walkRefusalReturn
  /-- WALK_REISSUE (R17): 64 cc after a refusal, a walking load or fetch is reissued. -/
  | walkReissue
  /-- RESUME_MOVE (R360): A resume move after a serviced fault arrives, applies the answer and takes a slot, or is refused. -/
  | resumeMove
  /-- EXIT_SLOT_FREE (R134): Once an exiting thread's work has drained, its routine RUN clears and its slot frees. -/
  | exitSlotFree
  /-- ROUTINE_START (R21): The selector starts the lowest ready, unheld, not running routine in a free slot. -/
  | routineStart
  /-- POSTED_STORE_LAND (R143): A posted store reaches its controller and lands or is refused. -/
  | postedStoreLand
  /-- STORE_ANSWER (R36): A landing or refusal answer returns and decrements the thread's N, P or F count. -/
  | storeAnswer
  /-- REMOTE_READ_SERVE (R146): A remote read reaches its controller and is performed or refused. -/
  | remoteReadServe
  /-- READ_ANSWER (R146): A remote read's answer writes x[d] or traps the blocked thread. -/
  | readAnswer
  /-- ATOMIC_PERFORM (R158): An atomic is performed indivisibly at its owning controller. -/
  | atomicPerform
  /-- ATOMIC_ANSWER (R159): An atomic's answer writes the old value and flags, or traps. -/
  | atomicAnswer
  /-- REFUSAL_TRAP (R154): A held refusal of a posted store is taken as a trap at the next instruction boundary. -/
  | refusalTrap
  /-- DEFERRED_FPX_TRAP (R58): An enabled flag merged from a completed engine word traps FPX before the next instruction. -/
  | deferredFpxTrap
  /-- ENGINE_TRAP (R174): A sequencer or matrix error traps the issuing thread at its next boundary. -/
  | engineTrap
  /-- SEQ_ENTRY_START (R170): The sequencer starts the oldest waiting entry. -/
  | seqEntryStart
  /-- SEQ_ENTRY_COMPLETE (R170): An entry's results are all written; it becomes DONE and merges flags. -/
  | seqEntryComplete
  /-- SEQ_ENTRY_STOP (R174): An entry meets poison or an invalid stream read and stops, discarding the slot's later entries. -/
  | seqEntryStop
  /-- VXCHG_SLICE_ARRIVAL (R185): A VXCHG slice from a member arrives and is written or discarded. -/
  | vxchgSliceArrival
  /-- MATRIX_GRANT (R190): The arbiter grants up to w steps to the next tile whose head command can proceed. -/
  | matrixGrant
  /-- MATRIX_COMMAND_COMPLETE (R189): A matrix command's results are written; C advances and event bit 3 is set. -/
  | matrixCommandComplete
  /-- MATRIX_COMMAND_STOP (R197): A matrix command meets an error and stops, discarding later commands of the slot. -/
  | matrixCommandStop
  /-- DROVER_JOB_START (R200): The drover starts a queued job in acceptance order. -/
  | droverJobStart
  /-- DROVER_JOB_COMPLETE (R205): Every issued write of a job has been answered. -/
  | droverJobComplete
  /-- DROVER_COMPLETION_PLACE (R206): A job's completion entry is placed in the inbox, readying its handler. -/
  | droverCompletionPlace
  /-- COUNTER_REQUEST (R211): An ACARM, ACRD, ACDIS or ACCHN request reaches the entry's controller. -/
  | counterRequest
  /-- COUNTER_ANSWER (R211): A counter request's answer reaches the blocked thread. -/
  | counterAnswer
  /-- COUNTER_FIRE (R293): At the end of a cycle an ARMED entry whose count reached TOTAL fires. -/
  | counterFire
  /-- FIRING_DELIVERY (R294): A decided firing is delivered to its target when the target has room. -/
  | firingDelivery
  /-- COUNTER_ADDITION (R298): An addition from a chained firing arrives at its target entry and counts. -/
  | counterAddition
  /-- POOL_POP (R323): The ready pool serves one pop by LFSR sampling and readies the routine. -/
  | poolPop
  /-- HURDLE_ARRIVE (R218): After the thread's accesses drain, the tile's arrival is sent. -/
  | hurdleArrive
  /-- HURDLE_ROOT_COUNT (R333): At the root, arrivals and changes of E for a cycle are applied. -/
  | hurdleRootCount
  /-- HURDLE_RELEASE (R220): A release reaches a tile, latching value, clearing ARR, setting phase bit and event 2. -/
  | hurdleRelease
  /-- TIMETABLE_END (R336): At offset END + 1 the level-0 or level-1 exchange phase bit returns to 0. -/
  | timetableEnd
  /-- BEAT_SEND (R338): In each send cycle the tile reads W bytes and injects a beat. -/
  | beatSend
  /-- BEAT_RECEIVE (R338): A beat reaches a port and is written in its receive window or discarded. -/
  | beatReceive
  /-- TREE_INJECT (R346): A pair store to CTRL block 0x01 injects a combining-tree contribution. -/
  | treeInject
  /-- TREE_ROUND_COMPLETE (R347): The root combines a round's contributions and sends the result down. -/
  | treeRoundComplete
  /-- TREE_RESULT_PLACE (R347): A round's result is placed in a member tile's extract queue. -/
  | treeResultPlace
  /-- TREE_EXTRACT (R348): A pair load of CTRL block 0x02 removes the oldest result. -/
  | treeExtract
  /-- INBOX_CTRL_REMOVE (R230): A dword store to CTRL 0x00 offset 8 removes the head inbox entry. -/
  | inboxCtrlRemove
  /-- WATCHDOG_STALL (R350): A phase, round or blocked tile exceeds c:WDOG and faults STALL. -/
  | watchdogStall
  /-- MESSAGE_ARRIVAL (R227): A SENDM message is placed in the destination inbox or refused. -/
  | messageArrival
  /-- SENDM_ANSWER (R228): A message's status answer returns to the blocked sender. -/
  | sendmAnswer
  /-- TRAP_MESSAGE_DELIVERY (R363): A trap message enters the supervisor's inbox when it has room. -/
  | trapMessageDelivery
  /-- TMR_WRITE (R38): A write of c:TMR starts or stops the thread's down-counter. -/
  | tmrWrite
  /-- TMR_EXPIRE (R38): c:TMR counts down to 0 and sets event bit 6. -/
  | tmrExpire
  /-- GANG_TIMEOUT (R125): 65,536 cc after GANG without all members, it completes with TIMEOUT. -/
  | gangTimeout
  /-- FORWARDED_WORD (R127): A follower executes a forwarded word, detaching on a pc mismatch. -/
  | forwardedWord
  /-- REJOIN_NOTICE (R128): A bellwether's REJOIN notice reaches a follower's tile. -/
  | rejoinNotice
  /-- DISPATCH_DISTRIBUTE (R317): The dispatcher distributes the first placeable candidate in priority order. -/
  | dispatchDistribute
  /-- LAUNCH_PLACED (R315): A launch's placement completes: image loaded, state reset, entries readied. -/
  | launchPlaced
  /-- LAUNCH_COMPLETE (R27): A launch has no threads, tasks, ready routines or jobs left and is released. -/
  | launchComplete
  /-- CHILD_COMPLETION_PLACE (R234): A child's completion entry is placed in the parent tile's inbox. -/
  | childCompletionPlace
  /-- QUEUE_TAIL_WRITE (R307): A write of a queue's TAIL publishes commands or sets ERR on overrun. -/
  | queueTailWrite
  /-- PREEMPT_REQUEST (R326): A queue's request marks a victim and readies supervisor slot 31. -/
  | preemptRequest
  /-- PREEMPTION_POINT (R366): A marked launch's held release stops its tiles and it becomes quiescent. -/
  | preemptionPoint
  /-- STARV_INTERVAL (R327): Each 1,024-cc interval with an unplaced candidate counts in c:STARV. -/
  | starvInterval
  /-- LAUNCH_END (R328): A write of c:LEND starts ending a launch. -/
  | launchEnd
  /-- LAUNCH_END_DONE (R328): The ended launch has drained, is released and completes ENDED. -/
  | launchEndDone
  /-- TILE_MAP_MOVE (R319): A write of c:TMREQ requests moving a logical group to a physical one. -/
  | tileMapMove
  /-- TILE_MAP_MOVE_DONE (R320): The group's state is copied and the map entry switches. -/
  | tileMapMoveDone
  /-- TWIN_PAIR_COMPARE (R330): A paired request of both copies meets at the boundary and is compared. -/
  | twinPairCompare
  /-- TWIN_KEEP_PRIMARY (R383): c:TWCTL ACT 0 keeps the primary and overwrites the twin. -/
  | twinKeepPrimary
  /-- TWIN_KEEP_TWIN (R383): c:TWCTL ACT 1 keeps the twin and overwrites the primary. -/
  | twinKeepTwin
  /-- TWIN_END_LAUNCH (R383): c:TWCTL ACT 2 ends the launch. -/
  | twinEndLaunch
  /-- TWIN_NO_ACTION (R383): c:TWCTL ACT 3 does nothing. -/
  | twinNoAction
  /-- SWAP_EXCHANGE (R278): A c:SWREQ write with MOVE 0 queues a page exchange. -/
  | swapExchange
  /-- SWAP_MOVE (R278): A c:SWREQ write with MOVE 1 queues a page move to a free frame. -/
  | swapMove
  /-- SWAP_START (R279): The swap engine sets BUSY on its next request's pages. -/
  | swapStart
  /-- SWAP_DONE (R279): Copy done; entries updated, BUSY cleared, held accesses released. -/
  | swapDone
  /-- STORAGE_LOSS (R385): The management core declares a bank or column lost. -/
  | storageLoss
  /-- LAYER_LOSS (R282): A whole memory layer is lost and its pages move to free frames or die. -/
  | layerLoss
  /-- ROLE_MAP_REQUEST (R415): A write of offset 0x200 requests a new role map and starts the drain. -/
  | roleMapRequest
  /-- DRAIN_LIMIT (R283): At the drain limit, launches not at a pre-emption point are ended. -/
  | drainLimit
  /-- ROLE_FLUSH (R283): Swaps aborted, kept pages saved, counter entries written back. -/
  | roleFlush
  /-- ROLE_REENUMERATE (R283): The new map is applied, frames zeroed and readiness bits set. -/
  | roleReenumerate
  /-- PACKAGE_REQUEST (R354): A PACKAGE or POD request reaches its heft agent and is translated. -/
  | packageRequest
  /-- TABLE_READ (R354): A walker's table read returns and the walk advances one level. -/
  | tableRead
  /-- FAULT_FLUSH (R359): A c:FBCTL write matching GEN retranslates every held request. -/
  | faultFlush
  /-- XINV_PAGE (R355): A c:XINV write drops a page's cached leaf at all agents. -/
  | xinvPage
  /-- XINV_ALL (R355): A c:XINV write with ALL drops every cached leaf of the partition. -/
  | xinvAll
  /-- XINV_DONE (R355): Every agent has dropped the leaf and performed its accesses; BUSY clears. -/
  | xinvDone
  /-- PKDAT_WRITE (R364): A c:PKDAT write changes a selected register of a parked thread. -/
  | pkdatWrite
  /-- CREG_SET_NX (R365): A c:CREG write with NX 1 makes a code region unfetchable. -/
  | cregSetNx
  /-- CREG_CLEAR_NX (R365): A c:CREG write with NX 0 makes a code region fetchable. -/
  | cregClearNx
  /-- XSAVE_WRITE (R367): At the pre-emption point XSAVE writes the save area and frees the tiles. -/
  | xsaveWrite
  /-- XLOAD_RESUME (R369): When every die is restored, held releases are delivered and threads resume. -/
  | xloadResume
  /-- ECC_CORRECTED (R372): A corrected error counts in c:CECNT. -/
  | eccCorrected
  /-- CORR_INTERVAL (R372): Each 2^24-cc interval sends at most one CORR record. -/
  | corrInterval
  /-- UNCORRECTABLE_DATA (R371): An uncorrectable memory error marks its granule poison and sends UNCOR. -/
  | uncorrectableData
  /-- PADDOCK_KILL (R376): Consumed uncorrectable state fences its paddock and sends KILL. -/
  | paddockKill
  /-- PADDOCK_RESET_START (R375): A fenced paddock enters RESET. -/
  | paddockResetStart
  /-- PADDOCK_RESET_END (R379): The reset ends: state cleared, memory poisoned, PDRST sent, HELD. -/
  | paddockResetEnd
  /-- PADDOCK_DEFINE (R374): A c:PDDAT write defines or changes a paddock entry. -/
  | paddockDefine
  /-- PADDOCK_READMIT (R375): A c:PDDAT write with RDM starts self-test of a HELD paddock. -/
  | paddockReadmit
  /-- PADDOCK_TEST_END (R375): Self-test ends, retiring failed tiles, and the paddock opens. -/
  | paddockTestEnd
  /-- MARGIN_FLAG (R381): A unit is flagged marginal, WITHDRAWN, and MARGIN sent. -/
  | marginFlag
  /-- MARGIN_WDR (R382): A c:MGDAT write of WDR flags the unit. -/
  | marginWdr
  /-- MARGIN_RETEST_START (R382): When no launch holds the unit, its bin rises and self-test starts. -/
  | marginRetestStart
  /-- MARGIN_RETEST_END (R382): The self-test passes, repeats or retires the unit. -/
  | marginRetestEnd
  /-- SYMBOL_MARK (R387): Repeated corrected errors mark an HBM4 symbol position. -/
  | symbolMark
  /-- SOFT_REPAIR_START (R388): A failing row starts a channel quiesce holding new requests. -/
  | softRepairStart
  /-- SOFT_REPAIR_END (R388): Rows are written back and held requests released. -/
  | softRepairEnd
  /-- FRAME_RECEIVE (R402): A Fjoic frame arrives, is checked by earmark and tag, and forwarded or discarded. -/
  | frameReceive
  /-- FJOIC_ADMIT (R398): A request reaches the destination package and is admitted or NAKed. -/
  | fjoicAdmit
  /-- HOLD_NOTICE (R398): A hold notice reaches the source and stops its timer. -/
  | holdNotice
  /-- FJOIC_SOURCE_TIMEOUT (R398): A request unanswered at 20 µs is reported NAK. -/
  | fjoicSourceTimeout
  /-- MULTICAST_REPLICATE (R399): A multicast header reaches a switch that copies it to member branches. -/
  | multicastReplicate
  /-- MULTICAST_BRANCH_TIMEOUT (R400): A branch silent 18 µs after replication has its member bits set. -/
  | multicastBranchTimeout
  /-- MULTICAST_ANSWER (R400): Branch answers are ORed and one answer is sent upward. -/
  | multicastAnswer
  /-- FJOIC_PORT_DOWN (R403): A lane or port group fails and a LINK record is sent. -/
  | fjoicPortDown
  /-- STOXIS_WRITE (R390): A host WRITE packet is performed and acknowledged. -/
  | stoxisWrite
  /-- STOXIS_READ (R390): A host READ packet is performed and answered. -/
  | stoxisRead
  /-- MGMT_WRITE (R391): A management-space write with no behaviour of its own. -/
  | mgmtWrite
  /-- SEMAPHORE_ACQUIRE (R393): A read of a semaphore's first dword attempts to acquire it. -/
  | semaphoreAcquire
  /-- SEMAPHORE_RELEASE (R393): A write of 1 to a semaphore's second dword releases it if owner. -/
  | semaphoreRelease
  /-- STOXIS_PORT_DOWN (R393): A Stoxis port goes down; its semaphores release. -/
  | stoxisPortDown
  /-- GRANT (R404): A c:WGDAT1 write of STATE 1 to a FREE entry grants a window. -/
  | grant
  /-- REVOKE (R406): A c:WGDAT1 write of STATE 0 to a GRANTED entry revokes it. -/
  | revoke
  /-- GRANT_DRAINED (R406): A REVOKING entry becomes FREE once its checked packets are answered. -/
  | grantDrained
  /-- RESET_COLD (R410): A reset code 1 acts as power-on and starts boot. -/
  | resetCold
  /-- RESET_PACKAGE (R410): A reset code 2 zeroes memory, discards launches and starts boot. -/
  | resetPackage
  /-- RESET_PORT (R410): A reset code 3 resets the writing Stoxis port. -/
  | resetPort
  /-- BOOT_IMAGE_CHECK (R412): A write of the image length starts the firmware checks. -/
  | bootImageCheck
  /-- FUNCTION_READY (R409): A function finishes bring-up and sets its readiness bit. -/
  | functionReady
  /-- FUNCTION_LOST (R409): A function is lost and clears its readiness bit. -/
  | functionLost
  /-- ATTEST_REQUEST (R414): A write of 1 to 0x2820 starts an attestation report. -/
  | attestRequest
  /-- ATTEST_REPORT_DONE (R414): The signed report is placed and the done bit set. -/
  | attestReportDone
  /-- KEY_LOAD (R419): A key commit loads an earmark key into the masked port groups. -/
  | keyLoad
  /-- KEY_REMOVE (R419): A key commit with REMOVE drops an earmark key. -/
  | keyRemove
  /-- PARTITION_CREATE (R418): Writing VALID 0 to 1 checks and starts a partition. -/
  | partitionCreate
  /-- PARTITION_OPENED (R418): Range cleared and supervisor placed; STATE becomes OPEN. -/
  | partitionOpened
  /-- PARTITION_CLOSE (R418): Writing VALID 0 starts taking the partition down. -/
  | partitionClose
  /-- PARTITION_FREED (R418): Launches ended and range zeroed; STATE becomes FREE. -/
  | partitionFreed
  /-- LAYER_RETAIN (R416): A write of offset 0x300 puts free empty layers in RETAIN. -/
  | layerRetain
  /-- POWER_SAMPLE (R417): Every 10 µs package power is measured and duty adjusted. -/
  | powerSample
  /-- DEBUG_ATTACH (R420): A write of 0x800 attaches a debug agent. -/
  | debugAttach
  /-- TILE_HALT (R420): A write of 0x808 with HALT halts a tile. -/
  | tileHalt
  /-- TILE_RESUME (R420): A write of 0x808 with RESUME restarts a halted tile. -/
  | tileResume
  /-- DEBUG_READ (R421): A read of 0x820 performs a debug read of the written address. -/
  | debugRead
  /-- GROUP_TABLE_ANSWER (R238): The group table performs a GRPSET or GRPQ and answers the thread. -/
  | groupTableAnswer
  /-- DECODE_TRAP (R101): The fetch and decode of the word at pc traps ALIGN, FETCH, POISON or ILL before any instruction executes. -/
  | decodeTrap
  /-- POWER_ON (R410): Power-on of the package reads the fuses, samples the straps and starts the boot sequence. -/
  | powerOn
  /-- MGMT_READ (R391): A host MGMT read of an 8-byte management-space register, including RC fields and the NAK for an unowned queue descriptor. -/
  | mgmtRead
  /-- GROUP_MAP_EXCHANGE (R318): The dispatcher exchanges the logical tile map entries of two groups that hold no launch. -/
  | groupMapExchange
  deriving DecidableEq, Repr

end Sys2Proof
end

