-- ==== Sys2Proof/WellFormed.lean ====
section
/-! DEFINITION. WellFormed: the operand values a word may carry beyond its field widths (R45, R46, R79..R99, R176). -/

namespace Sys2Proof

/-- Integer element types, codes 0x0 to 0x7 (R44). -/
def tyInt (t : BitVec 4) : Bool := decide (t.toNat < 8)
/-- The types .bf16, .f16, .f32 and .f64 (R176, F). -/
def tyFp (t : BitVec 4) : Bool := decide (10 ≤ t.toNat ∧ t.toNat ≤ 13)
/-- The 8-bit floating-point types (R176, 8). -/
def tyFp8 (t : BitVec 4) : Bool := t == 8#4 || t == 9#4
/-- The FP64 pair (R176, P). -/
def tyPair (t : BitVec 4) : Bool := t == 14#4
/-- The fold code (R176, D). -/
def tyFold (t : BitVec 4) : Bool := t == 15#4
/-- The integer types VDOT and VFOLD accept: all but .i64 and .n64 (R176). -/
def tyProd (t : BitVec 4) : Bool := tyInt t && t != 3#4 && t != 7#4
/-- The integer rounding field: wrapping or .sat (R46). -/
def satOk (r : BitVec 2) : Bool := r == 0#2 || r == 1#2
/-- DYN = 1 requires a zero rounding field (R45). -/
def roundOk (y : BitVec 1) (r : BitVec 2) : Bool := y == 0#1 || r == 0#2
/-- With .dom the level bits must be 0 (R97). -/
def domOk (m : BitVec 1) (l : BitVec 2) : Bool := m == 0#1 || l == 0#2
/-- A destination operand code: h0..h7 or q0..q3; 12 to 15 are ILL (R85). -/
def destOk (d : BitVec 4) : Bool := decide (d.toNat < 12)
/-- The window codes ACOMP accepts (R89). -/
def windowCodeOk (w : BitVec 4) : Bool := decide (w.toNat ≤ 6) || w == 8#4

/-- What a word must satisfy beyond the widths of its fields. A hardware step carries no such condition. -/
def wellFormed : Instr → Bool
  | .add _ _ _ => true
  | .sub _ _ _ => true
  | .and _ _ _ => true
  | .or _ _ _ => true
  | .xor _ _ _ => true
  | .andn _ _ _ => true
  | .orn _ _ _ => true
  | .sll _ _ _ => true
  | .srl _ _ _ => true
  | .sra _ _ _ => true
  | .rol _ _ _ => true
  | .ror _ _ _ => true
  | .slt _ _ _ => true
  | .sltu _ _ _ => true
  | .seq _ _ _ => true
  | .sne _ _ _ => true
  | .min _ _ _ => true
  | .max _ _ _ => true
  | .minu _ _ _ => true
  | .maxu _ _ _ => true
  | .mul _ _ _ => true
  | .mulxs _ _ _ => true
  | .mulxn _ _ _ => true
  | .mulxsn _ _ _ => true
  | .div _ _ _ => true
  | .divu _ _ _ => true
  | .rem _ _ _ => true
  | .remu _ _ _ => true
  | .clz _ _ => true
  | .ctz _ _ => true
  | .popc _ _ => true
  | .brev _ _ => true
  | .bswap _ _ => true
  | .sext _ _ w => w != 3#2
  | .zext _ _ w => w != 3#2
  | .csel _ _ _ _ _ => true
  | .mov _ _ => true
  | .addi _ _ _ => true
  | .andi _ _ _ => true
  | .ori _ _ _ => true
  | .xori _ _ _ => true
  | .slti _ _ _ => true
  | .slli _ _ _ => true
  | .srli _ _ _ => true
  | .srai _ _ _ => true
  | .lui _ _ => true
  | .pchi _ _ => true
  | .movk _ _ => true
  | .movfk _ _ => true
  | .acomp _ _ _ w => windowCodeOk w
  | .adec _ _ => true
  | .kget _ _ => true
  | .bfx _ _ l p => decide (p.toNat + l.toNat + 1 ≤ 64)
  | .bfxu _ _ l p => decide (p.toNat + l.toNat + 1 ≤ 64)
  | .bfi _ _ l p => decide (p.toNat + l.toNat + 1 ≤ 64)
  | .nop => true
  | .beq a b _ => decide (a.toNat < b.toNat) || (a == 0#4 && b == 0#4)
  | .bne a b _ => decide (b.toNat < a.toNat)
  | .blt a b _ => a != b
  | .bge a b _ => a != b
  | .bltu a b _ => a != b
  | .bgeu a b _ => a != b
  | .jal _ _ => true
  | .jalr _ _ _ => true
  | .loop _ l => l != 0#13
  | .loopi l _ => l != 0#5
  | .gang _ _ _ => true
  | .join => true
  | .split => true
  | .rejoin => true
  | .wfe _ => true
  | .sev => true
  | .yield => true
  | .exit => true
  | .lb _ _ _ _ _ => true
  | .lh _ _ _ _ _ => true
  | .lw _ _ _ _ _ => true
  | .ld _ _ _ _ _ => true
  | .ldp _ _ _ _ _ => true
  | .lbu _ _ _ _ _ => true
  | .lhu _ _ _ _ _ => true
  | .lwu _ _ _ _ _ => true
  | .sb _ _ _ _ _ => true
  | .sh _ _ _ _ _ => true
  | .sw _ _ _ _ _ => true
  | .sd _ _ _ _ _ => true
  | .sdp _ _ _ _ _ => true
  | .waitc f => f != 0#3
  | .walk _ => true
  | .whereOp _ _ => true
  | .amoadd _ _ _ _ _ _ => true
  | .amoand _ _ _ _ _ _ => true
  | .amoor _ _ _ _ _ _ => true
  | .amoxor _ _ _ _ _ _ => true
  | .amomin _ _ _ _ _ _ => true
  | .amomax _ _ _ _ _ _ => true
  | .amominu _ _ _ _ _ _ => true
  | .amomaxu _ _ _ _ _ _ => true
  | .amoswp _ _ _ _ _ _ => true
  | .amocas _ _ _ _ _ _ => true
  | .amofadd _ _ _ _ _ _ _ => true
  | .fadd _ _ _ y r _ => roundOk y r
  | .fsub _ _ _ y r _ => roundOk y r
  | .fmul _ _ _ y r _ => roundOk y r
  | .fdiv _ _ _ y r _ => roundOk y r
  | .fsqrt _ _ y r _ => roundOk y r
  | .fmin _ _ _ _ => true
  | .fmax _ _ _ _ => true
  | .fabs _ _ _ => true
  | .fneg _ _ _ => true
  | .fsgnj _ _ _ _ => true
  | .fcmpEq _ _ _ _ => true
  | .fcmpNe _ _ _ _ => true
  | .fcmpLt _ _ _ _ => true
  | .fcmpLe _ _ _ _ => true
  | .fcmpUn _ _ _ _ => true
  | .fclass _ _ _ => true
  | .frcp _ _ y r _ => roundOk y r
  | .frsq _ _ y r _ => roundOk y r
  | .frcpn _ _ _ y r _ => roundOk y r
  | .frsqn _ _ _ y r _ => roundOk y r
  | .fma _ _ _ y r _ => roundOk y r
  | .fms _ _ _ y r _ => roundOk y r
  | .fnma _ _ _ y r _ => roundOk y r
  | .fcvt _ s _ y r p => roundOk y r && s != p
  | .fcvti _ _ y r _ _ => roundOk y r
  | .icvtf _ _ y r _ _ => roundOk y r
  | .vadd d _ _ r t => destOk d && ((tyInt t && satOk r) || tyFp t)
  | .vsub d _ _ r t => destOk d && ((tyInt t && satOk r) || tyFp t)
  | .vmul d _ _ r t => destOk d && ((tyInt t && satOk r) || tyFp t)
  | .vfma d _ _ r t => destOk d && ((tyInt t && r == 0#2) || tyFp t)
  | .vmin d _ _ t => destOk d && (tyInt t || tyFp t)
  | .vmax d _ _ t => destOk d && (tyInt t || tyFp t)
  | .vabs d _ r t => destOk d && ((tyInt t && satOk r) || (tyFp t && r == 0#2))
  | .vneg d _ r t => destOk d && ((tyInt t && satOk r) || (tyFp t && r == 0#2))
  | .vdiv d _ _ r t => destOk d && ((tyInt t && satOk r) || tyFp t)
  | .vsqrt d _ _ t => destOk d && tyFp t
  | .vrcp d _ _ t => destOk d && tyFp t
  | .vrsq d _ _ t => destOk d && tyFp t
  | .vrcpn d _ _ _ t => destOk d && tyFp t
  | .vrsqn d _ _ _ t => destOk d && tyFp t
  | .vexp2 d _ _ t => destOk d && tyFp t && t != 13#4
  | .vlog2 d _ _ t => destOk d && tyFp t && t != 13#4
  | .vand d _ _ t => destOk d && tyInt t
  | .vor d _ _ t => destOk d && tyInt t
  | .vxor d _ _ t => destOk d && tyInt t
  | .vshl d _ _ t => destOk d && tyInt t
  | .vshr d _ _ t => destOk d && tyInt t
  | .vcmpEq d _ _ t => destOk d && (tyInt t || tyFp t)
  | .vcmpNe d _ _ t => destOk d && (tyInt t || tyFp t)
  | .vcmpLt d _ _ t => destOk d && (tyInt t || tyFp t)
  | .vcmpLe d _ _ t => destOk d && (tyInt t || tyFp t)
  | .vcmpUn d _ _ t => destOk d && tyFp t
  | .vsel d _ _ t => destOk d && (tyInt t || tyFp t || tyFp8 t)
  | .vcopy d _ _ => destOk d
  | .vcvt d _ r t => destOk d && ((tyInt t && satOk r) || tyFp t || tyFp8 t)
  | .vreds d _ r t => destOk d && ((tyInt t && satOk r) || tyFp t || (tyFold t && r == 0#2))
  | .vredmMin d _ t => destOk d && (tyInt t || tyFp t)
  | .vredmMax d _ t => destOk d && (tyInt t || tyFp t)
  | .vscan d _ r t => destOk d && ((tyInt t && satOk r) || tyFp t)
  | .vdot d _ _ t => destOk d && (tyProd t || tyFp8 t || tyFp t)
  | .vfold d _ t => destOk d && (tyProd t || tyFp8 t || tyFp t || tyPair t)
  | .vunf d _ r t => destOk d && ((tyInt t && r == 0#2) || tyFp t || tyFp8 t)
  | .viota d r t => destOk d && ((tyInt t && r == 0#2) || tyFp t || tyFp8 t)
  | .vgath d _ _ t => destOk d && !(tyFold t)
  | .vscat d _ _ t => destOk d && !(tyFold t)
  | .vperm d _ _ t => destOk d && (tyInt t || tyFp t || tyFp8 t)
  | .vxchg d _ _ => destOk d
  | .vfill d _ t => destOk d && (tyInt t || tyFp t || tyFp8 t || tyFold t)
  | .vshape _ _ => true
  | .vloop _ _ => true
  | .vsync => true
  | .mldb _ x _ => x != 3#2
  | .mma _ _ => true
  | .mmap _ _ => true
  | .mzro _ => true
  | .mrnd _ _ _ => true
  | .mstat _ => true
  | .mpoll _ => true
  | .mwait _ => true
  | .mwgt w => w != 0#4
  | .dset _ _ => true
  | .dgo _ => true
  | .dpoll _ _ => true
  | .dwait _ => true
  | .dkill _ _ => true
  | .dmcst _ _ _ => true
  | .sbind _ _ => true
  | .sunb _ => true
  | .acarm _ _ _ => true
  | .acrd _ _ => true
  | .acdis _ _ => true
  | .acchn _ _ _ => true
  | .harvAdd _ _ m l => domOk m l
  | .harvAnd _ _ m l => domOk m l
  | .harvOr _ _ m l => domOk m l
  | .harvXor _ _ m l => domOk m l
  | .harvMin _ _ m l => domOk m l
  | .harvMax _ _ m l => domOk m l
  | .harvMinu _ _ m l => domOk m l
  | .harvMaxu _ _ m l => domOk m l
  | .harn m l => domOk m l
  | .hdrop m l => domOk m l
  | .hwt _ m l => domOk m l
  | .hqry _ m l => domOk m l
  | .hxend _ => true
  | .ttgo _ _ => true
  | .ttsts _ _ => true
  | .sendm _ _ _ => true
  | .inbox _ _ => true
  | .inbq _ => true
  | .rhold _ => true
  | .rrel _ => true
  | .rrdy _ _ => true
  | .lnch _ _ => true
  | .lstat _ _ => true
  | .grpq _ _ _ => true
  | .grpset _ _ _ => true
  | .trap _ => true
  | .eret => true
  | .mfc _ _ => true
  | .mtc _ _ => true
  | .idle => true
  | .brk _ => true
  | .park _ => true
  | .xsave _ _ => true
  | .xload _ _ => true
  | .addC _ _ => true
  | .subC _ _ => true
  | .andC _ _ => true
  | .orC _ _ => true
  | .xorC _ _ => true
  | .sllC _ _ => true
  | .srlC _ _ => true
  | .sraC _ _ => true
  | .movC _ _ => true
  | .addiC _ _ => true
  | .slliC _ _ => true
  | .srliC _ _ => true
  | .addiX0C _ _ => true
  | .ldC _ _ _ => true
  | .sdC _ _ _ => true
  | .lwC _ _ _ => true
  | .swC _ _ _ => true
  | .beqzC _ _ => true
  | .bnezC d _ => d != 0#4
  | .jC _ => true
  | .nopC => true
  | .exitC => true
  | .yieldC => true
  | .sevC => true
  | .vsyncC => true
  | .splitC => true
  | .rejoinC => true
  | .joinC => true
  | .wfeC _ => true
  | .waitcC m => m != 0#3
  | .jalrC _ => true
  | .walkDepart => true
  | .walkArrival => true
  | .walkRefusalReturn => true
  | .walkReissue => true
  | .resumeMove => true
  | .exitSlotFree => true
  | .routineStart => true
  | .postedStoreLand => true
  | .storeAnswer => true
  | .remoteReadServe => true
  | .readAnswer => true
  | .atomicPerform => true
  | .atomicAnswer => true
  | .refusalTrap => true
  | .deferredFpxTrap => true
  | .engineTrap => true
  | .seqEntryStart => true
  | .seqEntryComplete => true
  | .seqEntryStop => true
  | .vxchgSliceArrival => true
  | .matrixGrant => true
  | .matrixCommandComplete => true
  | .matrixCommandStop => true
  | .droverJobStart => true
  | .droverJobComplete => true
  | .droverCompletionPlace => true
  | .counterRequest => true
  | .counterAnswer => true
  | .counterFire => true
  | .firingDelivery => true
  | .counterAddition => true
  | .poolPop => true
  | .hurdleArrive => true
  | .hurdleRootCount => true
  | .hurdleRelease => true
  | .timetableEnd => true
  | .beatSend => true
  | .beatReceive => true
  | .treeInject => true
  | .treeRoundComplete => true
  | .treeResultPlace => true
  | .treeExtract => true
  | .inboxCtrlRemove => true
  | .watchdogStall => true
  | .messageArrival => true
  | .sendmAnswer => true
  | .trapMessageDelivery => true
  | .tmrWrite => true
  | .tmrExpire => true
  | .gangTimeout => true
  | .forwardedWord => true
  | .rejoinNotice => true
  | .dispatchDistribute => true
  | .launchPlaced => true
  | .launchComplete => true
  | .childCompletionPlace => true
  | .queueTailWrite => true
  | .preemptRequest => true
  | .preemptionPoint => true
  | .starvInterval => true
  | .launchEnd => true
  | .launchEndDone => true
  | .tileMapMove => true
  | .tileMapMoveDone => true
  | .twinPairCompare => true
  | .twinKeepPrimary => true
  | .twinKeepTwin => true
  | .twinEndLaunch => true
  | .twinNoAction => true
  | .swapExchange => true
  | .swapMove => true
  | .swapStart => true
  | .swapDone => true
  | .storageLoss => true
  | .layerLoss => true
  | .roleMapRequest => true
  | .drainLimit => true
  | .roleFlush => true
  | .roleReenumerate => true
  | .packageRequest => true
  | .tableRead => true
  | .faultFlush => true
  | .xinvPage => true
  | .xinvAll => true
  | .xinvDone => true
  | .pkdatWrite => true
  | .cregSetNx => true
  | .cregClearNx => true
  | .xsaveWrite => true
  | .xloadResume => true
  | .eccCorrected => true
  | .corrInterval => true
  | .uncorrectableData => true
  | .paddockKill => true
  | .paddockResetStart => true
  | .paddockResetEnd => true
  | .paddockDefine => true
  | .paddockReadmit => true
  | .paddockTestEnd => true
  | .marginFlag => true
  | .marginWdr => true
  | .marginRetestStart => true
  | .marginRetestEnd => true
  | .symbolMark => true
  | .softRepairStart => true
  | .softRepairEnd => true
  | .frameReceive => true
  | .fjoicAdmit => true
  | .holdNotice => true
  | .fjoicSourceTimeout => true
  | .multicastReplicate => true
  | .multicastBranchTimeout => true
  | .multicastAnswer => true
  | .fjoicPortDown => true
  | .stoxisWrite => true
  | .stoxisRead => true
  | .mgmtWrite => true
  | .semaphoreAcquire => true
  | .semaphoreRelease => true
  | .stoxisPortDown => true
  | .grant => true
  | .revoke => true
  | .grantDrained => true
  | .resetCold => true
  | .resetPackage => true
  | .resetPort => true
  | .bootImageCheck => true
  | .functionReady => true
  | .functionLost => true
  | .attestRequest => true
  | .attestReportDone => true
  | .keyLoad => true
  | .keyRemove => true
  | .partitionCreate => true
  | .partitionOpened => true
  | .partitionClose => true
  | .partitionFreed => true
  | .layerRetain => true
  | .powerSample => true
  | .debugAttach => true
  | .tileHalt => true
  | .tileResume => true
  | .debugRead => true
  | .groupTableAnswer => true
  | .decodeTrap => true
  | .powerOn => true
  | .mgmtRead => true
  | .groupMapExchange => true

end Sys2Proof
end

