-- ==== Sys2Proof/Decode.lean ====
section
/-! DEFINITION. Decode: from the bytes of an instruction to `Instr`, total on any bytes, rejecting by name; and the encoder
written from the same tables (R76..R101). The checks of ALIGN, FETCH and POISON, which come before, are in Machine/Issue. -/

namespace Sys2Proof

/-- Why bytes are no instruction. Every reason but `short` is the trap ILL of R100. -/
inductive DecodeErr where
  /-- Fewer bytes than the word needs. -/
  | short
  /-- A major opcode marked ILL (R87), or the compact majors 0 and 13 to 31 (R78, R99). -/
  | major
  /-- A function code or sub-space value the major does not assign (R87, R90). -/
  | function
  /-- A field that must be 0 is not, or has another fixed value (R79, R100). -/
  | reserved
  /-- A register code, type, rounding or qualifier out of its range (R45, R46, R79, R85, R176). -/
  | operand
  deriving DecidableEq, Repr

/-- The result of decoding. -/
abbrev Decoded := Except DecodeErr Instr

/-- Bits lo+len-1 .. lo of a word. -/
def fld (w lo len : Nat) : Nat := w / 2 ^ lo % 2 ^ len

/-- The n bits of a word from bit lo up. -/
def bits (w lo n : Nat) : BitVec n := BitVec.ofNat n (w / 2 ^ lo)

/-- An instruction whose fixed fields hold and whose operands are in range, or the reason it is none (R100). -/
def accept (fixed : Bool) (i : Instr) : Decoded :=
  if fixed then (if wellFormed i then .ok i else .error .operand) else .error .reserved

/-- Major 0x0 (R87). -/
def decodeIntReg (w : Nat) : Decoded :=
  match fld w 19 7 with
  | 0 => accept (fld w 19 13 == 0) (.add (bits w 7 4) (bits w 11 4) (bits w 15 4))
  | 1 => accept (fld w 19 13 == 1) (.sub (bits w 7 4) (bits w 11 4) (bits w 15 4))
  | 2 => accept (fld w 19 13 == 2) (.and (bits w 7 4) (bits w 11 4) (bits w 15 4))
  | 3 => accept (fld w 19 13 == 3) (.or (bits w 7 4) (bits w 11 4) (bits w 15 4))
  | 4 => accept (fld w 19 13 == 4) (.xor (bits w 7 4) (bits w 11 4) (bits w 15 4))
  | 5 => accept (fld w 19 13 == 5) (.andn (bits w 7 4) (bits w 11 4) (bits w 15 4))
  | 6 => accept (fld w 19 13 == 6) (.orn (bits w 7 4) (bits w 11 4) (bits w 15 4))
  | 8 => accept (fld w 19 13 == 8) (.sll (bits w 7 4) (bits w 11 4) (bits w 15 4))
  | 9 => accept (fld w 19 13 == 9) (.srl (bits w 7 4) (bits w 11 4) (bits w 15 4))
  | 10 => accept (fld w 19 13 == 10) (.sra (bits w 7 4) (bits w 11 4) (bits w 15 4))
  | 11 => accept (fld w 19 13 == 11) (.rol (bits w 7 4) (bits w 11 4) (bits w 15 4))
  | 12 => accept (fld w 19 13 == 12) (.ror (bits w 7 4) (bits w 11 4) (bits w 15 4))
  | 16 => accept (fld w 19 13 == 16) (.slt (bits w 7 4) (bits w 11 4) (bits w 15 4))
  | 17 => accept (fld w 19 13 == 17) (.sltu (bits w 7 4) (bits w 11 4) (bits w 15 4))
  | 18 => accept (fld w 19 13 == 18) (.seq (bits w 7 4) (bits w 11 4) (bits w 15 4))
  | 19 => accept (fld w 19 13 == 19) (.sne (bits w 7 4) (bits w 11 4) (bits w 15 4))
  | 20 => accept (fld w 19 13 == 20) (.min (bits w 7 4) (bits w 11 4) (bits w 15 4))
  | 21 => accept (fld w 19 13 == 21) (.max (bits w 7 4) (bits w 11 4) (bits w 15 4))
  | 22 => accept (fld w 19 13 == 22) (.minu (bits w 7 4) (bits w 11 4) (bits w 15 4))
  | 23 => accept (fld w 19 13 == 23) (.maxu (bits w 7 4) (bits w 11 4) (bits w 15 4))
  | 24 => accept (fld w 19 13 == 24) (.mul (bits w 7 4) (bits w 11 4) (bits w 15 4))
  | 25 => accept (fld w 19 13 == 25) (.mulxs (bits w 7 4) (bits w 11 4) (bits w 15 4))
  | 26 => accept (fld w 19 13 == 26) (.mulxn (bits w 7 4) (bits w 11 4) (bits w 15 4))
  | 27 => accept (fld w 19 13 == 27) (.mulxsn (bits w 7 4) (bits w 11 4) (bits w 15 4))
  | 28 => accept (fld w 19 13 == 28) (.div (bits w 7 4) (bits w 11 4) (bits w 15 4))
  | 29 => accept (fld w 19 13 == 29) (.divu (bits w 7 4) (bits w 11 4) (bits w 15 4))
  | 30 => accept (fld w 19 13 == 30) (.rem (bits w 7 4) (bits w 11 4) (bits w 15 4))
  | 31 => accept (fld w 19 13 == 31) (.remu (bits w 7 4) (bits w 11 4) (bits w 15 4))
  | 32 => accept (fld w 15 17 == 512) (.clz (bits w 7 4) (bits w 11 4))
  | 33 => accept (fld w 15 17 == 528) (.ctz (bits w 7 4) (bits w 11 4))
  | 34 => accept (fld w 15 17 == 544) (.popc (bits w 7 4) (bits w 11 4))
  | 35 => accept (fld w 15 17 == 560) (.brev (bits w 7 4) (bits w 11 4))
  | 36 => accept (fld w 15 17 == 576) (.bswap (bits w 7 4) (bits w 11 4))
  | 37 => accept (fld w 15 11 == 592 && fld w 28 4 == 0) (.sext (bits w 7 4) (bits w 11 4) (bits w 26 2))
  | 38 => accept (fld w 15 11 == 608 && fld w 28 4 == 0) (.zext (bits w 7 4) (bits w 11 4) (bits w 26 2))
  | 40 => accept (fld w 19 7 == 40) (.csel (bits w 7 4) (bits w 26 4) (bits w 11 4) (bits w 15 4) (bits w 30 2))
  | 48 => accept (fld w 15 17 == 768) (.mov (bits w 7 4) (bits w 11 4))
  | _ => .error .function

/-- Major 0x6 (R87). -/
def decodeShiftImm (w : Nat) : Decoded :=
  match fld w 21 11 with
  | 0 => accept (fld w 21 11 == 0) (.slli (bits w 7 4) (bits w 11 4) (bits w 15 6))
  | 1 => accept (fld w 21 11 == 1) (.srli (bits w 7 4) (bits w 11 4) (bits w 15 6))
  | 2 => accept (fld w 21 11 == 2) (.srai (bits w 7 4) (bits w 11 4) (bits w 15 6))
  | _ => .error .function

/-- Major 0xa (R87). -/
def decodeKReg (w : Nat) : Decoded :=
  match fld w 19 7 with
  | 0 => accept (fld w 10 1 == 0 && fld w 15 17 == 0) (.movfk (bits w 7 3) (bits w 11 4))
  | 1 => accept (fld w 10 1 == 0 && fld w 19 7 == 1 && fld w 30 2 == 0) (.acomp (bits w 7 3) (bits w 11 4) (bits w 15 4) (bits w 26 4))
  | 2 => accept (fld w 10 1 == 0 && fld w 15 17 == 32) (.adec (bits w 7 3) (bits w 11 4))
  | 3 => accept (fld w 14 18 == 96) (.kget (bits w 7 4) (bits w 11 3))
  | _ => .error .function

/-- Major 0xb (R87). -/
def decodeBitField (w : Nat) : Decoded :=
  match fld w 27 5 with
  | 0 => accept (fld w 27 5 == 0) (.bfx (bits w 7 4) (bits w 11 4) (bits w 21 6) (bits w 15 6))
  | 1 => accept (fld w 27 5 == 1) (.bfxu (bits w 7 4) (bits w 11 4) (bits w 21 6) (bits w 15 6))
  | 2 => accept (fld w 27 5 == 2) (.bfi (bits w 7 4) (bits w 11 4) (bits w 21 6) (bits w 15 6))
  | _ => .error .function

/-- Major 0x16 (R87). -/
def decodeLoad (w : Nat) : Decoded :=
  match fld w 19 3 with
  | 0 => accept (fld w 19 3 == 0) (.lb (bits w 7 4) (bits w 11 4) (bits w 15 4) (bits w 24 8) (bits w 22 2))
  | 1 => accept (fld w 19 3 == 1) (.lh (bits w 7 4) (bits w 11 4) (bits w 15 4) (bits w 24 8) (bits w 22 2))
  | 2 => accept (fld w 19 3 == 2) (.lw (bits w 7 4) (bits w 11 4) (bits w 15 4) (bits w 24 8) (bits w 22 2))
  | 3 => accept (fld w 19 3 == 3) (.ld (bits w 7 4) (bits w 11 4) (bits w 15 4) (bits w 24 8) (bits w 22 2))
  | 4 => accept (fld w 0 8 == 45 && fld w 19 3 == 4) (.ldp (bits w 8 3) (bits w 11 4) (bits w 15 4) (bits w 24 8) (bits w 22 2))
  | _ => .error .function

/-- Major 0x17 (R87). -/
def decodeLoadU (w : Nat) : Decoded :=
  match fld w 19 3 with
  | 0 => accept (fld w 19 3 == 0) (.lbu (bits w 7 4) (bits w 11 4) (bits w 15 4) (bits w 24 8) (bits w 22 2))
  | 1 => accept (fld w 19 3 == 1) (.lhu (bits w 7 4) (bits w 11 4) (bits w 15 4) (bits w 24 8) (bits w 22 2))
  | 2 => accept (fld w 19 3 == 2) (.lwu (bits w 7 4) (bits w 11 4) (bits w 15 4) (bits w 24 8) (bits w 22 2))
  | _ => .error .function

/-- Major 0x18 (R87). -/
def decodeStore (w : Nat) : Decoded :=
  match fld w 19 3 with
  | 0 => accept (fld w 19 3 == 0) (.sb (bits w 7 4) (bits w 11 4) (bits w 15 4) (bits w 24 8) (bits w 22 2))
  | 1 => accept (fld w 19 3 == 1) (.sh (bits w 7 4) (bits w 11 4) (bits w 15 4) (bits w 24 8) (bits w 22 2))
  | 2 => accept (fld w 19 3 == 2) (.sw (bits w 7 4) (bits w 11 4) (bits w 15 4) (bits w 24 8) (bits w 22 2))
  | 3 => accept (fld w 19 3 == 3) (.sd (bits w 7 4) (bits w 11 4) (bits w 15 4) (bits w 24 8) (bits w 22 2))
  | 4 => accept (fld w 0 8 == 49 && fld w 19 3 == 4) (.sdp (bits w 8 3) (bits w 11 4) (bits w 15 4) (bits w 24 8) (bits w 22 2))
  | _ => .error .function

/-- Major 0x19 (R87). -/
def decodeWaitWalk (w : Nat) : Decoded :=
  match fld w 19 9 with
  | 0 => accept (fld w 0 28 == 51 && fld w 31 1 == 0) (.waitc (bits w 28 3))
  | 1 => accept (fld w 0 11 == 51 && fld w 15 17 == 16) (.walk (bits w 11 4))
  | 2 => accept (fld w 15 17 == 32) (.whereOp (bits w 7 4) (bits w 11 4))
  | _ => .error .function

/-- Major 0x1a (R87). -/
def decodeAtomic (w : Nat) : Decoded :=
  match fld w 19 7 with
  | 0 => accept (fld w 19 7 == 0 && fld w 30 2 == 0) (.amoadd (bits w 7 4) (bits w 26 1) (bits w 11 4) (bits w 15 4) (bits w 28 2) (bits w 27 1))
  | 1 => accept (fld w 19 7 == 1 && fld w 30 2 == 0) (.amoand (bits w 7 4) (bits w 26 1) (bits w 11 4) (bits w 15 4) (bits w 28 2) (bits w 27 1))
  | 2 => accept (fld w 19 7 == 2 && fld w 30 2 == 0) (.amoor (bits w 7 4) (bits w 26 1) (bits w 11 4) (bits w 15 4) (bits w 28 2) (bits w 27 1))
  | 3 => accept (fld w 19 7 == 3 && fld w 30 2 == 0) (.amoxor (bits w 7 4) (bits w 26 1) (bits w 11 4) (bits w 15 4) (bits w 28 2) (bits w 27 1))
  | 4 => accept (fld w 19 7 == 4 && fld w 30 2 == 0) (.amomin (bits w 7 4) (bits w 26 1) (bits w 11 4) (bits w 15 4) (bits w 28 2) (bits w 27 1))
  | 5 => accept (fld w 19 7 == 5 && fld w 30 2 == 0) (.amomax (bits w 7 4) (bits w 26 1) (bits w 11 4) (bits w 15 4) (bits w 28 2) (bits w 27 1))
  | 6 => accept (fld w 19 7 == 6 && fld w 30 2 == 0) (.amominu (bits w 7 4) (bits w 26 1) (bits w 11 4) (bits w 15 4) (bits w 28 2) (bits w 27 1))
  | 7 => accept (fld w 19 7 == 7 && fld w 30 2 == 0) (.amomaxu (bits w 7 4) (bits w 26 1) (bits w 11 4) (bits w 15 4) (bits w 28 2) (bits w 27 1))
  | 8 => accept (fld w 19 7 == 8 && fld w 30 2 == 0) (.amoswp (bits w 7 4) (bits w 26 1) (bits w 11 4) (bits w 15 4) (bits w 28 2) (bits w 27 1))
  | 9 => accept (fld w 19 7 == 9 && fld w 30 2 == 0) (.amocas (bits w 7 4) (bits w 26 1) (bits w 11 4) (bits w 15 4) (bits w 28 2) (bits w 27 1))
  | 16 => accept (fld w 19 7 == 16) (.amofadd (bits w 7 4) (bits w 26 1) (bits w 11 4) (bits w 15 4) (bits w 30 2) (bits w 28 2) (bits w 27 1))
  | _ => .error .function

/-- Major 0x20 (R87). -/
def decodeFpArith (w : Nat) : Decoded :=
  match fld w 19 7 with
  | 0 => accept (fld w 19 7 == 0 && fld w 31 1 == 0) (.fadd (bits w 7 4) (bits w 11 4) (bits w 15 4) (bits w 30 1) (bits w 28 2) (bits w 26 2))
  | 1 => accept (fld w 19 7 == 1 && fld w 31 1 == 0) (.fsub (bits w 7 4) (bits w 11 4) (bits w 15 4) (bits w 30 1) (bits w 28 2) (bits w 26 2))
  | 2 => accept (fld w 19 7 == 2 && fld w 31 1 == 0) (.fmul (bits w 7 4) (bits w 11 4) (bits w 15 4) (bits w 30 1) (bits w 28 2) (bits w 26 2))
  | 3 => accept (fld w 19 7 == 3 && fld w 31 1 == 0) (.fdiv (bits w 7 4) (bits w 11 4) (bits w 15 4) (bits w 30 1) (bits w 28 2) (bits w 26 2))
  | 4 => accept (fld w 15 11 == 64 && fld w 31 1 == 0) (.fsqrt (bits w 7 4) (bits w 11 4) (bits w 30 1) (bits w 28 2) (bits w 26 2))
  | 5 => accept (fld w 19 7 == 5 && fld w 28 4 == 0) (.fmin (bits w 7 4) (bits w 11 4) (bits w 15 4) (bits w 26 2))
  | 6 => accept (fld w 19 7 == 6 && fld w 28 4 == 0) (.fmax (bits w 7 4) (bits w 11 4) (bits w 15 4) (bits w 26 2))
  | 7 => accept (fld w 15 11 == 112 && fld w 28 4 == 0) (.fabs (bits w 7 4) (bits w 11 4) (bits w 26 2))
  | 8 => accept (fld w 15 11 == 128 && fld w 28 4 == 0) (.fneg (bits w 7 4) (bits w 11 4) (bits w 26 2))
  | 9 => accept (fld w 19 7 == 9 && fld w 28 4 == 0) (.fsgnj (bits w 7 4) (bits w 11 4) (bits w 15 4) (bits w 26 2))
  | 10 => accept (fld w 19 7 == 10 && fld w 28 4 == 0) (.fcmpEq (bits w 7 4) (bits w 11 4) (bits w 15 4) (bits w 26 2))
  | 11 => accept (fld w 19 7 == 11 && fld w 28 4 == 0) (.fcmpNe (bits w 7 4) (bits w 11 4) (bits w 15 4) (bits w 26 2))
  | 12 => accept (fld w 19 7 == 12 && fld w 28 4 == 0) (.fcmpLt (bits w 7 4) (bits w 11 4) (bits w 15 4) (bits w 26 2))
  | 13 => accept (fld w 19 7 == 13 && fld w 28 4 == 0) (.fcmpLe (bits w 7 4) (bits w 11 4) (bits w 15 4) (bits w 26 2))
  | 14 => accept (fld w 19 7 == 14 && fld w 28 4 == 0) (.fcmpUn (bits w 7 4) (bits w 11 4) (bits w 15 4) (bits w 26 2))
  | 16 => accept (fld w 15 11 == 256 && fld w 28 4 == 0) (.fclass (bits w 7 4) (bits w 11 4) (bits w 26 2))
  | 17 => accept (fld w 15 11 == 272 && fld w 31 1 == 0) (.frcp (bits w 7 4) (bits w 11 4) (bits w 30 1) (bits w 28 2) (bits w 26 2))
  | 18 => accept (fld w 15 11 == 288 && fld w 31 1 == 0) (.frsq (bits w 7 4) (bits w 11 4) (bits w 30 1) (bits w 28 2) (bits w 26 2))
  | 19 => accept (fld w 19 7 == 19 && fld w 31 1 == 0) (.frcpn (bits w 7 4) (bits w 11 4) (bits w 15 4) (bits w 30 1) (bits w 28 2) (bits w 26 2))
  | 20 => accept (fld w 19 7 == 20 && fld w 31 1 == 0) (.frsqn (bits w 7 4) (bits w 11 4) (bits w 15 4) (bits w 30 1) (bits w 28 2) (bits w 26 2))
  | 24 => accept (fld w 19 7 == 24 && fld w 31 1 == 0) (.fma (bits w 7 4) (bits w 11 4) (bits w 15 4) (bits w 30 1) (bits w 28 2) (bits w 26 2))
  | 25 => accept (fld w 19 7 == 25 && fld w 31 1 == 0) (.fms (bits w 7 4) (bits w 11 4) (bits w 15 4) (bits w 30 1) (bits w 28 2) (bits w 26 2))
  | 26 => accept (fld w 19 7 == 26 && fld w 31 1 == 0) (.fnma (bits w 7 4) (bits w 11 4) (bits w 15 4) (bits w 30 1) (bits w 28 2) (bits w 26 2))
  | _ => .error .function

/-- Major 0x21 (R87). -/
def decodeFpConv (w : Nat) : Decoded :=
  match fld w 22 4 with
  | 0 => accept (fld w 15 4 == 0 && fld w 21 5 == 0 && fld w 31 1 == 0) (.fcvt (bits w 7 4) (bits w 19 2) (bits w 11 4) (bits w 30 1) (bits w 28 2) (bits w 26 2))
  | 1 => accept (fld w 15 4 == 0 && fld w 22 4 == 1 && fld w 31 1 == 0) (.fcvti (bits w 7 4) (bits w 11 4) (bits w 30 1) (bits w 28 2) (bits w 26 2) (bits w 19 3))
  | 2 => accept (fld w 15 4 == 0 && fld w 22 4 == 2 && fld w 31 1 == 0) (.icvtf (bits w 7 4) (bits w 11 4) (bits w 30 1) (bits w 28 2) (bits w 26 2) (bits w 19 3))
  | _ => .error .function

/-- Major 0x28 (R87). -/
def decodeVecElem (w : Nat) : Decoded :=
  match fld w 19 7 with
  | 0 => accept (fld w 19 7 == 0) (.vadd (bits w 7 4) (bits w 11 4) (bits w 15 4) (bits w 30 2) (bits w 26 4))
  | 1 => accept (fld w 19 7 == 1) (.vsub (bits w 7 4) (bits w 11 4) (bits w 15 4) (bits w 30 2) (bits w 26 4))
  | 2 => accept (fld w 19 7 == 2) (.vmul (bits w 7 4) (bits w 11 4) (bits w 15 4) (bits w 30 2) (bits w 26 4))
  | 3 => accept (fld w 19 7 == 3) (.vfma (bits w 7 4) (bits w 11 4) (bits w 15 4) (bits w 30 2) (bits w 26 4))
  | 4 => accept (fld w 19 7 == 4 && fld w 30 2 == 0) (.vmin (bits w 7 4) (bits w 11 4) (bits w 15 4) (bits w 26 4))
  | 5 => accept (fld w 19 7 == 5 && fld w 30 2 == 0) (.vmax (bits w 7 4) (bits w 11 4) (bits w 15 4) (bits w 26 4))
  | 6 => accept (fld w 15 11 == 96) (.vabs (bits w 7 4) (bits w 11 4) (bits w 30 2) (bits w 26 4))
  | 7 => accept (fld w 15 11 == 112) (.vneg (bits w 7 4) (bits w 11 4) (bits w 30 2) (bits w 26 4))
  | 8 => accept (fld w 19 7 == 8) (.vdiv (bits w 7 4) (bits w 11 4) (bits w 15 4) (bits w 30 2) (bits w 26 4))
  | 9 => accept (fld w 15 11 == 144) (.vsqrt (bits w 7 4) (bits w 11 4) (bits w 30 2) (bits w 26 4))
  | 10 => accept (fld w 15 11 == 160) (.vrcp (bits w 7 4) (bits w 11 4) (bits w 30 2) (bits w 26 4))
  | 11 => accept (fld w 15 11 == 176) (.vrsq (bits w 7 4) (bits w 11 4) (bits w 30 2) (bits w 26 4))
  | 12 => accept (fld w 19 7 == 12) (.vrcpn (bits w 7 4) (bits w 11 4) (bits w 15 4) (bits w 30 2) (bits w 26 4))
  | 13 => accept (fld w 19 7 == 13) (.vrsqn (bits w 7 4) (bits w 11 4) (bits w 15 4) (bits w 30 2) (bits w 26 4))
  | 14 => accept (fld w 15 11 == 224) (.vexp2 (bits w 7 4) (bits w 11 4) (bits w 30 2) (bits w 26 4))
  | 15 => accept (fld w 15 11 == 240) (.vlog2 (bits w 7 4) (bits w 11 4) (bits w 30 2) (bits w 26 4))
  | 16 => accept (fld w 19 7 == 16 && fld w 30 2 == 0) (.vand (bits w 7 4) (bits w 11 4) (bits w 15 4) (bits w 26 4))
  | 17 => accept (fld w 19 7 == 17 && fld w 30 2 == 0) (.vor (bits w 7 4) (bits w 11 4) (bits w 15 4) (bits w 26 4))
  | 18 => accept (fld w 19 7 == 18 && fld w 30 2 == 0) (.vxor (bits w 7 4) (bits w 11 4) (bits w 15 4) (bits w 26 4))
  | 19 => accept (fld w 19 7 == 19 && fld w 30 2 == 0) (.vshl (bits w 7 4) (bits w 11 4) (bits w 15 4) (bits w 26 4))
  | 20 => accept (fld w 19 7 == 20 && fld w 30 2 == 0) (.vshr (bits w 7 4) (bits w 11 4) (bits w 15 4) (bits w 26 4))
  | 24 => accept (fld w 19 7 == 24 && fld w 30 2 == 0) (.vcmpEq (bits w 7 4) (bits w 11 4) (bits w 15 4) (bits w 26 4))
  | 25 => accept (fld w 19 7 == 25 && fld w 30 2 == 0) (.vcmpNe (bits w 7 4) (bits w 11 4) (bits w 15 4) (bits w 26 4))
  | 26 => accept (fld w 19 7 == 26 && fld w 30 2 == 0) (.vcmpLt (bits w 7 4) (bits w 11 4) (bits w 15 4) (bits w 26 4))
  | 27 => accept (fld w 19 7 == 27 && fld w 30 2 == 0) (.vcmpLe (bits w 7 4) (bits w 11 4) (bits w 15 4) (bits w 26 4))
  | 28 => accept (fld w 19 7 == 28 && fld w 30 2 == 0) (.vcmpUn (bits w 7 4) (bits w 11 4) (bits w 15 4) (bits w 26 4))
  | 32 => accept (fld w 19 7 == 32 && fld w 30 2 == 0) (.vsel (bits w 7 4) (bits w 11 4) (bits w 15 4) (bits w 26 4))
  | 33 => accept (fld w 15 11 == 528 && fld w 30 2 == 0) (.vcopy (bits w 7 4) (bits w 11 4) (bits w 26 4))
  | 34 => accept (fld w 15 11 == 544) (.vcvt (bits w 7 4) (bits w 11 4) (bits w 30 2) (bits w 26 4))
  | _ => .error .function

/-- Major 0x29 (R87). -/
def decodeVecReduce (w : Nat) : Decoded :=
  match fld w 19 7 with
  | 0 => accept (fld w 15 11 == 0) (.vreds (bits w 7 4) (bits w 11 4) (bits w 30 2) (bits w 26 4))
  | 1 => accept (fld w 15 11 == 16 && fld w 30 2 == 0) (.vredmMin (bits w 7 4) (bits w 11 4) (bits w 26 4))
  | 2 => accept (fld w 15 11 == 32 && fld w 30 2 == 0) (.vredmMax (bits w 7 4) (bits w 11 4) (bits w 26 4))
  | 3 => accept (fld w 15 11 == 48) (.vscan (bits w 7 4) (bits w 11 4) (bits w 30 2) (bits w 26 4))
  | 4 => accept (fld w 19 7 == 4 && fld w 30 2 == 0) (.vdot (bits w 7 4) (bits w 11 4) (bits w 15 4) (bits w 26 4))
  | 5 => accept (fld w 15 11 == 80 && fld w 30 2 == 0) (.vfold (bits w 7 4) (bits w 11 4) (bits w 26 4))
  | 6 => accept (fld w 15 11 == 96) (.vunf (bits w 7 4) (bits w 11 4) (bits w 30 2) (bits w 26 4))
  | 7 => accept (fld w 11 15 == 1792) (.viota (bits w 7 4) (bits w 30 2) (bits w 26 4))
  | _ => .error .function

/-- Major 0x2a (R87). -/
def decodeVecMove (w : Nat) : Decoded :=
  match fld w 19 7 with
  | 0 => accept (fld w 19 7 == 0 && fld w 30 2 == 0) (.vgath (bits w 7 4) (bits w 11 4) (bits w 15 4) (bits w 26 4))
  | 1 => accept (fld w 19 7 == 1 && fld w 30 2 == 0) (.vscat (bits w 7 4) (bits w 11 4) (bits w 15 4) (bits w 26 4))
  | 2 => accept (fld w 19 7 == 2 && fld w 30 2 == 0) (.vperm (bits w 7 4) (bits w 11 4) (bits w 15 4) (bits w 26 4))
  | 3 => accept (fld w 15 11 == 48 && fld w 30 2 == 0) (.vxchg (bits w 7 4) (bits w 11 4) (bits w 26 4))
  | 4 => accept (fld w 15 11 == 64 && fld w 30 2 == 0) (.vfill (bits w 7 4) (bits w 11 4) (bits w 26 4))
  | _ => .error .function

/-- Major 0x2b (R87). -/
def decodeSequencer (w : Nat) : Decoded :=
  match fld w 19 9 with
  | 0 => accept (fld w 10 1 == 0 && fld w 15 17 == 0) (.vshape (bits w 7 3) (bits w 11 4))
  | 1 => accept (fld w 15 17 == 16) (.vloop (bits w 11 4) (bits w 7 4))
  | 2 => accept (fld w 0 32 == 1048663) (.vsync)
  | _ => .error .function

/-- Major 0x34 (R87). -/
def decodeMatrix (w : Nat) : Decoded :=
  match fld w 19 9 with
  | 0 => accept (fld w 0 11 == 105 && fld w 14 14 == 0 && fld w 31 1 == 0) (.mldb (bits w 11 3) (bits w 29 2) (bits w 28 1))
  | 1 => accept (fld w 10 1 == 0 && fld w 14 18 == 32) (.mma (bits w 7 3) (bits w 11 3))
  | 2 => accept (fld w 10 1 == 0 && fld w 14 18 == 64) (.mmap (bits w 7 3) (bits w 11 3))
  | 3 => accept (fld w 10 22 == 1536) (.mzro (bits w 7 3))
  | 4 => accept (fld w 10 1 == 0 && fld w 14 14 == 128 && fld w 30 2 == 0) (.mrnd (bits w 7 3) (bits w 11 3) (bits w 28 2))
  | 5 => accept (fld w 11 21 == 1280) (.mstat (bits w 7 4))
  | 6 => accept (fld w 11 21 == 1536) (.mpoll (bits w 7 4))
  | 7 => accept (fld w 0 11 == 105 && fld w 15 17 == 112) (.mwait (bits w 11 4))
  | 8 => accept (fld w 0 28 == 4194409) (.mwgt (bits w 28 4))
  | _ => .error .function

/-- Major 0x38 (R87). -/
def decodeDrover (w : Nat) : Decoded :=
  match fld w 19 9 with
  | 0 => accept (fld w 15 17 == 0) (.dset (bits w 11 4) (bits w 7 4))
  | 1 => accept (fld w 11 21 == 256) (.dgo (bits w 7 4))
  | 2 => accept (fld w 15 17 == 32) (.dpoll (bits w 7 4) (bits w 11 4))
  | 3 => accept (fld w 0 11 == 113 && fld w 15 17 == 48) (.dwait (bits w 11 4))
  | 4 => accept (fld w 15 17 == 64) (.dkill (bits w 7 4) (bits w 11 4))
  | 5 => accept (fld w 19 13 == 5) (.dmcst (bits w 7 4) (bits w 11 4) (bits w 15 4))
  | _ => .error .function

/-- Major 0x39 (R87). -/
def decodeStream (w : Nat) : Decoded :=
  match fld w 19 9 with
  | 0 => accept (fld w 10 1 == 0 && fld w 15 17 == 0) (.sbind (bits w 7 3) (bits w 11 4))
  | 1 => accept (fld w 10 22 == 512) (.sunb (bits w 7 3))
  | 2 => accept (fld w 19 13 == 2) (.acarm (bits w 7 4) (bits w 11 4) (bits w 15 4))
  | 3 => accept (fld w 15 17 == 48) (.acrd (bits w 7 4) (bits w 11 4))
  | 4 => accept (fld w 15 17 == 64) (.acdis (bits w 7 4) (bits w 11 4))
  | 5 => accept (fld w 19 13 == 5) (.acchn (bits w 7 4) (bits w 11 4) (bits w 15 4))
  | _ => .error .function

/-- Major 0x3c (R87). -/
def decodeHurdle (w : Nat) : Decoded :=
  match fld w 19 9 with
  | 0 => accept (fld w 0 11 == 121 && fld w 19 9 == 0 && fld w 31 1 == 0) (.harvAdd (bits w 11 4) (bits w 15 4) (bits w 30 1) (bits w 28 2))
  | 1 => accept (fld w 0 11 == 121 && fld w 19 9 == 1 && fld w 31 1 == 0) (.harvAnd (bits w 11 4) (bits w 15 4) (bits w 30 1) (bits w 28 2))
  | 2 => accept (fld w 0 11 == 121 && fld w 19 9 == 2 && fld w 31 1 == 0) (.harvOr (bits w 11 4) (bits w 15 4) (bits w 30 1) (bits w 28 2))
  | 3 => accept (fld w 0 11 == 121 && fld w 19 9 == 3 && fld w 31 1 == 0) (.harvXor (bits w 11 4) (bits w 15 4) (bits w 30 1) (bits w 28 2))
  | 4 => accept (fld w 0 11 == 121 && fld w 19 9 == 4 && fld w 31 1 == 0) (.harvMin (bits w 11 4) (bits w 15 4) (bits w 30 1) (bits w 28 2))
  | 5 => accept (fld w 0 11 == 121 && fld w 19 9 == 5 && fld w 31 1 == 0) (.harvMax (bits w 11 4) (bits w 15 4) (bits w 30 1) (bits w 28 2))
  | 6 => accept (fld w 0 11 == 121 && fld w 19 9 == 6 && fld w 31 1 == 0) (.harvMinu (bits w 11 4) (bits w 15 4) (bits w 30 1) (bits w 28 2))
  | 7 => accept (fld w 0 11 == 121 && fld w 19 9 == 7 && fld w 31 1 == 0) (.harvMaxu (bits w 11 4) (bits w 15 4) (bits w 30 1) (bits w 28 2))
  | 8 => accept (fld w 0 28 == 4194425 && fld w 31 1 == 0) (.harn (bits w 30 1) (bits w 28 2))
  | 9 => accept (fld w 0 28 == 4718713 && fld w 31 1 == 0) (.hdrop (bits w 30 1) (bits w 28 2))
  | 10 => accept (fld w 11 17 == 2560 && fld w 31 1 == 0) (.hwt (bits w 7 4) (bits w 30 1) (bits w 28 2))
  | 11 => accept (fld w 11 17 == 2816 && fld w 31 1 == 0) (.hqry (bits w 7 4) (bits w 30 1) (bits w 28 2))
  | 12 => accept (fld w 0 28 == 6291577 && fld w 29 3 == 1) (.hxend (bits w 28 1))
  | 16 => accept (fld w 0 11 == 121 && fld w 15 13 == 256 && fld w 29 3 == 0) (.ttgo (bits w 11 4) (bits w 28 1))
  | 17 => accept (fld w 11 17 == 4352 && fld w 29 3 == 0) (.ttsts (bits w 7 4) (bits w 28 1))
  | _ => .error .function

/-- Major 0x3d (R87). -/
def decodeMessage (w : Nat) : Decoded :=
  match fld w 19 9 with
  | 0 => accept (fld w 19 13 == 0) (.sendm (bits w 7 4) (bits w 11 4) (bits w 15 4))
  | 1 => accept (fld w 15 17 == 16) (.inbox (bits w 7 4) (bits w 11 4))
  | 2 => accept (fld w 11 21 == 512) (.inbq (bits w 7 4))
  | 3 => accept (fld w 0 11 == 123 && fld w 15 17 == 48) (.rhold (bits w 11 4))
  | 4 => accept (fld w 0 11 == 123 && fld w 15 17 == 64) (.rrel (bits w 11 4))
  | 5 => accept (fld w 0 11 == 123 && fld w 19 13 == 5) (.rrdy (bits w 11 4) (bits w 15 4))
  | _ => .error .function

/-- Major 0x3e (R87). -/
def decodeLaunch (w : Nat) : Decoded :=
  match fld w 19 9 with
  | 0 => accept (fld w 15 17 == 0) (.lnch (bits w 7 4) (bits w 11 4))
  | 1 => accept (fld w 15 17 == 16) (.lstat (bits w 7 4) (bits w 11 4))
  | 2 => accept (fld w 19 13 == 2) (.grpq (bits w 7 4) (bits w 11 4) (bits w 15 4))
  | 3 => accept (fld w 19 13 == 3) (.grpset (bits w 7 4) (bits w 11 4) (bits w 15 4))
  | _ => .error .function

/-- Major 0x3f (R87). -/
def decodeSystem (w : Nat) : Decoded :=
  match fld w 19 9 with
  | 0 => accept (fld w 0 11 == 127 && fld w 19 13 == 0) (.trap (bits w 11 8))
  | 1 => accept (fld w 0 32 == 524415) (.eret)
  | 2 => accept (fld w 19 9 == 2) (.mfc (bits w 7 4) (BitVec.ofNat 12 (fld w 28 4 * 256 + fld w 11 8)))
  | 3 => accept (fld w 19 9 == 3) (.mtc (BitVec.ofNat 12 (fld w 28 4 * 256 + fld w 11 8)) (bits w 7 4))
  | 4 => accept (fld w 0 32 == 2097279) (.idle)
  | 5 => accept (fld w 0 11 == 127 && fld w 19 13 == 5) (.brk (bits w 11 8))
  | 6 => accept (fld w 0 11 == 127 && fld w 15 17 == 96) (.park (bits w 11 4))
  | 7 => accept (fld w 0 11 == 127 && fld w 19 13 == 7) (.xsave (bits w 11 4) (bits w 15 4))
  | 8 => accept (fld w 0 11 == 127 && fld w 19 13 == 8) (.xload (bits w 11 4) (bits w 15 4))
  | _ => .error .function

/-- Major 0x10: BEQ, BNE and the control space (R83, R90). -/
def decodeControl (w : Nat) : Decoded :=
  if fld w 11 4 < fld w 15 4 then accept true (.beq (bits w 11 4) (bits w 15 4) (BitVec.ofNat 17 (fld w 19 13 * 16 + fld w 7 4)))
  else if fld w 15 4 < fld w 11 4 then accept true (.bne (bits w 11 4) (bits w 15 4) (BitVec.ofNat 17 (fld w 19 13 * 16 + fld w 7 4)))
  else match fld w 11 4 with
  | 0 => accept true (.beq (bits w 11 4) (bits w 15 4) (BitVec.ofNat 17 (fld w 19 13 * 16 + fld w 7 4)))
  | 1 => accept (fld w 11 8 == 17) (.jalr (bits w 7 4) (bits w 19 4) (bits w 23 9))
  | 2 => accept (fld w 11 8 == 34) (.loop (bits w 7 4) (bits w 19 13))
  | 3 => accept (fld w 11 8 == 51) (.loopi (bits w 27 5) (BitVec.ofNat 12 (fld w 19 8 * 16 + fld w 7 4)))
  | 4 => accept (fld w 11 8 == 68 && fld w 25 7 == 0) (.gang (bits w 7 4) (bits w 22 3) (bits w 19 3))
  | 5 => accept (fld w 0 32 == 174113) (.join)
  | 6 => accept (fld w 0 32 == 208929) (.split)
  | 7 => accept (fld w 0 32 == 243745) (.rejoin)
  | 8 => accept (fld w 11 21 == 136) (.wfe (bits w 7 4))
  | 9 => accept (fld w 0 32 == 313377) (.sev)
  | 10 => accept (fld w 0 32 == 348193) (.yield)
  | 11 => accept (fld w 0 32 == 383009) (.exit)
  | _ => .error .function

/-- A 32-bit word by its major (R87). -/
def decode32 (w : Nat) : Decoded :=
  match fld w 0 7 with
  | 1 => decodeIntReg w
  | 3 => accept (true) (.addi (bits w 7 4) (bits w 11 4) (bits w 15 17))
  | 5 => accept (true) (.andi (bits w 7 4) (bits w 11 4) (bits w 15 17))
  | 7 => accept (true) (.ori (bits w 7 4) (bits w 11 4) (bits w 15 17))
  | 9 => accept (true) (.xori (bits w 7 4) (bits w 11 4) (bits w 15 17))
  | 11 => accept (true) (.slti (bits w 7 4) (bits w 11 4) (bits w 15 17))
  | 13 => decodeShiftImm w
  | 15 => accept (fld w 11 4 == 0) (.lui (bits w 7 4) (bits w 15 17))
  | 17 => accept (fld w 11 4 == 0) (.pchi (bits w 7 4) (bits w 15 17))
  | 19 => accept (fld w 10 5 == 0) (.movk (bits w 7 3) (bits w 15 17))
  | 21 => decodeKReg w
  | 23 => decodeBitField w
  | 31 => accept (fld w 0 32 == 31) (.nop)
  | 33 => decodeControl w
  | 35 => accept (true) (.blt (bits w 11 4) (bits w 15 4) (BitVec.ofNat 17 (fld w 19 13 * 16 + fld w 7 4)))
  | 37 => accept (true) (.bge (bits w 11 4) (bits w 15 4) (BitVec.ofNat 17 (fld w 19 13 * 16 + fld w 7 4)))
  | 39 => accept (true) (.bltu (bits w 11 4) (bits w 15 4) (BitVec.ofNat 17 (fld w 19 13 * 16 + fld w 7 4)))
  | 41 => accept (true) (.bgeu (bits w 11 4) (bits w 15 4) (BitVec.ofNat 17 (fld w 19 13 * 16 + fld w 7 4)))
  | 43 => accept (true) (.jal (bits w 7 4) (bits w 11 21))
  | 45 => decodeLoad w
  | 47 => decodeLoadU w
  | 49 => decodeStore w
  | 51 => decodeWaitWalk w
  | 53 => decodeAtomic w
  | 65 => decodeFpArith w
  | 67 => decodeFpConv w
  | 81 => decodeVecElem w
  | 83 => decodeVecReduce w
  | 85 => decodeVecMove w
  | 87 => decodeSequencer w
  | 105 => decodeMatrix w
  | 113 => decodeDrover w
  | 115 => decodeStream w
  | 121 => decodeHurdle w
  | 123 => decodeMessage w
  | 125 => decodeLaunch w
  | 127 => decodeSystem w
  | _ => .error .major

/-- Compact major 12, sub 0: selected by d (R99). -/
def decodeCompactSel (w : Nat) : Decoded :=
  match fld w 6 4 with
  | 0 => accept (fld w 10 4 == 0) .nopC
  | 1 => accept (fld w 10 4 == 0) .exitC
  | 2 => accept (fld w 10 4 == 0) .yieldC
  | 3 => accept (fld w 10 4 == 0) .sevC
  | 4 => accept (fld w 10 4 == 0) .vsyncC
  | 5 => accept (fld w 10 4 == 0) .splitC
  | 6 => accept (fld w 10 4 == 0) .rejoinC
  | 7 => accept (fld w 10 4 == 0) .joinC
  | _ => .error .function

/-- Compact major 1 by its sub field (R99). -/
def decodeCompactA (w : Nat) : Decoded :=
  match fld w 14 2 with
  | 0 => accept (fld w 14 2 == 0) (.addC (bits w 6 4) (bits w 10 4))
  | 1 => accept (fld w 14 2 == 1) (.subC (bits w 6 4) (bits w 10 4))
  | 2 => accept (fld w 14 2 == 2) (.andC (bits w 6 4) (bits w 10 4))
  | 3 => accept (fld w 14 2 == 3) (.orC (bits w 6 4) (bits w 10 4))
  | _ => .error .function

/-- Compact major 2 by its sub field (R99). -/
def decodeCompactB (w : Nat) : Decoded :=
  match fld w 14 2 with
  | 0 => accept (fld w 14 2 == 0) (.xorC (bits w 6 4) (bits w 10 4))
  | 1 => accept (fld w 14 2 == 1) (.sllC (bits w 6 4) (bits w 10 4))
  | 2 => accept (fld w 14 2 == 2) (.srlC (bits w 6 4) (bits w 10 4))
  | 3 => accept (fld w 14 2 == 3) (.sraC (bits w 6 4) (bits w 10 4))
  | _ => .error .function

/-- Compact major 3 by its sub field (R99). -/
def decodeCompactC (w : Nat) : Decoded :=
  match fld w 14 2 with
  | 0 => accept (fld w 14 2 == 0) (.movC (bits w 6 4) (bits w 10 4))
  | 1 => accept (fld w 14 2 == 1) (.addiC (bits w 6 4) (bits w 10 4))
  | 2 => accept (fld w 14 2 == 2) (.slliC (bits w 6 4) (bits w 10 4))
  | 3 => accept (fld w 14 2 == 3) (.srliC (bits w 6 4) (bits w 10 4))
  | _ => .error .function

/-- Compact major 12 by its sub field (R99). -/
def decodeCompactD (w : Nat) : Decoded :=
  match fld w 14 2 with
  | 0 => decodeCompactSel w
  | 1 => accept (fld w 10 6 == 16) (.wfeC (bits w 6 4))
  | 2 => accept (fld w 0 10 == 24 && fld w 13 3 == 4) (.waitcC (bits w 10 3))
  | 3 => accept (fld w 10 6 == 48) (.jalrC (bits w 6 4))
  | _ => .error .function

/-- A 16-bit word by its compact major (R78, R99). -/
def decode16 (w : Nat) : Decoded :=
  match fld w 0 6 with
  | 2 => decodeCompactA w
  | 4 => decodeCompactB w
  | 6 => decodeCompactC w
  | 8 => accept (true) (.addiX0C (bits w 6 4) (bits w 10 6))
  | 10 => accept (true) (.ldC (bits w 6 4) (bits w 14 2) (bits w 10 4))
  | 12 => accept (true) (.sdC (bits w 6 4) (bits w 14 2) (bits w 10 4))
  | 14 => accept (true) (.lwC (bits w 6 4) (bits w 14 2) (bits w 10 4))
  | 16 => accept (true) (.swC (bits w 6 4) (bits w 14 2) (bits w 10 4))
  | 18 => accept (true) (.beqzC (bits w 6 4) (bits w 10 6))
  | 20 => accept (true) (.bnezC (bits w 6 4) (bits w 10 6))
  | 22 => accept (true) (.jC (bits w 6 10))
  | 24 => decodeCompactD w
  | _ => .error .major

/-- An instruction from the bytes at the pc, little-endian halfwords (R76), and the bytes after it. -/
def decode : List Byte → Except DecodeErr (Instr × List Byte)
  | b0 :: b1 :: rest =>
    if b0.toNat % 2 = 0 then (decode16 (b0.toNat + 256 * b1.toNat)).map (·, rest)
    else match rest with
      | b2 :: b3 :: rest' =>
        (decode32 (b0.toNat + 256 * b1.toNat + 65536 * b2.toNat + 16777216 * b3.toNat)).map (·, rest')
      | _ => .error .short
  | _ => .error .short

/-- The n low bytes of a number, least significant first. -/
def leBytes : Nat → Nat → List Byte
  | 0, _ => []
  | n + 1, v => BitVec.ofNat 8 v :: leBytes n (v / 256)

/-- The instruction this decoder reads from a word of nbits bits numbered as the opcode table numbers them; bits above
nbits are 0 and the longest instruction has 32 bits. -/
def decodeTableWord (nbits w : Nat) : Option Instr :=
  match decode (leBytes 4 (w % 2 ^ nbits)) with
  | .ok (i, _) => some i
  | .error _ => none

/-- Whether the row has a word at all; a hardware step has none. -/
def hasWord : Instr → Bool
  | .add _ _ _ => true
  | .sub _ _ _ => true
  | .and _ _ _ => true
  | .or _ _ _ => true
  | .xor _ _ _ => true
  | .andn _ _ _ => true
  | .orn _ _ _ => true
  | .sll _ _ _ => true
  | .srl _ _ _ => true
  | .sra _ _ _ => true
  | .rol _ _ _ => true
  | .ror _ _ _ => true
  | .slt _ _ _ => true
  | .sltu _ _ _ => true
  | .seq _ _ _ => true
  | .sne _ _ _ => true
  | .min _ _ _ => true
  | .max _ _ _ => true
  | .minu _ _ _ => true
  | .maxu _ _ _ => true
  | .mul _ _ _ => true
  | .mulxs _ _ _ => true
  | .mulxn _ _ _ => true
  | .mulxsn _ _ _ => true
  | .div _ _ _ => true
  | .divu _ _ _ => true
  | .rem _ _ _ => true
  | .remu _ _ _ => true
  | .clz _ _ => true
  | .ctz _ _ => true
  | .popc _ _ => true
  | .brev _ _ => true
  | .bswap _ _ => true
  | .sext _ _ _ => true
  | .zext _ _ _ => true
  | .csel _ _ _ _ _ => true
  | .mov _ _ => true
  | .addi _ _ _ => true
  | .andi _ _ _ => true
  | .ori _ _ _ => true
  | .xori _ _ _ => true
  | .slti _ _ _ => true
  | .slli _ _ _ => true
  | .srli _ _ _ => true
  | .srai _ _ _ => true
  | .lui _ _ => true
  | .pchi _ _ => true
  | .movk _ _ => true
  | .movfk _ _ => true
  | .acomp _ _ _ _ => true
  | .adec _ _ => true
  | .kget _ _ => true
  | .bfx _ _ _ _ => true
  | .bfxu _ _ _ _ => true
  | .bfi _ _ _ _ => true
  | .nop => true
  | .beq _ _ _ => true
  | .bne _ _ _ => true
  | .blt _ _ _ => true
  | .bge _ _ _ => true
  | .bltu _ _ _ => true
  | .bgeu _ _ _ => true
  | .jal _ _ => true
  | .jalr _ _ _ => true
  | .loop _ _ => true
  | .loopi _ _ => true
  | .gang _ _ _ => true
  | .join => true
  | .split => true
  | .rejoin => true
  | .wfe _ => true
  | .sev => true
  | .yield => true
  | .exit => true
  | .lb _ _ _ _ _ => true
  | .lh _ _ _ _ _ => true
  | .lw _ _ _ _ _ => true
  | .ld _ _ _ _ _ => true
  | .ldp _ _ _ _ _ => true
  | .lbu _ _ _ _ _ => true
  | .lhu _ _ _ _ _ => true
  | .lwu _ _ _ _ _ => true
  | .sb _ _ _ _ _ => true
  | .sh _ _ _ _ _ => true
  | .sw _ _ _ _ _ => true
  | .sd _ _ _ _ _ => true
  | .sdp _ _ _ _ _ => true
  | .waitc _ => true
  | .walk _ => true
  | .whereOp _ _ => true
  | .amoadd _ _ _ _ _ _ => true
  | .amoand _ _ _ _ _ _ => true
  | .amoor _ _ _ _ _ _ => true
  | .amoxor _ _ _ _ _ _ => true
  | .amomin _ _ _ _ _ _ => true
  | .amomax _ _ _ _ _ _ => true
  | .amominu _ _ _ _ _ _ => true
  | .amomaxu _ _ _ _ _ _ => true
  | .amoswp _ _ _ _ _ _ => true
  | .amocas _ _ _ _ _ _ => true
  | .amofadd _ _ _ _ _ _ _ => true
  | .fadd _ _ _ _ _ _ => true
  | .fsub _ _ _ _ _ _ => true
  | .fmul _ _ _ _ _ _ => true
  | .fdiv _ _ _ _ _ _ => true
  | .fsqrt _ _ _ _ _ => true
  | .fmin _ _ _ _ => true
  | .fmax _ _ _ _ => true
  | .fabs _ _ _ => true
  | .fneg _ _ _ => true
  | .fsgnj _ _ _ _ => true
  | .fcmpEq _ _ _ _ => true
  | .fcmpNe _ _ _ _ => true
  | .fcmpLt _ _ _ _ => true
  | .fcmpLe _ _ _ _ => true
  | .fcmpUn _ _ _ _ => true
  | .fclass _ _ _ => true
  | .frcp _ _ _ _ _ => true
  | .frsq _ _ _ _ _ => true
  | .frcpn _ _ _ _ _ _ => true
  | .frsqn _ _ _ _ _ _ => true
  | .fma _ _ _ _ _ _ => true
  | .fms _ _ _ _ _ _ => true
  | .fnma _ _ _ _ _ _ => true
  | .fcvt _ _ _ _ _ _ => true
  | .fcvti _ _ _ _ _ _ => true
  | .icvtf _ _ _ _ _ _ => true
  | .vadd _ _ _ _ _ => true
  | .vsub _ _ _ _ _ => true
  | .vmul _ _ _ _ _ => true
  | .vfma _ _ _ _ _ => true
  | .vmin _ _ _ _ => true
  | .vmax _ _ _ _ => true
  | .vabs _ _ _ _ => true
  | .vneg _ _ _ _ => true
  | .vdiv _ _ _ _ _ => true
  | .vsqrt _ _ _ _ => true
  | .vrcp _ _ _ _ => true
  | .vrsq _ _ _ _ => true
  | .vrcpn _ _ _ _ _ => true
  | .vrsqn _ _ _ _ _ => true
  | .vexp2 _ _ _ _ => true
  | .vlog2 _ _ _ _ => true
  | .vand _ _ _ _ => true
  | .vor _ _ _ _ => true
  | .vxor _ _ _ _ => true
  | .vshl _ _ _ _ => true
  | .vshr _ _ _ _ => true
  | .vcmpEq _ _ _ _ => true
  | .vcmpNe _ _ _ _ => true
  | .vcmpLt _ _ _ _ => true
  | .vcmpLe _ _ _ _ => true
  | .vcmpUn _ _ _ _ => true
  | .vsel _ _ _ _ => true
  | .vcopy _ _ _ => true
  | .vcvt _ _ _ _ => true
  | .vreds _ _ _ _ => true
  | .vredmMin _ _ _ => true
  | .vredmMax _ _ _ => true
  | .vscan _ _ _ _ => true
  | .vdot _ _ _ _ => true
  | .vfold _ _ _ => true
  | .vunf _ _ _ _ => true
  | .viota _ _ _ => true
  | .vgath _ _ _ _ => true
  | .vscat _ _ _ _ => true
  | .vperm _ _ _ _ => true
  | .vxchg _ _ _ => true
  | .vfill _ _ _ => true
  | .vshape _ _ => true
  | .vloop _ _ => true
  | .vsync => true
  | .mldb _ _ _ => true
  | .mma _ _ => true
  | .mmap _ _ => true
  | .mzro _ => true
  | .mrnd _ _ _ => true
  | .mstat _ => true
  | .mpoll _ => true
  | .mwait _ => true
  | .mwgt _ => true
  | .dset _ _ => true
  | .dgo _ => true
  | .dpoll _ _ => true
  | .dwait _ => true
  | .dkill _ _ => true
  | .dmcst _ _ _ => true
  | .sbind _ _ => true
  | .sunb _ => true
  | .acarm _ _ _ => true
  | .acrd _ _ => true
  | .acdis _ _ => true
  | .acchn _ _ _ => true
  | .harvAdd _ _ _ _ => true
  | .harvAnd _ _ _ _ => true
  | .harvOr _ _ _ _ => true
  | .harvXor _ _ _ _ => true
  | .harvMin _ _ _ _ => true
  | .harvMax _ _ _ _ => true
  | .harvMinu _ _ _ _ => true
  | .harvMaxu _ _ _ _ => true
  | .harn _ _ => true
  | .hdrop _ _ => true
  | .hwt _ _ _ => true
  | .hqry _ _ _ => true
  | .hxend _ => true
  | .ttgo _ _ => true
  | .ttsts _ _ => true
  | .sendm _ _ _ => true
  | .inbox _ _ => true
  | .inbq _ => true
  | .rhold _ => true
  | .rrel _ => true
  | .rrdy _ _ => true
  | .lnch _ _ => true
  | .lstat _ _ => true
  | .grpq _ _ _ => true
  | .grpset _ _ _ => true
  | .trap _ => true
  | .eret => true
  | .mfc _ _ => true
  | .mtc _ _ => true
  | .idle => true
  | .brk _ => true
  | .park _ => true
  | .xsave _ _ => true
  | .xload _ _ => true
  | .addC _ _ => true
  | .subC _ _ => true
  | .andC _ _ => true
  | .orC _ _ => true
  | .xorC _ _ => true
  | .sllC _ _ => true
  | .srlC _ _ => true
  | .sraC _ _ => true
  | .movC _ _ => true
  | .addiC _ _ => true
  | .slliC _ _ => true
  | .srliC _ _ => true
  | .addiX0C _ _ => true
  | .ldC _ _ _ => true
  | .sdC _ _ _ => true
  | .lwC _ _ _ => true
  | .swC _ _ _ => true
  | .beqzC _ _ => true
  | .bnezC _ _ => true
  | .jC _ => true
  | .nopC => true
  | .exitC => true
  | .yieldC => true
  | .sevC => true
  | .vsyncC => true
  | .splitC => true
  | .rejoinC => true
  | .joinC => true
  | .wfeC _ => true
  | .waitcC _ => true
  | .jalrC _ => true
  | .walkDepart => false
  | .walkArrival => false
  | .walkRefusalReturn => false
  | .walkReissue => false
  | .resumeMove => false
  | .exitSlotFree => false
  | .routineStart => false
  | .postedStoreLand => false
  | .storeAnswer => false
  | .remoteReadServe => false
  | .readAnswer => false
  | .atomicPerform => false
  | .atomicAnswer => false
  | .refusalTrap => false
  | .deferredFpxTrap => false
  | .engineTrap => false
  | .seqEntryStart => false
  | .seqEntryComplete => false
  | .seqEntryStop => false
  | .vxchgSliceArrival => false
  | .matrixGrant => false
  | .matrixCommandComplete => false
  | .matrixCommandStop => false
  | .droverJobStart => false
  | .droverJobComplete => false
  | .droverCompletionPlace => false
  | .counterRequest => false
  | .counterAnswer => false
  | .counterFire => false
  | .firingDelivery => false
  | .counterAddition => false
  | .poolPop => false
  | .hurdleArrive => false
  | .hurdleRootCount => false
  | .hurdleRelease => false
  | .timetableEnd => false
  | .beatSend => false
  | .beatReceive => false
  | .treeInject => false
  | .treeRoundComplete => false
  | .treeResultPlace => false
  | .treeExtract => false
  | .inboxCtrlRemove => false
  | .watchdogStall => false
  | .messageArrival => false
  | .sendmAnswer => false
  | .trapMessageDelivery => false
  | .tmrWrite => false
  | .tmrExpire => false
  | .gangTimeout => false
  | .forwardedWord => false
  | .rejoinNotice => false
  | .dispatchDistribute => false
  | .launchPlaced => false
  | .launchComplete => false
  | .childCompletionPlace => false
  | .queueTailWrite => false
  | .preemptRequest => false
  | .preemptionPoint => false
  | .starvInterval => false
  | .launchEnd => false
  | .launchEndDone => false
  | .tileMapMove => false
  | .tileMapMoveDone => false
  | .twinPairCompare => false
  | .twinKeepPrimary => false
  | .twinKeepTwin => false
  | .twinEndLaunch => false
  | .twinNoAction => false
  | .swapExchange => false
  | .swapMove => false
  | .swapStart => false
  | .swapDone => false
  | .storageLoss => false
  | .layerLoss => false
  | .roleMapRequest => false
  | .drainLimit => false
  | .roleFlush => false
  | .roleReenumerate => false
  | .packageRequest => false
  | .tableRead => false
  | .faultFlush => false
  | .xinvPage => false
  | .xinvAll => false
  | .xinvDone => false
  | .pkdatWrite => false
  | .cregSetNx => false
  | .cregClearNx => false
  | .xsaveWrite => false
  | .xloadResume => false
  | .eccCorrected => false
  | .corrInterval => false
  | .uncorrectableData => false
  | .paddockKill => false
  | .paddockResetStart => false
  | .paddockResetEnd => false
  | .paddockDefine => false
  | .paddockReadmit => false
  | .paddockTestEnd => false
  | .marginFlag => false
  | .marginWdr => false
  | .marginRetestStart => false
  | .marginRetestEnd => false
  | .symbolMark => false
  | .softRepairStart => false
  | .softRepairEnd => false
  | .frameReceive => false
  | .fjoicAdmit => false
  | .holdNotice => false
  | .fjoicSourceTimeout => false
  | .multicastReplicate => false
  | .multicastBranchTimeout => false
  | .multicastAnswer => false
  | .fjoicPortDown => false
  | .stoxisWrite => false
  | .stoxisRead => false
  | .mgmtWrite => false
  | .semaphoreAcquire => false
  | .semaphoreRelease => false
  | .stoxisPortDown => false
  | .grant => false
  | .revoke => false
  | .grantDrained => false
  | .resetCold => false
  | .resetPackage => false
  | .resetPort => false
  | .bootImageCheck => false
  | .functionReady => false
  | .functionLost => false
  | .attestRequest => false
  | .attestReportDone => false
  | .keyLoad => false
  | .keyRemove => false
  | .partitionCreate => false
  | .partitionOpened => false
  | .partitionClose => false
  | .partitionFreed => false
  | .layerRetain => false
  | .powerSample => false
  | .debugAttach => false
  | .tileHalt => false
  | .tileResume => false
  | .debugRead => false
  | .groupTableAnswer => false
  | .decodeTrap => false
  | .powerOn => false
  | .mgmtRead => false
  | .groupMapExchange => false

/-- The length of the word in bytes: 4, 2 for a compact form (R76); 0 for a hardware step. -/
def wordBytes : Instr → Nat
  | .add _ _ _ => 4
  | .sub _ _ _ => 4
  | .and _ _ _ => 4
  | .or _ _ _ => 4
  | .xor _ _ _ => 4
  | .andn _ _ _ => 4
  | .orn _ _ _ => 4
  | .sll _ _ _ => 4
  | .srl _ _ _ => 4
  | .sra _ _ _ => 4
  | .rol _ _ _ => 4
  | .ror _ _ _ => 4
  | .slt _ _ _ => 4
  | .sltu _ _ _ => 4
  | .seq _ _ _ => 4
  | .sne _ _ _ => 4
  | .min _ _ _ => 4
  | .max _ _ _ => 4
  | .minu _ _ _ => 4
  | .maxu _ _ _ => 4
  | .mul _ _ _ => 4
  | .mulxs _ _ _ => 4
  | .mulxn _ _ _ => 4
  | .mulxsn _ _ _ => 4
  | .div _ _ _ => 4
  | .divu _ _ _ => 4
  | .rem _ _ _ => 4
  | .remu _ _ _ => 4
  | .clz _ _ => 4
  | .ctz _ _ => 4
  | .popc _ _ => 4
  | .brev _ _ => 4
  | .bswap _ _ => 4
  | .sext _ _ _ => 4
  | .zext _ _ _ => 4
  | .csel _ _ _ _ _ => 4
  | .mov _ _ => 4
  | .addi _ _ _ => 4
  | .andi _ _ _ => 4
  | .ori _ _ _ => 4
  | .xori _ _ _ => 4
  | .slti _ _ _ => 4
  | .slli _ _ _ => 4
  | .srli _ _ _ => 4
  | .srai _ _ _ => 4
  | .lui _ _ => 4
  | .pchi _ _ => 4
  | .movk _ _ => 4
  | .movfk _ _ => 4
  | .acomp _ _ _ _ => 4
  | .adec _ _ => 4
  | .kget _ _ => 4
  | .bfx _ _ _ _ => 4
  | .bfxu _ _ _ _ => 4
  | .bfi _ _ _ _ => 4
  | .nop => 4
  | .beq _ _ _ => 4
  | .bne _ _ _ => 4
  | .blt _ _ _ => 4
  | .bge _ _ _ => 4
  | .bltu _ _ _ => 4
  | .bgeu _ _ _ => 4
  | .jal _ _ => 4
  | .jalr _ _ _ => 4
  | .loop _ _ => 4
  | .loopi _ _ => 4
  | .gang _ _ _ => 4
  | .join => 4
  | .split => 4
  | .rejoin => 4
  | .wfe _ => 4
  | .sev => 4
  | .yield => 4
  | .exit => 4
  | .lb _ _ _ _ _ => 4
  | .lh _ _ _ _ _ => 4
  | .lw _ _ _ _ _ => 4
  | .ld _ _ _ _ _ => 4
  | .ldp _ _ _ _ _ => 4
  | .lbu _ _ _ _ _ => 4
  | .lhu _ _ _ _ _ => 4
  | .lwu _ _ _ _ _ => 4
  | .sb _ _ _ _ _ => 4
  | .sh _ _ _ _ _ => 4
  | .sw _ _ _ _ _ => 4
  | .sd _ _ _ _ _ => 4
  | .sdp _ _ _ _ _ => 4
  | .waitc _ => 4
  | .walk _ => 4
  | .whereOp _ _ => 4
  | .amoadd _ _ _ _ _ _ => 4
  | .amoand _ _ _ _ _ _ => 4
  | .amoor _ _ _ _ _ _ => 4
  | .amoxor _ _ _ _ _ _ => 4
  | .amomin _ _ _ _ _ _ => 4
  | .amomax _ _ _ _ _ _ => 4
  | .amominu _ _ _ _ _ _ => 4
  | .amomaxu _ _ _ _ _ _ => 4
  | .amoswp _ _ _ _ _ _ => 4
  | .amocas _ _ _ _ _ _ => 4
  | .amofadd _ _ _ _ _ _ _ => 4
  | .fadd _ _ _ _ _ _ => 4
  | .fsub _ _ _ _ _ _ => 4
  | .fmul _ _ _ _ _ _ => 4
  | .fdiv _ _ _ _ _ _ => 4
  | .fsqrt _ _ _ _ _ => 4
  | .fmin _ _ _ _ => 4
  | .fmax _ _ _ _ => 4
  | .fabs _ _ _ => 4
  | .fneg _ _ _ => 4
  | .fsgnj _ _ _ _ => 4
  | .fcmpEq _ _ _ _ => 4
  | .fcmpNe _ _ _ _ => 4
  | .fcmpLt _ _ _ _ => 4
  | .fcmpLe _ _ _ _ => 4
  | .fcmpUn _ _ _ _ => 4
  | .fclass _ _ _ => 4
  | .frcp _ _ _ _ _ => 4
  | .frsq _ _ _ _ _ => 4
  | .frcpn _ _ _ _ _ _ => 4
  | .frsqn _ _ _ _ _ _ => 4
  | .fma _ _ _ _ _ _ => 4
  | .fms _ _ _ _ _ _ => 4
  | .fnma _ _ _ _ _ _ => 4
  | .fcvt _ _ _ _ _ _ => 4
  | .fcvti _ _ _ _ _ _ => 4
  | .icvtf _ _ _ _ _ _ => 4
  | .vadd _ _ _ _ _ => 4
  | .vsub _ _ _ _ _ => 4
  | .vmul _ _ _ _ _ => 4
  | .vfma _ _ _ _ _ => 4
  | .vmin _ _ _ _ => 4
  | .vmax _ _ _ _ => 4
  | .vabs _ _ _ _ => 4
  | .vneg _ _ _ _ => 4
  | .vdiv _ _ _ _ _ => 4
  | .vsqrt _ _ _ _ => 4
  | .vrcp _ _ _ _ => 4
  | .vrsq _ _ _ _ => 4
  | .vrcpn _ _ _ _ _ => 4
  | .vrsqn _ _ _ _ _ => 4
  | .vexp2 _ _ _ _ => 4
  | .vlog2 _ _ _ _ => 4
  | .vand _ _ _ _ => 4
  | .vor _ _ _ _ => 4
  | .vxor _ _ _ _ => 4
  | .vshl _ _ _ _ => 4
  | .vshr _ _ _ _ => 4
  | .vcmpEq _ _ _ _ => 4
  | .vcmpNe _ _ _ _ => 4
  | .vcmpLt _ _ _ _ => 4
  | .vcmpLe _ _ _ _ => 4
  | .vcmpUn _ _ _ _ => 4
  | .vsel _ _ _ _ => 4
  | .vcopy _ _ _ => 4
  | .vcvt _ _ _ _ => 4
  | .vreds _ _ _ _ => 4
  | .vredmMin _ _ _ => 4
  | .vredmMax _ _ _ => 4
  | .vscan _ _ _ _ => 4
  | .vdot _ _ _ _ => 4
  | .vfold _ _ _ => 4
  | .vunf _ _ _ _ => 4
  | .viota _ _ _ => 4
  | .vgath _ _ _ _ => 4
  | .vscat _ _ _ _ => 4
  | .vperm _ _ _ _ => 4
  | .vxchg _ _ _ => 4
  | .vfill _ _ _ => 4
  | .vshape _ _ => 4
  | .vloop _ _ => 4
  | .vsync => 4
  | .mldb _ _ _ => 4
  | .mma _ _ => 4
  | .mmap _ _ => 4
  | .mzro _ => 4
  | .mrnd _ _ _ => 4
  | .mstat _ => 4
  | .mpoll _ => 4
  | .mwait _ => 4
  | .mwgt _ => 4
  | .dset _ _ => 4
  | .dgo _ => 4
  | .dpoll _ _ => 4
  | .dwait _ => 4
  | .dkill _ _ => 4
  | .dmcst _ _ _ => 4
  | .sbind _ _ => 4
  | .sunb _ => 4
  | .acarm _ _ _ => 4
  | .acrd _ _ => 4
  | .acdis _ _ => 4
  | .acchn _ _ _ => 4
  | .harvAdd _ _ _ _ => 4
  | .harvAnd _ _ _ _ => 4
  | .harvOr _ _ _ _ => 4
  | .harvXor _ _ _ _ => 4
  | .harvMin _ _ _ _ => 4
  | .harvMax _ _ _ _ => 4
  | .harvMinu _ _ _ _ => 4
  | .harvMaxu _ _ _ _ => 4
  | .harn _ _ => 4
  | .hdrop _ _ => 4
  | .hwt _ _ _ => 4
  | .hqry _ _ _ => 4
  | .hxend _ => 4
  | .ttgo _ _ => 4
  | .ttsts _ _ => 4
  | .sendm _ _ _ => 4
  | .inbox _ _ => 4
  | .inbq _ => 4
  | .rhold _ => 4
  | .rrel _ => 4
  | .rrdy _ _ => 4
  | .lnch _ _ => 4
  | .lstat _ _ => 4
  | .grpq _ _ _ => 4
  | .grpset _ _ _ => 4
  | .trap _ => 4
  | .eret => 4
  | .mfc _ _ => 4
  | .mtc _ _ => 4
  | .idle => 4
  | .brk _ => 4
  | .park _ => 4
  | .xsave _ _ => 4
  | .xload _ _ => 4
  | .addC _ _ => 2
  | .subC _ _ => 2
  | .andC _ _ => 2
  | .orC _ _ => 2
  | .xorC _ _ => 2
  | .sllC _ _ => 2
  | .srlC _ _ => 2
  | .sraC _ _ => 2
  | .movC _ _ => 2
  | .addiC _ _ => 2
  | .slliC _ _ => 2
  | .srliC _ _ => 2
  | .addiX0C _ _ => 2
  | .ldC _ _ _ => 2
  | .sdC _ _ _ => 2
  | .lwC _ _ _ => 2
  | .swC _ _ _ => 2
  | .beqzC _ _ => 2
  | .bnezC _ _ => 2
  | .jC _ => 2
  | .nopC => 2
  | .exitC => 2
  | .yieldC => 2
  | .sevC => 2
  | .vsyncC => 2
  | .splitC => 2
  | .rejoinC => 2
  | .joinC => 2
  | .wfeC _ => 2
  | .waitcC _ => 2
  | .jalrC _ => 2
  | .walkDepart => 0
  | .walkArrival => 0
  | .walkRefusalReturn => 0
  | .walkReissue => 0
  | .resumeMove => 0
  | .exitSlotFree => 0
  | .routineStart => 0
  | .postedStoreLand => 0
  | .storeAnswer => 0
  | .remoteReadServe => 0
  | .readAnswer => 0
  | .atomicPerform => 0
  | .atomicAnswer => 0
  | .refusalTrap => 0
  | .deferredFpxTrap => 0
  | .engineTrap => 0
  | .seqEntryStart => 0
  | .seqEntryComplete => 0
  | .seqEntryStop => 0
  | .vxchgSliceArrival => 0
  | .matrixGrant => 0
  | .matrixCommandComplete => 0
  | .matrixCommandStop => 0
  | .droverJobStart => 0
  | .droverJobComplete => 0
  | .droverCompletionPlace => 0
  | .counterRequest => 0
  | .counterAnswer => 0
  | .counterFire => 0
  | .firingDelivery => 0
  | .counterAddition => 0
  | .poolPop => 0
  | .hurdleArrive => 0
  | .hurdleRootCount => 0
  | .hurdleRelease => 0
  | .timetableEnd => 0
  | .beatSend => 0
  | .beatReceive => 0
  | .treeInject => 0
  | .treeRoundComplete => 0
  | .treeResultPlace => 0
  | .treeExtract => 0
  | .inboxCtrlRemove => 0
  | .watchdogStall => 0
  | .messageArrival => 0
  | .sendmAnswer => 0
  | .trapMessageDelivery => 0
  | .tmrWrite => 0
  | .tmrExpire => 0
  | .gangTimeout => 0
  | .forwardedWord => 0
  | .rejoinNotice => 0
  | .dispatchDistribute => 0
  | .launchPlaced => 0
  | .launchComplete => 0
  | .childCompletionPlace => 0
  | .queueTailWrite => 0
  | .preemptRequest => 0
  | .preemptionPoint => 0
  | .starvInterval => 0
  | .launchEnd => 0
  | .launchEndDone => 0
  | .tileMapMove => 0
  | .tileMapMoveDone => 0
  | .twinPairCompare => 0
  | .twinKeepPrimary => 0
  | .twinKeepTwin => 0
  | .twinEndLaunch => 0
  | .twinNoAction => 0
  | .swapExchange => 0
  | .swapMove => 0
  | .swapStart => 0
  | .swapDone => 0
  | .storageLoss => 0
  | .layerLoss => 0
  | .roleMapRequest => 0
  | .drainLimit => 0
  | .roleFlush => 0
  | .roleReenumerate => 0
  | .packageRequest => 0
  | .tableRead => 0
  | .faultFlush => 0
  | .xinvPage => 0
  | .xinvAll => 0
  | .xinvDone => 0
  | .pkdatWrite => 0
  | .cregSetNx => 0
  | .cregClearNx => 0
  | .xsaveWrite => 0
  | .xloadResume => 0
  | .eccCorrected => 0
  | .corrInterval => 0
  | .uncorrectableData => 0
  | .paddockKill => 0
  | .paddockResetStart => 0
  | .paddockResetEnd => 0
  | .paddockDefine => 0
  | .paddockReadmit => 0
  | .paddockTestEnd => 0
  | .marginFlag => 0
  | .marginWdr => 0
  | .marginRetestStart => 0
  | .marginRetestEnd => 0
  | .symbolMark => 0
  | .softRepairStart => 0
  | .softRepairEnd => 0
  | .frameReceive => 0
  | .fjoicAdmit => 0
  | .holdNotice => 0
  | .fjoicSourceTimeout => 0
  | .multicastReplicate => 0
  | .multicastBranchTimeout => 0
  | .multicastAnswer => 0
  | .fjoicPortDown => 0
  | .stoxisWrite => 0
  | .stoxisRead => 0
  | .mgmtWrite => 0
  | .semaphoreAcquire => 0
  | .semaphoreRelease => 0
  | .stoxisPortDown => 0
  | .grant => 0
  | .revoke => 0
  | .grantDrained => 0
  | .resetCold => 0
  | .resetPackage => 0
  | .resetPort => 0
  | .bootImageCheck => 0
  | .functionReady => 0
  | .functionLost => 0
  | .attestRequest => 0
  | .attestReportDone => 0
  | .keyLoad => 0
  | .keyRemove => 0
  | .partitionCreate => 0
  | .partitionOpened => 0
  | .partitionClose => 0
  | .partitionFreed => 0
  | .layerRetain => 0
  | .powerSample => 0
  | .debugAttach => 0
  | .tileHalt => 0
  | .tileResume => 0
  | .debugRead => 0
  | .groupTableAnswer => 0
  | .decodeTrap => 0
  | .powerOn => 0
  | .mgmtRead => 0
  | .groupMapExchange => 0

/-- The word of an instruction as a number (R77..R99); 0 for a hardware step. -/
def encodeWord : Instr → Nat
  | .add d a b => 1 + d.toNat * 128 + a.toNat * 2048 + b.toNat * 32768
  | .sub d a b => 524289 + d.toNat * 128 + a.toNat * 2048 + b.toNat * 32768
  | .and d a b => 1048577 + d.toNat * 128 + a.toNat * 2048 + b.toNat * 32768
  | .or d a b => 1572865 + d.toNat * 128 + a.toNat * 2048 + b.toNat * 32768
  | .xor d a b => 2097153 + d.toNat * 128 + a.toNat * 2048 + b.toNat * 32768
  | .andn d a b => 2621441 + d.toNat * 128 + a.toNat * 2048 + b.toNat * 32768
  | .orn d a b => 3145729 + d.toNat * 128 + a.toNat * 2048 + b.toNat * 32768
  | .sll d a b => 4194305 + d.toNat * 128 + a.toNat * 2048 + b.toNat * 32768
  | .srl d a b => 4718593 + d.toNat * 128 + a.toNat * 2048 + b.toNat * 32768
  | .sra d a b => 5242881 + d.toNat * 128 + a.toNat * 2048 + b.toNat * 32768
  | .rol d a b => 5767169 + d.toNat * 128 + a.toNat * 2048 + b.toNat * 32768
  | .ror d a b => 6291457 + d.toNat * 128 + a.toNat * 2048 + b.toNat * 32768
  | .slt d a b => 8388609 + d.toNat * 128 + a.toNat * 2048 + b.toNat * 32768
  | .sltu d a b => 8912897 + d.toNat * 128 + a.toNat * 2048 + b.toNat * 32768
  | .seq d a b => 9437185 + d.toNat * 128 + a.toNat * 2048 + b.toNat * 32768
  | .sne d a b => 9961473 + d.toNat * 128 + a.toNat * 2048 + b.toNat * 32768
  | .min d a b => 10485761 + d.toNat * 128 + a.toNat * 2048 + b.toNat * 32768
  | .max d a b => 11010049 + d.toNat * 128 + a.toNat * 2048 + b.toNat * 32768
  | .minu d a b => 11534337 + d.toNat * 128 + a.toNat * 2048 + b.toNat * 32768
  | .maxu d a b => 12058625 + d.toNat * 128 + a.toNat * 2048 + b.toNat * 32768
  | .mul d a b => 12582913 + d.toNat * 128 + a.toNat * 2048 + b.toNat * 32768
  | .mulxs d a b => 13107201 + d.toNat * 128 + a.toNat * 2048 + b.toNat * 32768
  | .mulxn d a b => 13631489 + d.toNat * 128 + a.toNat * 2048 + b.toNat * 32768
  | .mulxsn d a b => 14155777 + d.toNat * 128 + a.toNat * 2048 + b.toNat * 32768
  | .div d a b => 14680065 + d.toNat * 128 + a.toNat * 2048 + b.toNat * 32768
  | .divu d a b => 15204353 + d.toNat * 128 + a.toNat * 2048 + b.toNat * 32768
  | .rem d a b => 15728641 + d.toNat * 128 + a.toNat * 2048 + b.toNat * 32768
  | .remu d a b => 16252929 + d.toNat * 128 + a.toNat * 2048 + b.toNat * 32768
  | .clz d a => 16777217 + d.toNat * 128 + a.toNat * 2048
  | .ctz d a => 17301505 + d.toNat * 128 + a.toNat * 2048
  | .popc d a => 17825793 + d.toNat * 128 + a.toNat * 2048
  | .brev d a => 18350081 + d.toNat * 128 + a.toNat * 2048
  | .bswap d a => 18874369 + d.toNat * 128 + a.toNat * 2048
  | .sext d a w => 19398657 + d.toNat * 128 + a.toNat * 2048 + w.toNat * 67108864
  | .zext d a w => 19922945 + d.toNat * 128 + a.toNat * 2048 + w.toNat * 67108864
  | .csel d c a b k => 20971521 + d.toNat * 128 + c.toNat * 67108864 + a.toNat * 2048 + b.toNat * 32768 + k.toNat * 1073741824
  | .mov d a => 25165825 + d.toNat * 128 + a.toNat * 2048
  | .addi d a i => 3 + d.toNat * 128 + a.toNat * 2048 + i.toNat * 32768
  | .andi d a i => 5 + d.toNat * 128 + a.toNat * 2048 + i.toNat * 32768
  | .ori d a i => 7 + d.toNat * 128 + a.toNat * 2048 + i.toNat * 32768
  | .xori d a i => 9 + d.toNat * 128 + a.toNat * 2048 + i.toNat * 32768
  | .slti d a i => 11 + d.toNat * 128 + a.toNat * 2048 + i.toNat * 32768
  | .slli d a n => 13 + d.toNat * 128 + a.toNat * 2048 + n.toNat * 32768
  | .srli d a n => 2097165 + d.toNat * 128 + a.toNat * 2048 + n.toNat * 32768
  | .srai d a n => 4194317 + d.toNat * 128 + a.toNat * 2048 + n.toNat * 32768
  | .lui d i => 15 + d.toNat * 128 + i.toNat * 32768
  | .pchi d i => 17 + d.toNat * 128 + i.toNat * 32768
  | .movk d i => 19 + d.toNat * 128 + i.toNat * 32768
  | .movfk d a => 21 + d.toNat * 128 + a.toNat * 2048
  | .acomp d a b w => 524309 + d.toNat * 128 + a.toNat * 2048 + b.toNat * 32768 + w.toNat * 67108864
  | .adec d a => 1048597 + d.toNat * 128 + a.toNat * 2048
  | .kget d a => 1572885 + d.toNat * 128 + a.toNat * 2048
  | .bfx d a l p => 23 + d.toNat * 128 + a.toNat * 2048 + l.toNat * 2097152 + p.toNat * 32768
  | .bfxu d a l p => 134217751 + d.toNat * 128 + a.toNat * 2048 + l.toNat * 2097152 + p.toNat * 32768
  | .bfi d a l p => 268435479 + d.toNat * 128 + a.toNat * 2048 + l.toNat * 2097152 + p.toNat * 32768
  | .nop  => 31
  | .beq a b o => 33 + a.toNat * 2048 + b.toNat * 32768 + o.toNat / 16 * 524288 + o.toNat % 16 * 128
  | .bne a b o => 33 + a.toNat * 2048 + b.toNat * 32768 + o.toNat / 16 * 524288 + o.toNat % 16 * 128
  | .blt a b o => 35 + a.toNat * 2048 + b.toNat * 32768 + o.toNat / 16 * 524288 + o.toNat % 16 * 128
  | .bge a b o => 37 + a.toNat * 2048 + b.toNat * 32768 + o.toNat / 16 * 524288 + o.toNat % 16 * 128
  | .bltu a b o => 39 + a.toNat * 2048 + b.toNat * 32768 + o.toNat / 16 * 524288 + o.toNat % 16 * 128
  | .bgeu a b o => 41 + a.toNat * 2048 + b.toNat * 32768 + o.toNat / 16 * 524288 + o.toNat % 16 * 128
  | .jal d o => 43 + d.toNat * 128 + o.toNat * 2048
  | .jalr d s o => 34849 + d.toNat * 128 + s.toNat * 524288 + o.toNat * 8388608
  | .loop c l => 69665 + c.toNat * 128 + l.toNat * 524288
  | .loopi l n => 104481 + l.toNat * 134217728 + n.toNat / 16 * 524288 + n.toNat % 16 * 128
  | .gang d c r => 139297 + d.toNat * 128 + c.toNat * 4194304 + r.toNat * 524288
  | .join  => 174113
  | .split  => 208929
  | .rejoin  => 243745
  | .wfe d => 278561 + d.toNat * 128
  | .sev  => 313377
  | .yield  => 348193
  | .exit  => 383009
  | .lb d a b i w => 45 + d.toNat * 128 + a.toNat * 2048 + b.toNat * 32768 + i.toNat * 16777216 + w.toNat * 4194304
  | .lh d a b i w => 524333 + d.toNat * 128 + a.toNat * 2048 + b.toNat * 32768 + i.toNat * 16777216 + w.toNat * 4194304
  | .lw d a b i w => 1048621 + d.toNat * 128 + a.toNat * 2048 + b.toNat * 32768 + i.toNat * 16777216 + w.toNat * 4194304
  | .ld d a b i w => 1572909 + d.toNat * 128 + a.toNat * 2048 + b.toNat * 32768 + i.toNat * 16777216 + w.toNat * 4194304
  | .ldp d a b i w => 2097197 + d.toNat * 256 + a.toNat * 2048 + b.toNat * 32768 + i.toNat * 16777216 + w.toNat * 4194304
  | .lbu d a b i w => 47 + d.toNat * 128 + a.toNat * 2048 + b.toNat * 32768 + i.toNat * 16777216 + w.toNat * 4194304
  | .lhu d a b i w => 524335 + d.toNat * 128 + a.toNat * 2048 + b.toNat * 32768 + i.toNat * 16777216 + w.toNat * 4194304
  | .lwu d a b i w => 1048623 + d.toNat * 128 + a.toNat * 2048 + b.toNat * 32768 + i.toNat * 16777216 + w.toNat * 4194304
  | .sb d a b i w => 49 + d.toNat * 128 + a.toNat * 2048 + b.toNat * 32768 + i.toNat * 16777216 + w.toNat * 4194304
  | .sh d a b i w => 524337 + d.toNat * 128 + a.toNat * 2048 + b.toNat * 32768 + i.toNat * 16777216 + w.toNat * 4194304
  | .sw d a b i w => 1048625 + d.toNat * 128 + a.toNat * 2048 + b.toNat * 32768 + i.toNat * 16777216 + w.toNat * 4194304
  | .sd d a b i w => 1572913 + d.toNat * 128 + a.toNat * 2048 + b.toNat * 32768 + i.toNat * 16777216 + w.toNat * 4194304
  | .sdp d a b i w => 2097201 + d.toNat * 256 + a.toNat * 2048 + b.toNat * 32768 + i.toNat * 16777216 + w.toNat * 4194304
  | .waitc f => 51 + f.toNat * 268435456
  | .walk a => 524339 + a.toNat * 2048
  | .whereOp d a => 1048627 + d.toNat * 128 + a.toNat * 2048
  | .amoadd d s a b w n => 53 + d.toNat * 128 + s.toNat * 67108864 + a.toNat * 2048 + b.toNat * 32768 + w.toNat * 268435456 + n.toNat * 134217728
  | .amoand d s a b w n => 524341 + d.toNat * 128 + s.toNat * 67108864 + a.toNat * 2048 + b.toNat * 32768 + w.toNat * 268435456 + n.toNat * 134217728
  | .amoor d s a b w n => 1048629 + d.toNat * 128 + s.toNat * 67108864 + a.toNat * 2048 + b.toNat * 32768 + w.toNat * 268435456 + n.toNat * 134217728
  | .amoxor d s a b w n => 1572917 + d.toNat * 128 + s.toNat * 67108864 + a.toNat * 2048 + b.toNat * 32768 + w.toNat * 268435456 + n.toNat * 134217728
  | .amomin d s a b w n => 2097205 + d.toNat * 128 + s.toNat * 67108864 + a.toNat * 2048 + b.toNat * 32768 + w.toNat * 268435456 + n.toNat * 134217728
  | .amomax d s a b w n => 2621493 + d.toNat * 128 + s.toNat * 67108864 + a.toNat * 2048 + b.toNat * 32768 + w.toNat * 268435456 + n.toNat * 134217728
  | .amominu d s a b w n => 3145781 + d.toNat * 128 + s.toNat * 67108864 + a.toNat * 2048 + b.toNat * 32768 + w.toNat * 268435456 + n.toNat * 134217728
  | .amomaxu d s a b w n => 3670069 + d.toNat * 128 + s.toNat * 67108864 + a.toNat * 2048 + b.toNat * 32768 + w.toNat * 268435456 + n.toNat * 134217728
  | .amoswp d s a b w n => 4194357 + d.toNat * 128 + s.toNat * 67108864 + a.toNat * 2048 + b.toNat * 32768 + w.toNat * 268435456 + n.toNat * 134217728
  | .amocas d s a b w n => 4718645 + d.toNat * 128 + s.toNat * 67108864 + a.toNat * 2048 + b.toNat * 32768 + w.toNat * 268435456 + n.toNat * 134217728
  | .amofadd d s a b r w n => 8388661 + d.toNat * 128 + s.toNat * 67108864 + a.toNat * 2048 + b.toNat * 32768 + r.toNat * 1073741824 + w.toNat * 268435456 + n.toNat * 134217728
  | .fadd d a b y r p => 65 + d.toNat * 128 + a.toNat * 2048 + b.toNat * 32768 + y.toNat * 1073741824 + r.toNat * 268435456 + p.toNat * 67108864
  | .fsub d a b y r p => 524353 + d.toNat * 128 + a.toNat * 2048 + b.toNat * 32768 + y.toNat * 1073741824 + r.toNat * 268435456 + p.toNat * 67108864
  | .fmul d a b y r p => 1048641 + d.toNat * 128 + a.toNat * 2048 + b.toNat * 32768 + y.toNat * 1073741824 + r.toNat * 268435456 + p.toNat * 67108864
  | .fdiv d a b y r p => 1572929 + d.toNat * 128 + a.toNat * 2048 + b.toNat * 32768 + y.toNat * 1073741824 + r.toNat * 268435456 + p.toNat * 67108864
  | .fsqrt d a y r p => 2097217 + d.toNat * 128 + a.toNat * 2048 + y.toNat * 1073741824 + r.toNat * 268435456 + p.toNat * 67108864
  | .fmin d a b p => 2621505 + d.toNat * 128 + a.toNat * 2048 + b.toNat * 32768 + p.toNat * 67108864
  | .fmax d a b p => 3145793 + d.toNat * 128 + a.toNat * 2048 + b.toNat * 32768 + p.toNat * 67108864
  | .fabs d a p => 3670081 + d.toNat * 128 + a.toNat * 2048 + p.toNat * 67108864
  | .fneg d a p => 4194369 + d.toNat * 128 + a.toNat * 2048 + p.toNat * 67108864
  | .fsgnj d a b p => 4718657 + d.toNat * 128 + a.toNat * 2048 + b.toNat * 32768 + p.toNat * 67108864
  | .fcmpEq d a b p => 5242945 + d.toNat * 128 + a.toNat * 2048 + b.toNat * 32768 + p.toNat * 67108864
  | .fcmpNe d a b p => 5767233 + d.toNat * 128 + a.toNat * 2048 + b.toNat * 32768 + p.toNat * 67108864
  | .fcmpLt d a b p => 6291521 + d.toNat * 128 + a.toNat * 2048 + b.toNat * 32768 + p.toNat * 67108864
  | .fcmpLe d a b p => 6815809 + d.toNat * 128 + a.toNat * 2048 + b.toNat * 32768 + p.toNat * 67108864
  | .fcmpUn d a b p => 7340097 + d.toNat * 128 + a.toNat * 2048 + b.toNat * 32768 + p.toNat * 67108864
  | .fclass d a p => 8388673 + d.toNat * 128 + a.toNat * 2048 + p.toNat * 67108864
  | .frcp d a y r p => 8912961 + d.toNat * 128 + a.toNat * 2048 + y.toNat * 1073741824 + r.toNat * 268435456 + p.toNat * 67108864
  | .frsq d a y r p => 9437249 + d.toNat * 128 + a.toNat * 2048 + y.toNat * 1073741824 + r.toNat * 268435456 + p.toNat * 67108864
  | .frcpn d a b y r p => 9961537 + d.toNat * 128 + a.toNat * 2048 + b.toNat * 32768 + y.toNat * 1073741824 + r.toNat * 268435456 + p.toNat * 67108864
  | .frsqn d a b y r p => 10485825 + d.toNat * 128 + a.toNat * 2048 + b.toNat * 32768 + y.toNat * 1073741824 + r.toNat * 268435456 + p.toNat * 67108864
  | .fma d a b y r p => 12582977 + d.toNat * 128 + a.toNat * 2048 + b.toNat * 32768 + y.toNat * 1073741824 + r.toNat * 268435456 + p.toNat * 67108864
  | .fms d a b y r p => 13107265 + d.toNat * 128 + a.toNat * 2048 + b.toNat * 32768 + y.toNat * 1073741824 + r.toNat * 268435456 + p.toNat * 67108864
  | .fnma d a b y r p => 13631553 + d.toNat * 128 + a.toNat * 2048 + b.toNat * 32768 + y.toNat * 1073741824 + r.toNat * 268435456 + p.toNat * 67108864
  | .fcvt d s a y r p => 67 + d.toNat * 128 + s.toNat * 524288 + a.toNat * 2048 + y.toNat * 1073741824 + r.toNat * 268435456 + p.toNat * 67108864
  | .fcvti d a y r p t => 4194371 + d.toNat * 128 + a.toNat * 2048 + y.toNat * 1073741824 + r.toNat * 268435456 + p.toNat * 67108864 + t.toNat * 524288
  | .icvtf d a y r p t => 8388675 + d.toNat * 128 + a.toNat * 2048 + y.toNat * 1073741824 + r.toNat * 268435456 + p.toNat * 67108864 + t.toNat * 524288
  | .vadd d a b r t => 81 + d.toNat * 128 + a.toNat * 2048 + b.toNat * 32768 + r.toNat * 1073741824 + t.toNat * 67108864
  | .vsub d a b r t => 524369 + d.toNat * 128 + a.toNat * 2048 + b.toNat * 32768 + r.toNat * 1073741824 + t.toNat * 67108864
  | .vmul d a b r t => 1048657 + d.toNat * 128 + a.toNat * 2048 + b.toNat * 32768 + r.toNat * 1073741824 + t.toNat * 67108864
  | .vfma d a b r t => 1572945 + d.toNat * 128 + a.toNat * 2048 + b.toNat * 32768 + r.toNat * 1073741824 + t.toNat * 67108864
  | .vmin d a b t => 2097233 + d.toNat * 128 + a.toNat * 2048 + b.toNat * 32768 + t.toNat * 67108864
  | .vmax d a b t => 2621521 + d.toNat * 128 + a.toNat * 2048 + b.toNat * 32768 + t.toNat * 67108864
  | .vabs d a r t => 3145809 + d.toNat * 128 + a.toNat * 2048 + r.toNat * 1073741824 + t.toNat * 67108864
  | .vneg d a r t => 3670097 + d.toNat * 128 + a.toNat * 2048 + r.toNat * 1073741824 + t.toNat * 67108864
  | .vdiv d a b r t => 4194385 + d.toNat * 128 + a.toNat * 2048 + b.toNat * 32768 + r.toNat * 1073741824 + t.toNat * 67108864
  | .vsqrt d a r t => 4718673 + d.toNat * 128 + a.toNat * 2048 + r.toNat * 1073741824 + t.toNat * 67108864
  | .vrcp d a r t => 5242961 + d.toNat * 128 + a.toNat * 2048 + r.toNat * 1073741824 + t.toNat * 67108864
  | .vrsq d a r t => 5767249 + d.toNat * 128 + a.toNat * 2048 + r.toNat * 1073741824 + t.toNat * 67108864
  | .vrcpn d a b r t => 6291537 + d.toNat * 128 + a.toNat * 2048 + b.toNat * 32768 + r.toNat * 1073741824 + t.toNat * 67108864
  | .vrsqn d a b r t => 6815825 + d.toNat * 128 + a.toNat * 2048 + b.toNat * 32768 + r.toNat * 1073741824 + t.toNat * 67108864
  | .vexp2 d a r t => 7340113 + d.toNat * 128 + a.toNat * 2048 + r.toNat * 1073741824 + t.toNat * 67108864
  | .vlog2 d a r t => 7864401 + d.toNat * 128 + a.toNat * 2048 + r.toNat * 1073741824 + t.toNat * 67108864
  | .vand d a b t => 8388689 + d.toNat * 128 + a.toNat * 2048 + b.toNat * 32768 + t.toNat * 67108864
  | .vor d a b t => 8912977 + d.toNat * 128 + a.toNat * 2048 + b.toNat * 32768 + t.toNat * 67108864
  | .vxor d a b t => 9437265 + d.toNat * 128 + a.toNat * 2048 + b.toNat * 32768 + t.toNat * 67108864
  | .vshl d a b t => 9961553 + d.toNat * 128 + a.toNat * 2048 + b.toNat * 32768 + t.toNat * 67108864
  | .vshr d a b t => 10485841 + d.toNat * 128 + a.toNat * 2048 + b.toNat * 32768 + t.toNat * 67108864
  | .vcmpEq d a b t => 12582993 + d.toNat * 128 + a.toNat * 2048 + b.toNat * 32768 + t.toNat * 67108864
  | .vcmpNe d a b t => 13107281 + d.toNat * 128 + a.toNat * 2048 + b.toNat * 32768 + t.toNat * 67108864
  | .vcmpLt d a b t => 13631569 + d.toNat * 128 + a.toNat * 2048 + b.toNat * 32768 + t.toNat * 67108864
  | .vcmpLe d a b t => 14155857 + d.toNat * 128 + a.toNat * 2048 + b.toNat * 32768 + t.toNat * 67108864
  | .vcmpUn d a b t => 14680145 + d.toNat * 128 + a.toNat * 2048 + b.toNat * 32768 + t.toNat * 67108864
  | .vsel d a b t => 16777297 + d.toNat * 128 + a.toNat * 2048 + b.toNat * 32768 + t.toNat * 67108864
  | .vcopy d a t => 17301585 + d.toNat * 128 + a.toNat * 2048 + t.toNat * 67108864
  | .vcvt d a r t => 17825873 + d.toNat * 128 + a.toNat * 2048 + r.toNat * 1073741824 + t.toNat * 67108864
  | .vreds d a r t => 83 + d.toNat * 128 + a.toNat * 2048 + r.toNat * 1073741824 + t.toNat * 67108864
  | .vredmMin d a t => 524371 + d.toNat * 128 + a.toNat * 2048 + t.toNat * 67108864
  | .vredmMax d a t => 1048659 + d.toNat * 128 + a.toNat * 2048 + t.toNat * 67108864
  | .vscan d a r t => 1572947 + d.toNat * 128 + a.toNat * 2048 + r.toNat * 1073741824 + t.toNat * 67108864
  | .vdot d a b t => 2097235 + d.toNat * 128 + a.toNat * 2048 + b.toNat * 32768 + t.toNat * 67108864
  | .vfold d a t => 2621523 + d.toNat * 128 + a.toNat * 2048 + t.toNat * 67108864
  | .vunf d a r t => 3145811 + d.toNat * 128 + a.toNat * 2048 + r.toNat * 1073741824 + t.toNat * 67108864
  | .viota d r t => 3670099 + d.toNat * 128 + r.toNat * 1073741824 + t.toNat * 67108864
  | .vgath d a b t => 85 + d.toNat * 128 + a.toNat * 2048 + b.toNat * 32768 + t.toNat * 67108864
  | .vscat d a b t => 524373 + d.toNat * 128 + a.toNat * 2048 + b.toNat * 32768 + t.toNat * 67108864
  | .vperm d a b t => 1048661 + d.toNat * 128 + a.toNat * 2048 + b.toNat * 32768 + t.toNat * 67108864
  | .vxchg d a t => 1572949 + d.toNat * 128 + a.toNat * 2048 + t.toNat * 67108864
  | .vfill d a t => 2097237 + d.toNat * 128 + a.toNat * 2048 + t.toNat * 67108864
  | .vshape d a => 87 + d.toNat * 128 + a.toNat * 2048
  | .vloop a n => 524375 + a.toNat * 2048 + n.toNat * 128
  | .vsync  => 1048663
  | .mldb a x t => 105 + a.toNat * 2048 + x.toNat * 536870912 + t.toNat * 268435456
  | .mma d a => 524393 + d.toNat * 128 + a.toNat * 2048
  | .mmap d a => 1048681 + d.toNat * 128 + a.toNat * 2048
  | .mzro d => 1572969 + d.toNat * 128
  | .mrnd d a r => 2097257 + d.toNat * 128 + a.toNat * 2048 + r.toNat * 268435456
  | .mstat d => 2621545 + d.toNat * 128
  | .mpoll d => 3145833 + d.toNat * 128
  | .mwait a => 3670121 + a.toNat * 2048
  | .mwgt w => 4194409 + w.toNat * 268435456
  | .dset a n => 113 + a.toNat * 2048 + n.toNat * 128
  | .dgo d => 524401 + d.toNat * 128
  | .dpoll d a => 1048689 + d.toNat * 128 + a.toNat * 2048
  | .dwait a => 1572977 + a.toNat * 2048
  | .dkill d a => 2097265 + d.toNat * 128 + a.toNat * 2048
  | .dmcst d a b => 2621553 + d.toNat * 128 + a.toNat * 2048 + b.toNat * 32768
  | .sbind d a => 115 + d.toNat * 128 + a.toNat * 2048
  | .sunb d => 524403 + d.toNat * 128
  | .acarm d a b => 1048691 + d.toNat * 128 + a.toNat * 2048 + b.toNat * 32768
  | .acrd d a => 1572979 + d.toNat * 128 + a.toNat * 2048
  | .acdis d a => 2097267 + d.toNat * 128 + a.toNat * 2048
  | .acchn d a b => 2621555 + d.toNat * 128 + a.toNat * 2048 + b.toNat * 32768
  | .harvAdd a b m l => 121 + a.toNat * 2048 + b.toNat * 32768 + m.toNat * 1073741824 + l.toNat * 268435456
  | .harvAnd a b m l => 524409 + a.toNat * 2048 + b.toNat * 32768 + m.toNat * 1073741824 + l.toNat * 268435456
  | .harvOr a b m l => 1048697 + a.toNat * 2048 + b.toNat * 32768 + m.toNat * 1073741824 + l.toNat * 268435456
  | .harvXor a b m l => 1572985 + a.toNat * 2048 + b.toNat * 32768 + m.toNat * 1073741824 + l.toNat * 268435456
  | .harvMin a b m l => 2097273 + a.toNat * 2048 + b.toNat * 32768 + m.toNat * 1073741824 + l.toNat * 268435456
  | .harvMax a b m l => 2621561 + a.toNat * 2048 + b.toNat * 32768 + m.toNat * 1073741824 + l.toNat * 268435456
  | .harvMinu a b m l => 3145849 + a.toNat * 2048 + b.toNat * 32768 + m.toNat * 1073741824 + l.toNat * 268435456
  | .harvMaxu a b m l => 3670137 + a.toNat * 2048 + b.toNat * 32768 + m.toNat * 1073741824 + l.toNat * 268435456
  | .harn m l => 4194425 + m.toNat * 1073741824 + l.toNat * 268435456
  | .hdrop m l => 4718713 + m.toNat * 1073741824 + l.toNat * 268435456
  | .hwt d m l => 5243001 + d.toNat * 128 + m.toNat * 1073741824 + l.toNat * 268435456
  | .hqry d m l => 5767289 + d.toNat * 128 + m.toNat * 1073741824 + l.toNat * 268435456
  | .hxend l => 543162489 + l.toNat * 268435456
  | .ttgo a l => 8388729 + a.toNat * 2048 + l.toNat * 268435456
  | .ttsts d l => 8913017 + d.toNat * 128 + l.toNat * 268435456
  | .sendm d a b => 123 + d.toNat * 128 + a.toNat * 2048 + b.toNat * 32768
  | .inbox d a => 524411 + d.toNat * 128 + a.toNat * 2048
  | .inbq d => 1048699 + d.toNat * 128
  | .rhold a => 1572987 + a.toNat * 2048
  | .rrel a => 2097275 + a.toNat * 2048
  | .rrdy a b => 2621563 + a.toNat * 2048 + b.toNat * 32768
  | .lnch d a => 125 + d.toNat * 128 + a.toNat * 2048
  | .lstat d a => 524413 + d.toNat * 128 + a.toNat * 2048
  | .grpq d a b => 1048701 + d.toNat * 128 + a.toNat * 2048 + b.toNat * 32768
  | .grpset d a b => 1572989 + d.toNat * 128 + a.toNat * 2048 + b.toNat * 32768
  | .trap n => 127 + n.toNat * 2048
  | .eret  => 524415
  | .mfc d c => 1048703 + d.toNat * 128 + c.toNat / 256 * 268435456 + c.toNat % 256 * 2048
  | .mtc c s => 1572991 + c.toNat / 256 * 268435456 + c.toNat % 256 * 2048 + s.toNat * 128
  | .idle  => 2097279
  | .brk n => 2621567 + n.toNat * 2048
  | .park a => 3145855 + a.toNat * 2048
  | .xsave a b => 3670143 + a.toNat * 2048 + b.toNat * 32768
  | .xload a b => 4194431 + a.toNat * 2048 + b.toNat * 32768
  | .addC d b => 2 + d.toNat * 64 + b.toNat * 1024
  | .subC d b => 16386 + d.toNat * 64 + b.toNat * 1024
  | .andC d b => 32770 + d.toNat * 64 + b.toNat * 1024
  | .orC d b => 49154 + d.toNat * 64 + b.toNat * 1024
  | .xorC d b => 4 + d.toNat * 64 + b.toNat * 1024
  | .sllC d b => 16388 + d.toNat * 64 + b.toNat * 1024
  | .srlC d b => 32772 + d.toNat * 64 + b.toNat * 1024
  | .sraC d b => 49156 + d.toNat * 64 + b.toNat * 1024
  | .movC d b => 6 + d.toNat * 64 + b.toNat * 1024
  | .addiC d i => 16390 + d.toNat * 64 + i.toNat * 1024
  | .slliC d n => 32774 + d.toNat * 64 + n.toNat * 1024
  | .srliC d n => 49158 + d.toNat * 64 + n.toNat * 1024
  | .addiX0C d i => 8 + d.toNat * 64 + i.toNat * 1024
  | .ldC d s b => 10 + d.toNat * 64 + s.toNat * 16384 + b.toNat * 1024
  | .sdC d s b => 12 + d.toNat * 64 + s.toNat * 16384 + b.toNat * 1024
  | .lwC d s b => 14 + d.toNat * 64 + s.toNat * 16384 + b.toNat * 1024
  | .swC d s b => 16 + d.toNat * 64 + s.toNat * 16384 + b.toNat * 1024
  | .beqzC d o => 18 + d.toNat * 64 + o.toNat * 1024
  | .bnezC d o => 20 + d.toNat * 64 + o.toNat * 1024
  | .jC o => 22 + o.toNat * 64
  | .nopC  => 24
  | .exitC  => 88
  | .yieldC  => 152
  | .sevC  => 216
  | .vsyncC  => 280
  | .splitC  => 344
  | .rejoinC  => 408
  | .joinC  => 472
  | .wfeC d => 16408 + d.toNat * 64
  | .waitcC m => 32792 + m.toNat * 1024
  | .jalrC d => 49176 + d.toNat * 64
  | .walkDepart => 0
  | .walkArrival => 0
  | .walkRefusalReturn => 0
  | .walkReissue => 0
  | .resumeMove => 0
  | .exitSlotFree => 0
  | .routineStart => 0
  | .postedStoreLand => 0
  | .storeAnswer => 0
  | .remoteReadServe => 0
  | .readAnswer => 0
  | .atomicPerform => 0
  | .atomicAnswer => 0
  | .refusalTrap => 0
  | .deferredFpxTrap => 0
  | .engineTrap => 0
  | .seqEntryStart => 0
  | .seqEntryComplete => 0
  | .seqEntryStop => 0
  | .vxchgSliceArrival => 0
  | .matrixGrant => 0
  | .matrixCommandComplete => 0
  | .matrixCommandStop => 0
  | .droverJobStart => 0
  | .droverJobComplete => 0
  | .droverCompletionPlace => 0
  | .counterRequest => 0
  | .counterAnswer => 0
  | .counterFire => 0
  | .firingDelivery => 0
  | .counterAddition => 0
  | .poolPop => 0
  | .hurdleArrive => 0
  | .hurdleRootCount => 0
  | .hurdleRelease => 0
  | .timetableEnd => 0
  | .beatSend => 0
  | .beatReceive => 0
  | .treeInject => 0
  | .treeRoundComplete => 0
  | .treeResultPlace => 0
  | .treeExtract => 0
  | .inboxCtrlRemove => 0
  | .watchdogStall => 0
  | .messageArrival => 0
  | .sendmAnswer => 0
  | .trapMessageDelivery => 0
  | .tmrWrite => 0
  | .tmrExpire => 0
  | .gangTimeout => 0
  | .forwardedWord => 0
  | .rejoinNotice => 0
  | .dispatchDistribute => 0
  | .launchPlaced => 0
  | .launchComplete => 0
  | .childCompletionPlace => 0
  | .queueTailWrite => 0
  | .preemptRequest => 0
  | .preemptionPoint => 0
  | .starvInterval => 0
  | .launchEnd => 0
  | .launchEndDone => 0
  | .tileMapMove => 0
  | .tileMapMoveDone => 0
  | .twinPairCompare => 0
  | .twinKeepPrimary => 0
  | .twinKeepTwin => 0
  | .twinEndLaunch => 0
  | .twinNoAction => 0
  | .swapExchange => 0
  | .swapMove => 0
  | .swapStart => 0
  | .swapDone => 0
  | .storageLoss => 0
  | .layerLoss => 0
  | .roleMapRequest => 0
  | .drainLimit => 0
  | .roleFlush => 0
  | .roleReenumerate => 0
  | .packageRequest => 0
  | .tableRead => 0
  | .faultFlush => 0
  | .xinvPage => 0
  | .xinvAll => 0
  | .xinvDone => 0
  | .pkdatWrite => 0
  | .cregSetNx => 0
  | .cregClearNx => 0
  | .xsaveWrite => 0
  | .xloadResume => 0
  | .eccCorrected => 0
  | .corrInterval => 0
  | .uncorrectableData => 0
  | .paddockKill => 0
  | .paddockResetStart => 0
  | .paddockResetEnd => 0
  | .paddockDefine => 0
  | .paddockReadmit => 0
  | .paddockTestEnd => 0
  | .marginFlag => 0
  | .marginWdr => 0
  | .marginRetestStart => 0
  | .marginRetestEnd => 0
  | .symbolMark => 0
  | .softRepairStart => 0
  | .softRepairEnd => 0
  | .frameReceive => 0
  | .fjoicAdmit => 0
  | .holdNotice => 0
  | .fjoicSourceTimeout => 0
  | .multicastReplicate => 0
  | .multicastBranchTimeout => 0
  | .multicastAnswer => 0
  | .fjoicPortDown => 0
  | .stoxisWrite => 0
  | .stoxisRead => 0
  | .mgmtWrite => 0
  | .semaphoreAcquire => 0
  | .semaphoreRelease => 0
  | .stoxisPortDown => 0
  | .grant => 0
  | .revoke => 0
  | .grantDrained => 0
  | .resetCold => 0
  | .resetPackage => 0
  | .resetPort => 0
  | .bootImageCheck => 0
  | .functionReady => 0
  | .functionLost => 0
  | .attestRequest => 0
  | .attestReportDone => 0
  | .keyLoad => 0
  | .keyRemove => 0
  | .partitionCreate => 0
  | .partitionOpened => 0
  | .partitionClose => 0
  | .partitionFreed => 0
  | .layerRetain => 0
  | .powerSample => 0
  | .debugAttach => 0
  | .tileHalt => 0
  | .tileResume => 0
  | .debugRead => 0
  | .groupTableAnswer => 0
  | .decodeTrap => 0
  | .powerOn => 0
  | .mgmtRead => 0
  | .groupMapExchange => 0

/-- The bytes of an instruction as they stand in memory (R76); none for a hardware step. -/
def encode (i : Instr) : List Byte := leBytes (wordBytes i) (encodeWord i)

end Sys2Proof
end

