-- ==== Sys2Proof/Machine/State.lean ====
section
/-! DEFINITION. State: everything the spec gives the KE-82 package, as plain data, and its value at reset.

The machine is the whole package. What exists in thousands of copies (tiles, slots, entries) stands in sparse tables: a list
of key and value pairs, where an unlisted key has the value of a fresh unit. A tile's key is (die * 128 + row) * 160 + col with
its compute die as 4 * stack + its place in the stack; a pen's, group's and die's key are numbers computed in Machine/Ops. -/

namespace Sys2Proof.Machine

/-- A sparse table: an unlisted key has a default value that the reader names. -/
abbrev Tbl (α : Type) := List (Nat × α)

/-- The value at a key, or the default. -/
def tget {α : Type} (d : α) : Tbl α → Nat → α
  | [], _ => d
  | (j, v) :: r, k => if j = k then v else tget d r k

/-- The value at a key, if listed. -/
def tget? {α : Type} : Tbl α → Nat → Option α
  | [], _ => none
  | (j, v) :: r, k => if j = k then some v else tget? r k

/-- Write a key, keeping the keys in rising order. -/
def tset {α : Type} : Tbl α → Nat → α → Tbl α
  | [], k, v => [(k, v)]
  | (j, w) :: r, k, v =>
    if j = k then (k, v) :: r else if k < j then (k, v) :: (j, w) :: r else (j, w) :: tset r k v

/-- Remove a key. -/
def terase {α : Type} (t : Tbl α) (k : Nat) : Tbl α := t.filter fun p => p.1 != k

/-- The causes of R361. -/
inductive Cause where
  | ill | priv | align | window | exch | page | perm | fetch | poison | slot | hover | remap | nak | stall | fpx
  | trap | brk | park
  deriving DecidableEq, Repr

/-- The 8-bit code of a cause (R361). -/
def Cause.code : Cause → Nat
  | .ill => 1 | .priv => 2 | .align => 3 | .window => 4 | .exch => 5 | .page => 6 | .perm => 7 | .fetch => 8
  | .poison => 9 | .slot => 10 | .hover => 11 | .remap => 12 | .nak => 13 | .stall => 14 | .fpx => 15 | .trap => 16
  | .brk => 17 | .park => 18

/-- The states of a context slot (R11). -/
inductive SlotState where
  | free | run | block | sleep | park | out
  deriving DecidableEq, Repr

/-- A hardware loop entry (R122). -/
structure LoopEntry where
  start : Word
  stop : Word
  remaining : BitVec 32
  deriving DecidableEq, Repr

/-- A refused posted store the thread has not yet taken (R154). -/
structure RefusalRec where
  addr : Word
  size : Nat
  cause : Cause
  overflow : Bool
  deriving DecidableEq, Repr

/-- An engine error the thread has not yet taken: matrix or sequencer, cause, the entry's pc, the granule (R174, R197). -/
structure EngineErr where
  matrix : Bool
  cause : Cause
  pc : Word
  addr : Word
  deriving DecidableEq, Repr

/-- The fetch line a thread holds: its address, its bytes and the poisoned granules among them (R365). -/
structure FetchLine where
  base : Word
  bytes : List Byte
  poison : List Nat
  deriving DecidableEq, Repr

/-- A word the bellwether forwarded, with its pc, its next pc and the cycle from which a follower may take it (R127). -/
structure FwdWord where
  instr : Instr
  pc : Word
  next : Word
  at_ : Nat
  deriving DecidableEq, Repr

/-- A trap message that waits in its parked slot or in a queue: its 32 bytes (R362). -/
abbrev Entry := BitVec 256

/-- A routine slot: RENT, RARG and the bits of RCTL (R19). -/
structure Routine where
  rent : Word
  rarg : Word
  rdy : Bool
  hld : Bool
  run : Bool
  mrg : Bool
  vld : Bool
  /-- the cycle from which the selector sees the slot as it now stands (R231; model's own). -/
  from_ : Nat
  /-- cycle and source of the last readying: 0 instruction, 1 inbox, 2 drover completion, 3 task (R231; model's own). -/
  lastAt : Nat
  lastBy : Nat
  deriving DecidableEq, Repr

/-- A stream register's binding: pen, job identifier, read position in bytes (R209). -/
structure Binding where
  pen : Nat
  xid : Nat
  pos : Nat
  deriving DecidableEq, Repr

/-- State of a sequencer entry (R170); FREE entries are not held. -/
inductive SeqState where
  | wait | run | done
  deriving DecidableEq, Repr

/-- Progress of an execution: next element, accumulator, flags, the popped entry of each source and the entry being filled. -/
structure Progress where
  n : Nat
  acc : Nat
  flags : BitVec 5
  bufA : List Nat
  bufB : List Nat
  bufD : List Nat
  /-- the old destination's popped elements, where d is a queue or chain record (R167). -/
  bufO : List Nat
  deriving DecidableEq, Repr

/-- A sequencer entry: a word with its captured operands, or the repeat entry of a VLOOP (R170, R171). -/
structure SeqEntry where
  num : Nat
  instr : Instr
  pc : Word
  slot : Nat
  lid : Nat
  recD : BitVec 256
  recA : BitVec 256
  recB : BitVec 256
  /-- k1 for VXCHG, x[a] for VFILL. -/
  val : Word
  chain : BitVec 4
  st : SeqState
  prog : Progress
  /-- the error met during execution (R174): cause, granule. -/
  err : Option (Cause × Nat)
  /-- VXCHG: slices written or discarded, whether the release came, whether a slice did not match (R185). -/
  xcOut : Bool
  xcGot : Nat
  xcBad : Bool
  /-- repeat entry: the numbers of its set, count, execution and position now running (R171). -/
  set : List Nat
  count : Nat
  kNow : Nat
  pos : Nat
  /-- cycle from which the execution may complete. -/
  ready : Nat
  deriving DecidableEq, Repr

/-- A B slot's contents and description: class, K, N, exchange, .t, element type, elements by row (R186, R192). -/
structure BBlock where
  cls : Nat
  kk : Nat
  nn : Nat
  xch : Nat
  tr : Bool
  ty : Nat
  data : List Nat
  deriving DecidableEq, Repr

/-- A matrix command (R189). -/
structure MCmd where
  ticket : Nat
  instr : Instr
  pc : Word
  slot : Nat
  lid : Nat
  recD : BitVec 256
  recA : BitVec 256
  chain : BitVec 4
  /-- steps done (R190), elements of the source taken so far, flags. -/
  steps : Nat
  row : List Nat
  flags : BitVec 5
  err : Option (Cause × Nat)
  finished : Bool
  ready : Nat
  deriving DecidableEq, Repr

/-- What a thread that cannot issue waits for; the hardware polls or answers it. -/
inductive Wait where
  /-- nothing. -/
  | none
  /-- the waiting instruction is executed again each cycle until its condition holds (R11 BLOCK, R144, R155). -/
  | poll
  /-- the answer of a request in flight (R146, R211, R228). -/
  | answer
  /-- the answer of the group table to the request of this number (R237, R238). -/
  | table (k : Nat)
  /-- a walk to a tile, explicit or not (R16); the address and the size code of the access, for a trap of R153. -/
  | walk (dest : Nat) (explicit : Bool) (addr : Word) (code : Nat)
  /-- the reissue of a refused walking load or fetch at a cycle (R17). -/
  | reissue (at_ : Nat)
  /-- the release after the one numbered here (R221). -/
  | release (rels : Nat)
  /-- a hurdle arrival made when the thread's accesses have drained: domain slot, drop, operator, value, abort (R218). -/
  | arrive (dom : Nat) (drop : Bool) (op : Option Nat) (val : Word) (abort : Nat)
  /-- the members of a GANG, until a cycle; rows, cols and destination (R125). -/
  | gang (rows cols deadline : Nat) (d : Reg)
  /-- a GANG that covers the tile (R126). -/
  | join (len : Nat)
  /-- a REJOIN notice for the pc, or the end of the flock (R128); the length of the word. -/
  | rejoin (len : Nat)
  /-- the drain of an exiting thread (R134). -/
  | exit
  /-- the pairing of request number k of a twin copy that answers at once: DGO, DMCST, LNCH (R330); polled. -/
  | twin (k : Nat)
  /-- a scalar read or write of queue register q (0..3), 4 cin or 5 cout: polled, the lowest slot of a queue first (R34). -/
  | queue (q : Nat)
  /-- a vector or matrix word that was issued while no entry was free: it enters with what it captured then (R169, R189); polled. -/
  | entry (e : SeqEntry)
  | command (c : MCmd)
  /-- XSAVE of a launch: its pre-emption point on the die; the save area (R367). -/
  | xsave (lid : Nat) (area : Word)
  deriving DecidableEq, Repr

/-- The answer of a held access (R360): the resume tile, the answer's value and access descriptor (R17), and the length of the word. -/
structure HeldAnswer where
  dest : Nat
  answer : Nat
  desc : Word
  len : Nat
  deriving DecidableEq, Repr

/-- A context slot and the thread it holds. -/
structure Slot where
  /-- slot state (R11). -/
  st : SlotState
  /-- general registers; number 0 is never read (R13). -/
  x : Vector Word 16
  pc : Word
  /-- status word (R14). -/
  status : Word
  /-- operand-extension registers (R33, R117). -/
  k : Vector Word 8
  /-- drover shadow registers (R201). -/
  shadow : Vector Word 16
  /-- hardware loop entries, innermost first, at most two (R122). -/
  loops : List LoopEntry
  /-- outstanding posted stores N, P and F (R36). -/
  cntN : Nat
  cntP : Nat
  cntF : Nat
  /-- the cycle at which c:TMR reaches 0; 0 when it is stopped (R38). -/
  tmrEnd : Nat
  /-- launch of the thread (R38). -/
  lid : Nat
  /-- the tile and routine index that started the thread; none when not from a routine (R19, R38). -/
  home : Option (Nat × Nat)
  /-- park tag and cause (R240). -/
  tag : Nat
  cause : Nat
  /-- refusals not yet taken, at most four (R154). -/
  refusals : List RefusalRec
  /-- engine errors not yet taken (R174, R197). -/
  engErrs : List EngineErr
  /-- an FPX due at the next boundary: pc named, flags, and whether an engine raised them (R58, R159, R362). -/
  fpx : Option (Word × BitVec 5 × Bool)
  /-- the fetch line held (R365). -/
  line : Option FetchLine
  /-- what the thread waits for. -/
  wait : Wait
  /-- a walk met a full park area and is not an explicit WALK: nothing else is issued (R17). -/
  refusedWalk : Bool
  /-- the sample of IDLE (R239). -/
  idle : Option (BitVec 8)
  /-- the event bits that were 0 when this cycle began and have been set in it (R239). -/
  evtNew : BitVec 8
  /-- the cycle before which YIELD keeps the slot from issuing, and the slots that must issue first (R133). -/
  yieldTo : Nat
  yieldWait : List Nat
  /-- ticket of the thread's last matrix command; 0 if none (R196). -/
  lastTicket : Nat
  /-- the number of sequencer entries the thread entered after its last VLOOP, by entry number (R171). -/
  repeatSet : List Nat
  /-- flock: the bellwether's tile and slot (R23). -/
  flock : Option (Nat × Nat)
  /-- words forwarded and not yet executed (R127). -/
  stream : List FwdWord
  /-- REJOIN notices kept since the thread detached, newest first, each with the cycle it arrived in (R128). -/
  notices : List (Word × Nat)
  /-- the forwarded word the thread executes next (R127). -/
  fwd : Option FwdWord
  /-- the word of a flock member now executing: the bellwether's to forward, or a follower's with the bellwether's next pc. -/
  pend : Option FwdWord
  /-- the trap message of the parked thread, not yet delivered (R363). -/
  trapMsg : Option Entry
  /-- the message's place in the order of sending (R363). -/
  trapSeq : Nat
  /-- the thread's part of a held access: d, size, sign, NT, atomic (R356). -/
  heldD : Option (Reg × Nat × Bool × Bool × Bool)
  /-- the answer of the held access of a thread that waits to move to its resume tile (R360). -/
  back : Option HeldAnswer
  /-- a PARK of this thread by another is due at its next boundary (R242). -/
  parkReq : Bool
  /-- stopped for pre-emption, the end of the launch or a debug halt (R366, R328, R420). -/
  stopped : Bool
  /-- the cycle the slot was last polled in. -/
  polledAt : Nat
  deriving DecidableEq, Repr

/-- A tile's hurdle state for one domain (R216, R222). -/
structure HurState where
  arr : Bool
  drop : Bool
  rels : Nat
  value : Word
  abort : BitVec 8
  op : Nat
  mix : Bool
  none_ : Bool
  deriving DecidableEq, Repr

/-- Timetable state of a tile at level 0 or 1 (R224, R225). -/
structure TtState where
  sel : Nat
  cur : Nat
  run : Bool
  slot : Bool
  /-- cycle of the last release. -/
  t0 : Nat
  /-- send beats of the running timetable that were injected, by entry and offset: the next offset to send. -/
  sent : Nat
  deriving DecidableEq, Repr

/-- A thread's context as a walk message or a park entry carries it (R17). -/
structure WalkCtx where
  dest : Nat
  origin : Nat
  origSlot : Nat
  explicit : Bool
  resume : Bool
  lid : Nat
  pc : Word
  status : Word
  x : Vector Word 16
  loops : List LoopEntry
  home : Option (Nat × Nat)
  answer : Nat
  desc : Word
  /-- resume move: pc of the access, and an FPX due at the next boundary (R159, R360). -/
  opc : Word
  fpx : Option (Word × BitVec 5 × Bool)
  /-- physical group the message was sent to, for a forced remap (R320). -/
  phys : Nat
  /-- refusals and engine errors the moving thread has not yet taken (R154, R360; model's own). -/
  refusals : List RefusalRec
  engErrs : List EngineErr
  /-- address and size code of the access that walks, for a trap of R153 (model's own). -/
  addr : Word
  code : Nat
  deriving DecidableEq, Repr

/-- Margin state of a unit (R382). -/
structure Margin where
  bin : Nat
  st : Nat
  mev : Nat
  tests : Nat
  /-- cycles of the corrected errors it reported since it was last flagged, newest first, at most eight (R381). -/
  errs : List Nat
  deriving DecidableEq, Repr

/-- The select and result registers held per tile for the supervisor. -/
structure Selects where
  rmsel : Nat
  swres : Nat
  swtag : Nat
  swdone : Nat
  qsel : Nat
  tmres : Nat
  tmtag : Nat
  sldr : Nat
  fbsel : Nat
  pksel : Nat
  pdsel : Nat
  mgsel : Nat
  hbsel : Nat
  wgsel : Nat
  deriving DecidableEq, Repr

/-- A tile. -/
structure Tile where
  slots : Tbl Slot
  lastSlot : Nat
  issuedAt : Nat
  /-- launch that holds the tile; 0 none (R311). -/
  lid : Nat
  /-- the tile holds the twin copy (R329). -/
  twin : Bool
  routines : Tbl Routine
  inbox : List Entry
  q : Tbl (List (BitVec 128))
  cout : List Word
  chain : BitVec 4
  sreg : Tbl Binding
  h : Tbl (BitVec 256)
  seq : List SeqEntry
  seqNext : Nat
  mq : List MCmd
  mI : Nat
  mC : Nat
  mWgt : Nat
  bslot : Option BBlock
  hur : Tbl HurState
  phase : BitVec 4
  steps : Tbl Nat
  tt : Tbl TtState
  xq : List (Word × Word)
  /-- domains of the tile with a contribution whose result is not extracted: a level, or 4 + entry (R345). -/
  busy : List Nat
  /-- the walker park area (R17): its entries, oldest first, whose 160 bytes also stand in the slice, and the ring index of the oldest. -/
  parkq : List WalkCtx
  parkHead : Nat
  parkCap : Nat
  wref : Nat
  rmrg : Nat
  cycle0 : Nat
  sel : Selects
  margin : Margin
  /-- halted by the debug agent (R420). -/
  halted : Bool
  /-- slice without storage, or retired (R281, R382). -/
  unusable : Bool
  /-- stopped at a held release (R366). -/
  held : Bool
  /-- twin dispatch: requests of the tile numbered so far, and the results of the primary's DGO, DMCST and LNCH (R330). -/
  twinSeq : Nat
  /-- running hash of the requests of the superstep (R330). -/
  twinRun : Nat
  twinLog : List (Nat × Word)
  /-- the copy whose partner was lost runs alone (R384). -/
  solo : Bool
  /-- cycle of the last change of any slot, and whether the stall was reported (R350). -/
  changed : Nat
  stallTold : Bool
  deriving DecidableEq, Repr

/-- State of a drover job (R200, R207). -/
inductive JobState where
  | queued | running | placing | kept
  deriving DecidableEq, Repr

/-- A drover job (R200..R209). -/
structure Job where
  xid : Nat
  tile : Nat
  slot : Nat
  lid : Nat
  part : Nat
  src : Word
  dst : Word
  bytes : Nat
  lrec : BitVec 256
  lside : Nat
  hslot : Nat
  hval : Bool
  strm : Bool
  arg : Word
  /-- DMCST: the members by number, as destination addresses; empty for DGO. -/
  mcast : List Word
  st : JobState
  /-- next element to read, writes issued and not answered, reads issued and not answered. -/
  next : Nat
  open_ : Nat
  landed : Nat
  refused : Nat
  mask : Nat
  cause : Nat
  killed : Bool
  poisoned : Bool
  /-- byte ranges of the job's output that have landed, as (first, length). -/
  map : List (Nat × Nat)
  deriving DecidableEq, Repr

/-- A pen: drover and matrix arbiter (R186, R200). -/
structure Pen where
  jobs : List Job
  nextXid : Nat
  bkcf : Nat
  arb : Nat
  margin : Margin
  deriving DecidableEq, Repr

/-- A task of a ready pool (R322). -/
structure Task where
  slot : Nat
  arg : Word
  lid : Nat
  prio : Nat
  stamp : Nat
  deriving DecidableEq, Repr

/-- A group: ready pool (R322, R323) and its use by paddocks. -/
structure Group where
  banks : Tbl (List Task)
  push : Nat
  stamp : Nat
  rot : Nat
  /-- the cycle of the last pop (R323). -/
  popAt : Nat
  dead : Bool
  deriving DecidableEq, Repr

/-- A paddock entry (R374, R375). -/
structure Paddock where
  row0 : Nat
  col0 : Nat
  rows : Nat
  cols : Nat
  v : Bool
  st : Nat
  err : Bool
  deriving DecidableEq, Repr

/-- A c:TMREQ move in progress (R319, R320); `from_` numbers the messages sent before it. -/
structure MapMove where
  grp : Nat
  phys : Nat
  force : Bool
  tag : Nat
  tile : Nat
  from_ : Nat
  deriving DecidableEq, Repr

/-- A compute die's registers and tables. -/
structure Die where
  /-- logical to physical groups that differ from the identity (R318). -/
  map : Tbl Nat
  /-- pending-launch pool: launch identifiers, oldest first (R321). -/
  pool : List Nat
  dthr : Nat
  wdog : Nat
  /-- messages that name no thread: order of sending, destination (0 the supervisor of the tile named, 1 every supervisor of
  the die, 2 the c:FBSVC tile, 16 + p the supervisor of partition p), message (R363, R373). -/
  trq : List (Nat × Nat × Entry)
  trlost : Nat
  /-- messages of threads that went on before delivery: order of sending, partition, message (R363). -/
  late : List (Nat × Nat × Entry)
  cecnt : Nat
  /-- first corrected error of the interval, as kind, address and cycle, and their number (R372). -/
  ceFirst : Option (Nat × Nat × Nat)
  ceInterval : Nat
  paddocks : Tbl Paddock
  /-- implicit paddocks that are not OPEN: group and state (R374). -/
  implicit : Tbl Nat
  /-- a c:TMREQ move in progress (R319). -/
  move : Option MapMove
  /-- twin mismatches standing: primary tile and pair index (R383). -/
  twins : List (Nat × Nat)
  deriving DecidableEq, Repr

/-- A remap entry (R275) that differs from the default placement. -/
structure Remap where
  frame : Nat
  layer : Nat
  busy : Bool
  spare : Bool
  dead : Bool
  deriving DecidableEq, Repr

/-- A swap request (R277, R278). -/
structure Swap where
  dieA : Nat
  pgA : Nat
  selB : Nat
  idB : Nat
  move : Bool
  tag : Nat
  tile : Nat
  deriving DecidableEq, Repr

/-- A stack's base die: role map, remap table, swap engine (R269..R283, R416). -/
structure Stack where
  role : BitVec 8
  chg : Bool
  remap : Tbl Remap
  swaps : List Swap
  swapping : Bool
  spareUsed : List Nat
  lostLayers : List Nat
  retain : BitVec 8
  /-- a re-roling sequence: new map, drain limit cycle, keep list address, stage (R283). -/
  reroll : Option (BitVec 8 × Nat × Nat × Nat)
  deriving DecidableEq, Repr

/-- Who made a request. -/
inductive Who where
  | thread (tile slot : Nat)
  | job (pen xid : Nat)
  /-- a request admitted from another package: its number, and the pod, package and tile it came from (R396). -/
  | fjoic (k src : Nat)
  deriving DecidableEq, Repr

/-- The access a request makes. -/
inductive Acc where
  | store | read | atomic
  deriving DecidableEq, Repr

/-- A memory request (R143, R356). -/
structure Req where
  num : Nat
  who : Who
  acc : Acc
  /-- address as issued, bytes, data of a store or operand of an atomic. -/
  addr : Word
  size : Nat
  data : Nat
  /-- thread's part: destination, size code, sign extension. -/
  d : Reg
  code : Nat
  sign : Bool
  /-- atomic: function code, comparand, rounding, NT. -/
  fn : Nat
  k1 : Word
  rm : BitVec 2
  nt : Bool
  /-- count raised: 0 none, 1 N, 2 P, 3 F (R36). -/
  cls : Nat
  lid : Nat
  part : Nat
  /-- job: element number, and the destination a read's data goes on to. -/
  elem : Nat
  dst : Word
  /-- key of the first byte reached, once translated. -/
  phys : Option Nat
  /-- walk progress: level to read and table address (R354). -/
  lvl : Nat
  tbl : Nat
  gen : Nat
  /-- logical group and physical group the request was sent to (R320). -/
  lgrp : Nat
  pgrp : Nat
  /-- grant it was checked under (R405): partition * 64 + entry. -/
  grant : Option Nat
  /-- bytes of the thread's word, and the thread of the twin copy that waits for the same answer (R330). -/
  len : Nat
  peer : Option (Nat × Nat)
  /-- its payload is lost: what it writes is poison (R371). -/
  bad : Bool
  deriving DecidableEq, Repr

/-- An answer to a request: status 0 or a cause code, value and flags (R152, R159). -/
structure Ans where
  req : Req
  status : Nat
  value : Nat
  flags : BitVec 5
  deriving DecidableEq, Repr

/-- A contribution to a hurdle phase (R218, R219). -/
structure Contrib where
  tile : Option Nat
  /-- a member tile on another package, by its descriptor (R216, R236). -/
  far : Option Nat
  /-- counter member, by counter key. -/
  counter : Option Nat
  op : Option Nat
  val : Word
  abort : Nat
  drop : Bool
  deriving DecidableEq, Repr

/-- A release (R219, R220). -/
structure Release where
  value : Word
  abort : Nat
  op : Nat
  mix : Bool
  none_ : Bool
  deriving DecidableEq, Repr

/-- The root state of a hurdle domain (R216, R333). -/
structure Root where
  /-- packages where a launch of the domain is resident elsewhere, each with its number of tiles (R216, R310). -/
  elsewhere : List (Nat × Nat)
  /-- members on other packages that have dropped or left (R218, R407). -/
  rdrop : List Nat
  phase : Nat
  /-- the cycle in which the last phase completed (R295, R333). -/
  doneAt : Nat
  arrived : List Contrib
  /-- counter members and whether each leaves after its firing's phase (R295). -/
  counters : List (Nat × Bool)
  dropped : List Nat
  /-- a completed phase whose release leaves in the next cycle, or is held (R333, R366). -/
  out : Option (List Nat × Release)
  heldOut : Bool
  /-- an uncorrectable error met a message of the phase (R371). -/
  err : Bool
  first : Nat
  /-- dies whose watchdog has reported the phase (R350). -/
  told : List Nat
  deriving DecidableEq, Repr

/-- A combining-tree round (R347). -/
structure Round where
  num : Nat
  terms : List (Nat × Word × Word)
  lost : Bool
  first : Nat
  told : List Nat
  /-- tiles that take no part any more (R378). -/
  gone : List Nat
  /-- members on other packages that take no part any more (R407). -/
  rgone : List Nat
  deriving DecidableEq, Repr

/-- An arrival-counter entry (R290) with the firings decided and not delivered (R294). -/
structure Counter where
  base : Word
  len : Nat
  total : Nat
  act : Nat
  mode : Nat
  st : Nat
  ovr : Bool
  heldArr : Bool
  lost : Bool
  tgt : Nat
  arg : Word
  count : Nat
  pend : Nat
  armer : Nat
  fires : Nat
  index : Nat
  lid : Nat
  /-- hop count of the addition that brought COUNT to TOTAL; 0 when landings did (R298). -/
  hop : Nat
  deriving DecidableEq, Repr

/-- A decided firing (R294): counter key, action, target, argument, count, OVER, FIRES, MODE, hop, and the cycle it was decided in. -/
structure Firing where
  key : Nat
  act : Nat
  tgt : Nat
  arg : Word
  count : Nat
  ovr : Bool
  fires : Nat
  mode : Nat
  hop : Nat
  at_ : Nat
  deriving DecidableEq, Repr

/-- A request to an arrival-counter controller (R211): 0 ACARM, 1 ACRD, 2 ACDIS, 3 ACCHN. -/
structure CtrReq where
  fn : Nat
  tile : Nat
  slot : Nat
  d : Reg
  index : Nat
  arg : Nat
  result : Word
  peer : Option (Nat × Nat)
  deriving DecidableEq, Repr

/-- A request to the group table (R237, R238): GRPQ when set is false. -/
structure GrpReq where
  /-- the number its thread waits for. -/
  num : Nat
  set_ : Bool
  tile : Nat
  slot : Nat
  d : Reg
  a : Word
  b : Word
  result : Word
  answer : Bool
  peer : Option (Nat × Nat)
  deriving DecidableEq, Repr

/-- A SENDM message (R227, R228), or one from another package. -/
structure SendReq where
  tile : Nat
  slot : Nat
  d : Reg
  entry : Entry
  dest : Nat
  owner : Nat
  lid : Nat
  /-- delivered by the rules for another package (R228). -/
  byOwner : Bool
  pgrp : Nat
  status : Nat
  peer : Option (Nat × Nat)
  deriving DecidableEq, Repr

/-- A message on its way. -/
inductive Msg where
  | walk (c : WalkCtx)
  | walkRefused (c : WalkCtx) (cause : Option Cause)
  /-- a request at its controller, or at its heft agent before translation. -/
  | req (r : Req)
  | table (r : Req)
  | ans (a : Ans)
  | hurArrive (dom : Nat) (c : Contrib)
  | hurRelease (dom tile : Nat) (r : Release)
  | treeTerm (dom tile : Nat) (val desc : Word)
  | treeResult (dom tile : Nat) (val status : Word)
  | sendm (m : SendReq)
  | sendmAns (m : SendReq)
  | ctr (c : CtrReq)
  | ctrAns (c : CtrReq)
  /-- an addition to the entry at a key, of a launch (R298). -/
  | ctrAdd (key lid amount hop : Nat)
  | grp (g : GrpReq)
  /-- a beat injected at cycle t0; whether an uncorrectable error of it lands as poison (R371). -/
  | beat (lvl src dst w data t0 : Nat) (bad : Bool)
  | slice (tile entry pos len size : Nat) (data : List Nat) (bad : Bool)
  /-- a REJOIN notice of bellwether (bt, bu) on its way to a follower. -/
  | notice (bt bu tile slot : Nat) (addr : Word)
  | placed (lid : Nat)
  | swapDone (stack : Nat)
  /-- the spare bank is in over the share above a column of a layer, or the share is without storage (R280, R281). -/
  | spareDone (stack layer col : Nat) (dead : Bool)
  /-- an invalidation of a partition's page, or of all its pages, that is not finished (R355). -/
  | xinvDone (part vpn : Nat) (all : Bool)
  | padReset (die idx : Nat)
  | padEnd (die idx : Nat)
  | padTest (die idx : Nat)
  | retest (tile : Nat) (matrix : Bool)
  | repairEnd (ch : Nat)
  | grantFree (key : Nat)
  | mapDone (die : Nat)
  | report (port nonce : Nat)
  | opened (part : Nat)
  | reenum (stack : Nat)
  | srcTimer (k : Nat)
  | branchTimer (k branch : Nat)
  deriving DecidableEq, Repr

/-- A message in flight, with the cycle at which it arrives. -/
structure Flight where
  num : Nat
  due : Nat
  msg : Msg
  deriving DecidableEq, Repr

/-- A request of a copy of a twin launch that waits for its partner (R330): primary tile, number, copy, hash, the message to
forward and its least time. -/
structure TwinReq where
  tile : Nat
  seq : Nat
  copy : Bool
  hash : Nat
  msg : Option Msg
  min : Nat
  deriving DecidableEq, Repr

/-- A timetable entry (R336). -/
structure TtEntry where
  start : Nat
  stop : Nat
  send : Bool
  dest : Nat
  ofs : Nat
  deriving DecidableEq, Repr

/-- State of a launch. -/
inductive LaunchState where
  | pending | placing | running | saved | ending | done
  deriving DecidableEq, Repr

/-- A code region of a launch (R106, R365). -/
structure CodeRegion where
  die : Bool
  base : Nat
  len : Nat
  /-- dies on which it is not fetchable. -/
  nx : List Nat
  deriving DecidableEq, Repr

/-- A launch (R309..R330). -/
structure Launch where
  packet : BitVec 512
  st : LaunchState
  depth : Nat
  prio : Nat
  twin : Bool
  part : Nat
  queue : Option Nat
  parent : Nat
  ptile : Nat
  /-- logical dies given at first placement, and those it holds now (R314). -/
  dies : List Nat
  cur : List Nat
  t0 : Nat
  entries : List Nat
  ctrs : Tbl Nat
  regions : List CodeRegion
  tts : Tbl (List TtEntry)
  twinOff : Nat
  damaged : Bool
  marked : Bool
  pinned : Bool
  supervisor : Bool
  /-- a completed child whose entry is not yet dequeued, and its status word (R234, R235). -/
  ended : Bool
  told : Bool
  /-- running dies on which XSAVE has run, and dies restored by XLOAD (R367, R369). -/
  savedDies : List Nat
  restored : List Nat
  /-- dies on which the pre-emption point is reached (R366). -/
  atPoint : List Nat
  /-- completed: STATUS and CYCLES of the completion entry (R234). -/
  endSt : Nat
  cycles : Nat
  deriving DecidableEq, Repr

/-- A launch queue (R306). -/
structure Queue where
  base : Nat
  lsize : Nat
  prio : Nat
  plvl : Nat
  pen : Bool
  twin : Bool
  en : Bool
  err : Bool
  cur : Nat
  head : Nat
  tail : Nat
  done_ : Nat
  ended : Nat
  deriving DecidableEq, Repr

/-- A window grant (R404). -/
structure Grant where
  base : Nat
  pages : Nat
  grantee : Nat
  rights : BitVec 4
  st : Nat
  err : Bool
  deriving DecidableEq, Repr

/-- A partition (R418). -/
structure Part where
  valid : Bool
  st : Nat
  ports : BitVec 2
  err : Bool
  owner : Nat
  dies : BitVec 8
  grow0 : Nat
  gcol0 : Nat
  grows : Nat
  gcols : Nat
  hbase : Nat
  hlen : Nat
  simg : Nat
  /-- the supervisor image as the management core read it when the partition started (model's own, log 25). -/
  img : List (BitVec 8)
  queues : BitVec 64
  /-- c:PTROOT EN and ADDR (R352). -/
  ptEn : Bool
  ptAddr : Nat
  rlpol : Bool
  grants : Tbl Grant
  wgdat0 : Nat
  /-- group table: members of each entry as descriptors of R236, in member order (R28, R236). -/
  gtab : Tbl (List Nat)
  deriving DecidableEq, Repr

/-- A record of the fault buffer (R357), as four dwords. -/
abbrev FaultRec := Word × Word × Word × Word

/-- A request to or from another package (R398): the message, the header it came or left with (R396). -/
structure FjReq where
  msg : Msg
  header : Nat
  hold : Bool
  incoming : Bool
  /-- cycle by which the source port reports NAK. -/
  limit : Nat
  deriving DecidableEq, Repr

/-- A multicast in the switches (R399, R400): job, branches not yet answered, mask, members by branch. -/
structure Mcast where
  pen : Nat
  xid : Nat
  branches : List (Nat × Nat)
  mask : Nat
  told : Bool
  deriving DecidableEq, Repr

/-- An earmark held by the port groups (R401, R402, R419). -/
structure Earmark where
  mask : BitVec 16
  key : Nat
  blocked : BitVec 16
  fails : Tbl Nat
  frames : Tbl Nat
  deriving DecidableEq, Repr

/-- What the management core and the management space hold (R408..R421). -/
structure Mgmt where
  ready : Word
  /-- readiness bits already set once since the reset (R411). -/
  booted : Word
  sems : Tbl (Nat × Nat × Nat)
  boot : List (Nat × BitVec 8)
  bootPort : Nat
  fwDigest : Nat
  ports : BitVec 2
  nonce : Tbl Nat
  reportNonce : Tbl Nat
  /-- the last report's bytes, as a number. -/
  report : Nat
  attDone : Bool
  keyNonce : Tbl Nat
  keyWord : Tbl Nat
  keyVal : Tbl Nat
  keyStat : Tbl Nat
  earmarks : Tbl Earmark
  roleStat : Nat
  duty : Nat
  overSince : Option Nat
  lowSince : Option Nat
  agent : Option Nat
  dbgAddr : Tbl Nat
  dbgStat : Nat
  brkPc : Nat
  wakes : Nat
  cooling : Nat
  fjDown : BitVec 16
  /-- frames discarded for an earmark that a port group does not allow (R401). -/
  fjDrops : Nat
  /-- repair list and marks (R387). -/
  repairs : List Nat
  marks : Tbl (List Nat)
  rankCe : Tbl Nat
  /-- the last four errors the core counts for a symbol position, or for a bank: cycle and address, newest first (R385, R387). -/
  errLog : Tbl (List (Nat × Nat))
  quiesced : List Nat
  softUsed : List Nat
  /-- payloads of packets under assembly, by link, earmark and channel (R402). -/
  rx : Tbl (List Nat)
  deriving DecidableEq, Repr

/-- A packet of a Stoxis or Fjoic link, or any other stimulus from outside, as numbers. -/
structure Ev where
  /-- the message in flight, or the unit, the step concerns. -/
  num : Nat
  a : Nat
  b : Nat
  c : Nat
  data : List Nat
  deriving DecidableEq, Repr

/-- The saved state of a launch on one die, by the launch's own number for it (R368), kept beside the bytes of the save area: what
the area has no place for is restored from here (log 7). Keys name the die by `savedDie`. -/
structure Saved where
  lid : Nat
  die : Nat
  tiles : Tbl Tile
  roots : Tbl Root
  rounds : Tbl Round
  /-- the decided firings of the entries written. -/
  firings : List Firing
  deriving DecidableEq, Repr

/-- The machine: the whole package. -/
structure State where
  /-- the clock in cc, and the numbers of the next message and the next free value. -/
  now : Nat
  next : Nat
  ctr : Nat
  /-- the thread whose word `exec` executes: tile and slot (model's own). -/
  curTile : Nat
  curSlot : Nat
  /-- what the hardware step `exec` takes concerns (model's own). -/
  ev : Ev
  /-- stimuli from outside, in order, each with the cycle before which it is not taken (model's own). -/
  inputs : List (Nat × Instr × Ev)
  tiles : Tbl Tile
  pens : Tbl Pen
  groups : Tbl Group
  dies : Tbl Die
  stks : Tbl Stack
  /-- bytes that are not 0, by storage key in rising order, and the poisoned granules (R371). -/
  mem : List Host.Cell
  poison : List Nat
  flight : List Flight
  /-- requests of twin copies that wait for their partners (R330). -/
  pairs : List TwinReq
  /-- requests held in the fault buffer, oldest first, and its records (R356, R357). -/
  held : List Req
  faults : List FaultRec
  fbGen : Nat
  fbOvf : Bool
  fbSvc : Nat
  /-- cached leaves of the heft agents: agent, partition, level, page number, entry (R354). -/
  tlb : List (Nat × Nat × Nat × Nat × Nat)
  xinvBusy : Bool
  launches : Tbl Launch
  nextLid : Nat
  queues : Tbl Queue
  rr : Nat
  parts : Tbl Part
  roots : Tbl Root
  rounds : Tbl Round
  counters : Tbl Counter
  firings : List Firing
  /-- the cycle of the last end-of-cycle firing pass (R293). -/
  firedAt : Nat
  saved : List Saved
  /-- c:ACLOST, c:STARV, c:LEND status and busy launch, pre-emption victim (R294, R327, R328, R326). -/
  aclost : Nat
  starv : Nat
  starvAt : Nat
  /-- of the interval of c:STARV so far: bit 0 a candidate waited, bit 1 a pre-emption was requested or outstanding (R327; model's own). -/
  starvSeen : Nat
  lendStat : Nat
  lendBusy : Nat
  preempt : Nat
  /-- the cycle of the last distribution (R317). -/
  distAt : Nat
  fj : Tbl FjReq
  mcasts : Tbl Mcast
  mgmt : Mgmt
  /-- package id and pod (R4, R38 c:TILEID): 0 at reset, and no step sets them (DESIGN CHOICE, log 4; unsafe). -/
  pkg : Nat
  pod : Nat
  /-- what went out: management-core messages, EVENT records, CPL answers and Fjoic packets, newest first. -/
  toMgmt : List Entry
  events : List Entry
  cpl : List (Nat × Nat)
  /-- request number, and header with the data above its 28 bytes. -/
  fjOut : List (Nat × Nat)
  deriving DecidableEq, Repr

/-- The machine has no fault of this kind: every bad access of the KE-82 is a trap or an answer. `impossible` is raised by
no meaning; it stands here because the type needs a name. Safe. -/
inductive Fault where
  /-- raised by nothing. -/
  | impossible
  deriving DecidableEq, Repr

/-- Why an instruction has no meaning. -/
inductive Refusal where
  /-- the arm of `exec` has no meaning yet; raised by Machine/Dispatch alone. Safe: the model stops. -/
  | notModelled (mnemonic : String)
  deriving DecidableEq, Repr

/-- A context slot that holds no thread (R312; registers of an empty slot: log 5). -/
def Slot.fresh : Slot where
  st := .free
  x := Vector.replicate 16 0
  pc := 0
  status := 0
  k := Vector.replicate 8 0
  shadow := Vector.replicate 16 0
  loops := []
  cntN := 0
  cntP := 0
  cntF := 0
  tmrEnd := 0
  lid := 0
  home := none
  tag := 0
  cause := 0
  refusals := []
  engErrs := []
  fpx := none
  line := none
  wait := .none
  refusedWalk := false
  idle := none
  evtNew := 0
  yieldTo := 0
  yieldWait := []
  lastTicket := 0
  repeatSet := []
  flock := none
  stream := []
  notices := []
  fwd := none
  pend := none
  trapMsg := none
  trapSeq := 0
  heldD := none
  back := none
  parkReq := false
  stopped := false
  polledAt := 0

/-- An unfilled routine slot (R19). -/
def Routine.fresh : Routine :=
  { rent := 0, rarg := 0, rdy := false, hld := false, run := false, mrg := false, vld := false, from_ := 0, lastAt := 0, lastBy := 0 }

/-- Hurdle state before the first release (R222). -/
def HurState.fresh : HurState :=
  { arr := false, drop := false, rels := 0, value := 0, abort := 0, op := 0, mix := false, none_ := true }

/-- No timetable selected (R224). -/
def TtState.fresh : TtState := { sel := 255, cur := 255, run := false, slot := false, t0 := 0, sent := 0 }

/-- A unit in service at bin S0 (R382; the bin per boot record: log 5). -/
def Margin.fresh : Margin := { bin := 0, st := 0, mev := 0, tests := 0, errs := [] }

def Selects.fresh : Selects where
  rmsel := 0
  swres := 0
  swtag := 0
  swdone := 0
  qsel := 0
  tmres := 0
  tmtag := 0
  sldr := 0
  fbsel := 0
  pksel := 0
  pdsel := 0
  mgsel := 0
  hbsel := 0
  wgsel := 0

/-- A tile after reset, with no launch (R312). -/
def Tile.fresh : Tile where
  slots := []
  lastSlot := 7
  issuedAt := 0
  lid := 0
  twin := false
  routines := []
  inbox := []
  q := []
  cout := []
  chain := 0
  sreg := []
  h := []
  seq := []
  seqNext := 0
  mq := []
  mI := 0
  mC := 0
  mWgt := 1
  bslot := none
  hur := []
  phase := 0
  steps := []
  tt := []
  xq := []
  busy := []
  parkq := []
  parkHead := 0
  parkCap := 0
  wref := 0
  rmrg := 0
  cycle0 := 0
  sel := Selects.fresh
  margin := Margin.fresh
  halted := false
  unusable := false
  held := false
  twinSeq := 0
  twinRun := 0
  twinLog := []
  solo := false
  changed := 0
  stallTold := false

/-- A pen after reset (R200; arbiter pointer: log 5). -/
def Pen.fresh : Pen := { jobs := [], nextXid := 1, bkcf := 0, arb := 0, margin := Margin.fresh }

def Group.fresh : Group := { banks := [], push := 0, stamp := 0, rot := 0, popAt := 0, dead := false }

def Paddock.fresh : Paddock := { row0 := 0, col0 := 0, rows := 0, cols := 0, v := false, st := 0, err := false }

/-- A die after reset: c:DTHR 64 (R324), c:WDOG 0x4C4B (R342). -/
def Die.fresh : Die where
  map := []
  pool := []
  dthr := 64
  wdog := 0x4C4B
  trq := []
  trlost := 0
  late := []
  cecnt := 0
  ceFirst := none
  ceInterval := 0
  paddocks := []
  implicit := []
  move := none
  twins := []

/-- A stack after reset; its boot role map is that of the standard configuration (R3, log 3). -/
def Stack.fresh : Stack where
  role := 0xAA
  chg := false
  remap := []
  swaps := []
  swapping := false
  spareUsed := []
  lostLayers := []
  retain := 0
  reroll := none

/-- A queue descriptor after reset (R306): LSIZE 4, PLVL 7. -/
def Queue.fresh : Queue where
  base := 0
  lsize := 4
  prio := 0
  plvl := 7
  pen := false
  twin := false
  en := false
  err := false
  cur := 0
  head := 0
  tail := 0
  done_ := 0
  ended := 0

def Grant.fresh : Grant := { base := 0, pages := 0, grantee := 0, rights := 0, st := 0, err := false }

def Part.fresh : Part where
  valid := false
  st := 0
  ports := 0
  err := false
  owner := 0
  dies := 0
  grow0 := 0
  gcol0 := 0
  grows := 0
  gcols := 0
  hbase := 0
  hlen := 0
  simg := 0
  img := []
  queues := 0
  ptEn := false
  ptAddr := 0
  rlpol := false
  grants := []
  wgdat0 := 0
  gtab := []

def Root.fresh : Root where
  elsewhere := []
  rdrop := []
  phase := 0
  doneAt := 0
  arrived := []
  counters := []
  dropped := []
  out := none
  heldOut := false
  err := false
  first := 0
  told := []

def Round.fresh : Round := { num := 0, terms := [], lost := false, first := 0, told := [], gone := [], rgone := [] }

def Counter.fresh : Counter where
  base := 0
  len := 0
  total := 0
  act := 0
  mode := 0
  st := 0
  ovr := false
  heldArr := false
  lost := false
  tgt := 0
  arg := 0
  count := 0
  pend := 0
  armer := 0
  fires := 0
  index := 0
  lid := 0
  hop := 0

def Launch.fresh : Launch where
  packet := 0
  st := .done
  depth := 0
  prio := 0
  twin := false
  part := 0
  queue := none
  parent := 0
  ptile := 0
  dies := []
  cur := []
  t0 := 0
  entries := []
  ctrs := []
  regions := []
  tts := []
  twinOff := 0
  damaged := false
  marked := false
  pinned := false
  supervisor := false
  ended := false
  told := false
  savedDies := []
  restored := []
  atPoint := []
  endSt := 0
  cycles := 0

def Earmark.fresh : Earmark := { mask := 0, key := 0, blocked := 0, fails := [], frames := [] }

def Mcast.fresh : Mcast := { pen := 0, xid := 0, branches := [], mask := 0, told := false }

def Progress.fresh : Progress := { n := 0, acc := 0, flags := 0, bufA := [], bufB := [], bufD := [], bufO := [] }

def Ev.fresh : Ev := { num := 0, a := 0, b := 0, c := 0, data := [] }

/-- The management space after reset (R408..R421): nothing ready. The boot port is port 0 (log 4). -/
def Mgmt.fresh : Mgmt where
  ready := 0
  booted := 0
  sems := []
  boot := []
  bootPort := 0
  fwDigest := 0
  ports := 0
  nonce := []
  reportNonce := []
  report := 0
  attDone := false
  keyNonce := []
  keyWord := []
  keyVal := []
  keyStat := []
  earmarks := []
  roleStat := 0
  duty := 0
  overSince := none
  lowSince := none
  agent := none
  dbgAddr := []
  dbgStat := 0
  brkPc := 0
  wakes := 0
  cooling := 0
  fjDown := 0
  fjDrops := 0
  repairs := []
  marks := []
  rankCe := []
  errLog := []
  quiesced := []
  softUsed := []
  rx := []

/-- The package right after a cold reset (R408, R410): nothing is placed and nothing is ready. The clock starts at 1, so
that cycle 0 means never. -/
def State.reset : State where
  now := 1
  next := 0
  ctr := 0
  curTile := 0
  curSlot := 0
  ev := Ev.fresh
  inputs := []
  tiles := []
  pens := []
  groups := []
  dies := []
  stks := []
  mem := []
  poison := []
  flight := []
  pairs := []
  held := []
  faults := []
  fbGen := 0
  fbOvf := false
  fbSvc := 0
  tlb := []
  xinvBusy := false
  launches := []
  nextLid := 1
  queues := []
  rr := 0
  parts := []
  roots := []
  rounds := []
  counters := []
  firings := []
  firedAt := 0
  saved := []
  aclost := 0
  starv := 0
  starvAt := 0
  starvSeen := 0
  lendStat := 0
  lendBusy := 0
  preempt := 0
  distAt := 0
  fj := []
  mcasts := []
  mgmt := Mgmt.fresh
  pkg := 0
  pod := 0
  toMgmt := []
  events := []
  cpl := []
  fjOut := []

end Sys2Proof.Machine
end

