-- ==== Sys2Proof/Machine/Ops.lean ====
section
/-! DEFINITION. Ops: the named operations over memory, registers, slots and messages that every meaning is written with, and
taking an exception and returning from one (R40, R240, R241, R362). -/

namespace Sys2Proof.Machine

/-! ### Bit fields -/

/-- Bits lo+n-1 .. lo of a number. -/
def nf (v lo n : Nat) : Nat := v / 2 ^ lo % 2 ^ n

/-- One bit of a number. -/
def nb (v i : Nat) : Bool := v / 2 ^ i % 2 == 1

/-- The same for a word. -/
def wf (w : Word) (lo n : Nat) : Nat := nf w.toNat lo n

/-- A number as a word. -/
def nw (n : Nat) : Word := BitVec.ofNat 64 n

/-- A Bool as 0 or 1. -/
def b2n (b : Bool) : Nat := if b then 1 else 0

/-- A number with bits lo+n-1 .. lo replaced. -/
def nput (v lo n x : Nat) : Nat := v - nf v lo n * 2 ^ lo + x % 2 ^ n * 2 ^ lo

/-- The value of a w-bit number read as two's complement. -/
def sx (w v : Nat) : Int := if 2 * (v % 2 ^ w) < 2 ^ w then Int.ofNat (v % 2 ^ w) else Int.ofNat (v % 2 ^ w) - Int.ofNat (2 ^ w)

/-- An integer modulo 2^w. -/
def wrapTo (w : Nat) (i : Int) : Nat := (i % Int.ofNat (2 ^ w)).toNat

/-- The n bytes of a number as bytes, least significant first. -/
def toBytes (n v : Nat) : List Byte := leBytes n v

/-- A number from its bytes, least significant first. -/
def ofBytes : List Byte → Nat
  | [] => 0
  | b :: r => b.toNat + 256 * ofBytes r

/-! ### Geometry (R10, R186, R270) -/

/-- The key of tile (row, col) of a logical die. -/
def tileKey (die row col : Nat) : Nat := (die * 128 + row) * 160 + col
def tDie (t : Nat) : Nat := t / 20480
def tRow (t : Nat) : Nat := t / 160 % 128
def tCol (t : Nat) : Nat := t % 160

/-- The logical group of a tile, on its die (R10), and its key. -/
def tGroup (t : Nat) : Nat := 20 * (tRow t / 8) + tCol t / 8
def groupKey (die g : Nat) : Nat := die * 320 + g
def tGroupKey (t : Nat) : Nat := groupKey (tDie t) (tGroup t)
/-- Position in the group (R10) and in the pen (R186). -/
def groupPos (t : Nat) : Nat := 8 * (tRow t % 8) + tCol t % 8
def penPos (t : Nat) : Nat := 4 * (tRow t % 2) + tCol t % 4
/-- The key of a tile's pen, and the tile at a position of it. -/
def penKey (t : Nat) : Nat := (tDie t * 64 + tRow t / 2) * 40 + tCol t / 4
def penTile (p pos : Nat) : Nat := tileKey (p / 2560) (2 * (p / 40 % 64) + pos / 4) (4 * (p % 40) + pos % 4)
/-- The tile at a position of a group. -/
def groupTile (g pos : Nat) : Nat := tileKey (g / 320) (8 * (g % 320 / 20) + pos / 8) (8 * (g % 320 % 20) + pos % 8)

/-- The neighbour of a tile: 0 north, 1 east, 2 south, 3 west (R38 c:CHAIN); none beyond the edge. -/
def neighbour (t : Nat) : Nat → Option Nat
  | 0 => if tRow t = 0 then none else some (t - 160)
  | 1 => if tCol t = 159 then none else some (t + 1)
  | 2 => if tRow t = 127 then none else some (t + 160)
  | _ => if tCol t = 0 then none else some (t - 1)

/-- Hops between two tiles of one die (R343). -/
def hops (a b : Nat) : Nat := (tRow a - tRow b) + (tRow b - tRow a) + (tCol a - tCol b) + (tCol b - tCol a)

/-! ### Reading the tables -/

def State.tile (s : State) (t : Nat) : Tile := tget Tile.fresh s.tiles t
def Tile.slot (t : Tile) (u : Nat) : Slot := tget Slot.fresh t.slots u
def State.slot (s : State) (t u : Nat) : Slot := (s.tile t).slot u
def State.pen (s : State) (p : Nat) : Pen := tget Pen.fresh s.pens p
def State.group (s : State) (g : Nat) : Group := tget Group.fresh s.groups g
def State.die (s : State) (d : Nat) : Die := tget Die.fresh s.dies d
def State.stack (s : State) (k : Nat) : Stack := tget Stack.fresh s.stks k
def State.launch (s : State) (l : Nat) : Launch := tget Launch.fresh s.launches l
def State.queue (s : State) (q : Nat) : Queue := tget Queue.fresh s.queues q
def State.part (s : State) (p : Nat) : Part := tget Part.fresh s.parts p
def State.root (s : State) (d : Nat) : Root := tget Root.fresh s.roots d
def State.round (s : State) (d : Nat) : Round := tget Round.fresh s.rounds d
def State.counter (s : State) (k : Nat) : Counter := tget Counter.fresh s.counters k
def Tile.routine (t : Tile) (i : Nat) : Routine := tget Routine.fresh t.routines i
def Tile.hurd (t : Tile) (i : Nat) : HurState := tget HurState.fresh t.hur i
def Tile.tts (t : Tile) (l : Nat) : TtState := tget TtState.fresh t.tt l
def Tile.queue (t : Tile) (i : Nat) : List (BitVec 128) := tget [] t.q i
def Tile.hrec (t : Tile) (i : Nat) : BitVec 256 := tget 0 t.h i
def Tile.stepCount (t : Tile) (l : Nat) : Nat := tget 0 t.steps l

/-! ### Updating them -/

def State.updTile (s : State) (t : Nat) (f : Tile → Tile) : State := { s with tiles := tset s.tiles t (f (s.tile t)) }
def Tile.updSlot (t : Tile) (u : Nat) (f : Slot → Slot) : Tile := { t with slots := tset t.slots u (f (t.slot u)) }
def State.updSlot (s : State) (t u : Nat) (f : Slot → Slot) : State := s.updTile t fun tl => tl.updSlot u f
def State.updPen (s : State) (p : Nat) (f : Pen → Pen) : State := { s with pens := tset s.pens p (f (s.pen p)) }
def State.updGroup (s : State) (g : Nat) (f : Group → Group) : State :=
  { s with groups := tset s.groups g (f (s.group g)) }
def State.updDie (s : State) (d : Nat) (f : Die → Die) : State := { s with dies := tset s.dies d (f (s.die d)) }
def State.updStack (s : State) (k : Nat) (f : Stack → Stack) : State := { s with stks := tset s.stks k (f (s.stack k)) }
def State.updLaunch (s : State) (l : Nat) (f : Launch → Launch) : State :=
  { s with launches := tset s.launches l (f (s.launch l)) }
def State.updQueue (s : State) (q : Nat) (f : Queue → Queue) : State := { s with queues := tset s.queues q (f (s.queue q)) }
def State.updPart (s : State) (p : Nat) (f : Part → Part) : State := { s with parts := tset s.parts p (f (s.part p)) }
def State.updRoot (s : State) (d : Nat) (f : Root → Root) : State := { s with roots := tset s.roots d (f (s.root d)) }
def State.updRound (s : State) (d : Nat) (f : Round → Round) : State :=
  { s with rounds := tset s.rounds d (f (s.round d)) }
def State.updCounter (s : State) (k : Nat) (f : Counter → Counter) : State :=
  { s with counters := tset s.counters k (f (s.counter k)) }
def State.updMgmt (s : State) (f : Mgmt → Mgmt) : State := { s with mgmt := f s.mgmt }

/-- The thread whose word is executed. -/
def State.cur (s : State) : Slot := s.slot s.curTile s.curSlot
def State.curT (s : State) : Tile := s.tile s.curTile
def State.updCur (s : State) (f : Slot → Slot) : State := s.updSlot s.curTile s.curSlot f

/-! ### Registers (R13, R33) -/

/-- x[r]; x0 reads as zero (R13). -/
def Slot.xr (sl : Slot) (r : Reg) : Word := if r = 0 then 0 else sl.x[r.toNat]'r.isLt
/-- x[r] := v; a write to x0 is discarded (R13). -/
def Slot.setX (sl : Slot) (r : Reg) (v : Word) : Slot :=
  if r = 0 then sl else { sl with x := sl.x.set r.toNat v r.isLt }
def Slot.kr (sl : Slot) (r : BitVec 3) : Word := sl.k[r.toNat]'r.isLt
def Slot.setK (sl : Slot) (r : BitVec 3) (v : Word) : Slot := { sl with k := sl.k.set r.toNat v r.isLt }

/-- The executing thread's registers. -/
def State.xr (s : State) (r : Reg) : Word := s.cur.xr r
def State.setX (s : State) (r : Reg) (v : Word) : State := s.updCur fun sl => sl.setX r v

/-! ### The status word (R14) -/

def Slot.flags (sl : Slot) : BitVec 5 := sl.status.extractLsb' 0 5
def Slot.enable (sl : Slot) : BitVec 5 := sl.status.extractLsb' 5 5
def Slot.rmode (sl : Slot) : BitVec 2 := sl.status.extractLsb' 10 2
def Slot.priv (sl : Slot) : Bool := sl.status.getLsbD 12
def Slot.flk (sl : Slot) : Nat := (sl.status.extractLsb' 16 2).toNat
def Slot.evt (sl : Slot) : BitVec 8 := sl.status.extractLsb' 20 8

/-- The status word with a field of n bits at lo replaced. -/
def putField (w : Word) (lo n : Nat) (v : Nat) : Word :=
  (w &&& ~~~(BitVec.ofNat 64 ((2 ^ n - 1) * 2 ^ lo))) ||| BitVec.ofNat 64 (v % 2 ^ n * 2 ^ lo)

def Slot.setFlags (sl : Slot) (f : BitVec 5) : Slot := { sl with status := putField sl.status 0 5 f.toNat }
/-- FLAGS := FLAGS | f (R57). -/
def Slot.orFlags (sl : Slot) (f : BitVec 5) : Slot := sl.setFlags (sl.flags ||| f)
def Slot.setPsn (sl : Slot) : Slot := { sl with status := putField sl.status 13 1 1 }
def Slot.setWst (sl : Slot) (v : Nat) : Slot := { sl with status := putField sl.status 14 2 v }
def Slot.setFlk (sl : Slot) (v : Nat) : Slot := { sl with status := putField sl.status 16 2 v }
def Slot.setEvt (sl : Slot) (v : BitVec 8) : Slot := { sl with status := putField sl.status 20 8 v.toNat }

/-! ### Hardware loops (R122, R123) -/

/-- Walk the entries from the innermost out: the next pc, whether an entry held it, and the entries kept. -/
def loopAdvanceAux (seq : Bool) : List LoopEntry → Bool → Word → Word × List LoopEntry
  | [], _, next => (next, [])
  | e :: r, held, next =>
    if held then
      let (n', r') := loopAdvanceAux seq r true next
      (n', e :: r')
    else if seq && next == e.stop && decide (1 < e.remaining.toNat) then
      let (n', r') := loopAdvanceAux seq r true e.start
      (n', { e with remaining := e.remaining - 1 } :: r')
    else if decide (e.start.toNat ≤ next.toNat ∧ next.toNat < e.stop.toNat) then
      let (n', r') := loopAdvanceAux seq r true next
      (n', e :: r')
    else loopAdvanceAux seq r false next

/-- loop_advance of R123: the next pc through the loop entries. -/
def Slot.advanceTo (sl : Slot) (next : Word) (seq : Bool) : Slot :=
  let r := loopAdvanceAux seq sl.loops false next
  { sl with pc := r.1, loops := r.2 }

/-- The instruction completes: the thread is in RUN, waits for nothing, and its next pc passes through R123. -/
def Slot.complete (sl : Slot) (next : Word) (seq : Bool) : Slot :=
  { sl.advanceTo next seq with st := .run, wait := .none, fwd := none, refusedWalk := false, idle := none }

/-- The executing word completes with a sequential advance of len bytes. -/
def State.done (s : State) (len : Nat) : State := s.updCur fun sl => sl.complete (sl.pc + BitVec.ofNat 64 len) true

/-- The executing word completes with a taken transfer. -/
def State.jump (s : State) (target : Word) : State := s.updCur fun sl => sl.complete target false

/-- The executing thread waits in BLOCK (R11). -/
def State.block (s : State) (w : Wait) : State := s.updCur fun sl => { sl with st := .block, wait := w }

/-- The usual end of a word: x[d] := v and a sequential advance. -/
def State.wr (s : State) (d : Reg) (v : Word) (len : Nat) : State :=
  s.updCur fun sl => (sl.setX d v).complete (sl.pc + BitVec.ofNat 64 len) true

/-! ### Storage (R272..R275, R285; the names of R421) -/

/-- Storage keys: a Lirek byte by stack, layer, frame and offset, and an HBM4 byte by physical address. -/
def lirekKey (stack layer frame off : Nat) : Nat := ((stack * 8 + layer) * 40960 + frame) * 65536 + off
def hbmBase : Nat := 2 ^ 40
def hbmKey (pa : Nat) : Nat := hbmBase + pa

/-- The byte at a storage key; an unlisted byte is 0 (R312, R410). -/
def readByte (m : List Host.Cell) (k : Nat) : Byte := tget 0 m k

/-- Write a byte, keeping the keys rising and listing no 0. -/
def writeByte (m : List Host.Cell) (k : Nat) (b : Byte) : List Host.Cell := if b = 0 then terase m k else tset (terase m k) k b

/-- n bytes from a key as a little-endian number. -/
def readMem (m : List Host.Cell) (k : Nat) : Nat → Nat
  | 0 => 0
  | n + 1 => (readByte m k).toNat + 256 * readMem m (k + 1) n

/-- Write n bytes of a number from a key, little-endian. -/
def writeMem (m : List Host.Cell) (k : Nat) : Nat → Nat → List Host.Cell
  | 0, _ => m
  | n + 1, v => writeMem (writeByte m k (BitVec.ofNat 8 v)) (k + 1) n (v / 256)

/-- The canonical form: keys rising and no byte equal to what an unlisted one reads as. -/
def memWf : List Host.Cell → Bool
  | [] => true
  | [(_, b)] => b != 0
  | (a, b) :: (c, d) :: r => b != 0 && decide (a < c) && memWf ((c, d) :: r)

/-- Whether a granule of [k, k+n) is poisoned; the first such granule (R371). -/
def poisonIn (p : List Nat) (k n : Nat) : Option Nat :=
  (p.filter fun g => decide (k / 16 ≤ g ∧ g * 16 < k + n)).head?

/-- A write of [k, k+n) covers part of a poisoned granule only (R151). -/
def partialPoison (p : List Nat) (k n : Nat) : Option Nat :=
  (p.filter fun g => decide (k / 16 ≤ g ∧ g * 16 < k + n) && !decide (k ≤ g * 16 ∧ g * 16 + 16 ≤ k + n)).head?

/-- A write that covers whole granules clears their poison (R151). -/
def clearPoison (p : List Nat) (k n : Nat) : List Nat := p.filter fun g => !decide (k ≤ g * 16 ∧ g * 16 + 16 ≤ k + n)

/-- Mark every granule of [k, k+n). -/
def markPoison (p : List Nat) (k n : Nat) : List Nat :=
  let new := (List.range ((k + n - 1) / 16 + 1 - k / 16)).map (· + k / 16)
  (p.filter fun g => !decide (k / 16 ≤ g ∧ g * 16 < k + n)) ++ (if n = 0 then [] else new)

/-- A store to storage: n bytes, clearing whole poisoned granules. -/
def State.store (s : State) (k n v : Nat) : State :=
  { s with mem := writeMem s.mem k n v, poison := clearPoison s.poison k n }

def State.load (s : State) (k n : Nat) : Nat := readMem s.mem k n

/-- Clear a range of storage, bytes and poison. -/
def State.zeroRange (s : State) (k n : Nat) : State :=
  { s with mem := s.mem.filter (fun c => !decide (k ≤ c.1 ∧ c.1 < k + n)), poison := clearPoison s.poison k n }

/-! ### Dies and groups behind the logical numbers (R270, R318) -/

/-- The compute layers of a stack, ascending. -/
def State.layersOf (s : State) (k : Nat) : List Nat := (List.range 8).filter fun l => (s.stack k).role.getLsbD l

/-- A compute die is known inside the model as 4 × stack + its place among the stack's compute layers, which a change of the other
stack's map leaves alone; this is its layer. -/
def State.dieLoc (s : State) (d : Nat) : Nat × Nat := (d / 4, ((s.layersOf (d / 4))[d % 4]?).getD 0)
def State.dieExists (s : State) (d : Nat) : Bool := decide (d < 8 ∧ d % 4 < (s.layersOf (d / 4)).length)

/-- The logical number of a die, and the die of a logical number (R270). -/
def State.logDie (s : State) (d : Nat) : Nat := if d < 4 then d else (s.layersOf 0).length + (d - 4)
def State.realDie (s : State) (n : Nat) : Option Nat :=
  let n0 := (s.layersOf 0).length
  if n < n0 then some n else if n - n0 < (s.layersOf 1).length then some (4 + (n - n0)) else none
def State.dieTotal (s : State) : Nat := (s.layersOf 0).length + (s.layersOf 1).length

/-- The near layer of a layer (R270). -/
def nearLayer (l : Nat) : Nat := if l % 2 = 0 then l + 1 else l - 1

/-- The physical group that serves a logical group (R318). -/
def State.physGroup (s : State) (die g : Nat) : Nat := tget g (s.die die).map g

/-- The physical frame of a tile's slice (R421): row-major tile order. -/
def State.sliceFrame (s : State) (t : Nat) : Nat :=
  let pg := s.physGroup (tDie t) (tGroup t)
  (8 * (pg / 20) + tRow t % 8) * 160 + 8 * (pg % 20) + tCol t % 8

/-- Storage key of a slice byte. -/
def State.sliceKey (s : State) (t off : Nat) : Nat :=
  let (k, l) := s.dieLoc (tDie t)
  lirekKey k l (s.sliceFrame t) off

/-- Storage key of a group SRAM byte: bits 13..8 select the segment (R272). -/
def State.groupByteKey (s : State) (g off : Nat) : Nat :=
  let (k, l) := s.dieLoc (g / 320)
  lirekKey k l (20480 + 64 * s.physGroup (g / 320) (g % 320) + off / 256 % 64) (off / 16384 * 256 + off % 256)

/-- The key of a page's remap entry, and the entry (R275). -/
def remapKey (die page : Nat) : Nat := die * 40960 + page
def State.remapEntry (s : State) (die page : Nat) : Remap :=
  let (k, l) := s.dieLoc die
  tget { frame := page, layer := nearLayer l, busy := false, spare := false, dead := false } (s.stack k).remap
    (remapKey die page)

/-- Storage key of a die SRAM byte through the remap table (R274, R275). -/
def State.dieByteKey (s : State) (die off : Nat) : Nat :=
  let e := s.remapEntry die (off / 65536)
  lirekKey (s.dieLoc die).1 e.layer e.frame (off % 65536)

/-- The column a die SRAM offset lies above (R31). -/
def unitCol (off : Nat) : Nat := off / 4096 % 160

/-- The heft agent of a 48-bit offset (R286) and the tile beside it (R287). -/
def agentOf (va : Nat) : Nat :=
  (nf va 16 6) ^^^ (nf va 22 6) ^^^ (nf va 28 6) ^^^ (nf va 34 6) ^^^ (nf va 40 6) ^^^ (nf va 46 2)
def State.agentTile (_s : State) (h : Nat) : Nat :=
  tileKey (4 * (h / 32)) (16 * (h % 32 % 8) + 8) (40 * (h % 32 / 8) + 20)

/-! ### Launches (R309, R311, R314) -/

/-- Bytes lo.. of a 64-byte packet. -/
def pk (p : BitVec 512) (lo n : Nat) : Nat := nf p.toNat (8 * lo) (8 * n)

def Launch.orgr (l : Launch) : Nat := pk l.packet 10 1
def Launch.rows (l : Launch) : Nat := pk l.packet 11 1
def Launch.orgc (l : Launch) : Nat := pk l.packet 12 2
def Launch.cols (l : Launch) : Nat := pk l.packet 14 2
def Launch.levels (l : Launch) : Nat := pk l.packet 17 1 % 16
def Launch.parkCap (l : Launch) : Nat := pk l.packet 19 1
def Launch.slice (l : Launch) : Nat := pk l.packet 20 2 * 256
def Launch.cnt (l : Launch) : Nat := pk l.packet 22 2
def Launch.goff (l : Launch) : Nat := pk l.packet 24 4
def Launch.glen (l : Launch) : Nat := pk l.packet 28 4
def Launch.doff (l : Launch) : Nat := pk l.packet 32 4
def Launch.dlen (l : Launch) : Nat := pk l.packet 36 4
/-- The park area is the top PARK × 160 bytes of the slice reservation (R311). -/
def Launch.parkBase (l : Launch) : Nat := l.slice - l.parkCap * 160
/-- The launch's own top level (R310). -/
def Launch.top (l : Launch) : Nat :=
  if nb l.levels 3 then 3 else if nb l.levels 2 then 2 else if nb l.levels 1 then 1 else 0

/-- The current logical die for a die number of the launch (R314); none when the launch does not hold it. -/
def Launch.dieNow (l : Launch) (d : Nat) : Option Nat := (l.dies.findIdx? (· == d)).bind fun i => l.cur[i]?
/-- The launch's own number for a logical die it now holds. -/
def Launch.dieOwn (l : Launch) (d : Nat) : Nat := ((l.cur.findIdx? (· == d)).bind fun i => l.dies[i]?).getD d

/-- Whether a logical coordinate lies in the launch's rectangle. -/
def Launch.inRect (l : Launch) (row col : Nat) : Bool :=
  decide (l.orgr ≤ row ∧ row < l.orgr + l.rows ∧ l.orgc ≤ col ∧ col < l.orgc + l.cols)
/-- Whether the rectangle touches a group. -/
def Launch.touches (l : Launch) (g : Nat) : Bool :=
  decide (l.orgr < 8 * (g / 20) + 8 ∧ 8 * (g / 20) < l.orgr + l.rows ∧
    l.orgc < 8 * (g % 20) + 8 ∧ 8 * (g % 20) < l.orgc + l.cols)

/-- The displacement of the twin copy (R329): columns, or rows when it does not fit. -/
def twinShift (l : Launch) (t : Nat) : Nat := t + l.twinOff

/-- The tile a launch's thread on tile t means by coordinates: its own copy of a twin launch (R329). -/
def State.copyTile (s : State) (t die row col : Nat) : Nat :=
  let base := tileKey die row col
  if (s.tile t).twin then twinShift (s.launch (s.tile t).lid) base else base

/-- The coordinates a program sees for a tile: a twin sees its primary's (R329). -/
def State.seenTile (s : State) (t : Nat) : Nat :=
  if (s.tile t).twin then t - (s.launch (s.tile t).lid).twinOff else t

/-- The tiles of a launch on one logical die, row-major, primary copy. -/
def Launch.tilesOn (l : Launch) (d : Nat) : List Nat :=
  ((List.range l.rows).map fun i => (List.range l.cols).map fun j => tileKey d (l.orgr + i) (l.orgc + j)).flatten
/-- All tiles of a launch, its primary copy, in die order. -/
def Launch.tiles (l : Launch) : List Nat := (l.cur.map l.tilesOn).flatten
/-- All tiles with the twin copy. -/
def Launch.allTiles (l : Launch) : List Nat := l.tiles ++ (if l.twin then l.tiles.map (twinShift l) else [])

/-! ### Windows (R31) -/

/-- A decoded address. -/
inductive Win where
  | loc (off : Nat)
  | tile (row col off : Nat)
  | group (self : Bool) (g off : Nat)
  | die (self : Bool) (d off : Nat)
  | package (off : Nat)
  | pod (id off : Nat)
  | ctrl (block off : Nat)
  | system (pod id off : Nat)
  deriving DecidableEq, Repr

/-- The fields of an address, or none where R31 makes it WINDOW. The row of SYSTEM bounds no package id: one of 3,072 or more decodes, as a
package that is not there (log 97). -/
def decodeWin (ea : Word) : Option Win :=
  match wf ea 56 8 with
  | 0 => if wf ea 16 40 = 0 then some (.loc (wf ea 0 16)) else none
  | 1 => if wf ea 40 8 < 128 ∧ wf ea 32 8 < 160 ∧ wf ea 48 8 = 0 ∧ wf ea 16 16 = 0
      then some (.tile (wf ea 40 8) (wf ea 32 8) (wf ea 0 16)) else none
  | 2 => if wf ea 42 14 = 0 ∧ wf ea 22 10 = 0 ∧ wf ea 32 9 < 320 ∧ (wf ea 41 1 = 1 → wf ea 32 9 = 0)
      then some (.group (wf ea 41 1 == 1) (wf ea 32 9) (wf ea 0 22)) else none
  | 3 => if wf ea 36 20 = 0 ∧ wf ea 0 32 < 0xA0000000 ∧ (wf ea 35 1 = 1 → wf ea 32 3 = 0)
      then some (.die (wf ea 35 1 == 1) (wf ea 32 3) (wf ea 0 32)) else none
  | 4 => if wf ea 48 8 = 0 then some (.package (wf ea 0 48)) else none
  | 5 => if wf ea 48 8 = 0 ∧ wf ea 36 12 < 3072 then some (.pod (wf ea 36 12) (wf ea 0 36)) else none
  | 6 => if wf ea 24 32 = 0 ∧ wf ea 16 8 < 4 then some (.ctrl (wf ea 16 8) (wf ea 0 16)) else none
  | 8 => some (.system (wf ea 48 8) (wf ea 36 12) (wf ea 0 36))
  | _ => none

/-- Where an access goes once the thread's place is known: the tile, group or die meant. -/
inductive Place where
  | slice (t off : Nat)
  | group (g off : Nat)
  | die (d off : Nat)
  | package (off : Nat)
  | pod (id off : Nat)
  | ctrl (block off : Nat)
  | system (pod id off : Nat)
  deriving DecidableEq, Repr

/-- The place an address of a thread on tile t means; none where a die or group is not the launch's (R31, R314). -/
def State.place (s : State) (t : Nat) (w : Win) : Option Place :=
  let l := s.launch (s.tile t).lid
  match w with
  | .loc off => some (.slice t off)
  | .tile r c off => some (.slice (s.copyTile t (tDie t) r c) off)
  | .group self g off =>
    some (.group (groupKey (tDie t) (if self then tGroup (s.seenTile t) else g)) off)
  | .die self d off => (if self then some (tDie t) else l.dieNow d).map fun d => .die d off
  | .package off => some (.package off)
  | .pod id off => some (.pod id off)
  | .ctrl b off => some (.ctrl b off)
  | .system p id off => some (.system p id off)

/-- Whether n bytes at an address lie inside the launch's reservation and outside its park area (R144, R311). -/
def State.reserved (s : State) (t : Nat) (w : Win) (n : Nat) : Bool :=
  let l := s.launch (s.tile t).lid
  match w with
  | .loc off => decide (off + n ≤ l.parkBase)
  | .tile r c off => l.inRect r c && decide (off + n ≤ l.parkBase)
  | .group self g off =>
    l.touches (if self then tGroup (s.seenTile t) else g) && decide (l.goff ≤ off ∧ off + n ≤ l.goff + l.glen)
  | .die self d off =>
    (self || (l.dieNow d).isSome) && decide (l.doff ≤ off ∧ off + n ≤ l.doff + l.dlen)
  | .package off => decide (off + n ≤ 2 ^ 48)
  | .pod _ off => decide (off + n ≤ 2 ^ 36)
  | .ctrl _ _ => true
  | .system _ _ off => decide (off + n ≤ 2 ^ 36)

/-- The governing level of a read (R31); none where there is none. -/
def State.govLevel (s : State) (t : Nat) (w : Win) : Option Nat :=
  match w with
  | .loc _ => none
  | .tile _ _ _ => none
  | .group self g _ => some (if self || g == tGroup (s.seenTile t) then 0 else 1)
  | .die self d _ => some (if self || (s.launch (s.tile t).lid).dieNow d == some (tDie t) then 1 else 2)
  | .package _ => some 2
  | .pod _ _ => some 3
  | .ctrl _ _ => none
  | .system _ _ _ => none

/-- The phase bit of a level at a tile (R29). -/
def Tile.phaseBit (t : Tile) (l : Nat) : Bool := t.phase.getLsbD l

/-- Whether a GROUP or DIE place lies in a marked code region of the launch; the region's number (R30, R365). -/
def Launch.regionAt (l : Launch) (isDie : Bool) (off n : Nat) : Option Nat :=
  l.regions.findIdx? fun r => r.die == isDie && decide (r.base < off + n ∧ off < r.base + r.len)

/-- The storage key of a place that has one without translation. -/
def State.placeKey (s : State) : Place → Option Nat
  | .slice t off => some (s.sliceKey t off)
  | .group g off => some (s.groupByteKey g off)
  | .die d off => some (s.dieByteKey d off)
  | _ => none

/-- Whether n bytes at an offset of a slice cannot be read: the LOCAL offset of the first bad granule, when the slice has no storage or one is
poisoned (R281, R371). -/
def State.badGranule (s : State) (t off n : Nat) : Option Nat :=
  if (s.tile t).unusable then some (off / 16 * 16)
  else (poisonIn s.poison (s.sliceKey t off) n).map fun g => g * 16 - s.sliceKey t 0

/-- A group or die whose storage is lost: reads are poison and stores refused (R281, R276). -/
def State.placeDead (s : State) : Place → Bool
  | .slice t _ => (s.tile t).unusable
  | .group g _ => (s.group g).dead
  | .die d off => (s.remapEntry d (off / 65536)).dead
  | _ => false

/-! ### Messages and free values -/

/-- The next free value's number, and the state after it is taken. -/
def State.draw (s : State) : Nat × State := (s.ctr, { s with ctr := s.ctr + 1 })

/-- Put a message in flight, to arrive after at least min cycles (R440; the rest is free, log 1). -/
def State.send (s : State) (min : Nat) (m : Msg) : State :=
  { s with flight := s.flight ++ [{ num := s.next, due := s.now + min + Config.delay s.ctr, msg := m }],
           next := s.next + 1, ctr := s.ctr + 1 }

/-- Put a message in flight that arrives at exactly a cycle the spec fixes. -/
def State.sendAt (s : State) (at_ : Nat) (m : Msg) : State :=
  { s with flight := s.flight ++ [{ num := s.next, due := at_, msg := m }], next := s.next + 1 }

/-- Put a message in flight that arrives after 1 to max cycles, a bound the spec gives. -/
def State.sendWithin (s : State) (max : Nat) (m : Msg) : State :=
  { s.sendAt (s.now + 1 + Config.delay s.ctr % max) m with ctr := s.ctr + 1 }

/-- The message the step concerns, and the state without it. -/
def State.arrived (s : State) : Option Msg := (s.flight.find? fun f => f.num == s.ev.num).map Flight.msg
def State.taken (s : State) : State := { s with flight := s.flight.filter fun f => f.num != s.ev.num }

/-- An error that the management core counts, under a key: the newest four are kept (R385, R387). -/
def State.logErr (s : State) (key addr : Nat) : State :=
  { s with mgmt := { s.mgmt with errLog := tset s.mgmt.errLog key (((s.now, addr) :: tget [] s.mgmt.errLog key).take 4) } }

/-- What is counted under some keys starts afresh. -/
def State.forgetErrs (s : State) (f : Nat → Bool) : State :=
  { s with mgmt := { s.mgmt with errLog := s.mgmt.errLog.filter fun e => !f e.1 } }

/-- Four errors of a key came within 1 s (R385, R387). -/
def State.fourErrs (s : State) (es : List (Nat × Nat)) : Bool :=
  match es[3]? with
  | some e => decide (s.now < e.1 + 1250000000)
  | none => false

/-- Keys of the counts: a symbol position of a rank; a slice bank, interleaved at 16 bytes; a group SRAM segment; the share above a column of
a memory layer (R194, R272, R280, R387). -/
def symKey (rank pos : Nat) : Nat := rank * 32 + pos
def sliceBankKey (t o : Nat) : Nat := 2 ^ 22 + t * 8 + o / 16 % 8
def groupBankKey (g o : Nat) : Nat := 2 ^ 23 + g * 64 + o / 256 % 64
def columnKey (k l col : Nat) : Nat := 2 ^ 24 + (k * 8 + l) * 160 + col

/-- A readiness bit (R408). -/
def State.isReady (s : State) (bit : Nat) : Bool := s.mgmt.ready.getLsbD bit

/-! ### Events (R37) and readyings (R20) -/

/-- Set event bit b in one slot, waking it from SLEEP where the sleeping instruction wakes on it (R37, R239). -/
def Slot.event (sl : Slot) (b : Nat) : Slot :=
  if sl.st = .free ∨ sl.st = .out then sl else
  let bit := BitVec.ofNat 8 (2 ^ b)
  let sl' := { sl.setEvt (sl.evt ||| bit) with evtNew := sl.evtNew ||| (bit &&& ~~~sl.evt) }
  if sl.st = .sleep then
    match sl.idle with
    | none => { sl' with st := .run }
    | some smp => if smp.getLsbD b then sl' else { sl' with st := .run }
  else sl'

/-- Set an event bit in every thread resident in a context slot of a tile (R37). -/
def Tile.event (t : Tile) (b : Nat) : Tile := { t with slots := t.slots.map fun p => (p.1, p.2.event b) }
def State.event (s : State) (t b : Nat) : State := s.updTile t fun tl => tl.event b

/-- Readying a filled routine slot (R20): RDY, and MRG when it was ready already. Of several readyings of one cycle an earlier source by
R231 is applied first, so it leaves the argument of a later one; the selector sees the slot from the next cycle. -/
def Routine.ready (r : Routine) (now src : Nat) (arg : Word) : Routine :=
  { r with rarg := if r.lastAt = now ∧ src < r.lastBy then r.rarg else arg, rdy := true, mrg := r.mrg || r.rdy,
           from_ := if r.rdy then r.from_ else now + 1, lastAt := now, lastBy := if r.lastAt = now then max src r.lastBy else src }

/-- Ready routine slot i of a tile with an argument, from a source of R231: 0 an instruction, 1 an inbox arrival, 2 a drover completion, 3 a
counter task (R20): discarded and counted with VLD = 0, merged when already ready. -/
def Tile.ready (t : Tile) (now src i : Nat) (arg : Word) : Tile :=
  let r := t.routine i
  if r.vld then
    ({ t with routines := tset t.routines i (r.ready now src arg), rmrg := if r.rdy then t.rmrg + 1 else t.rmrg }).event 7
  else { t with rmrg := t.rmrg + 1 }

/-- Place an entry in an inbox, with event bit 1 and the readying its HANDLER byte asks for (R226, R227); KIND 2 is a drover completion. -/
def Tile.place (t : Tile) (now : Nat) (e : Entry) (arg : Word) : Tile :=
  let t := ({ t with inbox := t.inbox ++ [e] }).event 1
  let kind := nf e.toNat 0 16
  if e.getLsbD 47 && kind != 5 then t.ready now (if kind = 2 then 2 else 1) (nf e.toNat 40 5) arg else t

/-- Bytes of an inbox entry. -/
def ef (e : Entry) (lo n : Nat) : Nat := nf e.toNat (8 * lo) (8 * n)

/-! ### Flocks (R129, R130) -/

/-- A member that has forwarded words left to execute, or is executing one (R127). -/
def Slot.streaming (sl : Slot) : Bool := sl.flk == 2 && (!sl.stream.isEmpty || sl.pend.isSome || sl.fwd.isSome)

/-- One slot's part in the dissolution of the flock of bellwether b (R129): an attached follower first executes the words already
forwarded, so it loses its flock now and FLK when its stream is empty (`State.settle`); another member takes FLK = 0b00 at once, and one
waiting at a REJOIN goes on. -/
def Slot.dissolve (b : Nat × Nat) (sl : Slot) : Slot :=
  if sl.flock = some b then
    if sl.streaming then { sl with flock := none } else
    let sl' := { sl.setFlk 0 with flock := none, notices := [] }
    match sl.wait with
    | .rejoin len => sl'.complete (sl'.pc + BitVec.ofNat 64 len) true
    | _ => sl'
  else sl

/-- Dissolve the flock of the bellwether on tile t, slot u. -/
def State.dissolve (s : State) (t u : Nat) : State :=
  { s with tiles := s.tiles.map fun p => (p.1, { p.2 with slots := p.2.slots.map fun q => (q.1, q.2.dissolve (t, u)) }) }

/-- What a trap, a walk or EXIT does first to the flock of the thread: a bellwether's flock dissolves, an attached follower
detaches (R25, R130). -/
def State.leaveFlock (s : State) (t u : Nat) (detach : Nat) : State :=
  let s' := match (s.slot t u).flk with
    | 1 => s.dissolve t u
    | 0 => s
    | _ => s.updSlot t u fun sl =>
        if detach = 0 then { sl.setFlk 0 with flock := none, notices := [] }
        else if sl.flk = 2 then { sl.setFlk (if sl.flock.isSome then detach else 0) with notices := [] } else sl
  s'.updSlot t u fun sl => { sl with stream := [], pend := none }

/-! ### Taking an exception (R40, R240, R361..R363) -/

/-- What a trap reports. -/
structure TrapInfo where
  cause : Cause
  /-- the pc the message names, and the resume pc. -/
  pc : Word
  resume : Word
  addr : Word
  detail : Nat
  /-- FLAGS byte of the message: bit 1 REFUSAL, 2 OVERFLOW, 3 ENGINE. -/
  mflags : Nat

/-- The 32-byte trap message of R362. -/
def trapEntry (code mflags row col slot die : Nat) (pc addr : Word) (tag lid detail : Nat) : Entry :=
  BitVec.ofNat 256 (5 + code * 2 ^ 16 + mflags * 2 ^ 24 + row * 2 ^ 32 + col * 2 ^ 40 + (slot % 8 + die % 8 * 8) * 2 ^ 48 +
    pc.toNat * 2 ^ 64 + addr.toNat * 2 ^ 128 + (tag % 65536 + lid % 65536 * 65536 + detail % 2 ^ 32 * 2 ^ 32) * 2 ^ 192)

/-- The supervisor tile of a partition on a die: the north-west tile of its rectangle (R418). -/
def State.supTile (s : State) (p d : Nat) : Nat := tileKey d (8 * (s.part p).grow0) (8 * (s.part p).gcol0)

/-- The partition has a supervisor tile on a die (R418). -/
def State.hasSup (s : State) (p d : Nat) : Bool := (s.part p).valid && (s.part p).dies.getLsbD (s.logDie d)

/-- A trap message that its parked slot has not delivered stays queued when the slot goes on (R363). -/
def State.keepMsg (s : State) (t u : Nat) : State :=
  let sl := s.slot t u
  match sl.trapMsg with
  | none => s
  | some e => (s.updDie (tDie t) fun d => { d with late := d.late ++ [(sl.trapSeq, (s.launch sl.lid).part, e)] }).updSlot t u fun sl =>
      { sl with trapMsg := none }

/-- Take a trap of the thread in slot u of tile t (R40): its flock first follows R130; the slot parks with its context in
place, its tag advances, and its trap message waits in the slot (R363) or goes to the management core when the thread was at
supervisor level. -/
def State.trapAt (s : State) (t u : Nat) (i : TrapInfo) : State :=
  let s := (s.leaveFlock t u 3).keepMsg t u
  let sl := s.slot t u
  let tag := (sl.tag + 1) % 65536
  let seen := s.seenTile t
  let die := (s.launch sl.lid).dieOwn (tDie t)
  let e := trapEntry i.cause.code i.mflags (tRow seen) (tCol seen) u die i.pc i.addr tag sl.lid i.detail
  let s := s.updSlot t u fun sl => { sl with st := .park, wait := .none, tag := tag, cause := i.cause.code, pc := i.resume,
                                             fwd := none, refusedWalk := false, idle := none, line := none, back := none,
                                             parkReq := false, trapMsg := if sl.priv then none else some e,
                                             trapSeq := s.next }
  let s := { s with next := s.next + 1 }
  if sl.priv then { s with toMgmt := e :: s.toMgmt } else s

/-- The executing thread traps at its own word: pc and resume pc are that word's. -/
def State.trap (s : State) (c : Cause) (addr : Word) (detail : Nat) : State :=
  s.trapAt s.curTile s.curSlot { cause := c, pc := s.cur.pc, resume := s.cur.pc, addr := addr, detail := detail, mflags := 0 }

/-- A trap message that names no thread waits in the die queue of 64 for its destination (R363); one that finds the queue full
is dropped and counted. -/
def State.queueMsg (s : State) (d dest : Nat) (e : Entry) : State :=
  { s.updDie d fun di =>
      if di.trq.length < 64 then { di with trq := di.trq ++ [(s.next, dest, e)] }
      else { di with trlost := min (di.trlost + 1) (2 ^ 32 - 1) } with next := s.next + 1 }

/-- A NOTHREAD message about a tile (R362, R363). -/
def State.tileMsg (s : State) (code t : Nat) (addr : Word) (lid detail : Nat) : State :=
  s.queueMsg (tDie t) 0 (trapEntry code 1 (tRow t) (tCol t) 0 (s.logDie (tDie t)) 0 addr 0 lid detail)

/-- An error record of R373: to the supervisors of the die, and to the management core. -/
def State.record (s : State) (code d row col : Nat) (addr : Word) (lid detail : Nat) : State :=
  let e := trapEntry code 1 row col 0 (s.logDie d) 0 addr 0 lid detail
  { s.queueMsg d 1 e with toMgmt := e :: s.toMgmt }

/-- An error record about HBM4 or a base die: through die 0's queue to the c:FBSVC tile, and to the management core. -/
def State.baseRecord (s : State) (code : Nat) (addr : Word) (detail : Nat) : State :=
  let e := trapEntry code 1 0 0 0 0 0 addr 0 0 detail
  { s.queueMsg 0 2 e with toMgmt := e :: s.toMgmt }

/-! ### Return from an exception (R241) and the end of a thread (R134) -/

/-- A free slot; its number of parks so far stays. -/
def Slot.freed (sl : Slot) : Slot := { Slot.fresh with tag := sl.tag }

/-- Clear the RUN bit of a thread's routine, wherever it has walked to (R19); the selector sees it from the next cycle (R231). -/
def State.clearRun (s : State) (h : Option (Nat × Nat)) : State :=
  match h with
  | none => s
  | some (t, i) => s.updTile t fun tl => { tl with routines := tset tl.routines i { tl.routine i with run := false, from_ := s.now + 1 } }

/-- The parked slot returns to RUN at a pc (R241). -/
def Slot.eret (sl : Slot) (pc : Word) : Slot :=
  { sl with st := .run, pc := pc, wait := .none, line := none, trapMsg := none, heldD := none }

/-! ### Waits shared by walks, hurdle arrivals, LNCH and EXIT (R16) -/

/-- The number of a thread's sequencer entries and matrix commands that are not complete. -/
def Tile.engineBusy (t : Tile) (u : Nat) : Bool :=
  (t.seq.any fun e => e.slot == u && e.st != .done) || (t.mq.any fun c => c.slot == u)

/-- R16: loads have returned, N, P and F are zero, vector and matrix work is complete. -/
def State.drained (s : State) (t u : Nat) : Bool :=
  let sl := s.slot t u
  sl.cntN == 0 && sl.cntP == 0 && sl.cntF == 0 && !(s.tile t).engineBusy u

/-- The counts a wait field or WAITC names: bit 0 N, 1 P, 2 F. -/
def Slot.countsZero (sl : Slot) (m : Nat) : Bool :=
  (!nb m 0 || sl.cntN == 0) && (!nb m 1 || sl.cntP == 0) && (!nb m 2 || sl.cntF == 0)

/-- The mask of a two-bit wait field (R36). -/
def waitMask (w : BitVec 2) : Nat := match w.toNat with
  | 1 => 1 | 2 => 2 | 3 => 4 | _ => 0

/-! ### Landing and arrival counters (R291) -/

/-- Counter keys by controller: slice, group, die SRAM table, heft agent (R288). -/
def ctrBase (kind idx : Nat) : Nat := match kind with
  | 0 => idx * 16
  | 1 => 2 ^ 30 + idx * 64
  | 2 => 2 ^ 32 + idx * 2048
  | _ => 2 ^ 34 + idx * 512
def ctrCount (kind : Nat) : Nat := match kind with
  | 0 => 16 | 1 => 64 | 2 => 2048 | _ => 512

/-- The offset a watched address has at its controller: the window's offset field. -/
def ctrOffset (kind : Nat) (base : Word) : Nat := match kind with
  | 0 => wf base 0 16 | 1 => wf base 0 22 | 2 => wf base 0 32 | _ => wf base 0 48

/-- Bytes common to [a, a+n) and [b, b+m). -/
def overlapLen (a n b m : Nat) : Nat := min (a + n) (b + m) - max a b

/-- Add landed bytes (hop 0) or an addition to an entry (R293, R298): a saturating count, OVER after a single firing; what brings COUNT to
TOTAL causes the firing, and so gives its hop count. -/
def Counter.add (c : Counter) (n hop : Nat) : Counter :=
  if n = 0 ∨ (c.st ≠ 1 ∧ c.st ≠ 2) then c else
  { c with count := min (c.count + n) (2 ^ 32 - 1), ovr := c.ovr || c.st == 2,
           hop := if c.count < c.total then (if c.count + n < c.total then 0 else hop) else max c.hop hop }

/-- n bytes land at an offset of a controller: they count in every armed or fired entry that watches them (R291). An address of
PACKAGE memory is one of a partition (R354): it counts for that partition's launches. -/
def State.land (s : State) (part kind idx off n : Nat) : State :=
  { s with counters := s.counters.map fun p =>
      if decide (ctrBase kind idx ≤ p.1 ∧ p.1 < ctrBase kind idx + ctrCount kind) && (kind != 3 || (s.launch p.2.lid).part == part)
      then (p.1, p.2.add (overlapLen off n (ctrOffset kind p.2.base) p.2.len) 0) else p }

/-- A committed write of n bytes to a slice: stored and counted. -/
def State.sliceStore (s : State) (t off n v : Nat) : State := (s.store (s.sliceKey t off) n v).land 0 0 t off n

end Sys2Proof.Machine
end

