-- ==== Sys2Proof/Machine/Flags.lean ====
section
/-! DEFINITION. Flags: the five FP flags (R14, R56) and the handling of raised flags (R57, R58). -/

namespace Sys2Proof.Machine

/-- The flags in the bit order of FLAGS: bit 4 IV, 3 DZ, 2 OF, 1 UF, 0 IX (R14). -/
abbrev Fl := BitVec 5
def flNone : Fl := 0#5
def flIV : Fl := 16#5
def flDZ : Fl := 8#5
def flOF : Fl := 4#5
def flUF : Fl := 2#5
def flIX : Fl := 1#5

/-- A flag if a condition holds. -/
def flIf (c : Bool) (f : Fl) : Fl := if c then f else 0#5

/-- The end of a scalar FP word (R57, R135): FLAGS collects what was raised; a raised flag that is enabled traps FPX at the
word and x[d] is not written; otherwise x[d] is the result. -/
def State.fpEnd (s : State) (d : Reg) (res : Word) (fl : Fl) : State :=
  let s' := s.updCur fun sl => sl.orFlags fl
  if fl &&& s.cur.enable ≠ 0#5 then s'.trap .fpx 0 fl.toNat else s'.wr d res 4

/-- Merge the flags of a completed engine word into the issuing thread (R58): if one is enabled, an FPX is due at the thread's
next boundary, naming the word's pc. A thread that has executed its EXIT only drains: its flags are discarded, and an enabled one is
told to the supervisor as an FPX of no thread (DEDUCED, log 80). Where two words raise enabled flags before that boundary one FPX is due, of the
later word's pc and both words' flags (DESIGN CHOICE, log 95; unsafe). -/
def State.mergeFlags (s : State) (t u lid : Nat) (pc : Word) (fl : Fl) : State :=
  let sl := s.slot t u
  if sl.st = .free ∨ sl.lid ≠ lid then s else
  if sl.wait = .exit then
    if fl &&& sl.enable ≠ 0#5 then s.tileMsg Cause.fpx.code t 0 lid fl.toNat else s
  else
  s.updSlot t u fun sl => { sl.orFlags fl with
    fpx := if fl &&& sl.enable ≠ 0#5 then some (pc, fl ||| (sl.fpx.map fun x => x.2.1).getD 0#5, true) else sl.fpx }

end Sys2Proof.Machine
end

