-- ==== Sys2Proof/Machine/Fp.lean ====
section
/-! DEFINITION. Fp: the floating-point formats, one rounding and every scalar operation, on exact dyadic numbers (R50..R66,
R136..R142, R178). A value is computed exactly, or with a sticky last bit below every rounding position, and rounded once. -/

namespace Sys2Proof.Machine

/-- A format of R50: exponent and fraction widths and bias; `noInf` for E4M3. -/
structure Fmt where
  eb : Nat
  fb : Nat
  bias : Nat
  noInf : Bool
  /-- a conversion into it saturates (R54). -/
  sat : Bool
  deriving DecidableEq, Repr

def fmt64 : Fmt := { eb := 11, fb := 52, bias := 1023, noInf := false, sat := false }
def fmt32 : Fmt := { eb := 8, fb := 23, bias := 127, noInf := false, sat := false }
def fmt16 : Fmt := { eb := 5, fb := 10, bias := 15, noInf := false, sat := false }
def fmtB16 : Fmt := { eb := 8, fb := 7, bias := 127, noInf := false, sat := false }
def fmtE5M2 : Fmt := { eb := 5, fb := 2, bias := 15, noInf := false, sat := true }
def fmtE4M3 : Fmt := { eb := 4, fb := 3, bias := 7, noInf := true, sat := true }

/-- The precision field of R45. -/
def precFmt (p : BitVec 2) : Fmt := match p.toNat with
  | 0 => fmt64 | 1 => fmt32 | 2 => fmt16 | _ => fmtB16

/-- The format of a type code of R44. -/
def tyFmt (t : Nat) : Fmt := match t with
  | 8 => fmtE4M3 | 9 => fmtE5M2 | 10 => fmtB16 | 11 => fmt16 | 12 => fmt32 | _ => fmt64

def Fmt.width (f : Fmt) : Nat := 1 + f.eb + f.fb

/-- A floating-point datum: a NaN (signalling or not), an infinity, or (-1)^s × m × 2^e. -/
inductive FpVal where
  | nan (sig : Bool)
  | inf (s : Bool)
  | fin (s : Bool) (m : Nat) (e : Int)
  deriving DecidableEq, Repr

/-- The number of bits of a number; 0 for 0. -/
def bitLen (n : Nat) : Nat := if n = 0 then 0 else Nat.log2 n + 1

/-- Read a datum (R50, R51). -/
def unpack (f : Fmt) (v : Nat) : FpVal :=
  let s := nb v (f.eb + f.fb)
  let e := nf v f.fb f.eb
  let m := nf v 0 f.fb
  if e = 2 ^ f.eb - 1 ∧ ¬ f.noInf then (if m = 0 then .inf s else .nan (!nb m (f.fb - 1)))
  else if f.noInf ∧ e = 2 ^ f.eb - 1 ∧ m = 2 ^ f.fb - 1 then .nan false
  else if e = 0 then .fin s m (1 - Int.ofNat f.bias - Int.ofNat f.fb)
  else .fin s (m + 2 ^ f.fb) (Int.ofNat e - Int.ofNat f.bias - Int.ofNat f.fb)

def signBit (f : Fmt) (s : Bool) : Nat := if s then 2 ^ (f.eb + f.fb) else 0

/-- The default NaN (R50). -/
def qnan (f : Fmt) : Nat := if f.noInf then 2 ^ (f.eb + f.fb) - 1 else (2 ^ f.eb - 1) * 2 ^ f.fb + 2 ^ (f.fb - 1)
/-- Infinity; the largest finite value; zero. -/
def infBits (f : Fmt) (s : Bool) : Nat := signBit f s + (2 ^ f.eb - 1) * 2 ^ f.fb
def maxBits (f : Fmt) (s : Bool) : Nat :=
  signBit f s + (if f.noInf then 2 ^ (f.eb + f.fb) - 2 else (2 ^ f.eb - 1) * 2 ^ f.fb - 1)
def zeroBits (f : Fmt) (s : Bool) : Nat := signBit f s

/-- The largest finite magnitude as m × 2^e. -/
def maxMag (f : Fmt) : Nat × Int :=
  if f.noInf then (2 ^ (f.fb + 1) - 2, Int.ofNat (2 ^ f.eb - 1) - Int.ofNat f.bias - Int.ofNat f.fb)
  else (2 ^ (f.fb + 1) - 1, Int.ofNat (2 ^ f.eb - 2) - Int.ofNat f.bias - Int.ofNat f.fb)

/-- m × 2^e as an integer multiple of 2^q rounded by the mode (R53), and whether it is exact. -/
def roundAt (rm : Nat) (s : Bool) (m : Nat) (e q : Int) : Nat × Bool :=
  if q ≤ e then (m * 2 ^ (e - q).toNat, true) else
  let k := (q - e).toNat
  let z := m / 2 ^ k
  let r := m % 2 ^ k
  let up := match rm with
    | 0 => decide (2 ^ k < 2 * r) || (decide (2 * r = 2 ^ k) && z % 2 == 1)
    | 1 => false
    | 2 => !s && decide (r ≠ 0)
    | _ => s && decide (r ≠ 0)
  (if up then z + 1 else z, r == 0)

/-- Whether m1 × 2^e1 < m2 × 2^e2. -/
def magLt (m1 : Nat) (e1 : Int) (m2 : Nat) (e2 : Int) : Bool :=
  let e := min e1 e2
  decide (m1 * 2 ^ (e1 - e).toNat < m2 * 2 ^ (e2 - e).toNat)

/-- What an overflowed result delivers (R54). -/
def overflowBits (f : Fmt) (rm : Nat) (s : Bool) : Nat :=
  if f.sat then maxBits f s else
  match rm with
  | 0 => infBits f s
  | 1 => maxBits f s
  | 2 => if s then maxBits f s else infBits f s
  | _ => if s then infBits f s else maxBits f s

/-- Round the exact nonzero magnitude m × 2^e with sign s once to a format (R53..R55): bits and flags. -/
def roundMag (f : Fmt) (rm : Nat) (s : Bool) (m : Nat) (e : Int) : Nat × Fl :=
  if m = 0 then (zeroBits f s, flNone) else
  let top : Int := Int.ofNat (Nat.log2 m) + e
  let emin : Int := 1 - Int.ofNat f.bias
  let (u, _) := roundAt rm s m e (top - Int.ofNat f.fb)
  let tiny := magLt u (top - Int.ofNat f.fb) 1 emin
  let q : Int := max (top - Int.ofNat f.fb) (emin - Int.ofNat f.fb)
  let (r, exact) := roundAt rm s m e q
  let (mm, me) := maxMag f
  if magLt mm me r q then (overflowBits f rm s, flOF ||| flIX) else
  let fl := flIf (tiny && !exact) flUF ||| flIf (!exact) flIX
  if r = 0 then (zeroBits f s, fl) else
  let (r, q) := if r = 2 ^ (f.fb + 1) then (2 ^ f.fb, q + 1) else (r, q)
  if r < 2 ^ f.fb then (signBit f s + r, fl)
  else (signBit f s + (q + Int.ofNat f.fb + Int.ofNat f.bias).toNat * 2 ^ f.fb + (r - 2 ^ f.fb), fl)

/-- Append a sticky bit: the value lies strictly between m and m + 1 units, or is exact. -/
def jam (m : Nat) (e : Int) (sticky : Bool) : Nat × Int := (2 * m + b2n sticky, e - 1)

/-- Round an exact dyadic integer multiple; an exact zero has the sign given (R52). -/
def roundInt (f : Fmt) (rm : Nat) (zs : Bool) (i : Int) (e : Int) : Nat × Fl :=
  if i = 0 then (zeroBits f zs, flNone) else roundMag f rm (decide (i < 0)) i.natAbs e

/-- Deliver a value in a format: NaNs become the default NaN, a finite value is rounded. -/
def deliver (f : Fmt) (rm : Nat) : FpVal → Nat × Fl
  | .nan _ => (qnan f, flNone)
  | .inf s => if f.noInf then (maxBits f s, flOF ||| flIX) else (infBits f s, flNone)
  | .fin s m e => roundMag f rm s m e

def FpVal.isNan : FpVal → Bool | .nan _ => true | _ => false
def FpVal.isSnan : FpVal → Bool | .nan g => g | _ => false
def FpVal.isInf : FpVal → Bool | .inf _ => true | _ => false
def FpVal.isZero : FpVal → Bool | .fin _ m _ => m == 0 | _ => false
def FpVal.sign : FpVal → Bool | .inf s => s | .fin s _ _ => s | _ => false
def FpVal.neg : FpVal → FpVal | .inf s => .inf (!s) | .fin s m e => .fin (!s) m e | v => v

/-- The signed integer mantissa of a finite value. -/
def sInt (s : Bool) (m : Nat) : Int := if s then -Int.ofNat m else Int.ofNat m

/-- m1 × 2^e1 + m2 × 2^e2 exactly. -/
def dyAdd (m1 e1 m2 e2 : Int) : Int × Int :=
  let e := min e1 e2
  (m1 * 2 ^ (e1 - e).toNat + m2 * 2 ^ (e2 - e).toNat, e)

/-- The default NaN of a NaN operand, with IV for a signalling one (R51, R56). -/
def nanOf (f : Fmt) (l : List FpVal) : Nat × Fl := (qnan f, flIf (l.any FpVal.isSnan) flIV)

/-- The sign of an exact zero sum of two operands (R52). -/
def zeroSign (rm : Nat) (a b : Bool) : Bool := if a == b then a else rm == 3

/-- The sum of two values, rounded once (R52, R53). -/
def fpAddV (f : Fmt) (rm : Nat) (a b : FpVal) : Nat × Fl :=
  match a, b with
  | .nan _, _ => nanOf f [a, b]
  | _, .nan _ => nanOf f [a, b]
  | .inf s, .inf t => if s == t then (infBits f s, flNone) else (qnan f, flIV)
  | .inf s, _ => (infBits f s, flNone)
  | _, .inf s => (infBits f s, flNone)
  | .fin s m e, .fin t n g =>
    let (i, x) := dyAdd (sInt s m) e (sInt t n) g
    roundInt f rm (zeroSign rm s t) i x

/-- The exact product, or none for an invalid one (0 × infinity). A product with an infinity has the exact product's sign, which R70 calls the
infinity's: of -1 × +Inf it is -Inf (DEDUCED, log 94; unsafe). -/
def fpMulX (a b : FpVal) : Option FpVal :=
  match a, b with
  | .fin s m e, .fin t n g => some (.fin (s != t) (m * n) (e + g))
  | .inf s, .inf t => some (.inf (s != t))
  | .inf s, .fin t n _ => if n = 0 then none else some (.inf (s != t))
  | .fin s m _, .inf t => if m = 0 then none else some (.inf (s != t))
  | _, _ => some (.nan false)

/-- a × b. -/
def fpMul (f : Fmt) (rm : Nat) (a b : FpVal) : Nat × Fl :=
  if a.isNan || b.isNan then nanOf f [a, b] else
  match fpMulX a b with
  | none => (qnan f, flIV)
  | some v => deliver f rm v

/-- a × b + c with one rounding (R136); 0 × infinity raises IV even beside a quiet NaN addend. -/
def fpFma (f : Fmt) (rm : Nat) (negP : Bool) (a b c : FpVal) : Nat × Fl :=
  if a.isNan || b.isNan then nanOf f [a, b, c] else
  match fpMulX a b with
  | none => (qnan f, flIV)
  | some p => fpAddV f rm (if negP then p.neg else p) c

/-- a / b, correctly rounded. -/
def fpDiv (f : Fmt) (rm : Nat) (a b : FpVal) : Nat × Fl :=
  match a, b with
  | .nan _, _ => nanOf f [a, b]
  | _, .nan _ => nanOf f [a, b]
  | .inf _, .inf _ => (qnan f, flIV)
  | .inf s, .fin t _ _ => (infBits f (s != t), flNone)
  | .fin s _ _, .inf t => (zeroBits f (s != t), flNone)
  | .fin s m e, .fin t n g =>
    if n = 0 then (if m = 0 then (qnan f, flIV) else (infBits f (s != t), flDZ))
    else if m = 0 then (zeroBits f (s != t), flNone)
    else
      let k := f.fb + 4 + bitLen n
      let (j, x) := jam (m * 2 ^ k / n) (e - g - Int.ofNat k) (m * 2 ^ k % n != 0)
      roundMag f rm (s != t) j x

/-- The integer square root, by bits from bit k down. -/
def isqrtAux (n : Nat) : Nat → Nat → Nat
  | 0, r => if (r + 1) * (r + 1) ≤ n then r + 1 else r
  | k + 1, r =>
    let r' := r + 2 ^ (k + 1)
    isqrtAux n k (if r' * r' ≤ n then r' else r)
def isqrt (n : Nat) : Nat := isqrtAux n (bitLen n / 2 + 1) 0

/-- The square root (R136). -/
def fpSqrt (f : Fmt) (rm : Nat) (a : FpVal) : Nat × Fl :=
  match a with
  | .nan _ => nanOf f [a]
  | .inf s => if s then (qnan f, flIV) else (infBits f false, flNone)
  | .fin s m e =>
    if m = 0 then (zeroBits f s, flNone)
    else if s then (qnan f, flIV)
    else
      let (m, e) := if e % 2 = 0 then (m, e) else (2 * m, e - 1)
      let k := f.fb + 4
      let n := m * 2 ^ (2 * k)
      let r := isqrt n
      let (j, x) := jam r (e / 2 - Int.ofNat k) (r * r != n)
      roundMag f rm false j x

/-- FMIN and FMAX (R60): -0 below +0, a single NaN gives the other operand, a signalling NaN raises IV. -/
def fpVLt (a b : FpVal) : Bool :=
  match a, b with
  | .inf s, .inf t => s && !t
  | .inf s, .fin _ _ _ => s
  | .fin _ _ _, .inf t => !t
  | .fin s m e, .fin t n g =>
    let (i, x) := dyAdd (sInt s m) e 0 g
    let (j, y) := dyAdd (sInt t n) g 0 e
    decide (i * 2 ^ (x - min x y).toNat < j * 2 ^ (y - min x y).toNat)
  | _, _ => false

/-- Equality of values, with -0 = +0; a NaN equals nothing (R138). -/
def fpVEq (a b : FpVal) : Bool := !a.isNan && !b.isNan && !fpVLt a b && !fpVLt b a

/-- The lesser or greater of two data, as bits (R60). -/
def fpMinMax (f : Fmt) (mx : Bool) (x y : Nat) : Nat × Fl :=
  let a := unpack f x
  let b := unpack f y
  let fl := flIf (a.isSnan || b.isSnan) flIV
  if a.isNan && b.isNan then (qnan f, fl)
  else if a.isNan then (y, fl)
  else if b.isNan then (x, fl)
  else
    let less := fpVLt a b || (a.isZero && b.isZero && a.sign && !b.sign)
    (if mx then (if less then y else x) else (if less then x else y), fl)

/-- The conditions of FCMP (R138): 0 eq, 1 ne, 2 lt, 3 le, 4 un. -/
def fpCmp (cond : Nat) (a b : FpVal) : Bool × Fl :=
  let un := a.isNan || b.isNan
  let sn := flIf (a.isSnan || b.isSnan) flIV
  match cond with
  | 0 => (fpVEq a b, sn)
  | 1 => (!fpVEq a b, sn)
  | 2 => (!un && fpVLt a b, flIf un flIV)
  | 3 => (!un && (fpVLt a b || fpVEq a b), flIf un flIV)
  | _ => (un, sn)

/-- FCLASS (R139). -/
def fpClass (f : Fmt) (a : FpVal) : Nat :=
  match a with
  | .nan g => if g then 2 ^ 8 else 2 ^ 9
  | .inf s => if s then 1 else 2 ^ 7
  | .fin s m _ =>
    if m = 0 then (if s then 2 ^ 3 else 2 ^ 4)
    else if m < 2 ^ f.fb then (if s then 2 ^ 2 else 2 ^ 5)
    else (if s then 2 else 2 ^ 6)

/-- Truncate to n significant bits. -/
def truncSig (n m : Nat) (e : Int) : Nat × Int :=
  let k := bitLen m - n
  (m / 2 ^ k, e + Int.ofNat k)

/-- The delivered approximation: y0 has 15 significant bits of t; then one rounding (R61, R62). `t` is given as m × 2^e with a
sticky remainder. -/
def approxEnd (f : Fmt) (rm : Nat) (s : Bool) (m : Nat) (e : Int) (sticky : Bool) : Nat × Fl :=
  let (mm, me) := maxMag f
  if magLt mm me m e || (sticky && !magLt m e mm me) then (infBits f s, flOF ||| flIX)
  else if magLt m e 1 (0 - Int.ofNat f.bias - Int.ofNat f.fb) then (zeroBits f s, flUF ||| flIX)
  else
    let (y, g) := truncSig 15 m e
    let exactT := !sticky && (roundMag f rm s m e).2 == flNone
    let (r, fl) := roundMag f rm s y g
    let tiny := magLt y g 1 (1 - Int.ofNat f.bias)
    if exactT then (r, fl) else (r, fl ||| flIX ||| flIf tiny flUF)

/-- RCP (R61, R62). -/
def fpRcp (f : Fmt) (rm : Nat) (a : FpVal) : Nat × Fl :=
  match a with
  | .nan _ => nanOf f [a]
  | .inf s => (zeroBits f s, flNone)
  | .fin s m e =>
    if m = 0 then (infBits f s, flDZ) else
    let k := bitLen m + 64
    approxEnd f rm s (2 ^ k / m) (-e - Int.ofNat k) (2 ^ k % m != 0)

/-- RSQ (R61, R62). -/
def fpRsq (f : Fmt) (rm : Nat) (a : FpVal) : Nat × Fl :=
  match a with
  | .nan _ => nanOf f [a]
  | .inf s => if s then (qnan f, flIV) else (zeroBits f false, flNone)
  | .fin s m e =>
    if m = 0 then (infBits f s, flDZ)
    else if s then (qnan f, flIV)
    else
      let (m, e) := if e % 2 = 0 then (m, e) else (2 * m, e - 1)
      let k := bitLen m + 64
      let r := isqrt (2 ^ (2 * k) / m)
      approxEnd f rm false r (-(e / 2) - Int.ofNat k) (r * r * m != 2 ^ (2 * k))

/-- rcp_refine of R63, on data. -/
def fpRcpN (f : Fmt) (rm : Nat) (xb yb : Nat) : Nat × Fl :=
  match unpack f xb, unpack f yb with
  | x, .inf _ => let _ := x; (yb, flNone)
  | .nan g, .fin t n h => if n = 0 then (yb, flNone) else nanOf f [.nan g, .fin t n h]
  | x, .nan g => nanOf f [x, .nan g]
  | .inf s, .fin _ n _ => if n = 0 then (yb, flNone) else (infBits f (!s), flNone)
  | .fin s m e, .fin t n g =>
    if n = 0 then (yb, flNone) else
    let y := sInt t n
    let (i, x) := dyAdd 1 0 (-(sInt s m * y)) (e + g)
    let (j, z) := dyAdd y g (y * i) (g + x)
    roundInt f rm (rm == 3) j z

/-- rsq_refine of R63, on data. -/
def fpRsqN (f : Fmt) (rm : Nat) (xb yb : Nat) : Nat × Fl :=
  match unpack f xb, unpack f yb with
  | x, .inf _ => let _ := x; (yb, flNone)
  | .nan g, .fin t n h => if n = 0 then (yb, flNone) else nanOf f [.nan g, .fin t n h]
  | x, .nan g => nanOf f [x, .nan g]
  | .inf s, .fin t n _ => if n = 0 then (yb, flNone) else (infBits f (s == t), flNone)
  | .fin s m e, .fin t n g =>
    if n = 0 then (yb, flNone) else
    let y := sInt t n
    let (i, x) := dyAdd 1 0 (-(sInt s m * y * y)) (e + 2 * g)
    let (j, z) := dyAdd y g (y * i) (g + x - 1)
    roundInt f rm (rm == 3) j z

/-- FP to FP (R59): to a wider format exact; FP8 saturates (R54). -/
def fpCvt (src dst : Fmt) (rm : Nat) (b : Nat) : Nat × Fl :=
  match unpack src b with
  | .nan g => (qnan dst, flIf g flIV)
  | v => deliver dst rm v

/-- The range of an integer type code of R44. -/
def intWidth (t : Nat) : Nat := 8 * 2 ^ (t % 4)
def intSigned (t : Nat) : Bool := decide (t < 4)
def intMin (t : Nat) : Int := if intSigned t then -(2 ^ (intWidth t - 1) : Int) else 0
def intMax (t : Nat) : Int := if intSigned t then 2 ^ (intWidth t - 1) - 1 else 2 ^ intWidth t - 1

/-- A value to an integer type (R59): the integer and the flags. -/
def fpToInt (t rm : Nat) (a : FpVal) : Int × Fl :=
  match a with
  | .nan _ => (0, flIV)
  | .inf s => (if s then intMin t else intMax t, flIV)
  | .fin s m e =>
    let (r, exact) := roundAt rm s m e 0
    let i := sInt s r
    if i < intMin t then (intMin t, flIV) else if intMax t < i then (intMax t, flIV)
    else (i, flIf (!exact) flIX)

/-- An integer to FP (R59). -/
def intToFp (f : Fmt) (rm : Nat) (i : Int) : Nat × Fl := roundInt f rm false i 0

/-! ### 2^x and log2 x, correctly rounded (R178) -/

/-- Working precision, in bits below the point. -/
def expPrec : Nat := 320

/-- The product of the 2^(2^-i) whose bits of the fraction are set, from bit i up; r is 2^(2^-i) in fixed point. -/
def exp2Aux (frac : Nat) : Nat → Nat → Nat → Nat
  | 0, _, acc => acc
  | n + 1, r, acc =>
    let r' := isqrt (r * 2 ^ expPrec)
    exp2Aux frac n r' (if nb frac n then acc * r' / 2 ^ expPrec else acc)

/-- 2^x. -/
def fpExp2 (f : Fmt) (rm : Nat) (a : FpVal) : Nat × Fl :=
  match a with
  | .nan _ => nanOf f [a]
  | .inf s => if s then (zeroBits f false, flNone) else (infBits f false, flNone)
  | .fin s m e =>
    if m = 0 then roundMag f rm false 1 0
    else if magLt (2 ^ 12) 0 m e then roundMag f rm false 1 (if s then -4096 else 4096)
    else
      let i := sInt s m
      if 0 ≤ e then roundMag f rm false 1 (i * 2 ^ e.toNat)
      else
        let k := (-e).toNat
        let whole := i / (2 ^ k : Int)
        let frac := (i % (2 ^ k : Int)).toNat
        if frac = 0 then roundMag f rm false 1 whole
        else
          let r := exp2Aux frac k (2 ^ (expPrec + 1)) (2 ^ expPrec)
          let (j, x) := jam r (whole - Int.ofNat expPrec) true
          roundMag f rm false j x

/-- The fraction bits of log2 of y / 2^expPrec in [1, 2), most significant first. -/
def log2Aux : Nat → Nat → Nat → Nat
  | 0, _, acc => acc
  | n + 1, y, acc =>
    let z := y * y / 2 ^ expPrec
    if 2 ^ (expPrec + 1) ≤ z then log2Aux n (z / 2) (2 * acc + 1) else log2Aux n z (2 * acc)

/-- log2 x. -/
def fpLog2 (f : Fmt) (rm : Nat) (a : FpVal) : Nat × Fl :=
  match a with
  | .nan _ => nanOf f [a]
  | .inf s => if s then (qnan f, flIV) else (infBits f false, flNone)
  | .fin s m e =>
    if m = 0 then (infBits f true, flDZ)
    else if s then (qnan f, flIV)
    else
      let top := Nat.log2 m
      let ex : Int := Int.ofNat top + e
      if m = 2 ^ top then intToFp f rm ex
      else
        let bits := log2Aux 128 (m * 2 ^ expPrec / 2 ^ top) 0
        let v : Int := ex * 2 ^ 128 + Int.ofNat bits
        if 0 ≤ v then
          let (j, x) := jam v.natAbs (-128) true
          roundMag f rm false j x
        else
          let (j, x) := jam (v.natAbs - 1) (-128) true
          roundMag f rm true j x

end Sys2Proof.Machine
end

