-- ==== Sys2Proof/Machine/Fold.lean ====
section
/-! DEFINITION. Fold: the FP64 pair and the three exact accumulators (R64..R73). A fold is its stored bytes as a number. -/

namespace Sys2Proof.Machine

/-! ### Pairs (R64..R66) -/

/-- RNE operations on FP64 data. -/
def d64 (b : Nat) : FpVal := unpack fmt64 b
def rneAdd (a b : Nat) : Nat := (fpAddV fmt64 0 (d64 a) (d64 b)).1
def rneSub (a b : Nat) : Nat := (fpAddV fmt64 0 (d64 a) (d64 b).neg).1
def rneMul (a b : Nat) : Nat := (fpMul fmt64 0 (d64 a) (d64 b)).1
/-- fma_rne(a, b, -c). -/
def rneFms (a b c : Nat) : Nat := (fpFma fmt64 0 false (d64 a) (d64 b) (d64 c).neg).1

/-- The error-free sum of two FP64 values. -/
def twoSum (a b : Nat) : Nat × Nat :=
  let s := rneAdd a b
  let bb := rneSub s a
  (s, rneAdd (rneSub a (rneSub s bb)) (rneSub b bb))

/-- The same when |a| ≥ |b|. -/
def fastTwoSum (a b : Nat) : Nat × Nat :=
  let s := rneAdd a b
  (s, rneSub b (rneSub s a))

/-- A pair as its 16 bytes: hi in bits 63..0, lo in bits 127..64 (R64). -/
def mkPair (hi lo : Nat) : Nat := hi % 2 ^ 64 + lo % 2 ^ 64 * 2 ^ 64

/-- One accumulation step of R65: the pair and the flags. A sum of hi that overflows is the infinity, with lo +0 (R64, log 34). A pair that
hardware has not written may hold an infinity or a NaN in lo under a finite hi: the steps of the pseudocode then end in a NaN, and IV is
raised for a signalling one alone (DEDUCED, log 93; unsafe). -/
def pairStep (acc a b : Nat) : Nat × Fl :=
  let ahi := acc % 2 ^ 64
  let alo := acc / 2 ^ 64 % 2 ^ 64
  let sn := flIf ((d64 a).isSnan || (d64 b).isSnan || (d64 ahi).isSnan || (d64 alo).isSnan) flIV
  let (ph, pf) := fpMul fmt64 0 (d64 a) (d64 b)
  let pfl := pf &&& (flIV ||| flOF)
  if (d64 ph).isInf || (d64 ph).isNan || (d64 ahi).isInf || (d64 ahi).isNan then
    let (r, rf) := fpAddV fmt64 0 (d64 ahi) (d64 ph)
    (mkPair r 0, sn ||| pfl ||| (rf &&& flIV))
  else if (d64 alo).isInf || (d64 alo).isNan then (mkPair (qnan fmt64) 0, sn ||| pfl)
  else
    let pl := rneFms a b ph
    let (s, e) := twoSum ahi ph
    let (t, f) := twoSum alo pl
    let e := rneAdd e t
    let (s', e) := fastTwoSum s e
    let e := rneAdd e f
    let (hi, lo) := fastTwoSum s' e
    if (d64 s).isInf then (mkPair s 0, sn ||| pfl ||| flOF)
    else if (d64 s').isInf then (mkPair s' 0, sn ||| pfl ||| flOF)
    else if (d64 hi).isInf then (mkPair hi 0, sn ||| pfl ||| flOF)
    else if (d64 hi).isZero then
      let negProd := match fpMulX (d64 a) (d64 b) with
        | some p => p.isZero && p.sign
        | none => false
      (mkPair (zeroBits fmt64 ((d64 ahi).isZero && (d64 ahi).sign && negProd)) 0, sn ||| pfl)
    else (mkPair hi (if (d64 lo).isZero then 0 else lo), sn ||| pfl)

/-- The exact value of a pair, or its special value (R66). -/
def pairVal (p : Nat) : FpVal × FpVal := (d64 (p % 2 ^ 64), d64 (p / 2 ^ 64 % 2 ^ 64))

/-- A pair rounded once to a format (R66). A pair whose hi is a zero converts to a zero of hi's sign in every mode; one that hardware has not
written, with an infinity or a NaN in lo under a finite hi, to the default NaN, with IV for a signalling NaN alone (R56; DEDUCED, log 93;
unsafe). -/
def pairToFp (f : Fmt) (rm : Nat) (p : Nat) : Nat × Fl :=
  let (h, l) := pairVal p
  match h, l with
  | .nan _, _ => nanOf f [h, l]
  | .inf s, _ => deliver f rm (.inf s)
  | .fin s m e, .fin t n g =>
    let (i, x) := dyAdd (sInt s m) e (sInt t n) g
    roundInt f rm (if m = 0 then s else rm == 3) i x
  | .fin _ _ _, _ => nanOf f [l]

/-! ### Folds (R67..R72) -/

/-- A fold width: body bits, weight of body bit 0 as an exponent, stored bytes, by the code of R44. -/
def foldBits (fw : Nat) : Nat := match fw with | 0 => 120 | 1 => 640 | _ => 2176
def foldLsb (fw : Nat) : Int := match fw with | 0 => -32 | 1 => -300 | _ => -1074
def foldBytes (fw : Nat) : Nat := match fw with | 0 => 16 | 1 => 96 | _ => 288

/-- The body as an integer, and the four status bits (R67, R68). -/
def foldBody (fw v : Nat) : Int := sx (foldBits fw) v
def foldStatus (fw v : Nat) : Nat := v / 2 ^ foldBits fw % 16

/-- A fold from body and status; reserved bytes are 0. -/
def mkFold (fw : Nat) (body : Int) (st : Nat) : Nat := wrapTo (foldBits fw) body + st % 16 * 2 ^ foldBits fw

/-- Whether an integer lies outside the body's range. -/
def foldOver (fw : Nat) (i : Int) : Bool :=
  decide (i < -(2 ^ (foldBits fw - 1) : Int)) || decide ((2 ^ (foldBits fw - 1) : Int) ≤ i)

/-- Add an exact dyadic term i × 2^e to a fold (R70). A bit below the body's bit 0 cannot occur for the formats of R69. -/
def foldAddInt (fw v : Nat) (i e : Int) : Nat :=
  let t := if foldLsb fw ≤ e then i * 2 ^ (e - foldLsb fw).toNat else i / 2 ^ (foldLsb fw - e).toNat
  let sum := foldBody fw v + t
  mkFold fw sum (foldStatus fw v ||| (if foldOver fw sum then 8 else 0))

/-- fold_add of R70. -/
def foldAdd (fw v : Nat) (a : FpVal) : Nat × Fl :=
  match a with
  | .nan g => (mkFold fw (foldBody fw v) (foldStatus fw v ||| 1), flIf g flIV)
  | .inf s => (mkFold fw (foldBody fw v) (foldStatus fw v ||| (if s then 4 else 2)), flNone)
  | .fin s m e => (foldAddInt fw v (sInt s m) e, flNone)

/-- Add an exact product (R70): an invalid one sets NANS with IV. -/
def foldAddProd (fw v : Nat) (a b : FpVal) : Nat × Fl :=
  if a.isNan || b.isNan then (mkFold fw (foldBody fw v) (foldStatus fw v ||| 1), flIf (a.isSnan || b.isSnan) flIV) else
  match fpMulX a b with
  | none => (mkFold fw (foldBody fw v) (foldStatus fw v ||| 1), flIV)
  | some p => foldAdd fw v p

/-- Add an FP64 product to F2176, split in two parts (R71). -/
def foldAddProd64 (v : Nat) (a b : Nat) : Nat × Fl :=
  let x := d64 a
  let y := d64 b
  if x.isNan || y.isNan || x.isInf || y.isInf then foldAddProd 2 v x y else
  let (ph, pf) := fpMul fmt64 0 x y
  if (d64 ph).isInf then
    let (v', _) := foldAdd 2 v (d64 ph)
    (v', flOF ||| flIX)
  else
    let (pl, lf) := fpFma fmt64 0 false x y (d64 ph).neg
    let _ := pf
    let (v1, f1) := foldAdd 2 v (d64 ph)
    let (v2, f2) := foldAdd 2 v1 (d64 pl)
    (v2, f1 ||| f2 ||| (lf &&& (flUF ||| flIX)))

/-- The sum of two folds of one width (R70). -/
def foldSum (fw a b : Nat) : Nat :=
  let s := foldBody fw a + foldBody fw b
  mkFold fw s (foldStatus fw a ||| foldStatus fw b ||| (if foldOver fw s then 8 else 0))

/-- A fold to a floating-point format (R72). -/
def foldToFp (f : Fmt) (rm fw v : Nat) : Nat × Fl :=
  let st := foldStatus fw v
  if nb st 0 then (qnan f, flNone)
  else if nb st 3 || (nb st 1 && nb st 2) then (qnan f, flIV)
  else if nb st 1 then deliver f rm (.inf false)
  else if nb st 2 then deliver f rm (.inf true)
  else roundInt f rm (rm == 3) (foldBody fw v) (foldLsb fw)

/-- A fold to an integer type (R72, R59). -/
def foldToInt (t rm fw v : Nat) : Int × Fl :=
  let st := foldStatus fw v
  if nb st 0 || nb st 3 || (nb st 1 && nb st 2) then (0, flIV)
  else if nb st 1 then (intMax t, flIV)
  else if nb st 2 then (intMin t, flIV)
  else
    let i := foldBody fw v
    fpToInt t rm (.fin (decide (i < 0)) i.natAbs (foldLsb fw))

/-- The fold width R69 and R183 give a type for exact sums: F128, F640 or F2176. -/
def foldWidthOf (t : Nat) : Nat :=
  if t = 8 ∨ t = 9 ∨ t = 0 ∨ t = 4 then 0 else if t = 13 ∨ t = 14 then 2 else 1

/-- An element of an integer or floating-point type as a value. -/
def elemVal (t v : Nat) : FpVal :=
  if t < 8 then
    let i := if intSigned t then sx (intWidth t) v else Int.ofNat (v % 2 ^ intWidth t)
    .fin (decide (i < 0)) i.natAbs 0
  else unpack (tyFmt t) v

end Sys2Proof.Machine
end

