-- ==== Sys2Proof/Machine/Operands.lean ====
section
/-! DEFINITION. Operands: how a word's fields give its operand values (R81, R82, R45, R135), and the shapes that whole groups of
words share. -/

namespace Sys2Proof.Machine

/-- What a meaning answers. -/
abbrev Res := Host.Outcome State Fault Refusal

/-- An immediate, sign-extended to 64 bits (R81). -/
def imm {n : Nat} (i : BitVec n) : Word := i.signExtend 64

/-- A branch offset in halfwords as a byte displacement (R83, R84). -/
def disp {n : Nat} (o : BitVec n) : Word := i64 o * 2
where i64 {n : Nat} (o : BitVec n) : Word := o.signExtend 64

/-- x[d] := f(x[a], x[b]) (R112). -/
def State.op2 (s : State) (d a b : Reg) (len : Nat) (f : Word → Word → Word) : Res := .next (s.wr d (f (s.xr a) (s.xr b)) len)

/-- x[d] := f(x[a]). -/
def State.op1 (s : State) (d a : Reg) (len : Nat) (f : Word → Word) : Res := .next (s.wr d (f (s.xr a)) len)

/-- A truth value as 1 or 0 (R112). -/
def tw (b : Bool) : Word := if b then 1 else 0

/-- The effective address of a WM word (R82): x[a] + x[b] + sext(imm8) × bytes(size) + k0. -/
def State.ea (s : State) (a b : Reg) (i : BitVec 8) (code : Nat) : Word :=
  s.xr a + s.xr b + imm i * BitVec.ofNat 64 (2 ^ code) + s.cur.kr 0

/-- The rounding mode of a scalar word: RMODE when DYN = 1 (R45, R135). -/
def State.rmOf (s : State) (y : BitVec 1) (r : BitVec 2) : Nat := if y = 1#1 then s.cur.rmode.toNat else r.toNat

/-- A register's low bits as a datum of a precision (R135). -/
def fpOp (p : BitVec 2) (w : Word) : FpVal := unpack (precFmt p) (w.toNat % 2 ^ (precFmt p).width)
def fpBits (p : BitVec 2) (w : Word) : Nat := w.toNat % 2 ^ (precFmt p).width

/-- A branch: to pc + disp when the condition holds, else the next word (R120). -/
def State.branch (s : State) (c : Bool) (o : Word) (len : Nat) : Res :=
  .next (if c then s.jump (s.cur.pc + o) else s.done len)

/-- A scalar FP word with result bits and flags (R57, R135). -/
def State.fp (s : State) (d : Reg) (r : Nat × Fl) : Res := .next (s.fpEnd d (nw r.1) r.2)

end Sys2Proof.Machine
end

