-- ==== Sys2Proof/Machine/AddrComp.lean ====
section
/-! DEFINITION. AddrComp: the operand-extension registers and address composition (R117..R119). -/

namespace Sys2Proof.Machine

/-- k[d] := v and a sequential advance (R117). -/
def State.wk (s : State) (d : BitVec 3) (v : Word) : Res :=
  .next (s.updCur fun sl => (sl.setK d v).complete (sl.pc + 4) true)

/-- MOVK (R117). -/
def execMovk (d : BitVec 3) (i : BitVec 17) (s : State) : Res := s.wk d (imm i)
/-- MOVFK (R117). -/
def execMovfk (d : BitVec 3) (a : Reg) (s : State) : Res := s.wk d (s.xr a)
/-- KGET (R117). -/
def execKget (d : Reg) (a : BitVec 3) (s : State) : Res := .next (s.wr d (s.cur.kr a) 4)

/-- The value of a failed composition: an address of no window (R118). -/
def badWindow : Word := 0xFF00000000000000#64

/-- The placed selector fields of a window, or none where a check of R118 fails. -/
def acompFields (code : Nat) (a b : Word) : Option Nat :=
  let self := decide (a = BitVec.allOnes 64)
  let off := b.toNat
  match code with
  | 0 => if off < 2 ^ 16 then some 0 else none
  | 1 => if wf a 0 8 < 128 ∧ wf a 8 8 < 160 ∧ off < 2 ^ 16 then some (wf a 0 8 * 2 ^ 40 + wf a 8 8 * 2 ^ 32) else none
  | 2 => if off < 2 ^ 22 then (if self then some (2 ^ 41) else if wf a 0 9 < 320 then some (wf a 0 9 * 2 ^ 32) else none)
      else none
  | 3 => if off < 0xA0000000 then some (if self then 2 ^ 35 else wf a 16 3 * 2 ^ 32) else none
  | 4 => if off < 2 ^ 48 then some 0 else none
  | 5 => if wf a 20 12 < 3072 ∧ off < 2 ^ 36 then some (wf a 20 12 * 2 ^ 36) else none
  | 6 => if wf a 0 8 < 4 ∧ off < 2 ^ 16 then some (wf a 0 8 * 2 ^ 16) else none
  | 8 => if wf a 20 12 < 3072 ∧ off < 2 ^ 36 then some (wf a 32 8 * 2 ^ 48 + wf a 20 12 * 2 ^ 36) else none
  | _ => none

/-- ACOMP (R118). -/
def execAcomp (d : BitVec 3) (a b : Reg) (w : BitVec 4) (s : State) : Res :=
  s.wk d (match acompFields w.toNat (s.xr a) (s.xr b) with
    | some f => nw (w.toNat * 2 ^ 56 + f) + s.xr b
    | none => badWindow)

/-- The width of a window's offset field (R119). -/
def offsetBits (code : Nat) : Nat := match code with
  | 2 => 22 | 3 => 32 | 4 => 48 | 5 => 36 | 8 => 36 | _ => 16

/-- ADEC (R119). -/
def execAdec (d : BitVec 3) (a : Reg) (s : State) : Res :=
  let v := s.xr a
  s.wk d (if (decodeWin v).isSome then nw (v.toNat / 2 ^ offsetBits (wf v 56 8) * 2 ^ offsetBits (wf v 56 8)) else badWindow)

end Sys2Proof.Machine
end

