-- ==== Sys2Proof/Machine/Control.lean ====
section
/-! DEFINITION. Control: branches, jumps, hardware loops, flocks, events, yielding and the end of a thread (R120..R134). -/

namespace Sys2Proof.Machine

/-- A trap ILL of an instruction; ADDR is its word (R361). -/
def State.trapIll (s : State) (i : Instr) : State := s.trap .ill (BitVec.ofNat 64 (encodeWord i)) 0

/-- A trap PRIV; ADDR is the word (R361). -/
def State.trapPriv (s : State) (i : Instr) : State := s.trap .priv (BitVec.ofNat 64 (encodeWord i)) 0

/-! ### Branches and jumps (R120, R121) -/

/-- BEQ (R120). -/
def execBeq (a b : Reg) (o : BitVec 17) (s : State) : Res := s.branch (s.xr a == s.xr b) (disp o) 4
/-- BNE (R120). -/
def execBne (a b : Reg) (o : BitVec 17) (s : State) : Res := s.branch (s.xr a != s.xr b) (disp o) 4
/-- BLT (R120). -/
def execBlt (a b : Reg) (o : BitVec 17) (s : State) : Res := s.branch ((s.xr a).slt (s.xr b)) (disp o) 4
/-- BGE (R120). -/
def execBge (a b : Reg) (o : BitVec 17) (s : State) : Res := s.branch (!(s.xr a).slt (s.xr b)) (disp o) 4
/-- BLTU (R120). -/
def execBltu (a b : Reg) (o : BitVec 17) (s : State) : Res := s.branch ((s.xr a).ult (s.xr b)) (disp o) 4
/-- BGEU (R120). -/
def execBgeu (a b : Reg) (o : BitVec 17) (s : State) : Res := s.branch (!(s.xr a).ult (s.xr b)) (disp o) 4
/-- Compact BEQZ (R99, R120). -/
def execBeqzC (d : Reg) (o : BitVec 6) (s : State) : Res := s.branch (s.xr d == 0) (disp o) 2
/-- Compact BNEZ (R99, R120). -/
def execBnezC (d : Reg) (o : BitVec 6) (s : State) : Res := s.branch (s.xr d != 0) (disp o) 2

/-- JAL (R121, R84). -/
def execJal (d : Reg) (o : BitVec 21) (s : State) : Res :=
  let pc := s.cur.pc
  .next ((s.setX d (pc + 4)).jump (pc + disp o))
/-- Compact J (R99, R121): the link is discarded. -/
def execJC (o : BitVec 10) (s : State) : Res := .next (s.jump (s.cur.pc + disp o))

/-- JALR with a word of len bytes (R121): an odd target traps ALIGN and x[d] is unchanged. -/
def State.jalrTo (s : State) (d : Reg) (t : Word) (len : Nat) : State :=
  if t.getLsbD 0 then s.trap .align t 0
  else (s.setX d (s.cur.pc + BitVec.ofNat 64 len)).jump t

/-- JALR (R121). -/
def execJalr (d r : Reg) (o : BitVec 9) (s : State) : Res := .next (s.jalrTo d (s.xr r + disp o) 4)
/-- Compact JALR x0, xd, 0 (R99, R121). -/
def execJalrC (d : Reg) (s : State) : Res := .next (s.jalrTo 0 (s.xr d) 2)

/-! ### Hardware loops (R122) -/

/-- loop_start of R122, with the count n, the body length in halfwords and the word itself. -/
def State.loopStart (s : State) (n len : Nat) (i : Instr) : State :=
  let sl := s.cur
  let start := sl.pc + 4
  let stop := start + BitVec.ofNat 64 (2 * len)
  match sl.loops with
  | _ :: _ :: _ => s.trapIll i
  | outer =>
    if (outer.any fun e => decide (e.stop.toNat < stop.toNat)) then s.trapIll i
    else if n = 0 then s.updCur fun sl => sl.complete stop true
    else s.updCur fun sl =>
      ({ sl with loops := { start := start, stop := stop, remaining := BitVec.ofNat 32 n } :: sl.loops }).complete start true

/-- LOOP (R122): the count is x[c][31..0]. -/
def execLoop (c : Reg) (l : BitVec 13) (s : State) : Res :=
  .next (s.loopStart (wf (s.xr c) 0 32) l.toNat (.loop c l))
/-- LOOPI (R122). -/
def execLoopi (l : BitVec 5) (n : BitVec 12) (s : State) : Res := .next (s.loopStart n.toNat l.toNat (.loopi l n))

/-! ### Flocks (R125..R129) -/

/-- The tiles of a GANG rectangle with its north-west corner at tile t, other than t; as the program sees coordinates. -/
def State.gangTiles (s : State) (t rows cols : Nat) : List Nat :=
  let b := s.seenTile t
  (((List.range rows).map fun i => (List.range cols).map fun j =>
    s.copyTile t (tDie t) (tRow b + i) (tCol b + j)).flatten).filter (· != t)

/-- The rectangle stays in the issuer's tile group and in the launch's rectangle (R125). -/
def State.gangFits (s : State) (t rows cols : Nat) : Bool :=
  let b := s.seenTile t
  let l := s.launch (s.tile t).lid
  decide (tRow b % 8 + rows ≤ 8 ∧ tCol b % 8 + cols ≤ 8) && l.inRect (tRow b + rows - 1) (tCol b + cols - 1)

/-- A tile carries a flock (R125). -/
def Tile.carriesFlock (t : Tile) : Bool := t.slots.any fun p => p.2.flk != 0

/-- The lowest slot of a tile that waits in JOIN for the launch (R126). -/
def Tile.joiner (t : Tile) (lid : Nat) : Option Nat :=
  (List.range 8).find? fun u => match (t.slot u).wait with
    | .join _ => (t.slot u).lid == lid && !(t.slot u).stopped
    | _ => false

/-- A follower attaches (R126): FLK = 0b10, its JOIN is done; the first word the bellwether has not forwarded is the one after its GANG,
and there the follower goes on if the flock dissolves before a word is forwarded (R129, R130). -/
def Slot.attach (sl : Slot) (b : Nat × Nat) (pc : Word) : Slot :=
  match sl.wait with
  | .join len =>
    { (sl.setFlk 2).complete (sl.pc + BitVec.ofNat 64 len) true with pc := pc, flock := some b, stream := [], notices := [] }
  | _ => sl

/-- If every member of the GANG of tile t, slot u waits in JOIN and no tile of the rectangle carries a flock, form the flock: x[d] := 0,
FLK = 0b01 (R125). -/
def State.formFlock (s : State) (t u rows cols : Nat) (d : Reg) : Option State :=
  let ts := s.gangTiles t rows cols
  let lid := (s.slot t u).lid
  if ((t :: ts).any fun m => (s.tile m).carriesFlock) then none
  else if ts.all fun m => ((s.tile m).joiner lid).isSome then
    let bw := { ((((s.slot t u).setX d 0).setFlk 1).complete ((s.slot t u).pc + 4) true) with flock := some (t, u), pend := none }
    let s := ts.foldl (fun s m => match (s.tile m).joiner lid with
      | some v => s.updSlot m v fun sl => sl.attach (t, u) bw.pc
      | none => s) s
    some (s.updSlot t u fun _ => bw)
  else none

/-- GANG (R125): MEMBER, SHAPE and TAKEN are answered at once; else it forms or waits. R125 gives no order among the three; the model takes
MEMBER, SHAPE, TAKEN (DESIGN CHOICE, log 84; unsafe). -/
def execGang (d : Reg) (c r : BitVec 3) (s : State) : Res :=
  let rows := r.toNat + 1
  let cols := c.toNat + 1
  let t := s.curTile
  .next (
    if s.cur.flk ≠ 0 then s.wr d 2 4
    else if !s.gangFits t rows cols then s.wr d 1 4
    else if ((t :: s.gangTiles t rows cols).any fun m => (s.tile m).carriesFlock) then s.wr d 3 4
    else match s.formFlock t s.curSlot rows cols d with
      | some s' => s'
      | none => s.block (.gang rows cols (s.now + 65536) d))

/-- The waiting GANGs that now form, among the slots of the machine. Where two rectangles hold a joiner's tile, which takes it is not said in
R126; the GANG of the lower tile key, then the lower slot, is tried first (DESIGN CHOICE, log 85; unsafe). -/
def State.tryGangs (s : State) : State :=
  let gs := (s.tiles.map fun p => p.2.slots.filterMap fun q => match q.2.wait with
    | .gang r c _ d => if q.2.stopped then none else some (p.1, q.1, r, c, d)
    | _ => none).flatten
  gs.foldl (fun s g => (s.formFlock g.1 g.2.1 g.2.2.1 g.2.2.2.1 g.2.2.2.2).getD s) s

/-- JOIN of len bytes (R126): nothing for a flock member; else the thread waits and a GANG that covers it may form. -/
def State.doJoin (s : State) (len : Nat) : State :=
  if s.cur.flk ≠ 0 then s.done len else (s.block (.join len)).tryGangs

/-- JOIN (R126). -/
def execJoin (s : State) : Res := .next (s.doJoin 4)
/-- Compact JOIN (R99). -/
def execJoinC (s : State) : Res := .next (s.doJoin 2)

/-- GANG_TIMEOUT (R125): 65,536 cc after GANG it forms if it can, else completes with TIMEOUT and attaches no one. -/
def execGangTimeout (s : State) : Res :=
  let t := s.ev.num
  let u := s.ev.a
  .next (match (s.slot t u).wait with
    | .gang rows cols deadline d =>
      if s.now < deadline then s else
      match s.formFlock t u rows cols d with
      | some s' => s'
      | none => s.updSlot t u fun sl => (sl.setX d 4).complete (sl.pc + 4) true
    | _ => s)

/-- The followers of the flock of bellwether b: tile and slot. -/
def State.followers (s : State) (b : Nat × Nat) : List (Nat × Nat) :=
  (s.tiles.map fun p => p.2.slots.filterMap fun q =>
    if q.2.flock == some b && (p.1, q.1) != b then some (p.1, q.1) else none).flatten

/-- The stream buffer of an attached follower holds 16 words (R127). -/
def State.flockFull (s : State) (b : Nat × Nat) : Bool :=
  (s.followers b).any fun f => (s.slot f.1 f.2).flk == 2 && decide (16 ≤ (s.slot f.1 f.2).stream.length)

/-- A word goes to the stream of every attached follower of bellwether b, which may take it from the next cycle (R127). -/
def State.forwardWord (s : State) (b : Nat × Nat) (w : FwdWord) : State :=
  (s.followers b).foldl (fun s f => s.updSlot f.1 f.2 fun m =>
    if m.flk = 2 then { m with stream := m.stream ++ [{ w with at_ := s.now + 1 }] } else m) s

/-- The executing bellwether ends its flock at a SPLIT word or an EXIT of len bytes (R24, R129): the followers receive a SPLIT at its pc, after
the words already forwarded, and so go on at the word after it. -/
def State.endFlock (s : State) (len : Nat) : State :=
  let sl := s.cur
  let w : FwdWord := { instr := if len = 2 then .splitC else .split, pc := sl.pc,
                       next := (sl.advanceTo (sl.pc + BitVec.ofNat 64 len) true).pc, at_ := 0 }
  (s.forwardWord (s.curTile, s.curSlot) w).dissolve s.curTile s.curSlot

/-- SPLIT of len bytes (R129): the bellwether dissolves the flock, once no follower's buffer is full; a detached follower leaves it. -/
def State.doSplit (s : State) (len : Nat) : State :=
  match s.cur.flk with
  | 1 => if s.flockFull (s.curTile, s.curSlot) then s.block .poll else (s.endFlock len).done len
  | 3 => (s.updCur fun sl => { sl.setFlk 0 with flock := none, notices := [] }).done len
  | _ => s.done len

/-- SPLIT (R129). -/
def execSplit (s : State) : Res := .next (s.doSplit 4)
/-- Compact SPLIT (R99). -/
def execSplitC (s : State) : Res := .next (s.doSplit 2)

/-- REJOIN of len bytes (R128): the bellwether sends a notice to every follower; a detached follower passes if it keeps a notice for its pc,
re-attaches if the first notice for its pc arrived in this very cycle, else waits for one. -/
def State.doRejoin (s : State) (len : Nat) : State :=
  let sl := s.cur
  match sl.flk with
  | 1 => ((s.followers (s.curTile, s.curSlot)).foldl (fun s f =>
      s.send 1 (.notice s.curTile s.curSlot f.1 f.2 sl.pc)) s).done len
  | 3 => match sl.notices.find? fun n => n.1 == sl.pc with
    | some n => if n.2 = s.now then (s.updCur fun sl => { sl.setFlk 2 with stream := [], notices := [] }).done len else s.done len
    | none => s.block (.rejoin len)
  | _ => s.done len

/-- REJOIN (R128). -/
def execRejoin (s : State) : Res := .next (s.doRejoin 4)
/-- Compact REJOIN (R99). -/
def execRejoinC (s : State) : Res := .next (s.doRejoin 2)

/-- A notice kept (R128): the last eight distinct ones, newest first; one that was kept before keeps its first cycle. -/
def Slot.keepNotice (sl : Slot) (addr : Word) (now : Nat) : Slot :=
  let at_ := ((sl.notices.find? fun n => n.1 == addr).map Prod.snd).getD now
  { sl with notices := ((addr, at_) :: sl.notices.filter fun n => n.1 != addr).take 8 }

/-- A notice reaches a detached follower (R128): it re-attaches if it waits at the address, else keeps the last eight. -/
def Slot.notice (sl : Slot) (b : Nat × Nat) (addr : Word) (now : Nat) : Slot :=
  if sl.flock = some b ∧ sl.flk = 3 then
    match sl.wait with
    | .rejoin len =>
      if sl.pc = addr then
        { (sl.setFlk 2).complete (sl.pc + BitVec.ofNat 64 len) true with stream := [], notices := [] }
      else sl.keepNotice addr now
    | _ => sl.keepNotice addr now
  else sl

/-- REJOIN_NOTICE (R128). -/
def execRejoinNotice (s : State) : Res :=
  .next (match s.arrived with
    | some (.notice bt bu t u addr) => (s.taken).updSlot t u fun sl => sl.notice (bt, bu) addr s.now
    | _ => s)

/-- After a word of a flock member: the bellwether forwards a completed word with its pc and its next pc to every attached follower, or keeps it
while a buffer is full; a follower whose own next pc differs from the forwarded one detaches, and one whose flock has dissolved leaves
it with its last forwarded word (R124, R127, R129). -/
def State.settle (s : State) (t u : Nat) : State :=
  let sl := s.slot t u
  match sl.pend with
  | none => s
  | some w =>
    if sl.st ≠ .run ∨ sl.wait ≠ .none then s
    else if sl.flk = 1 then
      if s.flockFull (t, u) then s
      else (s.forwardWord (t, u) { w with next := sl.pc }).updSlot t u fun sl => { sl with pend := none }
    else s.updSlot t u fun sl =>
      let left := if sl.flock.isSome then 3 else 0
      if sl.flk ≠ 2 then { sl with pend := none, stream := [] }
      else if sl.pc ≠ w.next then { sl.setFlk left with pend := none, stream := [], notices := [] }
      else if sl.flock.isNone ∧ sl.stream = [] then { sl.setFlk 0 with pend := none }
      else { sl with pend := none }

/-- FORWARDED_WORD (R127): the follower takes the oldest forwarded word; its pc is the word's. It executes it as its next
instruction, and detaches after it if its own next pc differs (see `State.settle`). The bellwether may then forward a word it kept. -/
def execForwardedWord (s : State) : Res :=
  let t := s.ev.num
  let u := s.ev.a
  let s' := s.updSlot t u fun sl => match sl.stream with
    | w :: r => { sl with stream := r, pc := w.pc, fwd := some w }
    | [] => sl
  .next (match (s.slot t u).flock with
    | some b => s'.settle b.1 b.2
    | none => s')

/-! ### Events, yielding, exit (R131..R134) -/

/-- WFE of len bytes (R131, R37): consumes the set bits, or sleeps. -/
def State.doWfe (s : State) (d : Reg) (len : Nat) : State :=
  let b := s.cur.evt
  if b = 0#8 then s.updCur fun sl => { sl with st := .sleep, idle := none, wait := .none }
  else (s.updCur fun sl => sl.setEvt 0#8).wr d (b.setWidth 64) len

/-- WFE (R131). -/
def execWfe (d : Reg) (s : State) : Res := .next (s.doWfe d 4)
/-- Compact WFE (R99). -/
def execWfeC (d : Reg) (s : State) : Res := .next (s.doWfe d 2)

/-- SEV (R132). -/
def execSev (s : State) : Res := .next ((s.event s.curTile 0).done 4)
/-- Compact SEV (R99). -/
def execSevC (s : State) : Res := .next ((s.event s.curTile 0).done 2)

/-- YIELD of len bytes (R133): the thread issues again when every other RUN thread of the tile has issued or 8 cc passed. -/
def State.doYield (s : State) (len : Nat) : State :=
  let others := (List.range 8).filter fun u => u != s.curSlot && (s.curT.slot u).st == .run
  (s.updCur fun sl => { sl with yieldTo := s.now + 8, yieldWait := others }).done len

/-- YIELD (R133). -/
def execYield (s : State) : Res := .next (s.doYield 4)
/-- Compact YIELD (R99). -/
def execYieldC (s : State) : Res := .next (s.doYield 2)

/-- EXIT of len bytes (R134, R24): a bellwether's flock first ends as at a SPLIT; the thread drops its loops and event bits and waits for
its work to drain. -/
def State.doExit (s : State) (len : Nat) : State :=
  if s.cur.flk = 1 && s.flockFull (s.curTile, s.curSlot) then s.block .poll else
  let s := if s.cur.flk = 1 then s.endFlock len else s
  let s := s.leaveFlock s.curTile s.curSlot 0
  s.updCur fun sl => { sl.setEvt 0#8 with loops := [], wait := .exit, st := .run, fwd := none }

/-- EXIT (R134). -/
def execExit (s : State) : Res := .next (s.doExit 4)
/-- Compact EXIT (R99). -/
def execExitC (s : State) : Res := .next (s.doExit 2)

end Sys2Proof.Machine
end

