-- ==== Sys2Proof/Machine/Net.lean ====
section
/-! DEFINITION. Net: what every request shares on its way: path times (R440, R268, R276), fences (R377), pairing of twin copies
(R330), inbox room (R226) and the pod and package of the machine. -/

namespace Sys2Proof.Machine

/-! ### Times (R440) -/

/-- A packet of f flits over h hops, handled 1 cc after its last flit. -/
def routed (h f : Nat) : Nat := 2 + 2 * h + (f - 1) + 1

/-- The layer a die lies on, and its stack. -/
def State.layerOf (s : State) (d : Nat) : Nat := (s.dieLoc d).2
def State.stackOf (s : State) (d : Nat) : Nat := (s.dieLoc d).1

/-- Latency between a tile and a die SRAM unit (R268, R276): bond, column, or routed path and column, with the base-die
crossing to the other stack. -/
def State.dieTime (s : State) (t d off : Nat) : Nat :=
  let e := s.remapEntry d (off / 65536)
  let l := s.layerOf (tDie t)
  let h := hops t (tileKey (tDie t) (tRow t) (unitCol off))
  let col := 9 + 2 * ((l - e.layer) + (e.layer - l) - 1)
  if d = tDie t then (if e.layer = nearLayer l then 4 else col) + (if h = 0 then 0 else 2 + 2 * h)
  else if s.stackOf d = s.stackOf (tDie t) then 2 + 2 * h + col
  else 2 + 2 * h + 9 + 2 * (l + e.layer) + 80

/-- The tile beside which a place's storage lies, on the issuing die. -/
def placeTile (t : Nat) : Place → Nat
  | .slice d _ => d
  | .group g off => groupTile g (off / 256 % 64)
  | .die _ off => tileKey (tDie t) (tRow t) (unitCol off)
  | _ => t

/-- Time of a request from tile t to its controller. -/
def State.reqTime (s : State) (t : Nat) (p : Place) : Nat :=
  match p with
  | .slice d _ => routed (hops t d) 2
  | .group g off => routed (hops t (groupTile g (off / 256 % 64))) 2
  | .die d off => s.dieTime t d off
  | .package off => 9 + 2 * s.layerOf (tDie t) + 40 + (if agentOf off / 32 = s.stackOf (tDie t) then 0 else 80)
  | .pod _ off => 9 + 2 * s.layerOf (tDie t) + 40 + (if agentOf off / 32 = s.stackOf (tDie t) then 0 else 80)
  | _ => 1

/-! ### Fences (R374..R377) -/

def Paddock.covers (p : Paddock) (row col : Nat) : Bool :=
  p.v && decide (p.row0 ≤ row ∧ row < p.row0 + p.rows ∧ p.col0 ≤ col ∧ col < p.col0 + p.cols)

/-- The paddock entry that holds a tile; none for its group's implicit paddock (R374). -/
def State.paddockOf (s : State) (t : Nat) : Option Nat :=
  ((s.die (tDie t)).paddocks.find? fun p => p.2.covers (tRow t) (tCol t)).map Prod.fst

/-- State of the paddock of a tile (R375). -/
def State.padState (s : State) (t : Nat) : Nat :=
  let d := s.die (tDie t)
  match s.paddockOf t with
  | some i => (tget Paddock.fresh d.paddocks i).st
  | none => tget 0 d.implicit (tGroup t)

/-- A fenced tile (R375). -/
def State.fenced (s : State) (t : Nat) : Bool := s.padState t != 0

/-- Two tiles lie in one paddock (R374). -/
def State.samePad (s : State) (a b : Nat) : Bool :=
  tDie a == tDie b && s.paddockOf a == s.paddockOf b && ((s.paddockOf a).isSome || tGroup a == tGroup b)

/-- The boundary of a fenced paddock lies between two tiles: the chain link and the mesh link there carry nothing (R377). -/
def State.cutOff (s : State) (a b : Nat) : Bool := !s.samePad a b && (s.fenced a || s.fenced b)

/-- The stack of a die is in a re-roling sequence (R283). -/
def State.draining (s : State) (d : Nat) : Bool := (s.stack (s.stackOf d)).chg

/-! ### The fabric's requests (R396, R398) -/

/-- A packet header of R396. -/
def fjHeader (ty status len dpod dpkg spod spkg stile tag off aux : Nat) : Nat :=
  ty + status * 2 ^ 8 + len * 2 ^ 16 + dpod * 2 ^ 32 + dpkg * 2 ^ 40 + spod * 2 ^ 56 + spkg * 2 ^ 64 + stile * 2 ^ 80 +
    250 * 2 ^ 104 + tag % 65536 * 2 ^ 112 + off * 2 ^ 128 + aux * 2 ^ 176

/-- What leaves on the fabric: a header of 28 bytes, and its data above them. -/
def fjPacket (h data : Nat) : Nat := h + data * 2 ^ 224

/-- A LINK record (R403), about the base die. -/
def State.linkRecord (s : State) (event port earmark : Nat) (stoxis : Bool) (addr : Word) : State :=
  s.baseRecord 0x2D addr (event + port % 16 * 2 ^ 4 + b2n stoxis * 2 ^ 8 + earmark % 4096 * 2 ^ 16)

/-- A request of tile t leaves for another package: it is numbered, sent, and timed for 20 µs (R398); with no key for its owner it
cannot be framed (R402). -/
def State.fjSend (s : State) (m : Msg) (ty len dpod dpkg t off aux data : Nat) : State :=
  let k := s.next
  let own := (s.part (s.launch (s.tile t).lid).part).owner
  let b := s.seenTile t
  let die := (s.launch (s.tile t).lid).dieOwn (tDie t)
  let h := fjHeader ty 0 len dpod dpkg s.pod s.pkg (tRow b + tCol b * 256 + die % 8 * 65536) k off aux
  let s := { s with next := k + 1, fj := tset s.fj k { msg := m, header := h, hold := false, incoming := false, limit := s.now + 25000 } }
  if (tget? s.mgmt.earmarks own).isSome then { s with fjOut := (k, fjPacket h data) :: s.fjOut } else s.linkRecord 5 0 own false 0

/-- The package a SENDM goes to, kept in its group field: 2^20 + pod × 4,096 + package; none for this package. -/
def SendReq.away (m : SendReq) : Option (Nat × Nat) := if m.pgrp < 2 ^ 20 then none else some (nf m.pgrp 12 8, nf m.pgrp 0 12)

/-- TYPE of a request of R396. -/
def Acc.fjType : Acc → Nat
  | .store => 0
  | .read => 1
  | .atomic => 2

/-- A request sets out: onto the fabric when it is for another package, else to its controller; a hurdle arrival takes the time of R332
exactly. -/
def State.forward (s : State) (t min : Nat) (m : Msg) : State :=
  match m with
  | .req r => match decodeWin r.addr with
    | some (.pod id off) =>
      if id = s.pkg then s.send min m
      else s.fjSend m r.acc.fjType (if r.acc = .atomic then 16 else r.size) s.pod id t off
        (r.fn + r.size * 2 ^ 8 + r.rm.toNat * 2 ^ 16) (r.data + r.k1.toNat * 2 ^ 64)
    | some (.system pod id off) => s.fjSend m 0 r.size pod id t off 0 r.data
    | _ => s.send min m
  | .sendm q => match q.away with
    | some (pod, pkg) => s.fjSend m 3 24 pod pkg t (tRow q.dest + tCol q.dest * 256 + tDie q.dest * 65536) (nf q.entry.toNat 40 8) (nf q.entry.toNat 64 192)
    | none => s.send min m
  | .hurArrive _ _ => s.sendAt (s.now + min) m
  | _ => s.send min m

/-! ### Twin pairing (R329, R330) -/

/-- The tile belongs to a running twin launch whose partner lives. -/
def State.paired (s : State) (t : Nat) : Bool := (s.launch (s.tile t).lid).twin && !(s.tile t).solo

/-- The twin of a primary tile. -/
def State.partner (s : State) (t : Nat) : Nat :=
  if (s.tile t).twin then s.seenTile t else twinShift (s.launch (s.tile t).lid) t

/-- Requests of a copy that wait for their partner. -/
def State.unpaired (s : State) (t : Nat) (copy : Bool) : Nat := (s.pairs.filter fun q => q.tile == t && q.copy == copy).length

/-- A tile whose twin lags by 64 unpaired requests stalls its next outgoing request (R330). -/
def State.twinFull (s : State) (t : Nat) : Bool :=
  s.paired t && decide (64 ≤ s.unpaired (s.seenTile t) (s.tile t).twin)

/-- Send a request of tile t that leaves its copy's rectangle: unpaired launches send it at once; a copy of a twin launch
queues it with its hash (R330). -/
def State.sendOut (s : State) (t min : Nat) (h : List Nat) (m : Msg) : State :=
  if s.paired t then
    let tl := s.tile t
    let q : TwinReq := { tile := s.seenTile t, seq := tl.twinSeq, copy := tl.twin, hash := Config.twinHash h, msg := some m, min := min }
    { s.updTile t fun tl => { tl with twinSeq := tl.twinSeq + 1, twinRun := Config.twinHash (tl.twinRun :: h) } with
        pairs := s.pairs ++ [q] }
  else s.forward t min m

/-- The twin that replaces a destroyed primary (R384). -/
def State.replacement (s : State) (t : Nat) : Option Nat :=
  (s.tiles.find? fun p => p.2.solo && p.2.twin && s.seenTile p.1 == t).map Prod.fst

/-- The tiles on which a result for a tile of a launch takes effect: both copies of a running twin launch, or the copy left. -/
def State.copies (s : State) (t : Nat) : List Nat :=
  match s.replacement t with
  | some c => [c]
  | none => if s.paired t then [t, s.partner t] else [t]

/-! ### The fabric's answers (R396) -/

/-- An answer leaves for another package: TYPE, STATUS and data, with the request's tag (R396). -/
def State.fjAnswer (s : State) (k ty status len data aux : Nat) : State :=
  match tget? s.fj k with
  | none => s
  | some q =>
    let h := fjHeader ty status len (nf q.header 56 8) (nf q.header 64 12) s.pod s.pkg 0 (nf q.header 112 16) 0 aux
    { s with fj := terase s.fj k, fjOut := (k, fjPacket h data) :: s.fjOut }

/-! ### Inboxes -/

/-- Room in an inbox (R226). -/
def Tile.room (t : Tile) : Bool := decide (t.inbox.length < 32)

/-- A KIND 0x0005 message has its own place; others carry HANDLER in byte 5 and an argument (R227). -/
def mkEntry (lo1 lo2 lo3 lo4 : Nat) : Entry :=
  BitVec.ofNat 256 (lo1 % 2 ^ 64 + lo2 % 2 ^ 64 * 2 ^ 64 + lo3 % 2 ^ 64 * 2 ^ 128 + lo4 % 2 ^ 64 * 2 ^ 192)

/-- Place an entry in a tile's inbox (R226). -/
def State.placeInbox (s : State) (t : Nat) (e : Entry) (arg : Word) : State := s.updTile t fun tl => tl.place s.now e arg

/-- The owner number of a launch's partition. -/
def State.ownerOf (s : State) (lid : Nat) : Nat := (s.part (s.launch lid).part).owner

/-- The number the launch gives the die of a tile (R314). -/
def State.ownDie (s : State) (t : Nat) : Nat := (s.launch (s.tile t).lid).dieOwn (tDie t)

/-- Whether a tile belongs to a launch that runs. -/
def State.holdsLaunch (s : State) (t lid : Nat) : Bool := (s.tile t).lid == lid && lid != 0

/-- The partition whose group rectangle holds a tile of a die (R363, R418). -/
def State.partOf (s : State) (t : Nat) : Option Nat :=
  (List.range 16).find? fun p =>
    let q := s.part p
    q.valid && q.dies.getLsbD (s.logDie (tDie t)) && decide (q.grow0 ≤ tRow t / 8 ∧ tRow t / 8 < q.grow0 + q.grows ∧
      q.gcol0 ≤ tCol t / 8 ∧ tCol t / 8 < q.gcol0 + q.gcols)

end Sys2Proof.Machine
end

