-- ==== Sys2Proof/Machine/Hurdle.lean ====
section
/-! DEFINITION. Hurdle: domains, arrivals, releases, exchange timetables and beats (R216..R225, R332..R342). -/

namespace Sys2Proof.Machine

/-! ### Domains (R216): a level domain of a launch, or an entry of a partition's group table, as a number -/

def levelDom (lid l die g : Nat) : Nat := ((lid * 4 + l) * 8 + die) * 512 + g
def entryDom (part e : Nat) : Nat := 2 ^ 40 + part * 256 + e
/-- The level-3 domain of an owner's job (R310). -/
def jobDom (owner job : Nat) : Nat := 2 ^ 44 + owner * 65536 + job
def domIsJob (d : Nat) : Bool := decide (2 ^ 44 ≤ d)
def domIsEntry (d : Nat) : Bool := decide (2 ^ 40 ≤ d) && !domIsJob d
def domLid (d : Nat) : Nat := d / 16384
def domLevel (d : Nat) : Nat := if domIsJob d then 3 else d / 4096 % 4
def domDie (d : Nat) : Nat := d / 512 % 8
def domGroup (d : Nat) : Nat := d % 512
def domPart (d : Nat) : Nat := d / 256 % 16
def domEntry (d : Nat) : Nat := d % 256

def Launch.job (l : Launch) : Nat := pk l.packet 42 2
def Launch.jobn (l : Launch) : Nat := pk l.packet 44 2

/-- The level domain of a launch at a level, for a tile of it: its group, its die, the launch, or its owner's job (R216, R310). -/
def State.launchDom (s : State) (lid l die g : Nat) : Nat :=
  match l with
  | 0 => levelDom lid 0 die g
  | 1 => levelDom lid 1 die 0
  | 2 => levelDom lid 2 0 0
  | _ => jobDom (s.part (s.launch lid).part).owner (s.launch lid).job

/-- The level domain of a tile's launch. -/
def State.domOf (s : State) (t l : Nat) : Nat := s.launchDom (s.tile t).lid l (tDie t) (tGroup (s.seenTile t))

/-- The resident launches of a job domain: of one owner and JOB, that use level 3 (R310). -/
def State.jobLaunches (s : State) (d : Nat) : List Nat :=
  (s.launches.filter fun p => p.2.st != .done && p.2.st != .pending && p.2.st != .placing && nb p.2.levels 3 &&
    jobDom (s.part p.2.part).owner p.2.job == d).map Prod.fst

/-- The tile named by a member descriptor of R236, of a launch on this package. -/
def State.descTile (s : State) (l : Launch) (m : Nat) : Option Nat :=
  if nb m 32 ∨ nf m 20 12 ≠ s.pkg then none else (l.dieNow (nf m 16 3)).map fun d => tileKey d (nf m 0 8) (nf m 8 8)

/-- The launch that holds a group-table entry of a partition. -/
def State.entryLaunch (s : State) (part e : Nat) : Nat :=
  ((s.launches.find? fun p => p.2.part == part && p.2.entries.contains e && p.2.st != .done).map Prod.fst).getD 0

/-- The member tiles of a domain on this package, each once, primary copies (R216). -/
def State.members (s : State) (d : Nat) : List Nat :=
  if domIsEntry d then
    let l := s.launch (s.entryLaunch (domPart d) (domEntry d))
    let ms := tget [] (s.part (domPart d)).gtab (domEntry d)
    if ms.any fun m => nb m 32 && nf m 20 12 == s.pkg then l.tiles else ms.filterMap (s.descTile l)
  else if domIsJob d then ((s.jobLaunches d).map fun l => (s.launch l).tiles).flatten
  else
    let l := s.launch (domLid d)
    match domLevel d with
    | 0 => (l.tilesOn (domDie d)).filter fun t => tGroup t == domGroup d
    | 1 => l.tilesOn (domDie d)
    | _ => l.tiles

/-- The member tiles of a package that holds n of a domain's, as descriptors numbered within it. -/
def farTiles (p : Nat × Nat) : List Nat := (List.range p.2).map fun i => p.1 % 4096 * 2 ^ 20 + 2 ^ 32 + i * 2 ^ 33

/-- The members of a domain on other packages: the tiles an entry names there, or the tiles of the launches resident there (R216, R310). -/
def State.farMembers (s : State) (d : Nat) : List Nat :=
  let r := s.root d
  if domIsEntry d then
    ((tget [] (s.part (domPart d)).gtab (domEntry d)).filter fun m => nf m 20 12 != s.pkg).flatMap fun m =>
      if nb m 32 then ((r.elsewhere.filter fun p => p.1 == nf m 20 12).map farTiles).flatten else [m]
  else if domIsJob d then (r.elsewhere.map farTiles).flatten
  else []

/-- Every launch of the domain is resident: a job's on JOBN packages (R310), an entry's on each package it names (R216). -/
def State.allResident (s : State) (d : Nat) : Bool :=
  let r := s.root d
  if domIsEntry d then
    (tget [] (s.part (domPart d)).gtab (domEntry d)).all fun m => !nb m 32 || nf m 20 12 == s.pkg || r.elsewhere.any fun p => p.1 == nf m 20 12
  else if domIsJob d then (s.jobLaunches d).all fun l => decide ((s.launch l).jobn ≤ r.elsewhere.length + 1)
  else true

/-- The expected count E of the current phase (R216, R295). -/
def State.expected (s : State) (d : Nat) : Nat :=
  let r := s.root d
  ((s.members d).filter fun t => !r.dropped.contains t).length + r.counters.length +
    ((s.farMembers d).filter fun m => !r.rdrop.contains m).length

/-! ### A hurdle word's domain (R216, R217) -/

/-- The entries a tile belongs to. -/
def State.entryHas (s : State) (t g : Nat) : Bool :=
  let lid := (s.tile t).lid
  (s.launch lid).entries.contains g && (s.members (entryDom (s.launch lid).part g)).contains (s.seenTile t)

/-- The tile's key of a domain: a level, or 4 + entry. -/
def hurKey (dom : Bool) (n : Nat) : Nat := if dom then 4 + n else n

/-- The domain a word names: its tile key and its number; none where R217 traps WINDOW. -/
def State.hurDom (s : State) (m : BitVec 1) (l : Nat) : Option (Nat × Nat) :=
  let t := s.curTile
  if m = 1 then
    let g := wf (s.cur.kr 1) 0 8
    if s.entryHas t g then some (hurKey true g, entryDom (s.launch (s.tile t).lid).part g) else none
  else if nb (s.launch (s.tile t).lid).levels l then some (l, s.domOf t l) else none

/-- DETAIL of HOVER and STALL for a domain (R361). -/
def domDetail (d : Nat) : Nat := if domIsEntry d then domEntry d + 256 else domLevel d * 512

/-- The part of the package a domain's members span: 0 a pen, 1 a group, 2 a die, 3 the package, 4 more (R332, R351). -/
def State.span (s : State) (d : Nat) : Nat :=
  let ts := s.members d
  if !(s.farMembers d).isEmpty then 4
  else match ts with
    | [] => 0
    | t :: r =>
      if r.any fun x => tDie x != tDie t then 3
      else if r.any fun x => tGroup x != tGroup t then 2
      else if r.any fun x => penKey x != penKey t then 1
      else 0

/-! ### Times (R332) -/

/-- Cycles from an arrival to its root, when no other phase is pending; of level 3 the most they can be. A group-table domain takes the way up
of R351 for its span, less the ALU cycles of the nodes crossed. -/
def State.hurUp (s : State) (d : Nat) : Nat :=
  if domIsEntry d then match s.span d with | 0 => 4 | 1 => 10 | 2 => 50 | 3 => 178 | _ => 1903
  else match domLevel d with | 0 => 6 | 1 => 48 | 2 => 240 | _ => 1875

/-- Cycles from the root's completion of a phase to the tiles; of level 3 the most they can be. -/
def State.hurDown (s : State) (d : Nat) : Nat :=
  if domIsEntry d then match s.span d with | 0 => 6 | 1 => 12 | 2 => 52 | 3 => 180 | _ => 1905
  else match domLevel d with | 0 => 6 | 1 => 48 | 2 => 240 | _ => 1875

/-- The same of a level-3 domain is any time up to that (R332, log 1). -/
def State.upTime (s : State) (d : Nat) : Nat × State :=
  if domIsJob d then let (k, s') := s.draw; (Config.delay k % (s.hurUp d + 1), s') else (s.hurUp d, s)

/-! ### Arrival (R218) -/

/-- A tile's arrival: HOVER if it has arrived or dropped; else ARR is set and the arrival is sent. At the launch's own top level a
twin copy's running hash over its superstep is compared too (R330). -/
def State.arriveNow (s : State) (t u key dom : Nat) (op : Option Nat) (val : Word) (abort : Nat) (drop : Bool) :
    Option State :=
  let h := (s.tile t).hurd key
  if h.arr || h.drop then none else
  let s := s.updTile t fun tl => { tl with hur := tset tl.hur key { h with arr := true, drop := drop } }
  let c : Contrib := { tile := some (s.seenTile t), far := none, counter := none, op := op, val := val, abort := abort, drop := drop }
  let _ := u
  let lid := (s.tile t).lid
  let top := !domIsEntry dom && domLevel dom == (s.launch lid).top
  let (up, s) := s.upTime dom
  let run := if top then [(s.tile t).twinRun] else []
  let s := s.sendOut t up ([2, dom, (op.map (· + 1)).getD 0, val.toNat, abort, b2n drop] ++ run) (.hurArrive dom c)
  some (if top then s.updTile t fun tl => { tl with twinRun := 0 } else s)

/-- The end of an arriving word at a thread: HOVER traps, else the word completes (R218). -/
def State.finishArrive (s : State) (t u key dom : Nat) (op : Option Nat) (val : Word) (abort : Nat) (drop : Bool) : State :=
  match s.arriveNow t u key dom op val abort drop with
  | some s' => s'.updSlot t u fun sl => sl.complete (sl.pc + 4) true
  | none => s.trapAt t u { cause := .hover, pc := (s.slot t u).pc, resume := (s.slot t u).pc, addr := 0,
                           detail := domDetail dom, mflags := 0 }

/-- HARV, HARN, HDROP (R218): the check at issue, then the arrival once the thread's accesses have drained. -/
def State.hurWord (s : State) (m : BitVec 1) (l : Nat) (op : Option Nat) (val : Word) (abort : Nat) (drop : Bool) : State :=
  match s.hurDom m l with
  | none => s.trap .window 0 0
  | some (key, dom) =>
    if s.twinFull s.curTile then s.block .poll
    else if s.drained s.curTile s.curSlot then s.finishArrive s.curTile s.curSlot key dom op val abort drop
    else s.block (.arrive dom drop op val abort)

/-- A HARV word with an operator. -/
def State.harv (s : State) (op : Nat) (a b : Reg) (m : BitVec 1) (l : BitVec 2) : Res :=
  .next (s.hurWord m l.toNat (some op) (s.xr a) (wf (s.xr b) 0 8) false)

/-- HARV.add (R218). -/
def execHarvAdd (a b : Reg) (m : BitVec 1) (l : BitVec 2) (s : State) : Res := s.harv 0 a b m l
/-- HARV.and (R218). -/
def execHarvAnd (a b : Reg) (m : BitVec 1) (l : BitVec 2) (s : State) : Res := s.harv 1 a b m l
/-- HARV.or (R218). -/
def execHarvOr (a b : Reg) (m : BitVec 1) (l : BitVec 2) (s : State) : Res := s.harv 2 a b m l
/-- HARV.xor (R218). -/
def execHarvXor (a b : Reg) (m : BitVec 1) (l : BitVec 2) (s : State) : Res := s.harv 3 a b m l
/-- HARV.min (R218). -/
def execHarvMin (a b : Reg) (m : BitVec 1) (l : BitVec 2) (s : State) : Res := s.harv 4 a b m l
/-- HARV.max (R218). -/
def execHarvMax (a b : Reg) (m : BitVec 1) (l : BitVec 2) (s : State) : Res := s.harv 5 a b m l
/-- HARV.minu (R218). -/
def execHarvMinu (a b : Reg) (m : BitVec 1) (l : BitVec 2) (s : State) : Res := s.harv 6 a b m l
/-- HARV.maxu (R218). -/
def execHarvMaxu (a b : Reg) (m : BitVec 1) (l : BitVec 2) (s : State) : Res := s.harv 7 a b m l
/-- HARN (R218). -/
def execHarn (m : BitVec 1) (l : BitVec 2) (s : State) : Res := .next (s.hurWord m l.toNat none 0 0 false)
/-- HDROP (R218). -/
def execHdrop (m : BitVec 1) (l : BitVec 2) (s : State) : Res := .next (s.hurWord m l.toNat none 0 0 true)

/-- The tile key of a domain number. -/
def domKey (d : Nat) : Nat := if domIsEntry d then 4 + domEntry d else domLevel d

/-- A word that makes an arrival at issue (R218). -/
def arrives : Instr → Bool
  | .harvAdd _ _ _ _ | .harvAnd _ _ _ _ | .harvOr _ _ _ _ | .harvXor _ _ _ _ | .harvMin _ _ _ _ | .harvMax _ _ _ _
  | .harvMinu _ _ _ _ | .harvMaxu _ _ _ _ | .harn _ _ | .hdrop _ _ => true
  | _ => false

/-- HURDLE_ARRIVE (R218): the waiting thread's accesses have drained; its arrival is made. -/
def execHurdleArrive (s : State) : Res :=
  let t := s.ev.num
  let u := s.ev.a
  .next (match (s.slot t u).wait with
    | .arrive dom drop op val abort =>
      if s.drained t u then (s.finishArrive t u (domKey dom) dom op val abort drop).settle t u else s
    | _ => s)

/-! ### The root (R219, R333) -/

/-- The least or greatest element under an order, of a nonempty list. -/
def wordBest (lt : Word → Word → Bool) : List Word → Word
  | [] => 0
  | x :: r => r.foldl (fun a b => if lt b a then b else a) x

/-- Combination of one operator's contributions (R219). -/
def hurCombine (op : Nat) (l : List Word) : Word :=
  match op with
  | 0 => l.foldl (· + ·) 0
  | 1 => l.foldl (· &&& ·) (BitVec.allOnes 64)
  | 2 => l.foldl (· ||| ·) 0
  | 3 => l.foldl (· ^^^ ·) 0
  | 4 => wordBest BitVec.slt l
  | 5 => wordBest (fun a b => BitVec.slt b a) l
  | 6 => wordBest BitVec.ult l
  | _ => wordBest (fun a b => BitVec.ult b a) l

/-- The value HARN, HDROP and a counter's firing contribute, as the Identity column of R219 gives it: 0 for .minu and all ones
for .maxu (log 12). -/
def hurIdentity (op : Nat) : Word :=
  match op with
  | 1 => BitVec.allOnes 64
  | 4 => BitVec.ofNat 64 (2 ^ 63 - 1)
  | 5 => BitVec.ofNat 64 (2 ^ 63)
  | 7 => BitVec.allOnes 64
  | _ => 0

/-- The release of a phase from its contributions (R219). -/
def mkRelease (cs : List Contrib) : Release :=
  let ops := (cs.filterMap Contrib.op).eraseDups
  let abort := cs.foldl (fun a c => max a c.abort) 0
  match ops with
  | [] => { value := 0, abort := abort, op := 0, mix := false, none_ := true }
  | [op] => { value := hurCombine op (cs.map fun c => if c.op.isSome then c.val else hurIdentity op), abort := abort, op := op,
              mix := false, none_ := false }
  | _ => { value := 0, abort := abort, op := 0, mix := true, none_ := false }

/-- A contribution is counted at the root (R333 step 1). A firing of a counter member that has left the domain meanwhile counts for nothing:
its E is gone already (R295; DEDUCED, log 88). -/
def State.rootCount (s : State) (d : Nat) (c : Contrib) : State :=
  s.updRoot d fun r =>
    if c.counter.any fun k => (r.arrived.filter fun a => a.counter == some k).length ≥ (r.counters.filter fun m => m.1 == k).length then r
    else { r with arrived := r.arrived ++ [c], first := if r.arrived.isEmpty then s.now else r.first,
                  told := if r.arrived.isEmpty then [] else r.told }

/-- The phase's count has reached E (R333 step 3). -/
def State.phaseFull (s : State) (d : Nat) : Bool :=
  let r := s.root d
  !r.arrived.isEmpty && r.out.isNone && s.allResident d && decide (s.expected d ≤ r.arrived.length)

/-- The launches of a domain on this package, and the first of them. -/
def State.domLaunches (s : State) (d : Nat) : List Nat :=
  if domIsEntry d then [s.entryLaunch (domPart d) (domEntry d)] else if domIsJob d then s.jobLaunches d else [domLid d]
def State.domLaunch (s : State) (d : Nat) : Nat := (s.domLaunches d).headD 0

/-- The release leaves the root for the tiles that arrived (R332): levels 0 and 1 reach all in one cycle, levels 2 and 3 each by its branch
within 64 cc or 0.4 µs of the others, a group-table domain as its branches deliver. Both copies of a twin launch receive it. -/
def State.sendRelease (s : State) (d : Nat) (ts : List Nat) (r : Release) : State :=
  let spread := if domIsEntry d then 1 else match domLevel d with | 0 => 1 | 1 => 1 | 2 => 64 | _ => 501
  let base := if domIsJob d then Config.delay s.ctr % (s.hurDown d - 500) else s.hurDown d
  let s := if domIsJob d then { s with ctr := s.ctr + 1 } else s
  (ts.map s.copies).flatten.foldl (fun s t =>
    if spread = 1 then s.sendAt (s.now + base) (.hurRelease d t r)
    else
      let (k, s') := s.draw
      s'.sendAt (s.now + base + Config.delay k % spread) (.hurRelease d t r)) s

/-- A release of the own top level is held for the tiles of a marked launch (R366). -/
def State.holdsRelease (s : State) (d t : Nat) : Bool :=
  let l := s.launch (s.tile t).lid
  l.marked && !domIsEntry d && domLevel d == l.top

/-- The tiles of a held domain stop at their next boundary: every slot of theirs (R366). -/
def Tile.stop (t : Tile) : Tile :=
  { t with held := true, slots := t.slots.map fun p => (p.1, { p.2 with stopped := true }) }

/-- A phase completes (R333): the release leaves, or is held; drops leave the next phase; single counter members leave. Every tile of a held
domain stops, one that dropped earlier too (R366). -/
def State.completePhase (s : State) (d : Nat) : State :=
  let r := s.root d
  let ts := r.arrived.filterMap Contrib.tile
  let rel := { mkRelease r.arrived with abort := max (mkRelease r.arrived).abort (if r.err then 0xFE else 0) }
  let drops := (r.arrived.filter fun c => c.drop).filterMap Contrib.tile
  let rdrops := (r.arrived.filter fun c => c.drop).filterMap Contrib.far
  let fired := r.arrived.filterMap Contrib.counter
  let held := ts.filter (s.holdsRelease d)
  let stops := (s.members d).filter (s.holdsRelease d)
  let s := s.updRoot d fun r => { r with arrived := [], phase := r.phase + 1, err := false, dropped := r.dropped ++ drops,
                                         rdrop := r.rdrop ++ rdrops, doneAt := s.now,
                                         counters := r.counters.filter fun c => !(c.2 && fired.contains c.1),
                                         out := if stops.isEmpty then none else some (held, rel), heldOut := !stops.isEmpty }
  let s := (stops.map s.copies).flatten.foldl (fun s t => s.updTile t Tile.stop) s
  s.sendRelease d (ts.filter fun t => !held.contains t) rel

/-- An arrival at level 2 or 3 over a network whose readiness bit is 0 is counted as in a domain with a dropped member: with abort code 0xFF
(R378, R409). -/
def State.overNet (s : State) (d : Nat) (c : Contrib) : Contrib :=
  if domIsEntry d || decide (domLevel d < 2) || s.isReady (29 + domLevel d) then c else { c with abort := 0xFF }

/-- HURDLE_ROOT_COUNT (R333): an arrival is counted; or, at the end of a cycle, the phase completes; or (ev.a = 1) a member on
another package arrives, with operator ev.b - 1 when ev.b is not 0, abort code ev.c, and value, drop and its descriptor in ev.data; or
(ev.a = 3) a launch of the domain becomes resident on package ev.b with ev.c tiles (R310). -/
def execHurdleRootCount (s : State) : Res :=
  .next (match s.ev.a with
    | 0 => match s.arrived with
      | some (.hurArrive d c) => s.taken.rootCount d (s.overNet d c)
      | _ => s
    | 1 => s.rootCount s.ev.num { tile := none, far := some (s.ev.data[2]?.getD 0), counter := none,
                                  op := if s.ev.b = 0 then none else some ((s.ev.b - 1) % 8),
                                  val := nw (s.ev.data[0]?.getD 0), abort := s.ev.c % 256,
                                  drop := s.ev.data[1]?.getD 0 == 1 }
    | 3 => s.updRoot s.ev.num fun r => { r with elsewhere := (r.elsewhere.filter fun p => p.1 != s.ev.b) ++ [(s.ev.b, s.ev.c)] }
    | _ => if s.phaseFull s.ev.num then s.completePhase s.ev.num else s)

/-! ### Timetables (R224, R225, R336) -/

/-- The key of a tile's timetable in a launch: level, index, row and col relative to the rectangle. -/
def ttKey (lvl idx row col : Nat) : Nat := ((lvl * 256 + idx) * 128 + row) * 160 + col

/-- A tile's timetable for a level and an index. -/
def State.timetable (s : State) (t lvl idx : Nat) : List TtEntry :=
  let l := s.launch (s.tile t).lid
  let b := s.seenTile t
  if idx = 255 then [] else tget [] l.tts (ttKey lvl idx (tRow b - l.orgr) (tCol b - l.orgc))

/-- The last offset of a timetable (R336). -/
def ttEnd (es : List TtEntry) : Nat := es.foldl (fun m e => max m e.stop) 0

/-- The launch's image holds timetables at a level. -/
def Launch.hasTts (l : Launch) (lvl : Nat) : Bool := l.tts.any fun p => p.1 / (256 * 128 * 160) == lvl

/-- Beat width (R335). -/
def Launch.beatWidth (l : Launch) : Nat := if l.hasTts 0 && l.hasTts 1 then 8 else 16

/-- Send beats of a timetable not injected before an offset. -/
def beatsLeft (es : List TtEntry) (sent : Nat) : Nat :=
  es.foldl (fun n e => if e.send then n + (e.stop + 1 - max e.start sent) else n) 0

/-- The timetable of a level has not ended at this cycle (R225, R336): it ends with the cycle at its last offset. -/
def State.ttRuns (s : State) (t lvl : Nat) : Bool :=
  let tt := (s.tile t).tts lvl
  tt.run && decide (s.now ≤ tt.t0 + ttEnd (s.timetable t lvl tt.cur))

/-- The level-L timetable starts afresh at a release (R340); a running one ends with a SLOT fault naming the level, its index
and the send beats discarded. -/
def State.startTimetable (s : State) (t lvl : Nat) : State :=
  let tt := (s.tile t).tts lvl
  let run := s.ttRuns t lvl
  let tt' : TtState := { sel := tt.sel, cur := tt.sel, run := true, slot := run, t0 := s.now, sent := 0 }
  let s' := s.updTile t fun tl => { tl with tt := tset tl.tt lvl tt' }
  if run then
    s'.tileMsg Cause.slot.code t 0 (s.tile t).lid
      (lvl + tt.cur * 256 + min 65535 (beatsLeft (s.timetable t lvl tt.cur) tt.sent) * 2 ^ 16)
  else s'

/-- A release at a tile (R220): latch, ARR := 0, RELS + 1; for a level, phase bit and c:STEP, and its timetable; event 2. -/
def State.releaseAt (s : State) (d t : Nat) (r : Release) : State :=
  let key := domKey d
  let h := (s.tile t).hurd key
  let h' : HurState := { arr := false, drop := h.drop, rels := (h.rels + 1) % 2 ^ 32, value := r.value,
                         abort := BitVec.ofNat 8 r.abort, op := r.op, mix := r.mix, none_ := r.none_ }
  let s := s.updTile t fun tl => { tl with hur := tset tl.hur key h' }
  let s := if domIsEntry d then s else
    let l := domLevel d
    let s := s.updTile t fun tl => { tl with phase := tl.phase ||| BitVec.ofNat 4 (2 ^ l),
                                             steps := tset tl.steps l ((tl.stepCount l + 1) % 2 ^ 64) }
    if l ≤ 1 then s.startTimetable t l else s
  s.event t 2

/-- HURDLE_RELEASE (R220). A release for a tile its launch no longer holds is dropped. -/
def execHurdleRelease (s : State) : Res :=
  .next (match s.arrived with
    | some (.hurRelease d t r) => if (s.domLaunches d).any (s.holdsLaunch t) then s.taken.releaseAt d t r else s.taken
    | _ => s)

/-- HWT (R221): waits for the release of the pending arrival, then reads the latched value. -/
def execHwt (d : Reg) (m : BitVec 1) (l : BitVec 2) (s : State) : Res :=
  .next (match s.hurDom m l.toNat with
    | none => s.trap .window 0 0
    | some (key, _) =>
      let h := s.curT.hurd key
      match s.cur.wait with
      | .release n => if h.rels = n then s.block (.release n) else s.wr d h.value 4
      | _ => if h.arr then s.block (.release h.rels) else s.wr d h.value 4)

/-- HQRY (R222). -/
def execHqry (d : Reg) (m : BitVec 1) (l : BitVec 2) (s : State) : Res :=
  .next (match s.hurDom m l.toNat with
    | none => s.trap .window 0 0
    | some (key, _) =>
      let h := s.curT.hurd key
      s.wr d (nw (h.abort.toNat + b2n h.arr * 2 ^ 8 + b2n h.drop * 2 ^ 9 + b2n h.mix * 2 ^ 10 + b2n h.none_ * 2 ^ 11 +
        h.op % 16 * 2 ^ 12 + h.rels % 2 ^ 32 * 2 ^ 16)) 4)

/-- HXEND (R223): level 2 + l. -/
def execHxend (l : BitVec 1) (s : State) : Res :=
  .next ((s.updTile s.curTile fun t => { t with phase := t.phase &&& ~~~(BitVec.ofNat 4 (2 ^ (2 + l.toNat))) }).done 4)

/-- TTGO (R224). -/
def execTtgo (a : Reg) (l : BitVec 1) (s : State) : Res :=
  let i := wf (s.xr a) 0 8
  let lvl := l.toNat
  let ln := s.launch s.curT.lid
  let holds := i == 255 || ln.tts.any fun p => p.1 / (128 * 160) == lvl * 256 + i
  .next (if holds then
      (s.updTile s.curTile fun t => { t with tt := tset t.tt lvl { t.tts lvl with sel := i } }).done 4
    else s.trap .window 0 0)

/-- TTSTS (R225). -/
def execTtsts (d : Reg) (l : BitVec 1) (s : State) : Res :=
  let t := s.curT.tts l.toNat
  .next (s.wr d (nw (t.sel % 256 + t.cur % 256 * 2 ^ 8 + b2n t.run * 2 ^ 16 + b2n t.slot * 2 ^ 17 +
    min 65535 (s.now - t.t0) * 2 ^ 32)) 4)

/-- The exchange phase of level 0 or 1 ends at this cycle (R29): the timetable's END has passed, or there is none and the
release cycle has. -/
def State.ttDue (s : State) (t lvl : Nat) : Bool :=
  let tl := s.tile t
  let tt := tl.tts lvl
  (tl.phaseBit lvl || tt.run) && decide (tt.t0 + (if tt.run then ttEnd (s.timetable t lvl tt.cur) else 0) < s.now)

/-- TIMETABLE_END (R336, R29). -/
def execTimetableEnd (s : State) : Res :=
  let t := s.ev.num
  let lvl := s.ev.a
  .next (if s.ttDue t lvl then
      s.updTile t fun tl => { tl with phase := tl.phase &&& ~~~(BitVec.ofNat 4 (2 ^ lvl)),
                                      tt := tset tl.tt lvl { tl.tts lvl with run := false } }
    else s)

/-! ### Beats (R335, R338) -/

/-- The send entries of a tile's level that inject in this cycle. -/
def State.sendsNow (s : State) (t lvl : Nat) : List TtEntry :=
  let tt := (s.tile t).tts lvl
  let o := s.now - tt.t0
  if tt.run && decide (tt.sent ≤ o) then (s.timetable t lvl tt.cur).filter fun e => e.send && decide (e.start ≤ o ∧ o ≤ e.stop)
  else []

/-- The links of a beat's path with the cycle it crosses each: from its row to its column, then along it (R335). -/
def beatLinks (src dst t0 : Nat) : List (Nat × Nat × Nat) :=
  let c0 := tCol src
  let c1 := tCol dst
  let r0 := tRow src
  let r1 := tRow dst
  let dh := (c0 - c1) + (c1 - c0)
  let dv := (r0 - r1) + (r1 - r0)
  ((List.range dh).map fun i =>
    (t0 + 1 + i, tileKey (tDie src) r0 (if c0 < c1 then c0 + i else c0 - i), if c0 < c1 then 1 else 3)) ++
  ((List.range dv).map fun i =>
    (t0 + 1 + dh + i, tileKey (tDie src) (if r0 < r1 then r0 + i else r0 - i) c1, if r0 < r1 then 2 else 0))

/-- The link a beat in flight crosses in this cycle, with its level (R335). -/
def Flight.linkNow (f : Flight) (now : Nat) : Option (Nat × Nat × Nat) :=
  match f.msg with
  | .beat lvl src dst _ _ t0 _ => ((beatLinks src dst t0).find? fun l => l.1 == now).map fun l => (lvl, l.2.1, l.2.2)
  | _ => none

/-- Count a discarded beat in c:SLDR (R342). -/
def Tile.discardBeat (t : Tile) : Tile := { t with sel := { t.sel with sldr := min (t.sel.sldr + 1) (2 ^ 32 - 1) } }

/-- Beats of one level that meet on a link in this cycle are all discarded there (R337). -/
def State.meetBeats (s : State) : State :=
  let ls := s.flight.filterMap fun f => f.linkNow s.now
  { s with flight := s.flight.filter fun f => match f.linkNow s.now with
      | some l => (ls.filter (· == l)).length ≤ 1
      | none => true }

/-- Beats that would cross the boundary of a fenced paddock in this cycle are discarded there, and one on its way inward counts in c:SLDR of its
sender (R377). -/
def State.fenceBeats (s : State) : State :=
  let cut := fun (f : Flight) => ((f.linkNow s.now).bind fun l => (neighbour l.2.1 l.2.2).map fun b => (l.2.1, b)).filter fun l => s.cutOff l.1 l.2
  let s' := { s with flight := s.flight.filter fun f => (cut f).isNone }
  s.flight.foldl (fun s' f => match cut f, f.msg with
    | some l, .beat _ src _ _ _ _ _ => if s.fenced l.2 then s'.updTile src Tile.discardBeat else s'
    | _, _ => s') s'

/-- Inject one beat: it reaches its port after h + 2 cycles (R335). A poisoned source gives a beat of zeros and a fault that names its granule
(R338). -/
def State.inject (s : State) (t lvl w : Nat) (e : TtEntry) : State :=
  let tt := (s.tile t).tts lvl
  let off := e.ofs + w * (s.now - tt.t0 - e.start)
  let key := s.sliceKey t off
  let bad := s.placeDead (.slice t off) || (poisonIn s.poison key w).isSome
  let data := if bad then 0 else s.load key w
  let dst := s.copyTile t (tDie t) (e.dest / 256) (e.dest % 256)
  let s := if bad then s.tileMsg Cause.poison.code t (nw (off / 16 * 16)) (s.tile t).lid 0 else s
  s.sendAt (s.now + hops t dst + 2) (.beat lvl t dst w data s.now false)

/-- BEAT_SEND (R338): every send entry whose window holds this cycle injects one beat. -/
def execBeatSend (s : State) : Res :=
  let t := s.ev.num
  let lvl := s.ev.a
  let w := (s.launch (s.tile t).lid).beatWidth
  let es := s.sendsNow t lvl
  .next (es.foldl (fun s e => s.inject t lvl w e)
    (s.updTile t fun tl => { tl with tt := tset tl.tt lvl { tl.tts lvl with sent := s.now - (tl.tts lvl).t0 + 1 } }))

/-- BEAT_RECEIVE (R338): written in the receive window that holds this cycle, else discarded; a partial write over poison is
discarded. A slice without storage takes none (R281); a beat with an uncorrectable error
is written and poisons the granules it touches (R371). -/
def execBeatReceive (s : State) : Res :=
  .next (match s.arrived with
    | some (.beat lvl _ dst w data _ bad) =>
      let s := s.taken
      let tt := (s.tile dst).tts lvl
      let o := s.now - tt.t0
      match (s.timetable dst lvl (if tt.run then tt.cur else 255)).find? fun e => !e.send && decide (e.start ≤ o ∧ o ≤ e.stop) with
      | none => s.updTile dst Tile.discardBeat
      | some e =>
        let off := e.ofs + w * (o - e.start)
        let key := s.sliceKey dst off
        if s.placeDead (.slice dst off) || (!bad && (partialPoison s.poison key w).isSome) then s.updTile dst Tile.discardBeat
        else
          let s := s.sliceStore dst off w data
          if bad then { s with poison := markPoison s.poison key w } else s
    | _ => s)

end Sys2Proof.Machine
end

