-- ==== Sys2Proof/Machine/Counter.lean ====
section
/-! DEFINITION. Counter: arrival counters, their firings and the ready pools they feed (R211..R215, R288..R303, R322, R323). -/

namespace Sys2Proof.Machine

/-! ### Names -/

/-- The controller of a counter key: kind and index (R288). -/
def ctrKind (k : Nat) : Nat := if k < 2 ^ 30 then 0 else if k < 2 ^ 32 then 1 else if k < 2 ^ 34 then 2 else 3
def ctrIdx (k : Nat) : Nat :=
  match ctrKind k with
  | 0 => k / 16
  | 1 => (k - 2 ^ 30) / 64
  | 2 => (k - 2 ^ 32) / 2048
  | _ => (k - 2 ^ 34) / 512

/-- The name of a launch's counter of an index while it is saved and bound to no entry (R300). -/
def savedCtr (lid idx : Nat) : Nat := 2 ^ 60 + lid * 65536 + idx

/-- Fields of an arm record of R212. -/
def arBase (r : Nat) : Word := nw (nf r 0 64)
def arLen (r : Nat) : Nat := nf r 64 32
def arTotal (r : Nat) : Nat := nf r 96 32
def arAct (r : Nat) : Nat := nf r 128 8
def arMode (r : Nat) : Nat := nf r 136 8
def arTgt (r : Nat) : Nat := nf r 160 32
def arArg (r : Nat) : Word := nw (nf r 192 64)

/-- The controller that counts an address, for a thread on tile t of a launch (R288, R289). -/
def State.ctrAt (s : State) (t : Nat) (base : Word) : Option (Nat × Nat) :=
  match (decodeWin base).bind (s.place t) with
  | some (.slice x _) => some (0, x)
  | some (.group g _) => some (1, g)
  | some (.die d _) => some (2, d)
  | some (.package off) => some (3, agentOf off)
  | _ => none

/-- The region of a record lies wholly in memory of one controller, and for an untranslated window in the reservation (R213). -/
def State.ctrFits (s : State) (t : Nat) (r : Nat) : Bool :=
  let l := s.launch (s.tile t).lid
  match decodeWin (arBase r) with
  | some (.loc off) => decide (off + arLen r ≤ l.slice)
  | some (.tile row col off) => l.inRect row col && decide (off + arLen r ≤ l.slice)
  | some (.group g i off) => s.reserved t (.group g i off) (arLen r)
  | some (.die d i off) => s.reserved t (.die d i off) (arLen r)
  | some (.package off) => decide ((off + arLen r - 1) / 65536 = off / 65536)
  | _ => false

/-- A free entry of a controller. -/
def State.ctrFree (s : State) (kind idx : Nat) : Option Nat :=
  ((List.range (ctrCount kind)).map (· + ctrBase kind idx)).find? fun k => (tget? s.counters k).isNone

/-- FIELD of R213: a reserved field, a value out of range, a target outside the launch, or ACT 3 naming the entry itself. -/
def Launch.armFieldBad (l : Launch) (idx r : Nat) : Bool :=
  let g := arTgt r
  nf r 144 16 != 0 || decide (3 < arAct r) || decide (1 < arMode r) || arLen r == 0 || arTotal r == 0 ||
  (match arAct r with
    | 0 => nf g 3 5 != 0 || decide (2 ^ 16 ≤ g) ||
      (if nb g 2 then nf g 0 2 != 0 || !l.entries.contains (nf g 8 8) else nf g 8 8 != 0 || !nb l.levels (nf g 0 2))
    | 1 => nf g 12 4 != 0 || decide (2 ^ 21 ≤ g) || decide (320 ≤ nf g 0 9) || (l.dieNow (nf g 9 3)).isNone || !l.touches (nf g 0 9)
    | 2 => decide (2 ^ 24 ≤ g) || (l.dieNow (nf g 16 3)).isNone || !l.inRect (nf g 0 8) (nf g 8 8)
    | _ => decide (2 ^ 16 ≤ g) || decide (l.cnt ≤ g) || g == idx)

/-! ### Counter members of hurdle domains (R295) -/

/-- The domain an entry with action 0 arrives at: the level domain of the armer's tile, or a group-table entry. -/
def State.ctrDom (s : State) (c : Counter) : Nat :=
  if nb c.tgt 2 then entryDom (s.launch c.lid).part (nf c.tgt 8 8)
  else
    let d := ((s.launch c.lid).dieNow (nf c.armer 16 3)).getD 0
    s.launchDom c.lid (nf c.tgt 0 2) d (tGroup (tileKey d (nf c.armer 0 8) (nf c.armer 8 8)))

/-- An arm with action 0 joins the domain, unarrived (R333), and adds 1 to E. -/
def State.joinDom (s : State) (k : Nat) : State :=
  let c := s.counter k
  if c.act = 0 then s.updRoot (s.ctrDom c) fun r => { r with counters := r.counters ++ [(k, c.mode == 0)] } else s

/-- The arrivals and the memberships of a counter in a domain's current phase: an entry armed again in the phase of its arrival is a member
twice until the phase ends (R333). -/
def Root.ctrArrived (r : Root) (k : Nat) : Nat := (r.arrived.filter fun a => a.counter == some k).length
def Root.ctrMember (r : Root) (k : Nat) : Nat := (r.counters.filter fun m => m.1 == k).length

/-- Disarming or re-chaining an armed entry with action 0 leaves the domain (R215, R295): at once when it has not arrived in the current phase,
which lowers E, else after that phase. -/
def State.leaveDom (s : State) (k : Nat) : State :=
  let c := s.counter k
  if c.act = 0 ∧ c.st = 1 then
    let left := fun (r : Root) =>
      if r.ctrArrived k < r.ctrMember k then r.counters.erase (k, c.mode == 0)
      else r.counters.map fun m => if m.1 = k then (k, true) else m
    s.updRoot (s.ctrDom c) fun r => { r with counters := left r }
  else s

/-! ### Requests (R211..R215) -/

/-- Arm entry k from a record. -/
def State.armAt (s : State) (k r idx lid armer : Nat) : State :=
  (s.updCounter k fun c => { c with base := arBase r, len := arLen r, total := arTotal r, act := arAct r, mode := arMode r, st := 1,
                                    ovr := false, heldArr := false, lost := false, tgt := arTgt r, arg := arArg r, count := 0,
                                    armer := armer, fires := 0, index := idx, lid := lid, hop := 0 }).joinDom k

/-- ACARM at the controller: the status and the new state (R213). -/
def State.acarm (s : State) (c : CtrReq) : Nat × State :=
  let lid := (s.tile c.tile).lid
  let l := s.launch lid
  let seen := s.seenTile c.tile
  let armer := tRow seen + tCol seen * 256 + s.ownDie c.tile * 65536
  if l.cnt ≤ c.index then (2, s) else
  match tget? l.ctrs c.index with
  | some k =>
    if (s.counter k).st = 1 then (1, s)
    else if l.armFieldBad c.index c.arg then (4, s)
    else if s.ctrAt c.tile (arBase c.arg) = some (ctrKind k, ctrIdx k) ∧ s.ctrFits c.tile c.arg then
      (0, s.armAt k c.arg c.index lid armer)
    else (3, s)
  | none =>
    if l.armFieldBad c.index c.arg then (4, s)
    else if !s.ctrFits c.tile c.arg then (3, s)
    else match (s.ctrAt c.tile (arBase c.arg)).bind fun p => s.ctrFree p.1 p.2 with
      | none => (3, s)
      | some k =>
        (0, (s.updLaunch lid fun l => { l with ctrs := tset l.ctrs c.index k }).armAt k c.arg c.index lid armer)

/-- The word of R214. -/
def Counter.word (c : Counter) : Nat :=
  c.count % 2 ^ 32 + c.st % 4 * 2 ^ 32 + b2n c.ovr * 2 ^ 34 + c.act % 4 * 2 ^ 35 + c.mode % 2 * 2 ^ 37

/-- A request at the controller: its answer and the new state. -/
def State.ctrServe (s : State) (c : CtrReq) : Nat × State :=
  let l := s.launch (s.tile c.tile).lid
  match c.fn with
  | 0 => s.acarm c
  | 1 => if l.cnt ≤ c.index then (2 ^ 64 - 1, s) else
    match tget? l.ctrs c.index with
    | some k => ((s.counter k).word, s)
    | none => (0, s)
  | 2 => if l.cnt ≤ c.index then (2 ^ 64 - 1, s) else
    match tget? l.ctrs c.index with
    | some k => ((s.counter k).word, (s.leaveDom k).updCounter k fun c => { c with st := 0, count := 0 })
    | none => (0, s)
  | _ =>
    let tgt := nf c.arg 0 16
    let amt := nf c.arg 16 32
    if l.cnt ≤ c.index ∨ l.cnt ≤ tgt then (2, s)
    else if tgt = c.index ∨ amt = 0 then (4, s)
    else match tget? l.ctrs c.index with
      | none => (5, s)
      | some k =>
        if (s.counter k).st ≠ 1 then (5, s)
        else (0, (s.leaveDom k).updCounter k fun c => { c with act := 3, tgt := tgt, arg := nw amt })

/-- Send a counter request; the thread waits for the answer (R211). -/
def State.ctrSend (s : State) (fn : Nat) (d : Reg) (index arg : Nat) : State :=
  if s.twinFull s.curTile then s.block .poll else
  let c : CtrReq := { fn := fn, tile := s.curTile, slot := s.curSlot, d := d, index := index, arg := arg, result := 0, peer := none }
  (s.sendOut s.curTile 4 [3, fn, index, arg] (.ctr c)).block .answer

/-- A LOCAL address that an instruction reads or writes for n bytes with an alignment, without k0: its slice offset, or the
trap (R213, R228, R229, R232). -/
def State.localArg (s : State) (a : Word) (n align : Nat) : Except Cause Nat :=
  match decodeWin a with
  | some (.loc off) =>
    if !s.reserved s.curTile (.loc off) n then .error .window
    else if off % align ≠ 0 then .error .align
    else .ok off
  | _ => .error .window

/-- ACARM (R213). -/
def execAcarm (d a b : Reg) (s : State) : Res :=
  .next (match s.localArg (s.xr b) 32 32 with
    | .error c => s.trap c (s.xr b) 0
    | .ok off =>
      match s.badGranule s.curTile off 32 with
      | some g => s.trap .poison (nw g) 0
      | none => s.ctrSend 0 d (wf (s.xr a) 0 16) (s.load (s.sliceKey s.curTile off) 32))

/-- ACRD (R214). -/
def execAcrd (d a : Reg) (s : State) : Res := .next (s.ctrSend 1 d (wf (s.xr a) 0 16) 0)
/-- ACDIS (R214). -/
def execAcdis (d a : Reg) (s : State) : Res := .next (s.ctrSend 2 d (wf (s.xr a) 0 16) 0)
/-- ACCHN (R215). -/
def execAcchn (d a b : Reg) (s : State) : Res := .next (s.ctrSend 3 d (wf (s.xr a) 0 16) (wf (s.xr b) 0 48))

/-- COUNTER_REQUEST (R211): the request is performed at its controller and answered. -/
def execCounterRequest (s : State) : Res :=
  .next (match s.arrived with
    | some (.ctr c) =>
      let (v, s') := s.taken.ctrServe c
      s'.send 4 (.ctrAns { c with result := nw v })
    | _ => s)

/-- The slot still waits for an answer; it completes with x[d] := v, or with a PARK that was due at its boundary (R242). -/
def Slot.answered (sl : Slot) (d : Reg) (v : Word) (len : Nat) : Slot :=
  match sl.wait with
  | .answer => (sl.setX d v).complete (sl.pc + BitVec.ofNat 64 len) true
  | _ => sl

/-- PARK of this thread by another, due at the boundary it has now reached (R242). -/
def State.parkDue (s : State) (t u : Nat) : State :=
  let sl := s.slot t u
  if sl.parkReq && sl.wait == .none then
    s.trapAt t u { cause := .park, pc := sl.pc, resume := sl.pc, addr := 0, detail := 0, mflags := 0 }
  else s

/-- An answer of one value to a thread, and to the twin copy's thread that waits with it. -/
def State.answerTo (s : State) (l : List (Nat × Nat)) (d : Reg) (v : Word) (len : Nat) : State :=
  l.foldl (fun s q => ((s.updSlot q.1 q.2 fun sl => sl.answered d v len).settle q.1 q.2).parkDue q.1 q.2) s

/-- COUNTER_ANSWER (R211). -/
def execCounterAnswer (s : State) : Res :=
  .next (match s.arrived with
    | some (.ctrAns c) => s.taken.answerTo ((c.tile, c.slot) :: c.peer.toList) c.d c.result 4
    | _ => s)

/-! ### Firing (R293, R294) -/

/-- An entry that fires at the end of this cycle. -/
def Counter.due (c : Counter) : Bool := c.st == 1 && decide (c.total ≤ c.count)

/-- One entry fires: the entry after, the firing decided, and whether it is lost (R293, R294). An excess that reaches TOTAL again came with
the same addition (R298). -/
def Counter.fire (c : Counter) (k now : Nat) : Counter × Option Firing :=
  let excess := c.count - c.total
  let ovr := c.ovr || decide (0 < excess)
  let fires := (c.fires + 1) % 2 ^ 32
  let f : Firing := { key := k, act := c.act, tgt := c.tgt, arg := c.arg, count := c.count, ovr := ovr, fires := fires, mode := c.mode,
                      hop := c.hop + 1, at_ := now }
  let c' := { c with st := if c.mode = 0 then 2 else 1, count := if c.mode = 0 then c.count else excess, ovr := ovr, fires := fires,
                     hop := if c.mode = 1 ∧ c.total ≤ excess then c.hop else 0 }
  if c.pend < 255 then ({ c' with pend := c.pend + 1 }, some f) else ({ c' with lost := true }, none)

/-- COUNTER_FIRE (R293): at the end of a cycle every due entry fires once, in ascending order. -/
def execCounterFire (s : State) : Res :=
  let ks := (s.counters.filter fun p => p.2.due).map Prod.fst
  let s := { s with firedAt := s.now }
  .next (ks.foldl (fun s k =>
    let (c, f) := (s.counter k).fire k s.now
    let s := s.updCounter k fun _ => c
    match f with
    | some f => { s with firings := s.firings ++ [f] }
    | none => { s with aclost := min (s.aclost + 1) (2 ^ 64 - 1) }) s)

/-! ### Ready pools (R322, R323) -/

def Group.bank (g : Group) (b : Nat) : List Task := tget [] g.banks b

/-- Push a task at the push pointer (R322); none when that bank is full. -/
def Group.pushTask (g : Group) (t : Task) : Option Group :=
  if 64 ≤ (g.bank g.push).length then none
  else some { g with banks := tset g.banks g.push (g.bank g.push ++ [{ t with stamp := g.stamp }]), push := (g.push + 1) % 8,
                     stamp := (g.stamp + 1) % 2 ^ 32 }

/-- A task may be popped for a tile (R323). -/
def Tile.eligible (t : Tile) (k : Task) : Bool :=
  let r := t.routine k.slot
  k.lid == t.lid && !r.rdy && !r.run && !r.hld

/-- The oldest eligible task of a bank. -/
def Group.headEligible (g : Group) (b : Nat) (t : Tile) : Option Task :=
  (g.bank b).foldl (fun best k => if t.eligible k then match best with
    | none => some k
    | some m => if k.stamp < m.stamp then some k else best
    else best) none

/-- The better of two tasks: priority, then stamp. -/
def bestTask : Option Task → Option Task → Option Task
  | none, b => b
  | a, none => a
  | some a, some b => if a.prio > b.prio ∨ (a.prio = b.prio ∧ a.stamp ≤ b.stamp) then some a else some b

/-- The pop of R323 with two banks sampled. -/
def Group.pop (g : Group) (t : Tile) (b1 b2 : Nat) : Option Task :=
  match bestTask (g.headEligible b1 t) (g.headEligible b2 t) with
  | some k => some k
  | none => (List.range 8).foldl (fun c b => match c with
    | none => g.headEligible b t
    | some k => some k) none

def Group.remove (g : Group) (k : Task) : Group := { g with banks := g.banks.map fun p => (p.1, p.2.filter (· != k)) }

/-- A routine slot the selector would start, of the slots as they stood when the cycle began (R21, R231). -/
def Tile.startable (t : Tile) (now : Nat) : Option Nat :=
  (List.range 32).find? fun i => let r := t.routine i; r.rdy && !r.hld && !r.run && decide (r.from_ ≤ now)

/-- A FREE context slot. -/
def Tile.freeSlot (t : Tile) : Option Nat := (List.range 8).find? fun u => (t.slot u).st == .free

/-- A tile asks to pop: a FREE slot, no candidate under R12, and a task for it. -/
def State.asksPop (s : State) (t : Nat) : Bool :=
  let tl := s.tile t
  tl.lid != 0 && tl.freeSlot.isSome && tl.parkq.isEmpty && (tl.startable s.now).isNone && !tl.held && !tl.halted && !s.fenced t &&
    ((s.group (tGroupKey t)).banks.any fun b => b.2.any tl.eligible)

/-- POOL_POP (R323): the asking tile, in rotating order of group position, takes a task, which readies its routine. -/
def execPoolPop (s : State) : Res :=
  let g := s.ev.num
  let t := s.ev.a
  let (n, s') := s.draw
  let b1 := (Config.lfsrBanks n).1 % 8
  let b2 := (b1 + 1 + (Config.lfsrBanks n).2 % 7) % 8
  .next (match (s.group g).pop (s.tile t) b1 b2 with
    | none => s
    | some k =>
      (s'.updGroup g fun p => { p.remove k with rot := (groupPos t + 1) % 64, popAt := s.now }).updTile t fun tl => tl.ready s.now 3 k.slot k.arg)

/-! ### Delivery (R294..R298) -/

/-- The tile TGT of action 2 names for a launch. -/
def State.firingTile (s : State) (lid tgt : Nat) : Nat :=
  tileKey (((s.launch lid).dieNow (nf tgt 16 3)).getD 0) (nf tgt 0 8) (nf tgt 8 8)

/-- The group TGT of action 1 names. -/
def State.firingGroup (s : State) (lid tgt : Nat) : Nat := groupKey (((s.launch lid).dieNow (nf tgt 9 3)).getD 0) (nf tgt 0 9)

/-- The inbox message of R297. -/
def firingEntry (c : Counter) (f : Firing) : Entry :=
  mkEntry (4 + c.index % 65536 * 2 ^ 16 + (b2n f.ovr + f.mode % 2 * 2) * 2 ^ 32 + (nf f.tgt 19 5 + 128) * 2 ^ 40) f.arg.toNat f.count f.fires

/-- A hurdle arrival that would be a second one of its member in the domain's phase, or that reaches the root in the cycle in which the phase
completed: it waits for the next phase (R295). -/
def State.firingHeld (s : State) (f : Firing) : Bool :=
  let r := s.root (s.ctrDom { s.counter f.key with tgt := f.tgt })
  f.act == 0 && (r.doneAt == s.now || (0 < r.ctrMember f.key && r.ctrMember f.key ≤ r.ctrArrived f.key))

/-- The launch of a firing takes deliveries: no die of it is saved (R300). -/
def State.firingOpen (s : State) (f : Firing) : Bool :=
  let l := s.launch (s.counter f.key).lid
  l.savedDies.isEmpty && l.restored.isEmpty

/-- The target of a firing has room (R294); it is delivered in a cycle after the one it was decided in. A push of a cycle comes before the
pool's pop of it (R322). -/
def State.firingRoom (s : State) (f : Firing) : Bool :=
  let c := s.counter f.key
  s.firingOpen f && decide (f.at_ < s.now) &&
  match f.act with
  | 0 => !s.firingHeld f
  | 1 => let g := s.group (s.firingGroup c.lid f.tgt); decide ((g.bank g.push).length < 64 ∧ g.popAt < s.now)
  | 2 => (s.copies (s.firingTile c.lid f.tgt)).all fun t => (s.tile t).room || s.fenced t
  | _ => true

/-- The oldest firing of its controller. -/
def State.firingFirst (s : State) (f : Firing) : Bool :=
  (s.firings.find? fun g => ctrKind g.key == ctrKind f.key && ctrIdx g.key == ctrIdx f.key) == some f

/-- A firing takes effect at its target. -/
def State.deliver (s : State) (f : Firing) : State :=
  let c := s.counter f.key
  let l := s.launch c.lid
  match f.act with
  | 0 => s.rootCount (s.ctrDom { c with tgt := f.tgt })
      { tile := none, far := none, counter := some f.key, op := none, val := 0, abort := 0, drop := false }
  | 1 => s.updGroup (s.firingGroup c.lid f.tgt) fun g =>
      (g.pushTask { slot := nf f.tgt 16 5, arg := f.arg, lid := c.lid, prio := l.prio, stamp := 0 }).getD g
  | 2 => (s.copies (s.firingTile c.lid f.tgt)).foldl (fun s t =>
      if s.fenced t then s else s.placeInbox t (firingEntry c f) f.arg) s
  | _ =>
    if 9 ≤ f.hop then { s.updCounter f.key fun c => { c with lost := true } with aclost := s.aclost + 1 }
    else match tget? l.ctrs (nf f.tgt 0 16) with
      | none => s
      | some k =>
        if ctrKind k = ctrKind f.key ∧ ctrIdx k = ctrIdx f.key then s.sendAt (f.at_ + 1) (.ctrAdd k c.lid (wf f.arg 0 32) f.hop)
        else s.send 3 (.ctrAdd k c.lid (wf f.arg 0 32) f.hop)

/-- FIRING_DELIVERY (R294): the firing numbered ev.num in the list, the oldest of its controller, is delivered when its target has
room; a hurdle arrival that must wait is HELD (R295). -/
def execFiringDelivery (s : State) : Res :=
  .next (match s.firings[s.ev.num]? with
    | none => s
    | some f =>
      if s.firingFirst f && s.firingRoom f then
        ({ s with firings := s.firings.eraseIdx s.ev.num }.updCounter f.key fun c =>
          { c with pend := c.pend - 1, heldArr := false }).deliver f
      else if s.firingHeld f && s.firingOpen f then s.updCounter f.key fun c => { c with heldArr := true }
      else s)

/-- COUNTER_ADDITION (R298): it reaches the entry of the launch it set out for. -/
def execCounterAddition (s : State) : Res :=
  .next (match s.arrived with
    | some (.ctrAdd k lid n hop) =>
      if (tget? s.counters k).isSome && (s.counter k).lid == lid then s.taken.updCounter k fun c => c.add n hop else s.taken
    | _ => s)

end Sys2Proof.Machine
end

