-- ==== Sys2Proof/Machine/Tree.lean ====
section
/-! DEFINITION. Tree: the combining tree (R344..R351). -/

namespace Sys2Proof.Machine

/-- The entries a tile belongs to, ascending (R345). -/
def State.tileEntries (s : State) (t : Nat) : List Nat :=
  ((List.range 256).filter fun g => (s.launch (s.tile t).lid).entries.contains g && s.entryHas t g)

/-- The domain slot of a tile: 0..3 the levels, 4..7 its entries in ascending order (R345); of a key that is a level or 4 + entry. -/
def State.domSlot (s : State) (t key : Nat) : Option Nat :=
  if key < 4 then some key else ((s.tileEntries t).findIdx? (· == key - 4)).map (· + 4)

/-- The BUSY mask of a tile's domain slots (R345). -/
def State.busyMask (s : State) (t : Nat) : Nat :=
  ((s.tile t).busy.filterMap (s.domSlot t)).foldl (fun m i => m ||| 2 ^ i) 0

/-- Times of R351 up and down the tree, when nothing else uses its nodes. -/
def State.treeUp (s : State) (d : Nat) : Nat := match s.span d with | 0 => 6 | 1 => 14 | 2 => 58 | 3 => 210 | _ => 1935
def State.treeDown (s : State) (d : Nat) : Nat := match s.span d with | 0 => 6 | 1 => 12 | 2 => 52 | 3 => 180 | _ => 1905

/-- Fields of an inject descriptor (R346). -/
def tdEntry (d : Word) : Nat := wf d 0 8
def tdDom (d : Word) : Bool := d.getLsbD 8
def tdLevel (d : Word) : Nat := wf d 9 2
def tdOp (d : Word) : Nat := wf d 12 3
def tdType (d : Word) : Nat := wf d 15 4
def tdRm (d : Word) : Nat := wf d 19 2
/-- The tile's key of the domain it names: a level, or 4 + entry. -/
def tdKey (d : Word) : Nat := hurKey (tdDom d) (if tdDom d then tdEntry d else tdLevel d)

/-- The ILL conditions of R346. -/
def treeIll (d : Word) : Bool :=
  d.getLsbD 11 || wf d 21 43 != 0 || (if tdDom d then tdLevel d != 0 else tdEntry d != 0) || decide (5 < tdOp d) ||
  !(decide (tdType d < 8) || decide (10 ≤ tdType d ∧ tdType d ≤ 13)) ||
  (decide (1 ≤ tdOp d ∧ tdOp d ≤ 3) && decide (8 ≤ tdType d)) ||
  (tdRm d != 0 && !(tdOp d == 0 && decide (8 ≤ tdType d)))

/-- Outcome of a CTRL store. -/
inductive CtrlOut where
  | trap (c : Cause)
  | wait
  | ok (s : State)

/-- TREE_INJECT of a tile (R346): checks, the busy slot, the contribution on its way. -/
def State.treeInject (s : State) (t : Nat) (val d : Word) : CtrlOut :=
  let lid := (s.tile t).lid
  let bad := if tdDom d then !s.entryHas t (tdEntry d) else !nb (s.launch lid).levels (tdLevel d)
  if bad then .trap .window
  else if treeIll d then .trap .ill
  else
    if (s.tile t).busy.contains (tdKey d) || s.twinFull t then .wait
    else
      let dom := if tdDom d then entryDom (s.launch lid).part (tdEntry d) else s.domOf t (tdLevel d)
      let s := s.updTile t fun tl => { tl with busy := tl.busy ++ [tdKey d] }
      .ok (s.sendOut t (s.treeUp dom) [4, dom, val.toNat, d.toNat] (.treeTerm dom (s.seenTile t) val d))

/-- TREE_INJECT (R346): the pair store's effect on the tile, with the value and descriptor in ev. -/
def execTreeInject (s : State) : Res :=
  .next (match s.treeInject s.ev.num (nw s.ev.a) (nw s.ev.b) with
    | .ok s' => s'
    | _ => s)

/-- An integer term: its low bits, extended by the type (R347). -/
def treeInt (ty : Nat) (v : Word) : Word :=
  if intSigned ty then BitVec.ofInt 64 (sx (intWidth ty) v.toNat) else nw (v.toNat % 2 ^ intWidth ty)

/-- The fold a floating-point add goes through: F640 or F2176 (R347). -/
def treeFold (ty : Nat) : Nat := if ty = 13 then 2 else 1

/-- The value and flags of a round with one (OP, TYPE, RMODE) (R347). -/
def treeCombine (d : Word) (vs : List Word) : Word × Fl :=
  let ty := tdType d
  if ty < 8 then
    let xs := vs.map (treeInt ty)
    (match tdOp d with
      | 0 => xs.foldl (· + ·) 0
      | 1 => xs.foldl (· &&& ·) (BitVec.allOnes 64)
      | 2 => xs.foldl (· ||| ·) 0
      | 3 => xs.foldl (· ^^^ ·) 0
      | 4 => wordBest (if intSigned ty then BitVec.slt else BitVec.ult) xs
      | _ => wordBest (fun a b => if intSigned ty then BitVec.slt b a else BitVec.ult b a) xs, flNone)
  else
    let f := tyFmt ty
    let bits := vs.map fun v => v.toNat % 2 ^ f.width
    match tdOp d with
    | 0 =>
      let fw := treeFold ty
      let acc := bits.foldl (fun a b => let r := foldAdd fw a.1 (unpack f b); (r.1, a.2 ||| r.2)) (0, flNone)
      let r := foldToFp f (tdRm d) fw acc.1
      (nw r.1, acc.2 ||| r.2)
    | op =>
      match bits with
      | [] => (0, flNone)
      | x :: r =>
        let z := r.foldl (fun a b => let q := fpMinMax f (op == 5) a.1 b; (q.1, a.2 ||| q.2)) (fpMinMax f (op == 5) x x)
        (nw z.1, z.2)

/-- The members of a round: hurdle drops do not change it (R347). -/
def State.treeMembers (s : State) (d : Nat) : List Nat := (s.members d).filter fun t => !(s.round d).gone.contains t

/-- Every member has contributed. -/
def State.roundFull (s : State) (d : Nat) : Bool :=
  let r := s.round d
  !r.terms.isEmpty && ((s.treeMembers d).all fun t => r.terms.any fun x => x.1 == t + 1) &&
    s.allResident d && decide (((s.farMembers d).filter fun m => !r.rgone.contains m).length ≤ (r.terms.filter fun x => x.1 == 0).length)

/-- The round's result: value and status word without ROUND (R347, R348). -/
def roundResult (r : Round) : Word × Nat :=
  match r.terms with
  | [] => (0, 0)
  | (_, _, d) :: _ =>
    let names := wf d 0 8 + b2n (tdDom d) * 2 ^ 8 + tdLevel d * 2 ^ 9 + 2 ^ 11
    let same := r.terms.all fun x => tdOp x.2.2 == tdOp d && tdType x.2.2 == tdType d && tdRm x.2.2 == tdRm d
    if r.lost || !same then (0, names + 2 ^ 12)
    else
      let v := treeCombine d (r.terms.map fun x => x.2.1)
      (v.1, names + v.2.toNat * 2 ^ 13)

/-- The round completes: its result goes down to every member, the round number advances (R347). -/
def State.completeRound (s : State) (d : Nat) : State :=
  let r := s.round d
  let (v, st) := roundResult r
  let n := (r.num + 1) % 2 ^ 32
  let ts := ((s.treeMembers d).map s.copies).flatten
  let s := s.updRound d fun r => { r with num := n, terms := [], lost := false, told := [] }
  ts.foldl (fun s t => s.send (s.treeDown d) (.treeResult d t v (nw (st + n * 2 ^ 32)))) s

/-- TREE_ROUND_COMPLETE (R347): a contribution reaches the root (term's tile plus 1; 0 for another package, ev.a = 1, with value
and descriptor in ev.b and ev.c); or, every member having contributed, the result is sent down. Over a tree whose readiness bit is 0 the round
is one with a dropped member (R378, R409). -/
def execTreeRoundComplete (s : State) : Res :=
  let add := fun (s : State) d (x : Nat × Word × Word) => s.updRound d fun r =>
    { r with terms := r.terms ++ [x], first := if r.terms.isEmpty then s.now else r.first, lost := r.lost || !s.isReady 33 }
  .next (match s.ev.a with
    | 0 => match s.arrived with
      | some (.treeTerm d t v desc) => add s.taken d (t + 1, v, desc)
      | _ => s
    | 1 => add s s.ev.num (0, nw s.ev.b, nw s.ev.c)
    | _ => if s.roundFull s.ev.num then s.completeRound s.ev.num else s)

/-- TREE_RESULT_PLACE (R347). -/
def execTreeResultPlace (s : State) : Res :=
  .next (match s.arrived with
    | some (.treeResult d t v st) =>
      if (s.domLaunches d).any (s.holdsLaunch t) then s.taken.updTile t fun tl => { tl with xq := tl.xq ++ [(v, st)] } else s.taken
    | _ => s)

/-- Remove the oldest result (R348): the pair value, 0 when empty; the domain slot is free again (R345). -/
def State.treeExtract (s : State) (t : Nat) : State × Nat :=
  match (s.tile t).xq with
  | [] => (s, 0)
  | (v, st) :: r =>
    (s.updTile t fun tl => { tl with xq := r, busy := tl.busy.filter (· != tdKey st) }, v.toNat + st.toNat * 2 ^ 64)

/-- TREE_EXTRACT (R348). -/
def execTreeExtract (s : State) : Res := .next (s.treeExtract s.ev.num).1

end Sys2Proof.Machine
end

