-- ==== Sys2Proof/Machine/Message.lean ====
section
/-! DEFINITION. Message: the inbox, SENDM, trap messages, routine slots and the CTRL blocks (R226..R231, R305, R345, R348, R363). -/

namespace Sys2Proof.Machine

/-! ### SENDM (R227, R228) -/

/-- The entry of a message from tile t: KIND 1, ORIGIN, ODIE, HANDLER, OPKG, payload (R227). -/
def State.sendEntry (s : State) (t hnd payload : Nat) : Entry :=
  let seen := s.seenTile t
  BitVec.ofNat 256 (1 + tRow seen * 2 ^ 16 + tCol seen * 2 ^ 24 + s.ownDie t % 8 * 2 ^ 32 + hnd * 2 ^ 40 + s.pkg % 4096 * 2 ^ 48 +
    payload * 2 ^ 64)

/-- Where a descriptor of R228 leads: none when INVALID; else the package (none: the own), by-owner rules, and the tile. -/
def State.sendDest (s : State) (t : Nat) (d : Word) : Option (Option (Nat × Nat) × Bool × Nat) :=
  let l := s.launch (s.tile t).lid
  let self := d.getLsbD 19
  let row := wf d 0 8
  let col := wf d 8 8
  let remote := d.getLsbD 44
  let xpod := d.getLsbD 53
  if wf d 26 6 ≠ 0 ∨ wf d 54 10 ≠ 0 ∨ 128 ≤ row ∨ 160 ≤ col ∨ (self ∧ wf d 16 3 ≠ 0) ∨ (xpod ∧ !remote) ∨
    (remote ∧ 3072 ≤ wf d 32 12) then none
  else
    let away := remote && (wf d 32 12 != s.pkg || (xpod && wf d 45 8 != s.pod))
    if away then some (some (if xpod then wf d 45 8 else s.pod, wf d 32 12), true, tileKey (if self then s.logDie (tDie t) else wf d 16 3) row col)
    else if remote then
      (if self then some (tDie t) else s.realDie (wf d 16 3)).map fun die => (none, true, tileKey die row col)
    else
      match (if self then some (tDie t) else l.dieNow (wf d 16 3)) with
      | none => none
      | some die =>
        if l.inRect row col then some (none, false, if die = tDie t then s.copyTile t die row col else tileKey die row col) else none

/-- SENDM (R228). -/
def execSendm (d a b : Reg) (s : State) : Res :=
  let t := s.curTile
  let desc := s.xr a
  .next (match s.localArg (s.xr b) 24 8 with
    | .error c => s.trap c (s.xr b) 0
    | .ok off =>
      match s.badGranule t off 24 with
      | some g => s.trap .poison (nw g) 0
      | none =>
        if s.twinFull t then s.block .poll else
        let e := s.sendEntry t (wf desc 20 5 + b2n (desc.getLsbD 25) * 128) (s.load (s.sliceKey t off) 24)
        let m : SendReq := { tile := t, slot := s.curSlot, d := d, entry := e, dest := 0, owner := s.ownerOf s.curT.lid,
                             lid := s.curT.lid, byOwner := false, pgrp := 0, status := 2, peer := none }
        match s.sendDest t desc with
        | none => (s.send 2 (.sendmAns m)).block .answer
        | some (none, own, dest) =>
          let m := { m with dest := dest, byOwner := own, pgrp := s.physGroup (tDie dest) (tGroup dest) }
          let inside := !own && tDie dest == tDie t
          (if inside then s.send (routed (hops t dest) 3) (.sendm m)
           else s.sendOut t (routed (hops t dest) 3) [5, desc.toNat, e.toNat] (.sendm m)).block .answer
        | some (some (pod, pkg), _, dest) =>
          let m := { m with dest := dest, byOwner := true, pgrp := 2 ^ 20 + pod % 256 * 4096 + pkg }
          (s.sendOut t 1 [5, desc.toNat, e.toNat] (.sendm m)).block .answer)

/-- A tile holds a launch of an owner. -/
def State.holdsOwner (s : State) (t owner : Nat) : Bool := (s.tile t).lid != 0 && s.ownerOf (s.tile t).lid == owner

/-- A launch with a tile on a stack (R283). -/
def State.usesStack (s : State) (lid k : Nat) : Bool := (s.launch lid).cur.any fun d => s.stackOf d == k

/-- Status of a message at its destination, and the state with the entry placed (R228). A stack in a re-roling sequence refuses what comes from
outside an affected launch (R283). A message of a twin launch that was paired reaches both copies (R330). -/
def State.sendmAt (s : State) (m : SendReq) : Nat × State :=
  let t := m.dest
  let here := !(m.tile == 0 && m.slot == 8)
  if s.fenced t || !s.dieExists (tDie t) || (s.draining (tDie t) && !(here && s.usesStack m.lid (s.stackOf (tDie t)))) then (3, s)
  else if here && m.pgrp ≠ s.physGroup (tDie t) (tGroup t) then (4, s)
  else if (if m.byOwner then !s.holdsOwner t m.owner else !s.holdsLaunch t m.lid) then (3, s)
  else
    let ts := if s.paired t && (m.byOwner || tDie m.tile != tDie t) then s.copies t else [t]
    if ts.all fun x => (s.tile x).room then
      (0, ts.foldl (fun s x => s.placeInbox x m.entry (nw (nf m.entry.toNat 64 64))) s)
    else (1, s)

/-- MESSAGE_ARRIVAL (R227, R228): placed or refused; the answer returns, to another package when it came from one. -/
def execMessageArrival (s : State) : Res :=
  .next (match s.arrived with
    | some (.sendm m) =>
      let (st, s') := s.taken.sendmAt m
      if m.tile = 0 ∧ m.slot = 8 then s'.fjAnswer m.pgrp 11 (if st = 0 then 0 else if st = 1 then 5 else st - 2) 0 0 0
      else s'.send (2 + 2 * hops m.tile m.dest) (.sendmAns { m with status := st })
    | _ => s)

/-- SENDM_ANSWER (R228): the status reaches the sender; from another package (ev.a = 1) request ev.num answers with status ev.b. -/
def execSendmAnswer (s : State) : Res :=
  .next (if s.ev.a = 1 then
      match tget? s.fj s.ev.num with
      | some q => match q.msg with
        | .sendm m => ({ s with fj := terase s.fj s.ev.num }).answerTo ((m.tile, m.slot) :: m.peer.toList) m.d (nw (s.ev.b % 8)) 4
        | _ => s
      | none => s
    else match s.arrived with
      | some (.sendmAns m) => s.taken.answerTo ((m.tile, m.slot) :: m.peer.toList) m.d (nw m.status) 4
      | _ => s)

/-! ### INBOX and INBQ (R229, R230) -/

/-- The INBQ word. -/
def Tile.inbq (t : Tile) : Nat := t.inbox.length + (match t.inbox with | [] => 0 | e :: _ => nf e.toNat 0 16) * 2 ^ 16

/-- The thread dequeued an entry of KIND 0x0003: LSTAT reports its launch no longer (R235). -/
def State.noteDequeued (s : State) (e : Entry) : State :=
  if nf e.toNat 0 16 = 3 then s.updLaunch (nf e.toNat 16 16) fun l => { l with ended := false } else s

/-- Remove the head entry (R229, R230). -/
def State.inboxPop (s : State) (t : Nat) : State :=
  match (s.tile t).inbox with
  | [] => s
  | e :: r => (s.updTile t fun tl => { tl with inbox := r }).noteDequeued e

/-- INBOX (R229); a store to a slice without storage is refused, which traps in place (R151, R281). -/
def execInbox (d a : Reg) (s : State) : Res :=
  let t := s.curTile
  .next (match s.localArg (s.xr a) 32 32 with
    | .error c => s.trap c (s.xr a) 0
    | .ok off =>
      match s.curT.inbox with
      | [] => s.wr d 0 4
      | e :: _ =>
        if s.curT.unusable then s.trap .poison (nw (off / 16 * 16)) 0
        else ((s.inboxPop t).sliceStore t off 32 e.toNat).wr d (nw (nf e.toNat 0 64)) 4)

/-- INBQ (R229). -/
def execInbq (d : Reg) (s : State) : Res := .next (s.wr d (nw s.curT.inbq) 4)

/-- INBOX_CTRL_REMOVE (R230): a store to CTRL 0x00 offset 8 on tile ev.num. -/
def execInboxCtrlRemove (s : State) : Res := .next (s.inboxPop s.ev.num)

/-! ### Trap messages (R363) -/

/-- Where a die-queue message goes; empty for the management core. -/
def State.msgDest (s : State) (d dest : Nat) (e : Entry) : List Nat :=
  let ps := (List.range 16).filter fun p => (s.part p).valid
  if dest = 0 then ((s.partOf (tileKey d (nf e.toNat 32 8) (nf e.toNat 40 8))).map fun p => s.supTile p d).toList
  else if dest = 1 then (ps.filter fun p => (s.part p).dies.getLsbD (s.logDie d)).map fun p => s.supTile p d
  else if dest = 2 then ((s.realDie (nf s.fbSvc 16 3)).map fun d => tileKey d (nf s.fbSvc 0 8) (nf s.fbSvc 8 8)).toList
  else if s.hasSup (dest - 16) d then [s.supTile (dest - 16) d] else []

/-- Where a waiting trap message is: in a parked slot, among those of threads that went on, or at the head of the die queue. -/
inductive TrapAt where
  | slot (t u : Nat)
  | late
  | queue
  deriving DecidableEq, Repr

/-- The messages of one die that wait, each with its place in the order of sending. -/
def State.trapWaiting (s : State) (d : Nat) : List (Nat × TrapAt) :=
  ((s.tiles.filter fun p => tDie p.1 == d).map fun p => p.2.slots.filterMap fun q =>
    if q.2.trapMsg.isSome then some (q.2.trapSeq, .slot p.1 q.1) else none).flatten ++
  (((s.die d).late.map fun m => (m.1, TrapAt.late)).take 1) ++ ((s.die d).trq.map fun m => (m.1, TrapAt.queue)).take 1

/-- The first of them. -/
def State.trapFirst (s : State) (d : Nat) : Option TrapAt :=
  ((s.trapWaiting d).foldl (fun b m => match b with
    | none => some m
    | some x => if m.1 < x.1 then some m else b) none).map Prod.snd

/-- A thread's message enters the inbox of its partition's supervisor on the die; the management core takes it where there is none. -/
def State.deliverTrap (s : State) (d p : Nat) (e : Entry) : Option State :=
  let sup := s.supTile p d
  if !s.hasSup p d then some { s with toMgmt := e :: s.toMgmt }
  else if (s.tile sup).room then some (s.placeInbox sup e 0) else none

/-- The oldest message of die ev.num enters the inboxes it is for when they have room (R363). -/
def State.trapDeliver (s : State) (d : Nat) : Option State :=
  match s.trapFirst d with
  | none => none
  | some (.slot t u) =>
    match (s.slot t u).trapMsg with
    | none => none
    | some e => (s.updSlot t u fun sl => { sl with trapMsg := none }).deliverTrap d (s.launch (s.slot t u).lid).part e
  | some .late =>
    match (s.die d).late with
    | [] => none
    | (_, p, e) :: r => (s.updDie d fun di => { di with late := r }).deliverTrap d p e
  | some .queue =>
    match (s.die d).trq with
    | [] => none
    | (_, dest, e) :: r =>
      let ts := s.msgDest d dest e
      if ts.all fun t => (s.tile t).room then
        let s := s.updDie d fun di => { di with trq := r }
        some (if ts.isEmpty then { s with toMgmt := e :: s.toMgmt } else ts.foldl (fun s t => s.placeInbox t e 0) s)
      else none

/-- TRAP_MESSAGE_DELIVERY (R363). -/
def execTrapMessageDelivery (s : State) : Res := .next ((s.trapDeliver s.ev.num).getD s)

/-! ### Routine slots (R231) -/

/-- The routine slot x[a][4..0] names. -/
def State.routineArg (s : State) (a : Reg) : Nat := wf (s.xr a) 0 5

/-- HLD of a filled slot; the selector sees a release from the next cycle (R231). -/
def State.setHeld (s : State) (i : Nat) (h : Bool) : State :=
  s.updTile s.curTile fun t =>
    let r := t.routine i
    if r.vld then { t with routines := tset t.routines i { r with hld := h, from_ := if r.hld && !h then s.now + 1 else r.from_ } } else t

/-- RHOLD (R231). -/
def execRhold (a : Reg) (s : State) : Res := .next ((s.setHeld (s.routineArg a) true).done 4)
/-- RREL (R231). -/
def execRrel (a : Reg) (s : State) : Res := .next ((s.setHeld (s.routineArg a) false).done 4)
/-- RRDY (R231). -/
def execRrdy (a b : Reg) (s : State) : Res :=
  .next ((s.updTile s.curTile fun t => t.ready s.now 0 (s.routineArg a) (s.xr b)).done 4)

/-! ### CTRL blocks -/

/-- A load of a CTRL block (R230, R345, R348, R305): none traps WINDOW. -/
def State.ctrlLoad (s : State) (t block off code : Nat) : Option (State × Nat) :=
  let tl := s.tile t
  match block with
  | 0 =>
    if off = 0 ∧ code = 3 then some (s, tl.inbq)
    else if off = 0x20 ∧ code = 4 then some (s, match tl.inbox with | [] => 0 | e :: _ => nf e.toNat 0 128)
    else if off = 0x30 ∧ code = 4 then some (s, match tl.inbox with | [] => 0 | e :: _ => nf e.toNat 128 128)
    else none
  | 1 => if off = 0x10 ∧ code = 3 then some (s, s.busyMask t) else none
  | 2 =>
    if off = 0 ∧ code = 4 then some (s.treeExtract t)
    else if off = 0x10 ∧ code = 3 then some (s, tl.xq.length)
    else none
  | 3 =>
    if code = 3 ∧ off < 512 ∧ off % 8 = 0 then
      let c := s.counter (ctrBase 0 (s.seenTile t) + off / 32)
      let own := c.lid == tl.lid && (tget? s.counters (ctrBase 0 (s.seenTile t) + off / 32)).isSome
      some (s, match off / 8 % 4 with
        | 0 => c.word
        | 1 => c.base.toNat
        | 2 => c.len + c.total * 2 ^ 32
        | _ => if own then c.index else 0xFFFF)
    else none
  | _ => none

/-- A store to a CTRL block. -/
def State.ctrlStore (s : State) (t block off code data : Nat) : CtrlOut :=
  if block = 0 ∧ off = 8 ∧ code = 3 then .ok (s.inboxPop t)
  else if block = 1 ∧ off = 0 ∧ code = 4 then s.treeInject t (nw data) (nw (data / 2 ^ 64))
  else .trap .window

end Sys2Proof.Machine
end

