-- ==== Sys2Proof/Machine/Access.lean ====
section
/-! DEFINITION. Access: the checks of a memory access, its request and its performance at the controller (R143..R154, R158, R160). -/

namespace Sys2Proof.Machine

/-- The cause of a code (R361). -/
def Cause.ofCode (c : Nat) : Cause :=
  match c with
  | 1 => .ill | 2 => .priv | 3 => .align | 4 => .window | 5 => .exch | 6 => .page | 7 => .perm | 8 => .fetch | 9 => .poison
  | 10 => .slot | 11 => .hover | 12 => .remap | 13 => .nak | 14 => .stall | 15 => .fpx | 16 => .trap | 17 => .brk | _ => .park

/-! ### Checks at issue (R144) -/

/-- Where a load of a window walks (R15); none when it does not. Coordinates are as the program sees them. -/
def State.walkTo (s : State) (t : Nat) (w : Win) : Option (Nat × Nat) :=
  let me := s.seenTile t
  match w with
  | .tile r c _ => if r = tRow me ∧ c = tCol me then none else some (r, c)
  | .die self d off =>
    if self || (s.launch (s.tile t).lid).dieNow d == some (tDie t) then
      if unitCol off = tCol me then none else some (tRow me, unitCol off)
    else none
  | _ => none

/-- Outcome of the checks: a trap with DETAIL, a walk, or the place reached. -/
inductive Chk where
  | trap (c : Cause) (detail : Nat)
  | walk (dest : Nat)
  | ok (p : Place)
  deriving DecidableEq, Repr

/-- The code region a window reaches (R30). -/
def State.inRegion (s : State) (t : Nat) (w : Win) (n : Nat) : Bool :=
  let l := s.launch (s.tile t).lid
  match w with
  | .group _ _ off => (l.regionAt false off n).isSome
  | .die _ _ off => (l.regionAt true off n).isSome
  | _ => false

/-- The level whose phase bit forbids a read now (R30). -/
def State.exchBad (s : State) (t : Nat) (w : Win) : Option Nat :=
  match s.govLevel t w with
  | some l => if (s.tile t).phaseBit l then none else some l
  | none => none

/-- mem_issue of R144 for a thread on tile t: kind 0 load, 1 store, 2 atomic; n bytes with a size code. -/
def State.memCheck (s : State) (t kind : Nat) (ea : Word) (n code : Nat) : Chk :=
  match decodeWin ea with
  | none => .trap .window code
  | some w =>
    let l := s.launch (s.tile t).lid
    let isSys := match w with | .system _ _ _ => true | _ => false
    let isCtrl := match w with | .ctrl _ _ => true | _ => false
    if isSys then .trap .window code
    else if isCtrl && (kind == 2 || decide (code < 3)) then .trap .window code
    else if !s.reserved t w 1 then .trap .window code
    else
      let walk := if kind = 0 then s.walkTo t w else none
      if (match walk with | some (r, c) => !l.inRect r c | none => false) then .trap .window code
      else if ea.toNat % n ≠ 0 then .trap .align 0
      else if kind ≠ 0 && s.inRegion t w n then .trap .perm code
      else match walk with
        | some (r, c) => .walk (s.copyTile t (tDie t) r c)
        | none =>
          match (if kind = 0 then s.exchBad t w else none) with
          | some lv => .trap .exch lv
          | none => match s.place t w with
            | some p => .ok p
            | none => .trap .window code

/-! ### Requests -/

/-- The group a place lies in, for a forced remap (R320). -/
def placeGroup : Place → Option Nat
  | .slice t _ => some (tGroupKey t)
  | .group g _ => some g
  | _ => none

/-- The count a posted store raises (R36, R143): 1 N, 2 P, 3 F. -/
def placeCls : Place → Nat
  | .package _ => 2
  | .pod _ _ => 3
  | .system _ _ _ => 3
  | _ => 1

def Slot.count (sl : Slot) (cls : Nat) : Nat := match cls with | 1 => sl.cntN | 2 => sl.cntP | 3 => sl.cntF | _ => 0
def Slot.setCount (sl : Slot) (cls v : Nat) : Slot :=
  match cls with
  | 1 => { sl with cntN := v }
  | 2 => { sl with cntP := v }
  | 3 => { sl with cntF := v }
  | _ => sl

/-- A request of the executing thread. -/
def State.mkReq (s : State) (acc : Acc) (ea : Word) (size data : Nat) (p : Place) (len : Nat) : Req :=
  let g := (placeGroup p).getD 0
  { num := s.next, who := .thread s.curTile s.curSlot, acc := acc, addr := ea, size := size, data := data, d := 0, code := 0,
    sign := false, fn := 0, k1 := 0, rm := 0, nt := false, cls := 0, lid := s.curT.lid, part := (s.launch s.curT.lid).part,
    elem := 0, dst := 0, phys := none, lvl := 3, tbl := 0, gen := 0, lgrp := g, pgrp := s.physGroup (g / 320) (g % 320),
    grant := none, len := len, peer := none, bad := false }

/-- Words of a request that its hash covers (R330). -/
def Req.words (r : Req) : List Nat :=
  [match r.acc with | .store => 6 | .read => 7 | .atomic => 8, r.addr.toNat, r.size, r.data, r.fn, r.k1.toNat, r.rm.toNat]

/-- Send a request of tile t: to its controller, within its own copy unpaired, or out to another package (R143). -/
def State.sendReq (s : State) (t : Nat) (r : Req) (p : Place) : State :=
  match p with
  | .slice x _ => if (s.tile x).lid = (s.tile t).lid ∧ tDie x = tDie t then s.send (s.reqTime t p) (.req r)
      else s.sendOut t (s.reqTime t p) r.words (.req r)
  | _ => s.sendOut t (s.reqTime t p) r.words (.req r)

/-! ### Performance at the controller -/

/-- The tile of a requester. -/
def State.whoTile (s : State) (w : Who) : Nat :=
  match w with
  | .thread t _ => t
  | .job p x => (((s.pen p).jobs.find? fun j => j.xid == x).map Job.tile).getD (penTile p 0)
  | .fjoic _ _ => 0

/-- The place a request's address means. -/
def State.reqPlace (s : State) (r : Req) : Option Place :=
  match r.who with
  | .fjoic _ _ => (decodeWin r.addr).bind fun w => match w with
    | .package off => some (.package off)
    | .pod id off => some (.pod id off)
    | .die false d off => (s.realDie d).map fun d => .die d off
    | _ => none
  | w => (decodeWin r.addr).bind (s.place (s.whoTile w))

/-- New memory value and flags of an atomic (R159): function, width in bits, old value, operand, comparand, rounding. -/
def atomicNew (fn w old v k1 : Nat) (rm : Nat) : Nat × Fl :=
  let a := old % 2 ^ w
  let b := v % 2 ^ w
  match fn with
  | 0 => ((a + b) % 2 ^ w, flNone)
  | 1 => (a &&& b, flNone)
  | 2 => (a ||| b, flNone)
  | 3 => (a ^^^ b, flNone)
  | 4 => (if sx w b < sx w a then b else a, flNone)
  | 5 => (if sx w a < sx w b then b else a, flNone)
  | 6 => (if b < a then b else a, flNone)
  | 7 => (if a < b then b else a, flNone)
  | 8 => (b, flNone)
  | 9 => (if a = k1 % 2 ^ w then b else a, flNone)
  | _ =>
    let f := if w = 32 then fmt32 else fmt64
    fpAddV f rm (unpack f a) (unpack f b)

/-- The value an atomic returns to x[d] (R159). -/
def atomicOld (fn w old : Nat) : Nat := if fn = 16 then old % 2 ^ w else wrapTo 64 (sx w old)

/-- What a request whose payload is lost has written is poison (R371). -/
def State.spoil (s : State) (r : Req) (key : Nat) : State := if r.bad then { s with poison := markPoison s.poison key r.size } else s

/-- Perform a request at a storage key (R151, R158, R160): its status, value, flags, and the state. A store that lands is counted
by the controller given as kind, index and offset, in PACKAGE memory for its partition (R291). -/
def State.perform (s : State) (r : Req) (key : Nat) (dead : Bool) (part kind idx off : Nat) : State × Ans :=
  let bad : Ans := { req := r, status := Cause.poison.code, value := 0, flags := 0 }
  match r.acc with
  | .store =>
    if dead || (partialPoison s.poison key r.size).isSome then (s, bad)
    else (((s.store key r.size r.data).land part kind idx off r.size).spoil r key, { req := r, status := 0, value := 0, flags := 0 })
  | .read =>
    if dead || (poisonIn s.poison key r.size).isSome then (s, bad)
    else (s, { req := r, status := 0, value := s.load key r.size, flags := 0 })
  | .atomic =>
    if dead || (poisonIn s.poison key r.size).isSome then (s, bad)
    else
      let w := 8 * r.size
      let old := s.load key r.size
      let (v, fl) := atomicNew r.fn w old r.data r.k1.toNat r.rm.toNat
      ({ s with mem := writeMem s.mem key r.size v }.spoil r key, { req := r, status := 0, value := atomicOld r.fn w old, flags := fl })

/-- The tile a job's request for a slice reaches: the copy left of a twin pair (R384). -/
def State.jobSlice (s : State) (r : Req) (t : Nat) : Nat :=
  match r.who with
  | .job _ _ => (s.replacement t).getD t
  | _ => t

/-- Why a request to a slice, group or die SRAM is refused outright (R152, R377, R283, R320). -/
def State.refuses (s : State) (r : Req) (p : Place) : Option Cause :=
  match p with
  | .slice t0 _ =>
    let t := s.jobSlice r t0
    if s.fenced t || !s.dieExists (tDie t) then some .nak
    else if s.physGroup (r.lgrp / 320) (r.lgrp % 320) ≠ r.pgrp then some .remap
    else if (s.tile t).lid ≠ r.lid then some .nak else none
  | .group g off =>
    if s.fenced (groupTile g (off / 256 % 64)) then some .nak
    else if s.physGroup (r.lgrp / 320) (r.lgrp % 320) ≠ r.pgrp then some .remap else none
  | .die d _ => if s.dieExists d then none else some .nak
  | _ => none

/-- Perform a request at a slice, group bank or die SRAM controller. A job's store to a slice of a twin launch lands in both
copies (R330). -/
def State.performAt (s : State) (r : Req) (p : Place) : State × Ans :=
  match s.refuses r p with
  | some c => (s, { req := r, status := c.code, value := 0, flags := 0 })
  | none =>
    match p with
    | .slice t off =>
      let fromJob := match r.who with | .job _ _ => true | _ => false
      let t := s.jobSlice r t
      let a := s.perform r (s.sliceKey t off) (s.tile t).unusable 0 0 t off
      if fromJob && r.acc == .store && s.paired t && a.2.status == 0 then
        ((a.1.store (a.1.sliceKey (s.partner t) off) r.size r.data).spoil r (a.1.sliceKey (s.partner t) off), a.2)
      else a
    | .group g off => s.perform r (s.groupByteKey g off) (s.group g).dead 0 1 g off
    | .die d off => s.perform r (s.dieByteKey d off) (s.remapEntry d (off / 65536)).dead 0 2 d off
    | _ => (s, { req := r, status := Cause.window.code, value := 0, flags := 0 })

/-! ### Order of one requester's overlapping requests (R150) -/

/-- Where a request's bytes lie finally, as one number line: slices, groups, dies, then HBM4; none while untranslated. -/
def State.reqSpan (s : State) (r : Req) : Option Nat :=
  match s.reqPlace r with
  | some (.slice t off) => some (2 ^ 50 + t * 65536 + off)
  | some (.group g off) => some (2 ^ 51 + g * 2 ^ 22 + off)
  | some (.die d off) => some (2 ^ 52 + d * 2 ^ 32 + off)
  | _ => r.phys

/-- Whether a request to translated memory. -/
def Req.translated (r : Req) : Bool := wf r.addr 56 8 == 4 || wf r.addr 56 8 == 5

/-- The same requester: of requests from other packages, one tile of one package (R396). -/
def sameWho (a b : Who) : Bool :=
  match a, b with
  | .fjoic _ x, .fjoic _ y => x == y
  | a, b => a == b

/-- An earlier request of the same requester that a request must follow: one that overlaps it, or, both in translated memory, one
not yet translated. -/
def State.mustFollow (s : State) (r e : Req) : Bool :=
  sameWho e.who r.who && decide (e.num < r.num) &&
  match s.reqSpan r, s.reqSpan e with
  | some a, some b => decide (a < b + e.size ∧ b < a + r.size)
  | _, _ => r.translated && e.translated

/-- The requests that have not been performed. -/
def State.openReqs (s : State) : List Req :=
  s.flight.filterMap (fun f => match f.msg with
    | .req r => some r
    | .table r => some r
    | _ => none) ++ s.held

/-- A request may be performed now: no earlier one stands before it (R150), and its die SRAM page is not BUSY (R279). -/
def State.reqReady (s : State) (r : Req) : Bool :=
  !(s.openReqs.any fun e => s.mustFollow r e) &&
  match s.reqPlace r with
  | some (.die d off) => !(s.remapEntry d (off / 65536)).busy
  | _ => true

/-! ### Answers at a thread -/

/-- Extend a loaded value of a size code (R145). -/
def extendLoad (code : Nat) (sign : Bool) (v : Nat) : Word :=
  let w := 8 * 2 ^ code
  if sign then BitVec.ofInt 64 (sx w v) else nw (v % 2 ^ w)

/-- Write a load's value: a pair writes x[d] and x[d+1] (R145). -/
def Slot.loadResult (sl : Slot) (d : Reg) (code : Nat) (sign : Bool) (v : Nat) : Slot :=
  if code = 4 then (sl.setX d (nw v)).setX (d + 1) (nw (v / 2 ^ 64)) else sl.setX d (extendLoad code sign v)

/-- A good answer of a read at a thread: the word completes (R146). -/
def Slot.readDone (sl : Slot) (r : Req) (v : Nat) : Slot :=
  (sl.loadResult r.d r.code r.sign v).complete (sl.pc + BitVec.ofNat 64 r.len) true

/-- A good answer of an atomic: old value, flags (R159). -/
def Slot.atomicDone (sl : Slot) (r : Req) (v : Nat) (fl : Fl) : Slot :=
  ((sl.setX r.d (nw v)).orFlags fl).complete (sl.pc + BitVec.ofNat 64 r.len) true

/-- The thread still waits for this answer. -/
def State.waits (s : State) (t u lid : Nat) : Bool := (s.slot t u).wait == .answer && (s.slot t u).lid == lid

/-- The granule of an access's address (R147). -/
def granuleAddr (ea : Word) : Word := nw (ea.toNat / 16 * 16)

/-- ADDR of a refusal at a thread: the granule for POISON, else the address. -/
def refAddr (c : Cause) (ea : Word) : Word := if c = .poison then granuleAddr ea else ea

/-- A refused read or atomic traps at its word (R153). -/
def State.refuseThread (s : State) (t u : Nat) (c : Cause) (r : Req) : State :=
  let pc := (s.slot t u).pc
  s.trapAt t u { cause := c, pc := pc, resume := pc, addr := refAddr c r.addr, detail := r.code, mflags := 0 }

/-- An enabled flag of an AMOFADD is due before the next instruction (R159): the message names the AMOFADD. -/
def Slot.fpxDue (sl : Slot) (pc : Word) (fl : Fl) : Slot :=
  if fl &&& sl.enable ≠ 0#5 then { sl with fpx := some (pc, fl, false) } else sl

/-- The answer of a read or an atomic reaches one thread (R146, R153, R159, R160). -/
def State.takeAnswer (s : State) (a : Ans) (t u : Nat) : State :=
  let r := a.req
  if !s.waits t u r.lid then s else
  let s' := match r.acc, a.status with
    | .read, 0 => s.updSlot t u fun sl => sl.readDone r a.value
    | .atomic, 0 => s.updSlot t u fun sl => (sl.atomicDone r a.value a.flags).fpxDue sl.pc a.flags
    | .atomic, st =>
      if st = Cause.poison.code && r.nt then s.updSlot t u fun sl => (sl.atomicDone r 0 0#5).setPsn
      else s.refuseThread t u (Cause.ofCode st) r
    | _, st => s.refuseThread t u (Cause.ofCode st) r
  (s'.settle t u).parkDue t u

/-- A refusal joins the thread's queue of four (R154). -/
def Slot.refuse (sl : Slot) (x : RefusalRec) : Slot :=
  if sl.refusals.length < 4 then { sl with refusals := sl.refusals ++ [x] }
  else { sl with refusals := (sl.refusals.take 3) ++ (sl.refusals.drop 3).map fun y => { y with overflow := true } }

/-- The answer of a posted store at one thread: its count falls, a refusal is kept (R36, R154). -/
def State.takeStore (s : State) (a : Ans) (t u : Nat) : State :=
  s.updSlot t u fun sl =>
    let sl := sl.setCount a.req.cls (sl.count a.req.cls - 1)
    if a.status = 0 then sl
    else sl.refuse { addr := a.req.addr, size := a.req.size, cause := Cause.ofCode a.status, overflow := false }

/-- The threads an answer goes to. -/
def Req.askers (r : Req) : List (Nat × Nat) :=
  (match r.who with | .thread t u => [(t, u)] | _ => []) ++ r.peer.toList

end Sys2Proof.Machine
end

