-- ==== Sys2Proof/Machine/LoadStore.lean ====
section
/-! DEFINITION. LoadStore: loads, stores, WAITC, WALK at issue, WHERE and atomics (R143..R161). -/

namespace Sys2Proof.Machine

/-! ### Loads (R145, R146) -/

/-- A load that walks (R15, R25): flock membership ends, and the thread waits to depart. -/
def State.beginWalk (s : State) (dest : Nat) (explicit : Bool) (addr : Word) (code : Nat) : State :=
  (s.leaveFlock s.curTile s.curSlot 0).updCur fun sl => { sl with st := .block, wait := .walk dest explicit addr code }

/-- A load from address ea into x[d]: wait field, checks, in place or by request. -/
def State.loadWord (s : State) (d : Reg) (ea : Word) (code : Nat) (sign : Bool) (w : BitVec 2) (len : Nat) : State :=
  let t := s.curTile
  let n := 2 ^ code
  if !s.cur.countsZero (waitMask w) then s.block .poll else
  match s.memCheck t 0 ea n code with
  | .trap c det => s.trap c ea det
  | .walk dest => s.beginWalk dest false ea code
  | .ok p =>
    match p with
    | .slice x off =>
      if x = t then
        if s.curT.unusable || (poisonIn s.poison (s.sliceKey t off) n).isSome then s.trap .poison (granuleAddr ea) code
        else s.updCur fun sl => (sl.loadResult d code sign (s.load (s.sliceKey t off) n)).complete (sl.pc + BitVec.ofNat 64 len) true
      else s.block .poll
    | .ctrl b off =>
      match s.ctrlLoad t b off code with
      | none => s.trap .window ea code
      | some (s', v) => s'.updCur fun sl => (sl.loadResult d code sign v).complete (sl.pc + BitVec.ofNat 64 len) true
    | p =>
      if s.twinFull t then s.block .poll
      else
        let r := { s.mkReq .read ea n 0 p len with d := d, code := code, sign := sign }
        (s.sendReq t r p).block .answer

/-- A load word of format WM (R82). -/
def State.loadWM (s : State) (d a b : Reg) (i : BitVec 8) (w : BitVec 2) (code : Nat) (sign : Bool) : Res :=
  .next (s.loadWord d (s.ea a b i code) code sign w 4)

/-- LB (R145). -/
def execLb (d a b : Reg) (i : BitVec 8) (w : BitVec 2) (s : State) : Res := s.loadWM d a b i w 0 true
/-- LH (R145). -/
def execLh (d a b : Reg) (i : BitVec 8) (w : BitVec 2) (s : State) : Res := s.loadWM d a b i w 1 true
/-- LW (R145). -/
def execLw (d a b : Reg) (i : BitVec 8) (w : BitVec 2) (s : State) : Res := s.loadWM d a b i w 2 true
/-- LD (R145). -/
def execLd (d a b : Reg) (i : BitVec 8) (w : BitVec 2) (s : State) : Res := s.loadWM d a b i w 3 false
/-- LDP (R145): into x[2d] and x[2d+1]. -/
def execLdp (d : BitVec 3) (a b : Reg) (i : BitVec 8) (w : BitVec 2) (s : State) : Res := s.loadWM (d ++ 0#1) a b i w 4 false
/-- LBU (R145). -/
def execLbu (d a b : Reg) (i : BitVec 8) (w : BitVec 2) (s : State) : Res := s.loadWM d a b i w 0 false
/-- LHU (R145). -/
def execLhu (d a b : Reg) (i : BitVec 8) (w : BitVec 2) (s : State) : Res := s.loadWM d a b i w 1 false
/-- LWU (R145). -/
def execLwu (d a b : Reg) (i : BitVec 8) (w : BitVec 2) (s : State) : Res := s.loadWM d a b i w 2 false

/-- The address of a compact access: x[b] + k0 + sub × size (R99). -/
def State.eaC (s : State) (b : Reg) (sub : BitVec 2) (code : Nat) : Word :=
  s.xr b + BitVec.ofNat 64 (sub.toNat * 2 ^ code) + s.cur.kr 0

/-- Compact LD (R99). -/
def execLdC (d : Reg) (q : BitVec 2) (b : Reg) (s : State) : Res := .next (s.loadWord d (s.eaC b q 3) 3 false 0 2)
/-- Compact LW (R99). -/
def execLwC (d : Reg) (q : BitVec 2) (b : Reg) (s : State) : Res := .next (s.loadWord d (s.eaC b q 2) 2 true 0 2)

/-! ### Stores (R148, R151) -/

/-- A store of data to address ea: wait field, count room, checks, in place or posted. -/
def State.storeWord (s : State) (data : Nat) (ea : Word) (code : Nat) (w : BitVec 2) (len : Nat) : State :=
  let t := s.curTile
  let n := 2 ^ code
  if !s.cur.countsZero (waitMask w) then s.block .poll else
  match s.memCheck t 1 ea n code with
  | .trap c det => s.trap c ea det
  | .walk _ => s.block .poll
  | .ok p =>
    let post := fun (_ : Unit) =>
      let cls := placeCls p
      if s.cur.count cls = 65535 || s.twinFull t then s.block .poll
      else
        let r := { s.mkReq .store ea n (data % 2 ^ (8 * n)) p len with code := code, cls := cls }
        ((s.sendReq t r p).updCur fun sl => sl.setCount cls (sl.count cls + 1)).done len
    match p with
    | .slice x off =>
      if x = t then
        if s.curT.unusable || (partialPoison s.poison (s.sliceKey t off) n).isSome then s.trap .poison (granuleAddr ea) code
        else (s.sliceStore t off n (data % 2 ^ (8 * n))).done len
      else post ()
    | .ctrl b off =>
      match s.ctrlStore t b off code data with
      | .trap .ill => s.trap .ill ea 0
      | .trap c => s.trap c ea code
      | .wait => s.block .poll
      | .ok s' => s'.done len
    | _ => post ()

/-- A store word of format WM. -/
def State.storeWM (s : State) (d a b : Reg) (i : BitVec 8) (w : BitVec 2) (code : Nat) : Res :=
  .next (s.storeWord (s.xr d).toNat (s.ea a b i code) code w 4)

/-- SB (R148). -/
def execSb (d a b : Reg) (i : BitVec 8) (w : BitVec 2) (s : State) : Res := s.storeWM d a b i w 0
/-- SH (R148). -/
def execSh (d a b : Reg) (i : BitVec 8) (w : BitVec 2) (s : State) : Res := s.storeWM d a b i w 1
/-- SW (R148). -/
def execSw (d a b : Reg) (i : BitVec 8) (w : BitVec 2) (s : State) : Res := s.storeWM d a b i w 2
/-- SD (R148). -/
def execSd (d a b : Reg) (i : BitVec 8) (w : BitVec 2) (s : State) : Res := s.storeWM d a b i w 3
/-- SDP (R148): x[2d] and x[2d+1]. -/
def execSdp (d : BitVec 3) (a b : Reg) (i : BitVec 8) (w : BitVec 2) (s : State) : Res :=
  .next (s.storeWord ((s.xr (d ++ 0#1)).toNat + (s.xr (d ++ 1#1)).toNat * 2 ^ 64) (s.ea a b i 4) 4 w 4)
/-- Compact SD (R99). -/
def execSdC (d : Reg) (q : BitVec 2) (b : Reg) (s : State) : Res := .next (s.storeWord (s.xr d).toNat (s.eaC b q 3) 3 0 2)
/-- Compact SW (R99). -/
def execSwC (d : Reg) (q : BitVec 2) (b : Reg) (s : State) : Res := .next (s.storeWord (s.xr d).toNat (s.eaC b q 2) 2 0 2)

/-! ### WAITC (R155) -/

/-- WAITC of len bytes on the counts of a mask. -/
def State.doWaitc (s : State) (m len : Nat) : State := if s.cur.countsZero m then s.done len else s.block .poll

/-- WAITC (R155). -/
def execWaitc (f : BitVec 3) (s : State) : Res := .next (s.doWaitc f.toNat 4)
/-- Compact WAITC (R99). -/
def execWaitcC (m : BitVec 3) (s : State) : Res := .next (s.doWaitc m.toNat 2)

/-! ### WALK and WHERE (R156, R157) -/

/-- The window of an address a WALK may name, its offset inside the reservation (R156). -/
def State.walkWin (s : State) (t : Nat) (a : Word) : Option Win :=
  let l := s.launch (s.tile t).lid
  match decodeWin a with
  | some (.loc off) => if off < l.slice then some (.loc off) else none
  | some (.tile r c off) => if l.inRect r c && decide (off < l.slice) then some (.tile r c off) else none
  | some (.die self d off) =>
    if s.reserved t (.die self d off) 1 && (self || l.dieNow d == some (tDie t)) then some (.die self d off) else none
  | _ => none

/-- WALK (R156). -/
def execWalk (a : Reg) (s : State) : Res :=
  let t := s.curTile
  .next (match s.walkWin t (s.xr a) with
    | none => s.trap .window (s.xr a) 0
    | some w =>
      match s.walkTo t w with
      | none => (s.updCur fun sl => sl.setWst 0).done 4
      | some (r, c) =>
        if (s.launch s.curT.lid).inRect r c then s.beginWalk (s.copyTile t (tDie t) r c) true (s.xr a) 0
        else s.trap .window (s.xr a) 0)

/-- The address checks of WHERE pass: those of R144 but alignment (R157), and a CTRL load the block defines, whose alignment is not wrong
(R143). -/
def State.whereOk (s : State) (t : Nat) (w : Win) : Bool :=
  let l := s.launch (s.tile t).lid
  (match w with | .system _ _ _ => false | _ => true) && s.reserved t w 1 &&
  (match s.walkTo t w with | some (r, c) => l.inRect r c | none => true) &&
  (match w with
    | .ctrl b off => off % 8 != 0 || (s.ctrlLoad t b off 3).isSome || (s.ctrlLoad t b off 4).isSome
    | _ => true)

/-- The number a thread's launch gives a die, or its logical number when it is none of the launch's (R270, R314). -/
def State.dieSeen (s : State) (t d : Nat) : Nat :=
  let l := s.launch (s.tile t).lid
  if l.cur.contains d then l.dieOwn d else s.logDie d

/-- The result word of WHERE (R157). The tile where a load of GROUP or of another die's SRAM would read is not said, since it is read at a bank:
the model names the tile beside the group segment, and the own row, the unit's column and the die named (DESIGN CHOICE, log 83; unsafe). -/
def State.whereWord (s : State) (t : Nat) (a : Word) : Nat :=
  match decodeWin a with
  | none => 2 ^ 26
  | some w =>
    if !s.whereOk t w then 2 ^ 26
    else
      let me := s.seenTile t
      let walk := s.walkTo t w
      let at_ : Nat × Nat × Nat := match w with
        | .package off => let h := s.agentTile (agentOf off); (tRow h, tCol h, s.dieSeen t (tDie h))
        | .pod _ _ => (0, 0, 0)
        | .group self g off =>
          let x := groupTile (groupKey (tDie t) (if self then tGroup me else g)) (off / 256 % 64)
          (tRow x, tCol x, s.ownDie t)
        | .die self d off => (tRow me, unitCol off, if self then s.ownDie t else d)
        | _ => match walk with
          | some (r, c) => (r, c, s.ownDie t)
          | none => (tRow me, tCol me, s.ownDie t)
      let cls := match w with
        | .loc _ => 0
        | .tile _ _ _ => if walk.isSome then 1 else 0
        | .group _ _ _ => 1
        | .die _ _ _ => 1
        | .package _ => 2
        | .pod _ _ => 3
        | _ => 0
      let lvl := s.govLevel t w
      let phok := match lvl with | some l => (s.tile t).phaseBit l | none => true
      at_.1 + at_.2.1 * 2 ^ 8 + at_.2.2 % 8 * 2 ^ 16 + b2n walk.isSome * 2 ^ 19 + cls * 2 ^ 20 + lvl.getD 0 * 2 ^ 22 +
        b2n lvl.isNone * 2 ^ 24 + b2n phok * 2 ^ 25 + wf a 56 8 * 2 ^ 32

/-- WHERE (R157). -/
def execWhere (d a : Reg) (s : State) : Res := .next (s.wr d (nw (s.whereWord s.curTile (s.xr a))) 4)

/-! ### Atomics (R158..R161) -/

/-- An atomic: wait field, checks, request; every place, the own slice too, is reached at its controller. -/
def State.amo (s : State) (d : Reg) (sz : BitVec 1) (a b : Reg) (w : BitVec 2) (n : BitVec 1) (fn : Nat) (rm : BitVec 2) : State :=
  let t := s.curTile
  let ea := s.xr a + s.cur.kr 0
  let size := 4 * 2 ^ sz.toNat
  if !s.cur.countsZero (waitMask w) then s.block .poll else
  match s.memCheck t 2 ea size (2 + sz.toNat) with
  | .trap c det => s.trap c ea det
  | .walk _ => s.block .poll
  | .ok p =>
    if s.twinFull t then s.block .poll
    else
      let r := { s.mkReq .atomic ea size (s.xr b).toNat p 4 with d := d, code := 2 + sz.toNat, fn := fn, k1 := s.cur.kr 1, rm := rm,
                                                                  nt := n == 1 }
      (s.sendReq t r p).block .answer

/-- AMOADD (R159). -/
def execAmoadd (d : Reg) (z : BitVec 1) (a b : Reg) (w : BitVec 2) (n : BitVec 1) (s : State) : Res := .next (s.amo d z a b w n 0 0)
/-- AMOAND (R159). -/
def execAmoand (d : Reg) (z : BitVec 1) (a b : Reg) (w : BitVec 2) (n : BitVec 1) (s : State) : Res := .next (s.amo d z a b w n 1 0)
/-- AMOOR (R159). -/
def execAmoor (d : Reg) (z : BitVec 1) (a b : Reg) (w : BitVec 2) (n : BitVec 1) (s : State) : Res := .next (s.amo d z a b w n 2 0)
/-- AMOXOR (R159). -/
def execAmoxor (d : Reg) (z : BitVec 1) (a b : Reg) (w : BitVec 2) (n : BitVec 1) (s : State) : Res := .next (s.amo d z a b w n 3 0)
/-- AMOMIN (R159). -/
def execAmomin (d : Reg) (z : BitVec 1) (a b : Reg) (w : BitVec 2) (n : BitVec 1) (s : State) : Res := .next (s.amo d z a b w n 4 0)
/-- AMOMAX (R159). -/
def execAmomax (d : Reg) (z : BitVec 1) (a b : Reg) (w : BitVec 2) (n : BitVec 1) (s : State) : Res := .next (s.amo d z a b w n 5 0)
/-- AMOMINU (R159). -/
def execAmominu (d : Reg) (z : BitVec 1) (a b : Reg) (w : BitVec 2) (n : BitVec 1) (s : State) : Res := .next (s.amo d z a b w n 6 0)
/-- AMOMAXU (R159). -/
def execAmomaxu (d : Reg) (z : BitVec 1) (a b : Reg) (w : BitVec 2) (n : BitVec 1) (s : State) : Res := .next (s.amo d z a b w n 7 0)
/-- AMOSWP (R159). -/
def execAmoswp (d : Reg) (z : BitVec 1) (a b : Reg) (w : BitVec 2) (n : BitVec 1) (s : State) : Res := .next (s.amo d z a b w n 8 0)
/-- AMOCAS (R159). -/
def execAmocas (d : Reg) (z : BitVec 1) (a b : Reg) (w : BitVec 2) (n : BitVec 1) (s : State) : Res := .next (s.amo d z a b w n 9 0)
/-- AMOFADD (R159). -/
def execAmofadd (d : Reg) (z : BitVec 1) (a b : Reg) (r : BitVec 2) (w : BitVec 2) (n : BitVec 1) (s : State) : Res :=
  .next (s.amo d z a b w n 16 r)

end Sys2Proof.Machine
end

