-- ==== Sys2Proof/Machine/Fetch.lean ====
section
/-! DEFINITION. Fetch: fetching the word at a pc and the traps that come before any instruction executes (R32, R76, R101, R365). -/

namespace Sys2Proof.Machine

/-- The window and the code region of a fetchable address: 0 for LOCAL, region index + 1 otherwise; none when not fetchable
(R32). -/
def State.fetchable (s : State) (t : Nat) (a : Word) : Option Nat :=
  let l := s.launch (s.tile t).lid
  match decodeWin a with
  | some (.loc off) => if off + 2 ≤ l.slice then some 0 else none
  | some (.group self g off) =>
    if l.touches (if self then tGroup (s.seenTile t) else g) then (l.regionAt false off 2).map (· + 1) else none
  | some (.die self d off) => if self || (l.dieNow d).isSome then (l.regionAt true off 2).map (· + 1) else none
  | _ => none

/-- The region of a fetchable address is not fetchable on the tile's die (R365). -/
def State.regionNx (s : State) (t : Nat) (n : Nat) : Bool :=
  match n with
  | 0 => false
  | i + 1 => (((s.launch (s.tile t).lid).regions[i]?).map fun r => r.nx.contains (tDie t)).getD true

/-- The line that holds an address. -/
def lineBase (a : Word) : Word := nw (a.toNat / 64 * 64)

/-- Read the 64-byte line at a base: its bytes and its poisoned granules. -/
def State.readLine (s : State) (t : Nat) (base : Word) : FetchLine :=
  match (decodeWin base).bind (s.place t) with
  | none => { base := base, bytes := [], poison := [] }
  | some p =>
    match s.placeKey p with
    | none => { base := base, bytes := [], poison := [] }
    | some k =>
      { base := base, bytes := (List.range 64).map fun i => readByte s.mem (k + i),
        poison := (List.range 4).filter fun i => s.placeDead p || s.poison.contains (k / 16 + i) }

/-- The halfword of a line at an address, or the granule of it that is poisoned. -/
def FetchLine.half (l : FetchLine) (a : Word) : Except Word (List Byte) :=
  let o := a.toNat % 64
  if l.poison.contains (o / 16) then .error (granuleAddr a) else .ok ((l.bytes.drop o).take 2)

/-- Outcome of a fetch. -/
inductive Fetch where
  | trap (c : Cause) (addr : Word)
  /-- the page is BUSY (R279): the thread issues nothing. -/
  | stall
  | walk (dest : Nat)
  | got (line : FetchLine) (bytes : List Byte)
  deriving DecidableEq, Repr

/-- A fetch of the line at an address of the tile's own column (R279, R365): it stalls on a BUSY page and is checked when its line arrives; a
trap names pc. -/
def State.lineHere (s : State) (t : Nat) (pc a : Word) (region : Nat) : Fetch :=
  let busy := match (decodeWin a).bind (s.place t) with
    | some (.die d off) => (s.remapEntry d (off / 65536)).busy
    | _ => false
  if busy then .stall
  else if s.regionNx t region then .trap .fetch pc
  else .got (s.readLine t (lineBase a)) []

/-- The line a new fetch at pc reads: a trap, a stall, a walk, or the line. -/
def State.newLine (s : State) (t : Nat) (pc : Word) (region : Nat) : Fetch :=
  match (decodeWin pc).bind (s.walkTo t) with
  | some (r, c) =>
    if (s.launch (s.tile t).lid).inRect r c && !s.regionNx t region then .walk (s.copyTile t (tDie t) r c) else .trap .fetch pc
  | none => s.lineHere t pc pc region

/-- The bytes of the word at pc from its line. A second halfword in the next line is a fetch of that line (R76, R365), made from the tile the
first stands at, so that a word is never walked away from in its middle (DESIGN CHOICE, log 86; unsafe). -/
def State.wordFrom (s : State) (t : Nat) (pc : Word) (region : Nat) (l : FetchLine) : Fetch :=
  match l.half pc with
  | .error g => .trap .poison g
  | .ok b =>
    if (b[0]?.getD 0).getLsbD 0 then
      if s.fetchable t (pc + 2) ≠ some region then .trap .fetch pc
      else match (if lineBase (pc + 2) = l.base then .got l [] else s.lineHere t pc (pc + 2) region) with
        | .got l2 _ => match l2.half (pc + 2) with
          | .error g => .trap .poison g
          | .ok b2 => .got l (b ++ b2)
        | f => f
    else .got l b

/-- Fetch at the pc of a thread: ALIGN, then FETCH, then POISON (R101). -/
def State.fetch (s : State) (t u : Nat) : Fetch :=
  let sl := s.slot t u
  let pc := sl.pc
  if pc.getLsbD 0 then .trap .align pc else
  match s.fetchable t pc with
  | none => .trap .fetch pc
  | some region =>
    match sl.line with
    | some l =>
      if l.base = lineBase pc then s.wordFrom t pc region l
      else match s.newLine t pc region with
        | .got l _ => s.wordFrom t pc region l
        | f => f
    | none =>
      match s.newLine t pc region with
      | .got l _ => s.wordFrom t pc region l
      | f => f

/-- The words that program level may not execute (R101). -/
def privileged : Instr → Bool
  | .eret => true
  | .xsave _ _ => true
  | .xload _ _ => true
  | _ => false

/-- Outcome of fetch and decode. -/
inductive Issue where
  | trap (c : Cause) (addr : Word)
  | stall
  | walk (dest : Nat)
  | run (line : FetchLine) (i : Instr)
  deriving DecidableEq, Repr

/-- Fetch and decode at the pc of a thread (R101). -/
def State.fetchDecode (s : State) (t u : Nat) : Issue :=
  match s.fetch t u with
  | .trap c a => .trap c a
  | .stall => .stall
  | .walk d => .walk d
  | .got l b =>
    match decode b with
    | .error _ => .trap .ill (nw (ofBytes b))
    | .ok (i, _) => if privileged i && !(s.slot t u).priv then .trap .priv (nw (ofBytes b)) else .run l i

/-- DECODE_TRAP (R101): the word at pc traps before any instruction executes. -/
def execDecodeTrap (s : State) : Res :=
  .next (match s.fetchDecode s.curTile s.curSlot with
    | .trap c a => s.trap c a 0
    | _ => s)

end Sys2Proof.Machine
end

