-- ==== Sys2Proof/Machine/Walk.lean ====
section
/-! DEFINITION. Walk: walks, resume moves, slots and routines (R12, R16, R17, R19, R21, R134, R360). -/

namespace Sys2Proof.Machine

/-! ### Contexts -/

/-- A slot with a context that arrives (R16): x registers, pc, status with FLK = 0b00, loops; k registers zero. What becomes of a running
c:TMR is not said: no walk message carries it, so it stops, and one that expires while the slot is OUT sets no event, even if the walk is
then refused (DESIGN CHOICE, log 81; unsafe). -/
def Slot.ofCtx (sl : Slot) (c : WalkCtx) : Slot :=
  { Slot.fresh with
    tag := sl.tag, st := .run, x := c.x, pc := c.pc, status := putField c.status 16 2 0, loops := c.loops, lid := c.lid,
    home := c.home, fpx := c.fpx, refusals := c.refusals, engErrs := c.engErrs }

/-- The address and the size code of the access that walks: of a fetch, its pc (R153, R361). -/
def State.walkAddr (s : State) (t u : Nat) : Word × Nat :=
  match (s.slot t u).wait with
  | .walk _ _ a c => (a, c)
  | _ => ((s.slot t u).pc, 0)

/-- The context of a slot on its way. -/
def State.ctxOf (s : State) (t u dest : Nat) (explicit resume : Bool) (sl : Slot) : WalkCtx :=
  { dest := dest, origin := t, origSlot := u, explicit := explicit, resume := resume, lid := sl.lid, pc := sl.pc,
    status := putField sl.status 16 2 0, x := sl.x, loops := sl.loops, home := sl.home, answer := 0, desc := 0,
    opc := (s.slot t u).pc, fpx := none, refusals := sl.refusals, engErrs := sl.engErrs, phys := s.physGroup (tDie dest) (tGroup dest),
    addr := (s.walkAddr t u).1, code := (s.walkAddr t u).2 }

/-! ### The walk message and the park area (R17) -/

/-- A loop entry of a walk message: remaining count, pc minus body start, body length in bytes (R17). -/
def LoopEntry.carried (e : LoopEntry) (pc : Word) : Nat :=
  e.remaining.toNat + wf (pc - e.start) 0 16 * 2 ^ 32 + wf (e.stop - e.start) 0 16 * 2 ^ 48

/-- The loop entry such a dword stands for; none where it is 0. -/
def loopCarried (v : Nat) (pc : Word) : List LoopEntry :=
  if v = 0 then [] else
  let start := pc - nw (nf v 32 16)
  [{ start := start, stop := start + nw (nf v 48 16), remaining := BitVec.ofNat 32 v }]

/-- The dwords of the walk message (R17), outer loop before inner; a single loop stands in the outer place (DESIGN CHOICE, log 87; safe, a
load of the park area traps). A resume move has three more. -/
def WalkCtx.dwords (c : WalkCtx) (die odie : Nat) : List Nat :=
  let header := tRow c.dest + tCol c.dest * 2 ^ 8 + tRow c.origin * 2 ^ 16 + tCol c.origin * 2 ^ 24 + c.origSlot % 8 * 2 ^ 32 +
    b2n c.explicit * 2 ^ 35 + die % 8 * 2 ^ 36 + odie % 8 * 2 ^ 39 + b2n c.resume * 2 ^ 42 + c.lid % 2 ^ 16 * 2 ^ 48
  let ls := (c.loops.reverse.map fun e => e.carried c.pc) ++ [0, 0]
  [header, c.pc.toNat, c.status.toNat] ++ (c.x.toList.drop 1).map (fun w => w.toNat) ++ ls.take 2 ++
    (if c.resume then [c.answer % 2 ^ 64, c.answer / 2 ^ 64 % 2 ^ 64, c.desc.toNat] else [])

/-- The same as one number, the first dword lowest. -/
def joinDwords : List Nat → Nat
  | [] => 0
  | d :: r => d % 2 ^ 64 + 2 ^ 64 * joinDwords r

/-- The storage key of a place of the park area: the top PARK × 160 bytes of the slice reservation, a ring of 160-byte entries (R17, R311). -/
def State.parkKey (s : State) (t i : Nat) : Nat :=
  let tl := s.tile t
  s.sliceKey t ((s.launch tl.lid).parkBase + 160 * ((tl.parkHead + i) % tl.parkCap))

/-- A walker's 160 bytes enter the park area behind the others. -/
def State.parkWrite (s : State) (t : Nat) (c : WalkCtx) : State :=
  let c := { c with resume := false }
  let m := joinDwords (c.dwords (s.logDie (tDie c.dest)) (s.logDie (tDie c.origin)))
  (s.store (s.parkKey t (s.tile t).parkq.length) 160 m).updTile t fun tl => { tl with parkq := tl.parkq ++ [c] }

/-- A context as the park entry at a key holds it: pc, status, registers and loops from its bytes. -/
def WalkCtx.fromPark (c : WalkCtx) (m : List Host.Cell) (k : Nat) : WalkCtx :=
  let dw := fun i => readMem m (k + 8 * i) 8
  let pc := nw (dw 1)
  { c with pc := pc, status := nw (dw 2), loops := loopCarried (dw 19) pc ++ loopCarried (dw 18) pc,
           x := Vector.ofFn fun (i : Fin 16) => if i.val = 0 then 0 else nw (dw (i.val + 2)) }

/-- The oldest walker of the park area takes a FREE slot, its context as the park area holds it (R12, R17). -/
def State.grant (s : State) (t : Nat) : State :=
  let tl := s.tile t
  if tl.held then s else
  match tl.parkq, tl.freeSlot with
  | c :: r, some u => s.updTile t fun tl =>
      { tl.updSlot u fun sl => sl.ofCtx (c.fromPark s.mem (s.parkKey t 0)) with
        parkq := r, parkHead := (tl.parkHead + 1) % tl.parkCap }
  | _, _ => s

/-- A slot becomes FREE and is given on (R12). -/
def State.freeSlot (s : State) (t u : Nat) : State := (s.updSlot t u Slot.freed).grant t

/-- A walker takes a FREE slot, else a park entry; none when refused (R17). A walk that is accepted sets WST to 0b00. On a stopped tile
the thread arrives stopped (R366). -/
def State.accept (s : State) (t : Nat) (c : WalkCtx) : Option State :=
  let c := { c with status := putField c.status 14 2 0 }
  let tl := s.tile t
  match tl.freeSlot with
  | some u => some (s.updSlot t u fun sl => { sl.ofCtx c with stopped := tl.held })
  | none => if tl.parkq.length < tl.parkCap then some (s.parkWrite t c) else none

/-- Why a destination refuses a walk outright (R152, R320, R377). -/
def State.walkRefusal (s : State) (c : WalkCtx) : Option Cause :=
  if s.fenced c.dest then some .nak
  else if s.physGroup (tDie c.dest) (tGroup c.dest) ≠ c.phys then some .remap
  else if (s.tile c.dest).lid ≠ c.lid then some .nak else none

/-! ### Walks (R16, R17) -/

/-- Where a thread waits to walk: its destination and whether it is a WALK; a fetch that walks counts as not explicit. -/
def State.walkWaiting (s : State) (t u : Nat) : Option (Nat × Bool) :=
  let sl := s.slot t u
  match sl.wait with
  | .walk d e _ _ => some (d, e)
  | .none =>
    if sl.st = .run ∧ sl.flk ≠ 2 then match s.fetchDecode t u with
      | .walk d => some (d, false)
      | _ => none
    else none
  | _ => none

/-- The context of a thread whose held access is answered, at its next instruction, with the answer not yet applied (R360). -/
def State.resumeCtx (s : State) (t u : Nat) (b : HeldAnswer) : WalkCtx :=
  let sl := s.slot t u
  { s.ctxOf t u b.dest false true (sl.complete (sl.pc + BitVec.ofNat 64 b.len) true) with answer := b.answer, desc := b.desc }

/-- WALK_DEPART (R16): the drained thread's context leaves as a walk message; its slot is OUT and keeps the context. A WALK
travels as completed; a load or fetch travels at its pc; a thread whose held access is answered travels with the answer (R360). -/
def execWalkDepart (s : State) : Res :=
  let t := s.ev.num
  let u := s.ev.a
  .next (match s.walkWaiting t u with
    | some (dest, e) =>
      if s.drained t u then
        let s := s.leaveFlock t u 0
        let sl := s.slot t u
        let c := match sl.back with
          | some b => s.resumeCtx t u b
          | none => s.ctxOf t u dest e false (if e then sl.complete (sl.pc + 4) true else sl)
        (s.updSlot t u fun sl => { sl with st := .out, wait := .none, line := none, back := none }).send
          (routed (hops t dest) (if c.resume then 13 else 11)) (.walk c)
      else s
    | none => s)

/-- WALK_ARRIVAL (R17): accepted, and the origin slot frees; or refused with the context returned. -/
def execWalkArrival (s : State) : Res :=
  .next (match s.arrived with
    | some (.walk c) =>
      let s := s.taken
      let back := 2 + 2 * hops c.origin c.dest
      match s.walkRefusal c with
      | some cause => s.send back (.walkRefused c (some cause))
      | none =>
        match s.accept c.dest c with
        | some s' => s'.freeSlot c.origin c.origSlot
        | none => s.send back (.walkRefused c none)
    | _ => s)

/-- Count a refused walk in c:WREF. -/
def Tile.countWref (t : Tile) : Tile := { t with wref := t.wref + 1 }

/-- Apply the answer of a resume move to a context (R17, R360): descriptor bits of R17. -/
def WalkCtx.applyAnswer (c : WalkCtx) : WalkCtx :=
  let d := BitVec.ofNat 4 (wf c.desc 0 4)
  let sl : Slot := { Slot.fresh with x := c.x, status := c.status }
  let fl := BitVec.ofNat 5 (wf c.desc 11 5)
  let sl' :=
    if c.desc.getLsbD 8 then
      if c.desc.getLsbD 10 then (sl.setX d 0).setPsn else (sl.setX d (nw c.answer)).orFlags fl
    else sl.loadResult d (wf c.desc 4 3) (c.desc.getLsbD 7) c.answer
  { c with x := sl'.x, status := sl'.status, desc := 0, answer := 0,
           fpx := if fl &&& sl.enable ≠ 0#5 then some (c.opc, fl, false) else none }

/-- WALK_REFUSAL_RETURN (R17, R153, R360): at the origin slot, OUT until now: a full park area leaves the thread in RUN with WST
= 0b01, a WALK completed and a load or fetch reissued after 64 cc; NAK and REMAP trap. -/
def execWalkRefusalReturn (s : State) : Res :=
  .next (match s.arrived with
    | some (.walkRefused c cause) =>
      let s := s.taken
      let t := c.origin
      let u := c.origSlot
      if (s.slot t u).st ≠ .out ∨ s.fenced t then s else
      if c.resume then
        (s.updSlot t u fun sl => (sl.ofCtx c.applyAnswer).setWst 1).updTile t Tile.countWref
      else match cause with
        | some k =>
          let s := s.updSlot t u fun sl => { sl with st := .run }
          let pc := (s.slot t u).pc
          s.trapAt t u { cause := k, pc := pc, resume := pc, addr := c.addr, detail := c.code, mflags := 0 }
        | none =>
          let s := s.updTile t Tile.countWref
          if c.explicit then s.updSlot t u fun sl => (sl.complete (sl.pc + 4) true).setWst 1
          else s.updSlot t u fun sl => { sl.setWst 1 with st := .run, wait := .reissue (s.now + 64), refusedWalk := true }
    | _ => s)

/-- WALK_REISSUE (R17): 64 cc after the refusal the load or fetch may issue again. -/
def execWalkReissue (s : State) : Res :=
  .next (s.updSlot s.ev.num s.ev.a fun sl => match sl.wait with
    | .reissue n => if n ≤ s.now then { sl with wait := .none } else sl
    | _ => sl)

/-- RESUME_MOVE (R360): the answer is applied, then the thread takes a slot or park entry, or is refused. -/
def execResumeMove (s : State) : Res :=
  .next (match s.arrived with
    | some (.walk c) =>
      let s := s.taken
      let back := 2 + 2 * hops c.origin c.dest
      match s.walkRefusal c with
      | some _ => s.send back (.walkRefused c none)
      | none =>
        match s.accept c.dest c.applyAnswer with
        | some s' => s'.freeSlot c.origin c.origSlot
        | none => s.send back (.walkRefused c none)
    | _ => s)

/-! ### The end of a thread (R134) and the start of a routine (R19, R21) -/

/-- EXIT_SLOT_FREE (R134): the exiting thread's work has drained. -/
def execExitSlotFree (s : State) : Res :=
  let t := s.ev.num
  let u := s.ev.a
  .next (if (s.slot t u).wait = .exit ∧ s.drained t u then
      (s.clearRun (s.slot t u).home).freeSlot t u
    else s)

/-- The thread a routine slot starts (R19). -/
def Slot.start (sl : Slot) (rent rarg : Word) (i lid : Nat) (t : Nat) (priv : Bool) : Slot :=
  let new := { Slot.fresh with tag := sl.tag, st := .run, pc := rent, lid := lid, home := some (t, i),
                               status := if priv then BitVec.ofNat 64 (2 ^ 12) else 0 }
  (new.setX 1 rarg).setX 2 (nw i)

/-- ROUTINE_START (R21): the lowest ready, unheld, not running routine starts in a FREE slot. -/
def execRoutineStart (s : State) : Res :=
  let t := s.ev.num
  let tl := s.tile t
  .next (match tl.startable s.now, tl.freeSlot with
    | some i, some u =>
      if tl.parkq.isEmpty && !tl.held then
        let r := tl.routine i
        s.updTile t fun tl =>
          let tl := tl.updSlot u fun sl => sl.start r.rent r.rarg i tl.lid t (s.launch tl.lid).supervisor
          { tl with routines := tset tl.routines i { r with rdy := false, run := true } }
      else s
    | _, _ => s)

end Sys2Proof.Machine
end

