-- ==== Sys2Proof/Machine/Shape.lean ====
section
/-! DEFINITION. Shape: shape records and their iteration (R162..R164), queues and chains (R34), stream registers (R35, R209). -/

namespace Sys2Proof.Machine

/-! ### Records (R162) -/

abbrev Rec := BitVec 256

def Rec.base (r : Rec) : Nat := nf r.toNat 0 16
def Rec.ty (r : Rec) : Nat := nf r.toNat 16 4
def Rec.fw (r : Rec) : Nat := nf r.toNat 20 2
def Rec.tq (r : Rec) : Bool := nb r.toNat 22
def Rec.kind (r : Rec) : Nat := nf r.toNat 24 2
def Rec.unit (r : Rec) : Nat := nf r.toNat 26 3
def Rec.ext (r : Rec) (i : Nat) : Nat := nf r.toNat (32 + 16 * i) 16
def Rec.str (r : Rec) (i : Nat) : Int := sx 32 (nf r.toNat (96 + 32 * i) 32)

/-- Element size of a type code with a fold width (R44). -/
def tySize (t fw : Nat) : Nat :=
  if t < 8 then 2 ^ (t % 4) else if t < 10 then 1 else if t < 12 then 2 else if t = 12 then 4 else if t = 13 then 8
  else if t = 14 then 16 else foldBytes fw

def Rec.size (r : Rec) : Nat := tySize r.ty r.fw
/-- Alignment of an element: its size, and 16 for folds (R67, R169). -/
def Rec.align (r : Rec) : Nat := if r.ty = 15 then 16 else r.size

/-- The record's element count (R163). -/
def Rec.count (r : Rec) : Nat := r.ext 0 * r.ext 1 * r.ext 2 * r.ext 3

/-- A valid record (R162). -/
def Rec.valid (r : Rec) : Bool :=
  nf r.toNat 23 1 == 0 && nf r.toNat 29 3 == 0 && nf r.toNat 224 32 == 0 &&
  (if r.ty = 15 then decide (r.fw < 3) else r.fw == 0) &&
  (match r.kind with | 1 => true | 2 => decide (r.unit < 4) | _ => r.unit == 0) &&
  (r.kind == 0 || (r.base == 0 && nf r.toNat 96 128 == 0 && decide (r.ty < 14))) &&
  (r.kind != 3 || decide (r.size ≤ 8))

/-- Inner and outer counts of the iteration (R163). -/
def Rec.inner (r : Rec) : Nat := if r.tq then r.ext 1 else r.ext 0
def Rec.outer (r : Rec) : Nat := if r.tq then r.ext 0 else r.ext 1

/-- addr(n) of R163 at repetition k. -/
def Rec.addr (r : Rec) (k n : Nat) : Int :=
  let iin := n % r.inner
  let iout := n / r.inner % r.outer
  let i2 := n / (r.inner * r.outer) % r.ext 2
  let i3 := n / (r.inner * r.outer * r.ext 2)
  let (i0, i1) := if r.tq then (iout, iin) else (iin, iout)
  Int.ofNat r.base + Int.ofNat i0 * r.str 0 + Int.ofNat i1 * r.str 1 + Int.ofNat i2 * r.str 2 +
    Int.ofNat (i3 + k * r.ext 3) * r.str 3

/-- The span of a dimension's offsets below and above 0. -/
def dimLo (e : Nat) (s : Int) : Int := min 0 (Int.ofNat (e - 1) * s)
def dimHi (e : Nat) (s : Int) : Int := max 0 (Int.ofNat (e - 1) * s)

/-- Lowest address and first byte past the highest element of an execution (R169); the record has elements. -/
def Rec.lo (r : Rec) (k : Nat) : Int :=
  Int.ofNat r.base + Int.ofNat (k * r.ext 3) * r.str 3 + dimLo (r.ext 0) (r.str 0) + dimLo (r.ext 1) (r.str 1) +
    dimLo (r.ext 2) (r.str 2) + dimLo (r.ext 3) (r.str 3)
def Rec.hi (r : Rec) (k : Nat) : Int :=
  Int.ofNat r.base + Int.ofNat (k * r.ext 3) * r.str 3 + dimHi (r.ext 0) (r.str 0) + dimHi (r.ext 1) (r.str 1) +
    dimHi (r.ext 2) (r.str 2) + dimHi (r.ext 3) (r.str 3) + Int.ofNat r.size

/-- The footprint of execution k lies inside the reservation and outside the park area (R169). -/
def Rec.fits (r : Rec) (limit k : Nat) : Bool :=
  r.kind != 0 || r.count == 0 || (decide (0 ≤ r.lo k) && decide (r.hi k ≤ Int.ofNat limit))

/-- BASE and strides are multiples of the alignment (R169). -/
def Rec.aligned (r : Rec) : Bool :=
  let a := r.align
  r.kind != 0 || r.count == 0 ||
    (r.base % a == 0 && (List.range 4).all fun i => (r.str i).natAbs % a == 0)

/-- Issue checks of memory-kind records in turn: the first trap, with the lowest address (R169). -/
def shapeTrap (limit : Nat) : List Rec → Option (Cause × Nat)
  | [] => none
  | r :: rest =>
    if !r.fits limit 0 then some (.window, wrapTo 64 (r.lo 0))
    else if !r.aligned then some (.align, wrapTo 64 (r.lo 0))
    else shapeTrap limit rest

/-! ### Queues and chains (R34, R37) -/

/-- Push into a queue register of the tile: none when full; event 5 when it was empty. -/
def Tile.qPush (t : Tile) (q : Nat) (v : Nat) : Option Tile :=
  let l := t.queue q
  if 8 ≤ l.length then none
  else
    let t := { t with q := tset t.q q (l ++ [BitVec.ofNat 128 v]) }
    some (if l.isEmpty then t.event 5 else t)

/-- Pop a queue register: none when empty; event 5 when it was full. -/
def Tile.qPop (t : Tile) (q : Nat) : Option (Nat × Tile) :=
  match t.queue q with
  | [] => none
  | v :: r =>
    let t := { t with q := tset t.q q r }
    some (v.toNat, if r.length = 7 then t.event 5 else t)

/-- The tiles whose cin is the outgoing chain queue of tile t: the neighbours whose upstream is t, those of another launch too, which R37 does
not except (DESIGN CHOICE, log 96; unsafe). -/
def State.chainReaders (s : State) (t : Nat) : List Nat :=
  (List.range 4).filterMap fun dir => (neighbour t dir).bind fun n =>
    if neighbour n ((s.tile n).chain.toNat % 4) = some t then some n else none

/-- Event 5 of a change of the chain queue of tile t: at t, and where it is a cin. -/
def State.chainEvent (s : State) (t : Nat) : State := (t :: s.chainReaders t).foldl (fun s x => s.event x 5) s

/-- The upstream and downstream neighbours a c:CHAIN value names, inside the launch of tile t (R34). -/
def State.chainEnd (s : State) (t : Nat) (dir : Nat) : Option Nat :=
  match neighbour t dir with
  | some n =>
    if (s.tile n).lid = (s.tile t).lid ∧ (s.tile n).twin = (s.tile t).twin then some n else none
  | none => none
def State.chainUp (s : State) (t : Nat) (c : BitVec 4) : Option Nat := s.chainEnd t (c.toNat % 4)
def State.chainDown (s : State) (t : Nat) (c : BitVec 4) : Option Nat := s.chainEnd t (c.toNat / 4)

/-- Push to the own chain queue; none when full. -/
def State.coutPush (s : State) (t v : Nat) : Option State :=
  let l := (s.tile t).cout
  if 8 ≤ l.length then none
  else
    let s := s.updTile t fun tl => { tl with cout := l ++ [nw v] }
    some (if l.isEmpty then s.chainEvent t else s)

/-- Pop the chain queue of a tile's upstream neighbour; none when it is empty, or behind the boundary of a fenced paddock (R377). -/
def State.cinPop (s : State) (t up : Nat) : Option (Nat × State) :=
  if s.cutOff t up then none else
  match (s.tile up).cout with
  | [] => none
  | v :: r =>
    let s := s.updTile up fun tl => { tl with cout := r }
    some (v.toNat, if r.length = 7 then s.chainEvent up else s)

/-! ### Streams (R35, R209) -/

/-- The first byte at or after p that no range covers, looking at the ranges n times. -/
def coverEnd (m : List (Nat × Nat)) : Nat → Nat → Nat
  | 0, p => p
  | n + 1, p => match m.find? fun r => decide (r.1 ≤ p ∧ p < r.1 + r.2) with
    | some r => coverEnd m n (r.1 + r.2)
    | none => p

/-- All bytes of [p, p + n) have landed. -/
def Job.has (j : Job) (p n : Nat) : Bool := decide (p + n ≤ coverEnd j.map (j.map.length) p)

/-- Add a landed range, joined with one it continues. -/
def addRange (m : List (Nat × Nat)) (p n : Nat) : List (Nat × Nat) :=
  if m.any fun r => r.1 + r.2 == p then m.map fun r => if r.1 + r.2 = p then (r.1, r.2 + n) else r else m ++ [(p, n)]

def Pen.job (p : Pen) (x : Nat) : Option Job := p.jobs.find? fun j => j.xid == x

/-- What a read meets. -/
inductive Got where
  | wait
  | err (c : Cause) (granule : Nat)
  | ok (v : Nat) (s : State)

/-- Read n bytes of the tile's own slice: the value, or the poisoned granule's offset. -/
def State.sliceRead (s : State) (t off n : Nat) : Except Nat Nat :=
  let k := s.sliceKey t off
  if (s.tile t).unusable then .error (off / 16 * 16) else
  match poisonIn s.poison k n with
  | some g => .error (off + g * 16 - k)
  | none => .ok (s.load k n)

/-- Read z bytes of a stream register. -/
def State.streamRead (s : State) (t i z : Nat) : Got :=
  match tget? (s.tile t).sreg i with
  | none => .err .ill 0
  | some b =>
    match (s.pen b.pen).jobs.find? fun j => j.xid == b.xid && j.tile == s.seenTile t with
    | none => .err .ill 0
    | some j =>
      if j.bytes < b.pos + z then .err .ill 0
      else if j.has b.pos z then
        match s.sliceRead t (j.dst.toNat % 65536 + b.pos) z with
        | .error g => .err .poison g
        | .ok v => .ok v (s.updTile t fun tl => { tl with sreg := tset tl.sreg i { b with pos := b.pos + z } })
      else if j.st = .placing ∨ j.st = .kept then .err .ill 0
      else .wait

/-! ### Sources and destinations -/

/-- The elements of an entry of w bytes, of z bytes each, element 0 first. -/
def splitEntry (w z v : Nat) : List Nat := (List.range (w / z)).map fun i => v / 2 ^ (8 * z * i) % 2 ^ (8 * z)

/-- Elements as an entry, element 0 low. -/
def joinEntry (z : Nat) : List Nat → Nat
  | [] => 0
  | v :: r => v % 2 ^ (8 * z) + 2 ^ (8 * z) * joinEntry z r

/-- One more piece of a source that is not memory: kind 1 stream, 2 queue, 3 chain; the elements it gives. -/
def State.pullPiece (s : State) (t : Nat) (chain : BitVec 4) (kind unit z : Nat) : Except (Option Cause × Nat) (List Nat × State) :=
  match kind with
  | 1 => match s.streamRead t unit z with
    | .wait => .error (none, 0)
    | .err c g => .error (some c, g)
    | .ok v s => .ok ([v], s)
  | 2 => match (s.tile t).qPop unit with
    | none => .error (none, 0)
    | some (v, tl) => .ok (splitEntry 16 z v, s.updTile t fun _ => tl)
  | _ => match (neighbour t (chain.toNat % 4)).bind (s.cinPop t) with
    | none => .error (none, 0)
    | some (v, s) => .ok (splitEntry 8 z v, s)

/-- Fill a buffer to `need` elements from a source that is not memory, in at most n pieces; what was taken stays taken. -/
def State.pull (s : State) (t : Nat) (chain : BitVec 4) (kind unit z need : Nat) : Nat → List Nat →
    State × List Nat × Option (Option Cause × Nat)
  | 0, buf => (s, buf, if need ≤ buf.length then none else some (none, 0))
  | n + 1, buf =>
    if need ≤ buf.length then (s, buf, none) else
    match s.pullPiece t chain kind unit z with
    | .error e => (s, buf, some e)
    | .ok (vs, s') => s'.pull t chain kind unit z need n (buf ++ vs)

/-- Write an element of z bytes at an offset of the tile's own slice, in 16-byte units when longer; the offset of the first
granule that cannot be written (R151, R291). -/
def State.elemStore (s : State) (t off z v : Nat) : Except Nat State :=
  let k := s.sliceKey t off
  if (s.tile t).unusable then .error (off / 16 * 16) else
  match partialPoison s.poison k z with
  | some g => .error (off + g * 16 - k)
  | none => .ok (s.sliceStore t off z v)

/-- Room in a destination that is not memory: 2 queue, 3 chain. -/
def State.pushRoom (s : State) (t kind unit : Nat) : Bool :=
  if kind = 2 then decide (((s.tile t).queue unit).length < 8) else decide ((s.tile t).cout.length < 8)

/-- Push an entry where there is room. -/
def State.pushEntry (s : State) (t kind unit v : Nat) : State :=
  if kind = 2 then (((s.tile t).qPush unit v).map fun tl => s.updTile t fun _ => tl).getD s
  else (s.coutPush t v).getD s

end Sys2Proof.Machine
end

