-- ==== Sys2Proof/Machine/Vector.lean ====
section
/-! DEFINITION. Vector: the vector words at issue (R165..R172, R176..R185) and what each does to an element. -/

namespace Sys2Proof.Machine

/-! ### The words (R176) -/

/-- What a vector word computes. -/
inductive VFn where
  | add | sub | mul | fma | min | max | abs | neg | div | sqrt | rcp | rsq | rcpn | rsqn | exp2 | log2
  | and | or | xor | shl | shr | cmp (c : Nat) | sel | copy | cvt | reds | redm (mx : Bool) | scan | dot | fold | unf
  | iota | gath | scat | perm | xchg | fill
  deriving DecidableEq, Repr

/-- A vector word: function, operand codes, rounding field and type code. -/
structure VW where
  fn : VFn
  d : Nat
  a : Nat
  b : Nat
  r : Nat
  t : Nat
  deriving DecidableEq, Repr

def vw (fn : VFn) (d a b : BitVec 4) (r : BitVec 2) (t : BitVec 4) : Option VW :=
  some { fn := fn, d := d.toNat, a := a.toNat, b := b.toNat, r := r.toNat, t := t.toNat }

/-- The vector word of an instruction; none for any other. -/
def vecOf : Instr → Option VW
  | .vadd d a b r t => vw .add d a b r t
  | .vsub d a b r t => vw .sub d a b r t
  | .vmul d a b r t => vw .mul d a b r t
  | .vfma d a b r t => vw .fma d a b r t
  | .vmin d a b t => vw .min d a b 0 t
  | .vmax d a b t => vw .max d a b 0 t
  | .vabs d a r t => vw .abs d a 0 r t
  | .vneg d a r t => vw .neg d a 0 r t
  | .vdiv d a b r t => vw .div d a b r t
  | .vsqrt d a r t => vw .sqrt d a 0 r t
  | .vrcp d a r t => vw .rcp d a 0 r t
  | .vrsq d a r t => vw .rsq d a 0 r t
  | .vrcpn d a b r t => vw .rcpn d a b r t
  | .vrsqn d a b r t => vw .rsqn d a b r t
  | .vexp2 d a r t => vw .exp2 d a 0 r t
  | .vlog2 d a r t => vw .log2 d a 0 r t
  | .vand d a b t => vw .and d a b 0 t
  | .vor d a b t => vw .or d a b 0 t
  | .vxor d a b t => vw .xor d a b 0 t
  | .vshl d a b t => vw .shl d a b 0 t
  | .vshr d a b t => vw .shr d a b 0 t
  | .vcmpEq d a b t => vw (.cmp 0) d a b 0 t
  | .vcmpNe d a b t => vw (.cmp 1) d a b 0 t
  | .vcmpLt d a b t => vw (.cmp 2) d a b 0 t
  | .vcmpLe d a b t => vw (.cmp 3) d a b 0 t
  | .vcmpUn d a b t => vw (.cmp 4) d a b 0 t
  | .vsel d a b t => vw .sel d a b 0 t
  | .vcopy d a t => vw .copy d a 0 0 t
  | .vcvt d a r t => vw .cvt d a 0 r t
  | .vreds d a r t => vw .reds d a 0 r t
  | .vredmMin d a t => vw (.redm false) d a 0 0 t
  | .vredmMax d a t => vw (.redm true) d a 0 0 t
  | .vscan d a r t => vw .scan d a 0 r t
  | .vdot d a b t => vw .dot d a b 0 t
  | .vfold d a t => vw .fold d a 0 0 t
  | .vunf d a r t => vw .unf d a 0 r t
  | .viota d r t => vw .iota d 0 0 r t
  | .vgath d a b t => vw .gath d a b 0 t
  | .vscat d a b t => vw .scat d a b 0 t
  | .vperm d a b t => vw .perm d a b 0 t
  | .vxchg d a t => vw .xchg d a 0 0 t
  | .vfill d a t => vw .fill d a 0 0 t
  | _ => none

/-- Whether a and b are element operands of the word. -/
def VFn.readsA : VFn → Bool
  | .iota => false
  | .fill => false
  | _ => true
def VFn.readsB : VFn → Bool
  | .add => true | .sub => true | .mul => true | .fma => true | .min => true | .max => true | .div => true | .rcpn => true
  | .rsqn => true | .and => true | .or => true | .xor => true | .shl => true | .shr => true | .cmp _ => true | .sel => true
  | .dot => true | .gath => true | .scat => true | .perm => true
  | _ => false
/-- Words that read their old destination element, or add into d (R167). -/
def VFn.readsOld : VFn → Bool
  | .fma => true | .sel => true | .dot => true | .fold => true
  | _ => false
/-- Words with a b of indices (R184). -/
def VFn.indexed : VFn → Bool
  | .gath => true | .scat => true | .perm => true
  | _ => false
/-- Words whose d and a are of any type of the word's element size (R168). -/
def VFn.anyType : VFn → Bool
  | .copy => true | .gath => true | .scat => true | .perm => true | .xchg => true
  | _ => false

/-- The records a word names, and the word. -/
structure VOps where
  w : VW
  rd : Rec
  ra : Rec
  rb : Rec

def VOps.shA (o : VOps) : Bool := o.w.fn.readsA && decide (o.w.a < 8)
def VOps.shB (o : VOps) : Bool := o.w.fn.readsB && decide (o.w.b < 8)
def VOps.shD (o : VOps) : Bool := decide (o.w.d < 8)

/-- The word's fold width, from a record that names a fold (R44). -/
def VOps.fw (o : VOps) : Nat := if o.shD && o.rd.ty == 15 then o.rd.fw else o.ra.fw
/-- Element size of the word's type. -/
def VOps.z (o : VOps) : Nat := tySize o.w.t o.fw

/-- A shaped operand of the word's own type; a direct one of at most 8 bytes. -/
def VOps.same (o : VOps) (code : Nat) (r : Rec) : Bool :=
  if code < 8 then r.ty == o.w.t && (o.w.t != 15 || r.fw == o.fw) else decide (o.w.t < 14)
/-- A shaped operand of the word's element size. -/
def VOps.sized (o : VOps) (code : Nat) (r : Rec) : Bool :=
  if code < 8 then r.size == o.z && (o.w.t != 15 || r.ty != 15 || r.fw == o.fw) else decide (o.w.t < 14)

/-- The results fit the 16-byte entries of a direct queue destination (R164, R167): of a fold type, F128 alone. -/
def VOps.packs (o : VOps) : Bool := o.w.t != 15 || (o.shA && o.ra.ty == 15 && o.ra.fw == 0)

/-- Types VCVT accepts from a source type (R179). -/
def cvtOk (src dst r : Nat) : Bool :=
  if dst < 8 then decide (src < 8) || (decide (src < 14) && r == 0)
  else if dst < 10 then decide (src < 14) else decide (src < 15)

/-- types_and_kinds_ok of R169 (R162, R167, R168, R183). -/
def VOps.typesOk (o : VOps) : Bool :=
  let w := o.w
  let dq := if 8 ≤ w.d then o.packs else (if w.fn.anyType || (match w.fn with | .cmp _ => true | .sel => true | _ => false)
    then o.sized w.d o.rd else o.same w.d o.rd)
  (!o.shD || o.rd.kind != 1) &&
  (!w.fn.readsOld || o.shD) &&
  (match w.fn with
    | .dot => o.rd.ty == 15 && o.rd.fw == foldWidthOf w.t
    | .fold => o.rd.ty == 15 && o.rd.fw == foldWidthOf w.t
    | .reds => dq && (w.t != 15 || (o.shA && o.ra.ty == 15 && (!o.shD || o.rd.fw == o.ra.fw)))
    | .fill => if w.t = 15 then o.shD && o.rd.ty == 15 else dq
    | .gath => dq && o.shA && o.ra.kind == 0
    | .scat => dq && o.shD && o.rd.kind == 0
    | .xchg => dq && o.shD && o.rd.kind == 0
    | _ => dq) &&
  (!w.fn.readsA || (match w.fn with
    | .cvt => cvtOk (if w.a < 8 then o.ra.ty else w.t) w.t w.r
    | .unf => o.shA && o.ra.ty == 15
    | .reds => w.t == 15 || o.same w.a o.ra
    | f => if f.anyType then o.sized w.a o.ra else o.same w.a o.ra)) &&
  (!w.fn.readsB || (if w.fn.indexed then decide (8 ≤ w.b) || o.rb.ty == 5 || o.rb.ty == 6 else o.same w.b o.rb)) &&
  (!(w.fn.anyType && w.t == 15) || (o.shD && o.rd.ty == 15) || (o.shA && o.ra.ty == 15))

/-- The counts of the operands that are shaped. -/
def VOps.nd (o : VOps) : Option Nat := if o.shD then some o.rd.count else none
def VOps.na (o : VOps) : Option Nat := if o.shA then some o.ra.count else none
def VOps.nb (o : VOps) : Option Nat := if o.shB then some o.rb.count else none

/-- The operands whose counts agree with N. -/
def VOps.counts (o : VOps) : List (Option Nat) :=
  match o.w.fn with
  | .reds => [o.na]
  | .redm _ => [o.na]
  | .dot => [o.na, o.nb]
  | .fold => if o.nd = some 1 then [o.na] else [o.na, o.nd]
  | .gath => [o.nd, o.nb]
  | .scat => [o.na, o.nb]
  | _ => [o.nd, o.na, o.nb]

/-- The word's element count N (R167). -/
def VOps.count (o : VOps) : Nat := (o.counts.filterMap id).headD 1

/-- counts_ok of R169; m is the number of members for VXCHG. -/
def VOps.countsOk (o : VOps) (m : Nat) : Bool :=
  (o.counts.filterMap id).all (· == o.count) &&
  (match o.w.fn with
    | .reds => o.nd == none || o.nd == some 1
    | .redm _ => (o.nd == none || o.nd == some 1) && o.count != 0
    | .dot => o.nd == some 1
    | .xchg => m != 0 && o.count % m == 0
    | _ => true)

/-- The shaped operands, d first. -/
def VOps.shaped (o : VOps) : List Rec :=
  (if o.shD then [o.rd] else []) ++ (if o.shA then [o.ra] else []) ++ (if o.shB then [o.rb] else [])

/-- The chain operands have their neighbours (R34). -/
def VOps.chainOk (o : VOps) (s : State) (t : Nat) (c : BitVec 4) : Bool :=
  (!((o.shA && o.ra.kind == 3) || (o.shB && o.rb.kind == 3) || (o.shD && o.rd.kind == 3 && o.w.fn.readsOld)) ||
    (s.chainUp t c).isSome) &&
  (!(o.shD && o.rd.kind == 3) || (s.chainDown t c).isSome)

/-- The members of a group-table entry of tiles for tile t's launch, in member order, each as its tile, none on another package, and t's
position (R185). -/
def State.xchgMembers (s : State) (t g : Nat) : Option (List (Option Nat) × Nat) :=
  let lid := (s.tile t).lid
  let l := s.launch lid
  let ms := tget [] (s.part l.part).gtab g
  if !s.entryHas t g || ms.any fun m => nb m 32 then none
  else
    let ts := ms.map (s.descTile l)
    (ts.findIdx? (· == some (s.seenTile t))).map fun j => (ts, j)

/-! ### Issue (R169, R170) -/

/-- The records a word names. -/
def Tile.vops (t : Tile) (w : VW) : VOps := { w := w, rd := t.hrec w.d, ra := t.hrec w.a, rb := t.hrec w.b }

/-- A repeat entry (R171). -/
def SeqEntry.isRepeat (e : SeqEntry) : Bool := match e.instr with | .vloop _ _ => true | _ => false

/-- An entry may not be reused: WAIT or RUN, or in the set of a VLOOP that is. -/
def Tile.seqHeld (t : Tile) (e : SeqEntry) : Bool :=
  e.st != .done || (t.seq.any fun r => r.isRepeat && r.st != .done && r.set.contains e.num)

/-- Make room for a word entry: a FREE one, else the oldest DONE one (R170); none when the thread must wait. -/
def Tile.seqRoom (t : Tile) : Option Tile :=
  if (t.seq.filter fun e => !e.isRepeat).length < 16 then some t
  else (t.seq.find? fun e => !e.isRepeat && !t.seqHeld e).map fun e => { t with seq := t.seq.filter fun x => x.num != e.num }

/-- A new entry in WAIT, with what it captures at issue; it gets its number as it enters. -/
def State.newEntry (s : State) (i : Instr) (o : VOps) (val : Word) (set : List Nat) (count : Nat) : SeqEntry :=
  { num := 0, instr := i, pc := s.cur.pc, slot := s.curSlot, lid := s.cur.lid, recD := o.rd, recA := o.ra, recB := o.rb,
    val := val, chain := s.curT.chain, st := .wait, prog := Progress.fresh, err := none, xcOut := false, xcGot := 0, xcBad := false,
    set := set, count := count, kNow := if set.isEmpty then 0 else 1, pos := 0, ready := 0 }

/-- An entry enters the sequencer of the executing thread's tile, where it has room; a word waits for room with what it captured (R169). -/
def State.enterSeq (s : State) (e : SeqEntry) : State :=
  match s.curT.seqRoom with
  | none => s.block (.entry e)
  | some tl =>
    let s' := s.updTile s.curTile fun _ => { tl with seq := tl.seq ++ [{ e with num := tl.seqNext }], seqNext := tl.seqNext + 1 }
    (s'.updCur fun sl => { sl with repeatSet := tl.seqNext :: sl.repeatSet }).done 4

/-- vec_issue of R169 for the executing thread; a word that waits for an entry has passed its checks. -/
def State.vecIssue (s : State) (i : Instr) (w : VW) : State :=
  let t := s.curTile
  let o := s.curT.vops w
  let limit := (s.launch s.curT.lid).parkBase
  let val := match w.fn with
    | .xchg => s.cur.kr 1
    | .fill => s.xr (BitVec.ofNat 4 w.a)
    | _ => 0
  let xm := match w.fn with | .xchg => s.xchgMembers t (wf val 0 8) | _ => some ([], 0)
  match s.cur.wait with
  | .entry e => s.enterSeq e
  | _ =>
  if !o.typesOk then s.trapIll i else
  match xm with
  | none => s.trap .window 0 0
  | some (ms, _) =>
    if !o.countsOk ms.length then s.trapIll i
    else if !o.chainOk s t s.curT.chain then s.trap .window 0 0
    else match shapeTrap limit o.shaped with
      | some (c, a) => s.trap c (nw a) 0
      | none => s.enterSeq (s.newEntry i o val [] 0)

/-- A vector word. -/
def State.vec (s : State) (i : Instr) : Res :=
  .next (match vecOf i with
    | some w => s.vecIssue i w
    | none => s)

/-- VADD (R177). -/
def execVadd (d a b : BitVec 4) (r : BitVec 2) (t : BitVec 4) (s : State) : Res := s.vec (.vadd d a b r t)
/-- VSUB (R177). -/
def execVsub (d a b : BitVec 4) (r : BitVec 2) (t : BitVec 4) (s : State) : Res := s.vec (.vsub d a b r t)
/-- VMUL (R177). -/
def execVmul (d a b : BitVec 4) (r : BitVec 2) (t : BitVec 4) (s : State) : Res := s.vec (.vmul d a b r t)
/-- VFMA (R177). -/
def execVfma (d a b : BitVec 4) (r : BitVec 2) (t : BitVec 4) (s : State) : Res := s.vec (.vfma d a b r t)
/-- VMIN (R177). -/
def execVmin (d a b t : BitVec 4) (s : State) : Res := s.vec (.vmin d a b t)
/-- VMAX (R177). -/
def execVmax (d a b t : BitVec 4) (s : State) : Res := s.vec (.vmax d a b t)
/-- VABS (R177). -/
def execVabs (d a : BitVec 4) (r : BitVec 2) (t : BitVec 4) (s : State) : Res := s.vec (.vabs d a r t)
/-- VNEG (R177). -/
def execVneg (d a : BitVec 4) (r : BitVec 2) (t : BitVec 4) (s : State) : Res := s.vec (.vneg d a r t)
/-- VDIV (R177). -/
def execVdiv (d a b : BitVec 4) (r : BitVec 2) (t : BitVec 4) (s : State) : Res := s.vec (.vdiv d a b r t)
/-- VSQRT (R177). -/
def execVsqrt (d a : BitVec 4) (r : BitVec 2) (t : BitVec 4) (s : State) : Res := s.vec (.vsqrt d a r t)
/-- VRCP (R178). -/
def execVrcp (d a : BitVec 4) (r : BitVec 2) (t : BitVec 4) (s : State) : Res := s.vec (.vrcp d a r t)
/-- VRSQ (R178). -/
def execVrsq (d a : BitVec 4) (r : BitVec 2) (t : BitVec 4) (s : State) : Res := s.vec (.vrsq d a r t)
/-- VRCPN (R178). -/
def execVrcpn (d a b : BitVec 4) (r : BitVec 2) (t : BitVec 4) (s : State) : Res := s.vec (.vrcpn d a b r t)
/-- VRSQN (R178). -/
def execVrsqn (d a b : BitVec 4) (r : BitVec 2) (t : BitVec 4) (s : State) : Res := s.vec (.vrsqn d a b r t)
/-- VEXP2 (R178). -/
def execVexp2 (d a : BitVec 4) (r : BitVec 2) (t : BitVec 4) (s : State) : Res := s.vec (.vexp2 d a r t)
/-- VLOG2 (R178). -/
def execVlog2 (d a : BitVec 4) (r : BitVec 2) (t : BitVec 4) (s : State) : Res := s.vec (.vlog2 d a r t)
/-- VAND (R179). -/
def execVand (d a b t : BitVec 4) (s : State) : Res := s.vec (.vand d a b t)
/-- VOR (R179). -/
def execVor (d a b t : BitVec 4) (s : State) : Res := s.vec (.vor d a b t)
/-- VXOR (R179). -/
def execVxor (d a b t : BitVec 4) (s : State) : Res := s.vec (.vxor d a b t)
/-- VSHL (R179). -/
def execVshl (d a b t : BitVec 4) (s : State) : Res := s.vec (.vshl d a b t)
/-- VSHR (R179). -/
def execVshr (d a b t : BitVec 4) (s : State) : Res := s.vec (.vshr d a b t)
/-- VCMPEQ (R179). -/
def execVcmpEq (d a b t : BitVec 4) (s : State) : Res := s.vec (.vcmpEq d a b t)
/-- VCMPNE (R179). -/
def execVcmpNe (d a b t : BitVec 4) (s : State) : Res := s.vec (.vcmpNe d a b t)
/-- VCMPLT (R179). -/
def execVcmpLt (d a b t : BitVec 4) (s : State) : Res := s.vec (.vcmpLt d a b t)
/-- VCMPLE (R179). -/
def execVcmpLe (d a b t : BitVec 4) (s : State) : Res := s.vec (.vcmpLe d a b t)
/-- VCMPUN (R179). -/
def execVcmpUn (d a b t : BitVec 4) (s : State) : Res := s.vec (.vcmpUn d a b t)
/-- VSEL (R179). -/
def execVsel (d a b t : BitVec 4) (s : State) : Res := s.vec (.vsel d a b t)
/-- VCOPY (R179). -/
def execVcopy (d a t : BitVec 4) (s : State) : Res := s.vec (.vcopy d a t)
/-- VCVT (R179). -/
def execVcvt (d a : BitVec 4) (r : BitVec 2) (t : BitVec 4) (s : State) : Res := s.vec (.vcvt d a r t)
/-- VREDS (R181). -/
def execVreds (d a : BitVec 4) (r : BitVec 2) (t : BitVec 4) (s : State) : Res := s.vec (.vreds d a r t)
/-- VREDMMIN (R181). -/
def execVredmMin (d a t : BitVec 4) (s : State) : Res := s.vec (.vredmMin d a t)
/-- VREDMMAX (R181). -/
def execVredmMax (d a t : BitVec 4) (s : State) : Res := s.vec (.vredmMax d a t)
/-- VSCAN (R181). -/
def execVscan (d a : BitVec 4) (r : BitVec 2) (t : BitVec 4) (s : State) : Res := s.vec (.vscan d a r t)
/-- VDOT (R182). -/
def execVdot (d a b t : BitVec 4) (s : State) : Res := s.vec (.vdot d a b t)
/-- VFOLD (R182). -/
def execVfold (d a t : BitVec 4) (s : State) : Res := s.vec (.vfold d a t)
/-- VUNF (R182). -/
def execVunf (d a : BitVec 4) (r : BitVec 2) (t : BitVec 4) (s : State) : Res := s.vec (.vunf d a r t)
/-- VIOTA (R180). -/
def execViota (d : BitVec 4) (r : BitVec 2) (t : BitVec 4) (s : State) : Res := s.vec (.viota d r t)
/-- VGATH (R184). -/
def execVgath (d a b t : BitVec 4) (s : State) : Res := s.vec (.vgath d a b t)
/-- VSCAT (R184). -/
def execVscat (d a b t : BitVec 4) (s : State) : Res := s.vec (.vscat d a b t)
/-- VPERM (R184). -/
def execVperm (d a b t : BitVec 4) (s : State) : Res := s.vec (.vperm d a b t)
/-- VXCHG (R185). -/
def execVxchg (d a t : BitVec 4) (s : State) : Res := s.vec (.vxchg d a t)

/-- VFILL (R180): with a queue d, the scalar write of R34 at issue; else an entry with x[a]. -/
def execVfill (d a t : BitVec 4) (s : State) : Res :=
  if 8 ≤ d.toNat then
    .next (match s.curT.qPush (d.toNat - 8) (s.xr a).toNat with
      | some tl => (s.updTile s.curTile fun _ => tl).done 4
      | none => s.block (.queue (d.toNat - 8)))
  else s.vec (.vfill d a t)

/-! ### VSHAPE, VLOOP, VSYNC (R165, R171, R172) -/

/-- VSHAPE (R165). -/
def execVshape (d : BitVec 3) (a : Reg) (s : State) : Res :=
  .next (match s.localArg (s.xr a) 32 32 with
    | .error c => s.trap c (s.xr a) 0
    | .ok off =>
      match s.sliceRead s.curTile off 32 with
      | .error g => s.trap .poison (nw g) 0
      | .ok v =>
        let r : Rec := BitVec.ofNat 256 v
        if r.valid then (s.updTile s.curTile fun t => { t with h := tset t.h d.toNat r }).done 4
        else s.trapIll (.vshape d a))

/-- A repetition count's footprints: the extremes of k = 1 and k = c (R171, R169). -/
def SeqEntry.repeatFits (e : SeqEntry) (limit c : Nat) : Bool :=
  match vecOf e.instr with
  | none => true
  | some w =>
    let o : VOps := { w := w, rd := e.recD, ra := e.recA, rb := e.recB }
    o.shaped.all fun r => r.fits limit 1 && r.fits limit c

/-- VLOOP (R171). -/
def execVloop (a n : BitVec 4) (s : State) : Res :=
  let c := wf (s.xr a) 0 16
  let want := n.toNat + 1
  let tl := s.curT
  let held := s.cur.repeatSet.filter fun i => tl.seq.any fun e => e.num == i
  let set := (held.take want).reverse
  let es := tl.seq.filter fun e => set.contains e.num
  .next (
    if c = 0 then s.done 4
    else if held.length < want then s.trapIll (.vloop a n)
    else if !(es.all fun e => e.repeatFits (s.launch tl.lid).parkBase c) then s.trap .window 0 0
    else if (tl.seq.any fun e => e.isRepeat && e.slot == s.curSlot) then s.block .poll
    else
      let o : VOps := { w := { fn := .add, d := 0, a := 0, b := 0, r := 0, t := 0 }, rd := 0, ra := 0, rb := 0 }
      let e := { s.newEntry (.vloop a n) o 0 set c with num := tl.seqNext }
      let s := s.updTile s.curTile fun t => { t with seq := t.seq ++ [e], seqNext := t.seqNext + 1 }
      (s.updCur fun sl => { sl with repeatSet := [] }).done 4)

/-- VSYNC of len bytes (R172): an engine trap due is taken first, by the boundary (see Machine/Answers). -/
def State.doVsync (s : State) (len : Nat) : State :=
  if s.curT.seq.any fun e => e.slot == s.curSlot && e.st != .done then s.block .poll else s.done len

/-- VSYNC (R172). -/
def execVsync (s : State) : Res := .next (s.doVsync 4)
/-- Compact VSYNC (R99). -/
def execVsyncC (s : State) : Res := .next (s.doVsync 2)

/-! ### One element (R48, R49, R177..R182) -/

/-- An integer element as an integer, and an integer as an element, wrapped or saturated (R48). -/
def ival (t v : Nat) : Int := if intSigned t then sx (intWidth t) v else Int.ofNat (v % 2 ^ intWidth t)
def iwrap (t : Nat) (i : Int) : Nat := wrapTo (intWidth t) i
def isat (t r : Nat) (i : Int) : Nat :=
  if r = 1 then iwrap t (if i < intMin t then intMin t else if intMax t < i then intMax t else i) else iwrap t i

/-- Integer division at a width (R49). -/
def idiv (x y : Int) : Int := if y = 0 then -1 else Int.tdiv x y

/-- An integer element-wise result. -/
def vInt (fn : VFn) (t r x y z : Nat) : Nat :=
  let a := ival t x
  let b := ival t y
  let w := intWidth t
  match fn with
  | .add => isat t r (a + b)
  | .sub => isat t r (a - b)
  | .mul => isat t r (a * b)
  | .fma => iwrap t (a * b + ival t z)
  | .min => if b < a then y else x
  | .max => if a < b then y else x
  | .abs => isat t r (Int.ofNat a.natAbs)
  | .neg => isat t r (-a)
  | .div => iwrap t (idiv a b)
  | .and => x &&& y
  | .or => x ||| y
  | .xor => x ^^^ y
  | .shl => iwrap t (a * 2 ^ (y % w))
  | .shr => iwrap t (a / 2 ^ (y % w))
  | .cmp 0 => if a = b then 2 ^ w - 1 else 0
  | .cmp 1 => if a = b then 0 else 2 ^ w - 1
  | .cmp 2 => if a < b then 2 ^ w - 1 else 0
  | .cmp _ => if b < a then 0 else 2 ^ w - 1
  | _ => x

/-- A floating-point element-wise result and its flags. -/
def vFp (fn : VFn) (f : Fmt) (r x y z : Nat) : Nat × Fl :=
  let a := unpack f x
  let b := unpack f y
  match fn with
  | .add => fpAddV f r a b
  | .sub => fpAddV f r a b.neg
  | .mul => fpMul f r a b
  | .fma => fpFma f r false a b (unpack f z)
  | .min => fpMinMax f false x y
  | .max => fpMinMax f true x y
  | .abs => (x % 2 ^ (f.width - 1), flNone)
  | .neg => (x ^^^ 2 ^ (f.width - 1), flNone)
  | .div => fpDiv f r a b
  | .sqrt => fpSqrt f r a
  | .rcp => fpRcp f r a
  | .rsq => fpRsq f r a
  | .rcpn => fpRcpN f r x y
  | .rsqn => fpRsqN f r x y
  | .exp2 => fpExp2 f r a
  | .log2 => fpLog2 f r a
  | .cmp c => let q := fpCmp c a b; (if q.1 then 2 ^ f.width - 1 else 0, q.2)
  | _ => (x, flNone)

/-- VCVT of an element (R179, R59, R66). -/
def vCvt (src dst r x : Nat) : Nat × Fl :=
  if src = dst then (x, flNone)
  else if dst < 8 then
    if src < 8 then (isat dst r (ival src x), flNone)
    else let q := fpToInt dst 0 (unpack (tyFmt src) x); (iwrap dst q.1, q.2)
  else if src < 8 then intToFp (tyFmt dst) r (ival src x)
  else if src = 14 then pairToFp (tyFmt dst) r x
  else fpCvt (tyFmt src) (tyFmt dst) r x

/-- One reduction step of VREDS and VSCAN (R181). -/
def vRed (t fw r : Nat) (first : Bool) (acc x : Nat) : Nat × Fl :=
  if t = 15 then (foldSum fw (if first then 0 else acc) x, flNone)
  else if first then (x, flNone)
  else if t < 8 then (isat t r (ival t acc + ival t x), flNone)
  else fpAddV (tyFmt t) r (unpack (tyFmt t) acc) (unpack (tyFmt t) x)

/-- One step of VREDM. -/
def vRedm (t : Nat) (mx first : Bool) (acc x : Nat) : Nat × Fl :=
  if first then (if t < 8 then (x, flNone) else fpMinMax (tyFmt t) mx x x)
  else if t < 8 then (if (if mx then decide (ival t acc < ival t x) else decide (ival t x < ival t acc)) then x else acc, flNone)
  else fpMinMax (tyFmt t) mx acc x

/-- A term of VFOLD (R182): an FP64 pair adds hi, then lo. -/
def vFoldTerm (t acc x : Nat) : Nat × Fl :=
  if t = 14 then
    let r := foldAdd 2 acc (d64 (x % 2 ^ 64))
    let q := foldAdd 2 r.1 (d64 (x / 2 ^ 64))
    (q.1, r.2 ||| q.2)
  else foldAdd (foldWidthOf t) acc (elemVal t x)

/-- A term of VDOT (R182, R71). -/
def vDotTerm (t acc x y : Nat) : Nat × Fl :=
  if t = 13 then foldAddProd64 acc x y else foldAddProd (foldWidthOf t) acc (elemVal t x) (elemVal t y)

/-- VUNF of a fold (R182, R72). -/
def vUnf (t fw r x : Nat) : Nat × Fl :=
  if t < 8 then let q := foldToInt t r fw x; (iwrap t q.1, q.2) else foldToFp (tyFmt t) r fw x

/-- VIOTA's element n (R180). -/
def vIota (t r n : Nat) : Nat × Fl := if t < 8 then (iwrap t (Int.ofNat n), flNone) else intToFp (tyFmt t) r (Int.ofNat n)

/-- VFILL's element (R180). -/
def vFill (t fw : Nat) (x : Word) : Nat := if t = 15 then mkFold fw x.toInt 0 else x.toNat % 2 ^ (8 * tySize t 0)

end Sys2Proof.Machine
end

