-- ==== Sys2Proof/Machine/Sequencer.lean ====
section
/-! DEFINITION. Sequencer: the execution of vector entries (R163, R164, R170, R171, R174, R185). -/

namespace Sys2Proof.Machine

/-! ### Resolved operands -/

/-- Where an operand's elements come from. -/
inductive Src where
  | none
  | mem (r : Rec)
  | pop (kind unit z : Nat)
  /-- a direct queue: one entry per execution, broadcast. -/
  | one (q : Nat)

/-- The source a code and its record mean, with the element size of a direct stream. -/
def srcOf (code : Nat) (r : Rec) (z : Nat) : Src :=
  if code < 8 then (if r.kind = 0 then .mem r else .pop r.kind r.unit r.size)
  else if code < 12 then .one (code - 8) else .pop 1 (code - 12) z

/-- Take what a source still needs into its buffer: an error or a wait leaves what was taken. -/
def State.fillSrc (s : State) (t : Nat) (chain : BitVec 4) (src : Src) (need : Nat) (buf : List Nat) :
    State × List Nat × Option (Option Cause × Nat) :=
  match src with
  | .pop k u z => s.pull t chain k u z need (need + 1) buf
  | .one q =>
    if buf.isEmpty then match (s.tile t).qPop q with
      | Option.none => (s, buf, some (Option.none, 0))
      | some (v, tl) => (s.updTile t fun _ => tl, [v], Option.none)
    else (s, buf, Option.none)
  | _ => (s, buf, Option.none)

/-- Element n of a filled source; an error names the poisoned granule. -/
def State.srcGet (s : State) (t k n : Nat) (src : Src) (buf : List Nat) : Except Nat Nat :=
  match src with
  | .mem r => s.sliceRead t (r.addr k n).toNat r.size
  | _ => .ok (buf.headD 0)

/-- The buffer after an element is used. -/
def Src.used (src : Src) (buf : List Nat) : List Nat := match src with | .one _ => buf | _ => buf.drop 1

/-- Memory, or packed entries: 2 queue, 3 chain. -/
inductive Dst where
  | mem (r : Rec)
  | push (kind unit z : Nat)

def dstOf (code : Nat) (r : Rec) (z : Nat) : Dst :=
  if code < 8 then (if r.kind = 0 then .mem r else .push r.kind r.unit r.size) else .push 2 (code - 8) z

/-- Elements of an entry of a destination. -/
def perEntry (kind z : Nat) : Nat := (if kind = 2 then 16 else 8) / z

/-- Room for one more result, the last of its execution or not. -/
def State.dstReady (s : State) (t : Nat) (d : Dst) (buf : List Nat) (last : Bool) : Bool :=
  match d with
  | .mem _ => true
  | .push k u z => !(last || buf.length + 1 == perEntry k z) || s.pushRoom t k u

/-- Write result n. -/
def State.dstPut (s : State) (t k n : Nat) (d : Dst) (buf : List Nat) (v : Nat) (last : Bool) : Except Nat (State × List Nat) :=
  match d with
  | .mem r => (s.elemStore t (r.addr k n).toNat r.size v).map fun s => (s, [])
  | .push kd u z =>
    let b := buf ++ [v]
    if last || b.length == perEntry kd z then .ok (s.pushEntry t kd u (joinEntry z b), []) else .ok (s, b)

/-- An execution: the word's operands, the repetition and its captured chain and value. -/
structure VX where
  o : VOps
  k : Nat
  chain : BitVec 4
  val : Word

def SeqEntry.vx (w : SeqEntry) (k : Nat) : Option VX :=
  (vecOf w.instr).map fun v => { o := { w := v, rd := w.recD, ra := w.recA, rb := w.recB }, k := k, chain := w.chain, val := w.val }

def VX.n (x : VX) : Nat := x.o.count
def VX.fn (x : VX) : VFn := x.o.w.fn
def VX.srcA (x : VX) : Src := if x.o.w.fn.readsA then srcOf x.o.w.a x.o.ra x.o.z else .none
def VX.srcB (x : VX) : Src := if x.o.w.fn.readsB then srcOf x.o.w.b x.o.rb (if x.o.w.fn.indexed then 4 else x.o.z) else .none
def VX.srcO (x : VX) : Src :=
  match x.o.w.fn with
  | .fma => srcOf x.o.w.d x.o.rd x.o.z
  | .sel => srcOf x.o.w.d x.o.rd x.o.z
  | _ => .none
def VX.dst (x : VX) : Dst := dstOf x.o.w.d x.o.rd x.o.z

/-- Words with one result, written after the last term. -/
def VX.single (x : VX) : Bool :=
  match x.o.w.fn with
  | .reds => true
  | .redm _ => true
  | .dot => true
  | .fold => x.o.nd == some 1
  | _ => false

/-- Type of a's elements, and the bits of a value that count. -/
def VX.srcTy (x : VX) : Nat := if x.o.w.a < 8 then x.o.ra.ty else x.o.w.t
def lowBits (z v : Nat) : Nat := v % 2 ^ (8 * z)

/-- What an element attempt meets. -/
inductive VOut where
  | go
  | wait
  | err (c : Cause) (granule : Nat)

/-- A poisoned granule, or a value. -/
def orPoison {α : Type} (e : Except Nat α) (s : State) (p : Progress) (k : α → State × Progress × VOut) : State × Progress × VOut :=
  match e with
  | .error g => (s, p, .err .poison g)
  | .ok v => k v

/-- The stop of a source that was not filled. -/
def outOf (e : Option Cause × Nat) : VOut := match e.1 with | none => .wait | some c => .err c e.2

/-- The elements of a that element n needs in its buffer: a whole group at once for VPERM (R184). -/
def VX.needA (x : VX) (n : Nat) : Nat :=
  match x.o.w.fn with
  | .perm => min (16 / x.o.z) (x.n - n / (16 / x.o.z) * (16 / x.o.z))
  | .gath => 0
  | _ => 1

/-- VPERM: read a group of a from memory. -/
def State.readGroup (s : State) (t k n : Nat) (r : Rec) : Nat → Except Nat (List Nat)
  | 0 => .ok []
  | m + 1 => match s.sliceRead t (r.addr k n).toNat r.size with
    | .error g => .error g
    | .ok v => (s.readGroup t k (n + 1) r m).map (v :: ·)

/-- The value of element n and its flags, from x, y and the old element z, for the words with one result per element; the
running sum of VSCAN is in acc. -/
def VX.value (x : VX) (n a b z acc : Nat) : Nat × Fl :=
  let w := x.o.w
  match w.fn with
  | .copy => (a, flNone)
  | .cvt => vCvt x.srcTy w.t w.r a
  | .sel => (if lowBits x.o.z z = 0 then b else a, flNone)
  | .scan => vRed w.t 0 w.r (n == 0) acc a
  | .unf => vUnf w.t x.o.ra.fw w.r a
  | .iota => vIota w.t w.r n
  | .fill => (vFill w.t x.o.fw x.val, flNone)
  | .fold => let q := vFoldTerm w.t z a; q
  | .gath => (a, flNone)
  | .perm => (a, flNone)
  | .scat => (a, flNone)
  | f => if w.t < 8 then (vInt f w.t w.r a b z, flNone) else vFp f (tyFmt w.t) w.r a b z

/-- One term of a word with a single result: the new accumulator. -/
def VX.term (x : VX) (n a b acc : Nat) : Nat × Fl :=
  let w := x.o.w
  match w.fn with
  | .reds => vRed w.t x.o.ra.fw w.r (n == 0) acc a
  | .redm mx => vRedm w.t mx (n == 0) acc a
  | .dot => vDotTerm w.t acc a b
  | _ => vFoldTerm w.t acc a

/-- Where element n's result goes: the index for VSCAT (R184); none writes nothing. -/
def VX.place (x : VX) (n b : Nat) : Option Nat :=
  match x.o.w.fn with
  | .scat => if b < x.o.rd.count then some b else none
  | _ => some n

/-- Combine, read and write element n once its sources are filled. -/
def VX.apply (x : VX) (s : State) (t : Nat) (p : Progress) : State × Progress × VOut :=
  let n := p.n
  let last := n + 1 == x.n
  let zi := if x.o.w.b < 8 then x.o.rb.size else 4
  orPoison (s.srcGet t x.k n x.srcB p.bufB) s p fun b0 =>
  let b := if x.o.w.fn.indexed then lowBits zi b0 else lowBits x.o.z b0
  let zs := x.o.w.fn
  let getA : Except Nat Nat := match zs with
    | .gath => if b < x.o.ra.count then s.sliceRead t (x.o.ra.addr x.k b).toNat x.o.ra.size else .ok 0
    | .perm =>
      let j := b % (16 / x.o.z)
      match x.srcA with
      | src => .ok (if x.n ≤ n / (16 / x.o.z) * (16 / x.o.z) + j then 0 else match src with
        | .one _ => p.bufA.headD 0
        | _ => p.bufA[j]?.getD 0)
    | _ => s.srcGet t x.k n x.srcA p.bufA
  orPoison getA s p fun a0 =>
  let a := match x.srcA with | .one _ => lowBits x.o.z a0 | _ => a0
  let old : Except Nat Nat := match zs with
    | .fold => s.sliceRead t (x.o.rd.addr x.k n).toNat x.o.rd.size
    | _ => s.srcGet t x.k n x.srcO p.bufO
  let nextA := match zs with
    | .perm => if (n + 1) % (16 / x.o.z) = 0 then x.srcA.used (p.bufA.take 1) else p.bufA
    | .gath => p.bufA
    | _ => x.srcA.used p.bufA
  let p' := { p with n := n + 1, bufA := nextA, bufB := x.srcB.used p.bufB, bufO := x.srcO.used p.bufO }
  if x.single then
    let start : Except Nat Nat := match zs with
      | .dot => if n = 0 then s.sliceRead t (x.o.rd.addr x.k 0).toNat x.o.rd.size else .ok p.acc
      | .fold => if n = 0 then s.sliceRead t (x.o.rd.addr x.k 0).toNat x.o.rd.size else .ok p.acc
      | _ => .ok p.acc
    orPoison start s p fun acc =>
    let r := x.term n a b acc
    (s, { p' with acc := r.1, flags := p.flags ||| r.2 }, .go)
  else
    orPoison old s p fun z =>
    let r := x.value n a b z p.acc
    match x.place n b with
    | none => (s, p', .go)
    | some m =>
      orPoison (s.dstPut t x.k m x.dst p.bufD r.1 last) s p fun q =>
      (q.1, { p' with bufD := q.2, acc := r.1, flags := p.flags ||| r.2 }, .go)

/-- One element: fill the sources, wait for room, then apply. -/
def VX.elem (x : VX) (s : State) (t : Nat) (p : Progress) : State × Progress × VOut :=
  let n := p.n
  let need := x.needA n
  let fillA : State × List Nat × Option (Option Cause × Nat) :=
    match x.o.w.fn, x.srcA with
    | .perm, .mem r =>
      if n % (16 / x.o.z) = 0 ∧ p.bufA.length < need then match s.readGroup t x.k n r need with
        | .error g => (s, p.bufA, some (some .poison, g))
        | .ok vs => (s, vs, none)
      else (s, p.bufA, none)
    | .perm, src => if n % (16 / x.o.z) = 0 then s.fillSrc t x.chain src need p.bufA else (s, p.bufA, none)
    | .gath, _ => (s, p.bufA, none)
    | _, src => s.fillSrc t x.chain src need p.bufA
  let p := { p with bufA := fillA.2.1 }
  match fillA.2.2 with
  | some e => (fillA.1, p, outOf e)
  | none =>
    let fillB := fillA.1.fillSrc t x.chain x.srcB 1 p.bufB
    let p := { p with bufB := fillB.2.1 }
    match fillB.2.2 with
    | some e => (fillB.1, p, outOf e)
    | none =>
      let fillO := fillB.1.fillSrc t x.chain x.srcO 1 p.bufO
      let p := { p with bufO := fillO.2.1 }
      match fillO.2.2 with
      | some e => (fillO.1, p, outOf e)
      | none =>
        let s := fillO.1
        if !x.single && !s.dstReady t x.dst p.bufD (n + 1 == x.n) then (s, p, .wait) else x.apply s t p

/-- At most m elements. -/
def VX.run (x : VX) (t : Nat) : Nat → State → Progress → State × Progress × VOut
  | 0, s, p => (s, p, .go)
  | m + 1, s, p =>
    if x.n ≤ p.n then (s, p, .go)
    else match x.elem s t p with
      | (s, p, .go) => x.run t m s p
      | r => r

/-- The single result after the last term; VREDS writes one for N = 0 too (R181). -/
def VX.finish (x : VX) (s : State) (t : Nat) (p : Progress) : State × Progress × VOut :=
  let writes := x.single && (x.n != 0 || x.o.w.fn == .reds)
  if !writes then (s, p, .go)
  else if !s.dstReady t x.dst [] true then (s, p, .wait)
  else orPoison (s.dstPut t x.k 0 x.dst [] p.acc true) s p fun q => (q.1, p, .go)

/-! ### VXCHG (R185) -/

/-- Send the slices of the elements read so far to the members; the own slice, the j-th, is written in place, and one to another package leaves
the model, for which the fabric has no frame (R397; log 102). -/
def State.sendSlices (s : State) (t dom j len : Nat) (x : VX) (buf : List Nat) : List (Nat × Option Nat) → State × Except Nat Unit
  | [] => (s, .ok ())
  | (m, dst) :: r =>
    let part := (buf.drop (m * len)).take len
    if m = j then
      let w := (List.range len).foldl (fun (acc : State × Except Nat Unit) i =>
        match acc.2 with
        | .error _ => acc
        | .ok _ => match acc.1.elemStore t (x.o.rd.addr x.k (m * len + i)).toNat x.o.z (part[i]?.getD 0) with
          | .error g => (acc.1, .error g)
          | .ok s => (s, .ok ())) (s, .ok ())
      match w.2 with
      | .error g => (w.1, .error g)
      | .ok _ => w.1.sendSlices t dom j len x buf r
    else match dst with
      | none => s.sendSlices t dom j len x buf r
      | some to_ =>
        let dest := s.copyTile t (tDie to_) (tRow to_) (tCol to_)
        (s.send (routed (hops t dest) (1 + (len * x.o.z + 15) / 16)) (.slice dest dom j len x.o.z part false)).sendSlices t dom j len x buf r

/-- One advance of a VXCHG execution: it arrives, waits for the release, reads a and sends its slices; acc holds RELS at the
arrival, and n is 0 before the arrival, 1 before the release, 2 while a is read and 3 once the slices are sent. -/
def State.xchgStep (s : State) (t : Nat) (e : SeqEntry) (x : VX) : State × SeqEntry × VOut :=
  let g := wf x.val 0 8
  let dom := entryDom (s.launch e.lid).part g
  let key := hurKey true g
  let h := (s.tile t).hurd key
  let p := e.prog
  match p.n with
  | 0 =>
    if s.twinFull t then (s, e, .wait) else
    match s.arriveNow t e.slot key dom none 0 0 false with
    | none => (s, e, .wait)
    | some s' => (s', { e with prog := { p with n := 1, acc := h.rels } }, .go)
  | 1 => if h.rels = p.acc then (s, e, .wait) else (s, { e with prog := { p with n := 2 } }, .go)
  | 2 =>
    match s.xchgMembers t g with
    | none => (s, e, .wait)
    | some (ms, j) =>
      let len := x.n / ms.length
      let got : State × List Nat × Option (Option Cause × Nat) := match x.srcA with
        | .mem r => (List.range (x.n - p.bufA.length)).foldl (fun acc _ => match acc.2.2 with
            | some _ => acc
            | none => match s.sliceRead t (r.addr x.k acc.2.1.length).toNat r.size with
              | .error g => (acc.1, acc.2.1, some (some .poison, g))
              | .ok v => (acc.1, acc.2.1 ++ [v], none)) (s, p.bufA, none)
        | src => s.fillSrc t x.chain src x.n p.bufA
      let e := { e with prog := { p with bufA := got.2.1 } }
      let full := got.2.1 ++ (match x.srcA with | .one _ => List.replicate (x.n - 1) (got.2.1.headD 0) | _ => [])
      match got.2.2 with
      | some (none, _) => (got.1, e, .wait)
      | some (some c, g) =>
        let ready := ((List.range ms.length).zip ms).filter fun m => decide ((m.1 + 1) * len ≤ full.length)
        ((got.1.sendSlices t dom j len x full ready).1, e, .err c g)
      | none =>
        let r := got.1.sendSlices t dom j len x full ((List.range ms.length).zip ms)
        match r.2 with
        | .error g => (r.1, e, .err .poison g)
        | .ok _ => (r.1, { e with prog := { e.prog with n := 3 }, xcOut := true, xcGot := e.xcGot + 1 }, .go)
  | _ =>
    match s.xchgMembers t g with
    | none => (s, e, .wait)
    | some (ms, _) =>
      if e.xcGot < ms.length then (s, e, .wait)
      else if e.xcBad then (s, e, .err .ill 0)
      else (s, { e with ready := s.now + 1 }, .go)

/-! ### Entries (R170, R171) -/

/-- The oldest entry that is not DONE. -/
def Tile.seqHead (t : Tile) : Option SeqEntry := t.seq.find? fun e => e.st != .done

/-- The word an entry is executing and its repetition: itself at 0, or a word of its set. -/
def Tile.seqWord (t : Tile) (e : SeqEntry) : Option (SeqEntry × Nat) :=
  if e.isRepeat then (e.set[e.pos]?).bind fun i => (t.seq.find? fun w => w.num == i).map fun w => (w, e.kNow)
  else some (e, 0)

def Tile.putSeq (t : Tile) (e : SeqEntry) : Tile := { t with seq := t.seq.map fun x => if x.num = e.num then e else x }

/-- What an advance leaves in the entry: an error stops it, a word without one result merges the flags of what it wrote. -/
def SeqEntry.met (e : SeqEntry) (x : VX) (o : VOut) : SeqEntry :=
  match o with
  | .err c g => { e with err := some (c, g), prog := { e.prog with flags := if x.single then 0#5 else e.prog.flags } }
  | _ => e

/-- Advance the head entry of tile t by at most 1,024 elements; none when nothing can change. -/
def State.seqStep (s : State) (t : Nat) : Option State :=
  match (s.tile t).seqHead with
  | none => none
  | some e =>
    if e.err.isSome || e.ready != 0 then none else
    match ((s.tile t).seqWord e).bind fun w => w.1.vx w.2 with
    | none => none
    | some x =>
      let e0 := { e with st := .run }
      let r : State × SeqEntry × VOut := match x.fn with
        | .xchg => s.xchgStep t e0 x
        | _ =>
          let q := x.run t 1024 s e.prog
          match q.2.2 with
          | .go =>
            if x.n ≤ q.2.1.n then
              let f := x.finish q.1 t q.2.1
              match f.2.2 with
              | .go => (f.1, { e0 with prog := f.2.1, ready := s.now + 1 }, .go)
              | o => (f.1, { e0 with prog := f.2.1 }, o)
            else (q.1, { e0 with prog := q.2.1 }, .go)
          | o => (q.1, { e0 with prog := q.2.1 }, o)
      let e' := r.2.1.met x r.2.2
      if e' = e then none else some (r.1.updTile t fun tl => tl.putSeq e')

/-- SEQ_ENTRY_START (R170, R171): the oldest entry of tile ev.num starts, or goes on as far as its sources and destination allow. -/
def execSeqEntryStart (s : State) : Res := .next ((s.seqStep s.ev.num).getD s)

/-- The results that an execution that stops has not pushed: the kind, unit and contents of a queue or chain entry not yet full (R164, R174). -/
def Tile.unpushed (t : Tile) : Option (Nat × Nat × Nat) :=
  t.seqHead.bind fun e => ((t.seqWord e).bind fun w => w.1.vx w.2).bind fun x =>
    match x.dst with
    | .push k u z => if e.prog.bufD.isEmpty then none else some (k, u, joinEntry z e.prog.bufD)
    | .mem _ => none

/-- The head entry's execution is complete, or stopped with room for the results it holds. -/
def State.seqFinished (s : State) (t : Nat) : Bool :=
  match (s.tile t).seqHead with
  | some e => e.err.isNone && e.ready != 0 && decide (e.ready ≤ s.now)
  | none => false
def State.seqStopped (s : State) (t : Nat) : Bool :=
  ((s.tile t).seqHead.bind SeqEntry.err).isSome && match (s.tile t).unpushed with
    | some (k, u, _) => s.pushRoom t k u
    | none => true

/-- The entry after an execution: DONE, or the next position or repetition of a repeat entry; a repeat entry at its end is FREE. -/
def SeqEntry.after (e : SeqEntry) : Option SeqEntry :=
  let e := { e with prog := Progress.fresh, ready := 0, xcOut := false, xcGot := 0, xcBad := false }
  if !e.isRepeat then some { e with st := .done }
  else if e.pos + 1 < e.set.length then some { e with pos := e.pos + 1 }
  else if e.kNow < e.count then some { e with pos := 0, kNow := e.kNow + 1 }
  else none

/-- SEQ_ENTRY_COMPLETE (R170, R58): the head entry's results are written; its flags merge into the issuing thread. -/
def execSeqEntryComplete (s : State) : Res :=
  let t := s.ev.num
  .next (if s.seqFinished t then
      match (s.tile t).seqHead with
      | none => s
      | some e =>
        let pc := (((s.tile t).seqWord e).map fun w => w.1.pc).getD e.pc
        let s := s.updTile t fun tl => match e.after with
          | some e' => tl.putSeq e'
          | none => { tl with seq := tl.seq.filter fun x => x.num != e.num }
        s.mergeFlags t e.slot e.lid pc e.prog.flags
    else s)

/-- An engine error reaches the issuing thread, unless it has ended (R174, R197). -/
def State.engineError (s : State) (t u lid : Nat) (x : EngineErr) : State :=
  if (s.slot t u).st = .free ∨ (s.slot t u).lid ≠ lid then s
  else s.updSlot t u fun sl => { sl with engErrs := sl.engErrs ++ [x] }

/-- SEQ_ENTRY_STOP (R174): what was formed before the element is pushed, the flags of what was written merge, later entries of the slot that have not started are discarded, and
the thread is to trap. -/
def execSeqEntryStop (s : State) : Res :=
  let t := s.ev.num
  .next (match (s.tile t).seqHead with
    | none => s
    | some e =>
      match e.err with
      | none => s
      | some (c, g) =>
        let pc := (((s.tile t).seqWord e).map fun w => w.1.pc).getD e.pc
        let s := match (s.tile t).unpushed with
          | some (k, u, v) => s.pushEntry t k u v
          | none => s
        let done := if e.isRepeat then [] else [{ e with st := .done, prog := Progress.fresh, err := none, ready := 0 }]
        let s := s.updTile t fun tl =>
          { tl with seq := (tl.seq.map fun x => if x.num = e.num then done else if x.slot == e.slot && x.st == .wait then [] else [x]).flatten }
        (s.mergeFlags t e.slot e.lid pc e.prog.flags).engineError t e.slot e.lid
          { matrix := false, cause := c, pc := pc, addr := nw (if c = .poison then g else 0) })

/-- Write an arriving slice at the running VXCHG of the domain (R185), as poison where its payload is lost (R371). -/
def State.slicePut (s : State) (t : Nat) (e : SeqEntry) (x : VX) (pos len size : Nat) (data : List Nat) (bad : Bool) : State :=
  let ms := ((s.xchgMembers t (wf x.val 0 8)).map fun m => m.1.length).getD 1
  let e := { e with xcGot := e.xcGot + 1 }
  if len ≠ x.n / ms ∨ size ≠ x.o.z then s.updTile t fun tl => tl.putSeq { e with xcBad := true }
  else
    let w := (List.range len).foldl (fun (acc : State × Option Nat) i =>
      match acc.2 with
      | some _ => acc
      | none => match acc.1.elemStore t (x.o.rd.addr x.k (pos * len + i)).toNat x.o.z (data[i]?.getD 0) with
        | .error g => (acc.1, some g)
        | .ok s =>
          let k := s.sliceKey t (x.o.rd.addr x.k (pos * len + i)).toNat
          (if bad then { s with poison := markPoison s.poison k x.o.z } else s, none)) (s, none)
    w.1.updTile t fun tl => tl.putSeq (match w.2 with
      | some g => { e with err := some (.poison, g) }
      | none => e)

/-- A slice of member pos reaches tile t, where a VXCHG of the domain runs. -/
def State.sliceIn (s : State) (t dom pos len size : Nat) (data : List Nat) (bad : Bool) : State :=
  match (s.tile t).seqHead with
  | none => s
  | some e =>
    match ((s.tile t).seqWord e).bind fun w => w.1.vx w.2 with
    | some x =>
      if x.fn == .xchg && e.st == .run && entryDom (s.launch e.lid).part (wf x.val 0 8) == dom then
        s.slicePut t e x pos len size data bad
      else s
    | none => s

/-- VXCHG_SLICE_ARRIVAL (R185): a slice in flight; or, as a stimulus with ev.a = 1, one from member ev.c on another package to tile ev.num at
domain ev.b: its length, element size and elements (log 102). -/
def execVxchgSliceArrival (s : State) : Res :=
  .next (if s.ev.a = 1 then match s.ev.data with
      | len :: size :: data => s.sliceIn s.ev.num s.ev.b s.ev.c len size data false
      | _ => s
    else match s.arrived with
      | some (.slice t dom pos len size data bad) => s.taken.sliceIn t dom pos len size data bad
      | _ => s)

end Sys2Proof.Machine
end

