-- ==== Sys2Proof/Machine/Matrix.lean ====
section
/-! DEFINITION. Matrix: the matrix unit's commands, their steps and the arbiter (R186..R199). -/

namespace Sys2Proof.Machine

/-- The matrix class of an element type; 0 for none (R187). -/
def mClass (t : Nat) : Nat :=
  if t = 8 ∨ t = 9 then 1 else if t = 0 ∨ t = 4 then 2 else if t = 10 ∨ t = 11 then 3 else if t = 12 then 4
  else if t = 13 then 5 else 0

/-- Accumulator fold width of a class, and whether a record is of the class's accumulator type (R187). -/
def accFw (c : Nat) : Nat := if c ≤ 2 then 0 else 1
def Rec.accOf (r : Rec) (c : Nat) : Bool := if c = 5 then r.ty == 14 else r.ty == 15 && r.fw == accFw c

/-- Elements exchanged per group of an MLDB: none, .x8, .x16 (R192). -/
def xchGroup (x : Nat) : Nat := match x with | 0 => 1 | 1 => 4 | _ => 2

/-! ### Issue (R189, R191) -/

/-- The ILL conditions of R191, d and a being the records named. -/
def mIll (i : Instr) (d a : Rec) : Bool :=
  match i with
  | .mldb _ x _ =>
    decide (2 ≤ a.kind) || mClass a.ty == 0 || a.ext 2 * a.ext 3 != 1 || (x == 1 && a.size != 1) || (x == 2 && a.size != 2) ||
      a.inner % xchGroup x.toNat != 0
  | .mma _ _ => a.kind != 0 || d.kind != 0 || mClass a.ty == 0 || !d.accOf (mClass a.ty)
  | .mmap _ _ => a.kind == 0 || d.kind != 0 || mClass a.ty == 0 || !d.accOf (mClass a.ty)
  | .mzro _ => d.kind != 0 || decide (d.ty < 14)
  | .mrnd _ _ _ => a.kind != 0 || decide (a.ty < 14) || d.kind != 0 || decide (14 ≤ d.ty) || (a.ty == 14 && decide (d.ty < 8)) ||
      d.count != a.count
  | _ => true

/-- The records a command names: d (zero when it has none) and a. -/
def mRecs (i : Instr) : Option (BitVec 3) × Option (BitVec 3) :=
  match i with
  | .mldb a _ _ => (none, some a)
  | .mma d a => (some d, some a)
  | .mmap d a => (some d, some a)
  | .mzro d => (some d, none)
  | .mrnd d a _ => (some d, some a)
  | _ => (none, none)

/-- A command enters its tile's queue with the next ticket; it waits for room with what it captured (R169, R170, R189). -/
def State.enterCmd (s : State) (c : MCmd) : State :=
  if 8 ≤ s.curT.mq.length then s.block (.command c)
  else
    let k := s.curT.mI
    let s' := s.updTile s.curTile fun tl =>
      { tl with mq := tl.mq ++ [{ c with ticket := k }], mI := (k + 1) % 65536, mC := if tl.mq.isEmpty then k else tl.mC }
    (s'.updCur fun sl => { sl with lastTicket := k }).done 4

/-- Issue a command (R189, R191); one that waits for the queue has passed its checks. -/
def State.mCmd (s : State) (i : Instr) : State :=
  let get := fun (r : Option (BitVec 3)) => r.map fun c => s.curT.hrec c.toNat
  let d := get (mRecs i).1
  let a := get (mRecs i).2
  let chainBad := (a.map Rec.kind) == some 3 && (s.chainUp s.curTile s.curT.chain).isNone
  match s.cur.wait with
  | .command c => s.enterCmd c
  | _ =>
  if mIll i (d.getD 0) (a.getD 0) then s.trapIll i
  else if chainBad then s.trap .window 0 0
  else match shapeTrap (s.launch s.curT.lid).parkBase (d.toList ++ a.toList) with
    | some (c, x) => s.trap c (nw x) 0
    | none =>
      s.enterCmd { ticket := 0, instr := i, pc := s.cur.pc, slot := s.curSlot, lid := s.cur.lid, recD := d.getD 0, recA := a.getD 0,
                   chain := s.curT.chain, steps := 0, row := [], flags := 0, err := none, finished := false, ready := 0 }

/-- MLDB (R192). -/
def execMldb (a : BitVec 3) (x : BitVec 2) (t : BitVec 1) (s : State) : Res := .next (s.mCmd (.mldb a x t))
/-- MMA (R193). -/
def execMma (d a : BitVec 3) (s : State) : Res := .next (s.mCmd (.mma d a))
/-- MMAP (R193). -/
def execMmap (d a : BitVec 3) (s : State) : Res := .next (s.mCmd (.mmap d a))
/-- MZRO (R195). -/
def execMzro (d : BitVec 3) (s : State) : Res := .next (s.mCmd (.mzro d))
/-- MRND (R195). -/
def execMrnd (d a : BitVec 3) (r : BitVec 2) (s : State) : Res := .next (s.mCmd (.mrnd d a r))

/-- MWGT (R196). -/
def execMwgt (w : BitVec 4) (s : State) : Res := .next ((s.updTile s.curTile fun t => { t with mWgt := w.toNat }).done 4)

/-- MSTAT (R196). -/
def execMstat (d : Reg) (s : State) : Res :=
  let b := match s.curT.bslot with
    | none => 0
    | some b => b.kk + b.nn * 2 ^ 11 + b.cls * 2 ^ 27 + b.xch * 2 ^ 30 + b2n b.tr * 2 ^ 32
  .next (s.wr d (nw (b + s.curT.mWgt * 2 ^ 36)) 4)

/-- A command of the executing thread is outstanding. -/
def State.mOwn (s : State) : Bool := s.curT.mq.any fun c => c.slot == s.curSlot

/-- MPOLL (R196). -/
def execMpoll (d : Reg) (s : State) : Res :=
  let t := s.curT
  .next (s.wr d (nw (s.cur.lastTicket + t.mC * 2 ^ 16 + t.mI * 2 ^ 32 + t.mq.length * 2 ^ 48 + b2n s.mOwn * 2 ^ 52)) 4)

/-- An outstanding ticket (R189). -/
def Tile.outstanding (t : Tile) (k : Nat) : Bool := decide ((k + 65536 - t.mC) % 65536 < (t.mI + 65536 - t.mC) % 65536)

/-- MWAIT (R196). -/
def execMwait (a : Reg) (s : State) : Res :=
  let x := s.xr a
  let busy := if x.getLsbD 63 then s.mOwn else s.curT.outstanding (wf x 0 16)
  .next (if busy then s.block .poll else s.done 4)

/-- The records of a command. -/
def MCmd.ra (c : MCmd) : Rec := c.recA
def MCmd.rd (c : MCmd) : Rec := c.recD

/-! ### Steps (R190..R195, R197) -/

/-- What a step meets. -/
inductive MOut where
  | go
  | wait
  | err (c : Cause) (granule : Nat)

/-- Read n elements of a memory record from element i on. -/
def State.readRow (s : State) (t : Nat) (r : Rec) (i : Nat) : Nat → Except Nat (List Nat)
  | 0 => .ok []
  | m + 1 => match s.sliceRead t (r.addr 0 i).toNat r.size with
    | .error g => .error g
    | .ok v => (s.readRow t r (i + 1) m).map (v :: ·)

/-- Fill the command's row buffer to `need` elements: from memory from element i on, or by popping. -/
def State.fillRow (s : State) (t : Nat) (c : MCmd) (i need : Nat) : State × List Nat × MOut :=
  let a := c.ra
  if a.kind = 0 then match s.readRow t a (i + c.row.length) (need - c.row.length) with
    | .error g => (s, c.row, .err .poison g)
    | .ok vs => (s, c.row ++ vs, .go)
  else
    let r := s.pull t c.chain a.kind a.unit a.size need (need + 1) c.row
    (r.1, r.2.1, match r.2.2 with
      | none => .go
      | some (none, _) => .wait
      | some (some k, g) => .err k g)

/-- Dimensions of the B block a record gives (R192). -/
def bDims (a : Rec) (x : Nat) (tr : Bool) : Nat × Nat :=
  let g := xchGroup x
  if tr then (a.inner / g, a.outer * g) else (a.outer * g, a.inner / g)

/-- Element number of the record that lies at B row k and column c (R192). -/
def bElem (a : Rec) (x : Nat) (tr : Bool) (k c : Nat) : Nat :=
  let g := xchGroup x
  if tr then c / g * a.inner + (k * g + c % g) else k / g * a.inner + (c * g + k % g)

/-- Loadable (R188). -/
def bLoadable (kk nn z : Nat) : Bool :=
  decide (1 ≤ kk) && decide (1 ≤ nn) && decide (kk * z ≤ 1024) && decide (kk * nn * z ≤ 32768)

/-- The block from the record's elements in order. -/
def mkBlock (a : Rec) (x : Nat) (tr : Bool) (els : List Nat) : BBlock :=
  let d := bDims a x tr
  { cls := mClass a.ty, kk := d.1, nn := d.2, xch := x, tr := tr, ty := a.ty,
    data := (List.range (d.1 * d.2)).map fun i => els[bElem a x tr (i / d.2) (i % d.2)]?.getD 0 }

/-- One accumulator's new value and flags: a row of A against a column of B (R193). -/
def mTerm (cls ta tb : Nat) (row col : List Nat) (acc : Nat) : Nat × Fl :=
  let ps := row.zip col
  if cls = 5 then
    ps.foldl (fun r p => let q := pairStep r.1 p.1 p.2; (q.1, r.2 ||| q.2)) (acc, flNone)
  else
    let fw := accFw cls
    let pick := ps.map fun p => (elemVal ta p.1, elemVal tb p.2)
    let r := pick.foldl (fun (r : Nat × Fl × Int × Int) p =>
      match fpMulX p.1 p.2 with
      | some (.fin sg m e) => let q := dyAdd r.2.2.1 r.2.2.2 (sInt sg m) e; (r.1, r.2.1, q.1, q.2)
      | _ => let q := foldAddProd fw r.1 p.1 p.2; (q.1, r.2.1 ||| q.2, r.2.2.1, r.2.2.2)) (acc, flNone, 0, 0)
    (foldAddInt fw r.1 r.2.2.1 r.2.2.2, r.2.1)

/-- Elements i.. of a record hold no poison. -/
def State.rowClean (s : State) (t : Nat) (r : Rec) (i n : Nat) : Option Nat :=
  match s.readRow t r i n with
  | .error g => some g
  | .ok _ => none

/-- Accumulate a row into C row m (R193). -/
def State.mmaRow (s : State) (t : Nat) (d : Rec) (b : BBlock) (ta m : Nat) (row : List Nat) : State × Fl :=
  (List.range b.nn).foldl (fun acc c =>
    let off := (d.addr 0 (m * b.nn + c)).toNat
    let col := (List.range b.kk).map fun k => b.data[k * b.nn + c]?.getD 0
    let r := mTerm b.cls ta b.ty row col (acc.1.load (acc.1.sliceKey t off) d.size)
    (acc.1.sliceStore t off d.size r.1, acc.2 ||| r.2)) (s, flNone)

/-- MRND of an element (R195). -/
def mRound (src dst : Rec) (rm v : Nat) : Nat × Fl :=
  if src.ty = 14 then pairToFp (tyFmt dst.ty) rm v else vUnf dst.ty src.fw rm v

/-- Elements i.. of a record written, n of them, each from a function. -/
def State.writeEls (s : State) (t : Nat) (d : Rec) (f : State → Nat → Except Nat (Nat × Fl)) (i : Nat) :
    Nat → State × Fl × MOut
  | 0 => (s, flNone, .go)
  | m + 1 =>
    match f s i with
    | .error g => (s, flNone, .err .poison g)
    | .ok (v, fl) => match s.elemStore t (d.addr 0 i).toNat d.size v with
      | .error g => (s, flNone, .err .poison g)
      | .ok s' => let r := s'.writeEls t d f (i + 1) m; (r.1, fl ||| r.2.1, r.2.2)

/-- The command has written all its results. -/
def MCmd.finish (c : MCmd) (now : Nat) : MCmd := { c with finished := true, ready := now + 1, row := [] }

/-- The waits of a row's updates for a busy bank, a free number, counted in c:BKCF of the pen (R194, R335, log 48). -/
def State.bankWaits (s : State) (t : Nat) : Nat × State :=
  let d := s.draw
  (Config.bankWaits d.1, d.2.updPen (penKey t) fun p => { p with bkcf := p.bkcf + Config.bankWaits d.1 })

/-- A step of 16 elements of MZRO or MRND. -/
def State.elsStep (s : State) (t : Nat) (c : MCmd) (f : State → Nat → Except Nat (Nat × Fl)) : State × MCmd × MOut :=
  let n := c.rd.count
  let i := c.steps * 16
  let r := s.writeEls t c.rd f i (min 16 (n - i))
  let c := { c with flags := c.flags ||| r.2.1 }
  match r.2.2 with
  | .go =>
    let w := r.1.bankWaits t
    (w.2, if n ≤ i + 16 then c.finish (s.now + w.1) else { c with steps := c.steps + 1 }, .go)
  | o => (r.1, c, o)

/-- A step of MMA or MMAP: one row of A. -/
def State.mmaStep (s : State) (t : Nat) (c : MCmd) : State × MCmd × MOut :=
  match (s.tile t).bslot with
  | none => (s, c, .err .ill 0)
  | some b =>
    let na := c.ra.count
    if b.cls ≠ mClass c.ra.ty ∨ na = 0 ∨ na % b.kk ≠ 0 ∨ c.rd.count ≠ na / b.kk * b.nn then (s, c, .err .ill 0) else
    let r := s.fillRow t c (c.steps * b.kk) b.kk
    match r.2.2 with
    | .go =>
      match r.1.rowClean t c.rd (c.steps * b.nn) b.nn with
      | some g => (r.1, c, .err .poison g)
      | none =>
        let q := r.1.mmaRow t c.rd b c.ra.ty c.steps (r.2.1.take b.kk)
        let w := q.1.bankWaits t
        let c := { c with steps := c.steps + 1, row := [], flags := c.flags ||| q.2 }
        (w.2, if c.steps = na / b.kk then c.finish (s.now + w.1) else c, .go)
    | o => (r.1, { c with row := r.2.1 }, o)

/-- A step of MLDB: 1 KiB of B. -/
def State.mldbStep (s : State) (t : Nat) (c : MCmd) (x : Nat) (tr : Bool) : State × MCmd × MOut :=
  let a := c.ra
  let d := bDims a x tr
  if !bLoadable d.1 d.2 a.size then (s, c, .err .ill 0) else
  let need := min a.count ((c.steps + 1) * (1024 / a.size))
  let r := s.fillRow t c 0 need
  match r.2.2 with
  | .go =>
    if need = a.count then
      (r.1.updTile t fun tl => { tl with bslot := some (mkBlock a x tr r.2.1) }, c.finish s.now, .go)
    else (r.1, { c with row := r.2.1, steps := c.steps + 1 }, .go)
  | o => (r.1, { c with row := r.2.1 }, o)

/-- One step of the head command of tile t; none when it cannot proceed. An error of MLDB leaves the slot empty. -/
def State.mStep (s : State) (t : Nat) : Option State :=
  match (s.tile t).mq with
  | [] => none
  | c :: rest =>
    if c.finished || c.err.isSome then none else
    let r : State × MCmd × MOut := match c.instr with
      | .mldb _ x tr => s.mldbStep t c x.toNat (tr == 1)
      | .mzro _ => s.elsStep t c fun _ _ => .ok (0, flNone)
      | .mrnd _ _ rm => s.elsStep t c fun s i => (s.sliceRead t (c.ra.addr 0 i).toNat c.ra.size).map (mRound c.ra c.rd rm.toNat)
      | _ => s.mmaStep t c
    let isLoad := match c.instr with | .mldb _ _ _ => true | _ => false
    let c' := match r.2.2 with
      | .err k g => { r.2.1 with err := some (k, g) }
      | _ => r.2.1
    if c' = c then none
    else some (r.1.updTile t fun tl => { tl with mq := c' :: rest, bslot := if c'.err.isSome && isLoad then none else tl.bslot })

/-- C after the queue has changed (R189). -/
def Tile.setC (t : Tile) : Tile := { t with mC := match t.mq with | [] => t.mI | c :: _ => c.ticket }

/-- The head command completes: C advances, flags merge, event 3 (R189, R37). -/
def State.mComplete (s : State) (t : Nat) : State :=
  match (s.tile t).mq with
  | [] => s
  | c :: r =>
    let s := s.updTile t fun tl => ({ tl with mq := r }).setC.event 3
    s.mergeFlags t c.slot c.lid c.pc c.flags

/-- Up to n steps of a tile, into its next command when one completes (R190). -/
def State.mSteps (s : State) (t : Nat) : Nat → State
  | 0 => s
  | n + 1 =>
    let s := match (s.tile t).mq with
      | c :: _ => if c.finished then s.mComplete t else s
      | [] => s
    match s.mStep t with
    | none => s
    | some s => s.mSteps t n

/-- The pen position the arbiter grants next (R190). -/
def State.mPick (s : State) (p : Nat) : Option Nat :=
  ((List.range 8).map fun i => ((s.pen p).arb + i) % 8).find? fun q => (s.mStep (penTile p q)).isSome

/-- MATRIX_GRANT (R190): pen ev.num's arbiter grants the next tile up to its weight in steps. -/
def execMatrixGrant (s : State) : Res :=
  let p := s.ev.num
  .next (match s.mPick p with
    | none => s
    | some q => (s.mSteps (penTile p q) (s.tile (penTile p q)).mWgt).updPen p fun pn => { pn with arb := (q + 1) % 8 })

/-- The head command of a tile is finished, or stopped. -/
def State.mFinished (s : State) (t : Nat) : Bool :=
  match (s.tile t).mq with
  | c :: _ => c.finished && decide (c.ready ≤ s.now)
  | [] => false
def State.mStopped (s : State) (t : Nat) : Bool :=
  match (s.tile t).mq with
  | c :: _ => c.err.isSome
  | [] => false

/-- MATRIX_COMMAND_COMPLETE (R189). -/
def execMatrixCommandComplete (s : State) : Res := .next (if s.mFinished s.ev.num then s.mComplete s.ev.num else s)

/-- MATRIX_COMMAND_STOP (R197): the written part's flags merge, later commands of the slot are discarded with their tickets, and the
thread is to trap. -/
def execMatrixCommandStop (s : State) : Res :=
  let t := s.ev.num
  .next (match (s.tile t).mq with
    | [] => s
    | c :: r =>
      match c.err with
      | none => s
      | some (k, g) =>
        let s := s.updTile t fun tl => ({ tl with mq := r.filter fun x => x.slot != c.slot }).setC
        (s.mergeFlags t c.slot c.lid c.pc c.flags).engineError t c.slot c.lid
          { matrix := true, cause := k, pc := c.pc, addr := nw (if k = .poison then g else 0) })

end Sys2Proof.Machine
end

