-- ==== Sys2Proof/Machine/Translate.lean ====
section
/-! DEFINITION. Translate: the heft agents' translation, the fault buffer, invalidation and window grants (R286, R352..R360,
R404..R406). -/

namespace Sys2Proof.Machine

/-! ### Answers -/

/-- STATUS of a Fjoic answer for a refusal's cause (R396). -/
def fjStatus (st : Nat) : Nat :=
  if st = Cause.nak.code then 1 else if st = Cause.remap.code then 2 else if st = Cause.perm.code then 3
  else if st = Cause.poison.code then 4 else 0

/-- An answer leaves for its requester: another package, a job, or a thread (R143, R396). -/
def State.reply (s : State) (min : Nat) (a : Ans) : State :=
  match a.req.who with
  | .fjoic k _ =>
    let st := fjStatus a.status
    let h := ((tget? s.fj k).map FjReq.header).getD 0
    match a.req.acc with
    | .store =>
      if nf h 0 8 = 4 then s.fjAnswer k 13 0 8 (if st = 0 then 0 else 2 ^ nf h 192 6) 0 else s.fjAnswer k 8 st 0 0 0
    | .read => s.fjAnswer k 9 st (if st = 0 then a.req.size else 0) a.value 0
    | .atomic => s.fjAnswer k 10 st 8 a.value a.flags.toNat
  | _ => s.send min (.ans a)

/-- Return time of a request's answer. -/
def State.backTime (s : State) (r : Req) : Nat :=
  match r.who with
  | .fjoic _ _ => 0
  | w => match s.reqPlace r with
    | some p => s.reqTime (s.whoTile w) p
    | none => 1

/-! ### Requesters -/

/-- Whether an access writes (R354): a store, an atomic or a drover write. -/
def Req.writes (r : Req) : Bool := r.acc != .read

/-- The owner number of a requester; a request from another package carries 16 + its owner as its partition. -/
def State.reqOwner (s : State) (r : Req) : Nat :=
  match r.who with
  | .fjoic _ _ => r.part - 16
  | _ => (s.part r.part).owner

/-- The 48-bit offset an access is translated by, and its agent (R354, R286). -/
def Req.va (r : Req) : Nat := if wf r.addr 56 8 = 4 then wf r.addr 0 48 else wf r.addr 0 36
def Req.agent (r : Req) : Nat := agentOf r.va

/-- The request comes from another pod (R405). -/
def State.otherPod (s : State) (r : Req) : Bool :=
  match r.who with
  | .fjoic k _ => match tget? s.fj k with
    | some q => nf q.header 56 8 != s.pod
    | none => false
  | _ => false

/-! ### Grants (R404..R406) -/

/-- A grant covers a request of an owner (R405). -/
def Grant.covers (g : Grant) (owner va n acc : Nat) (otherPod : Bool) : Bool :=
  g.st == 1 && g.grantee == owner && decide (g.base * 65536 ≤ va ∧ va + n ≤ (g.base + g.pages) * 65536) &&
  g.rights.getLsbD acc && (!otherPod || g.rights.getLsbD 3)

/-- The bit of the rights an access needs: 0 RD, 1 WR, 2 AT. -/
def Acc.right : Acc → Nat
  | .read => 0
  | .store => 1
  | .atomic => 2

/-- The grant entry a POD request uses: partition × 64 + entry. -/
def State.findGrant (s : State) (r : Req) : Option Nat :=
  ((List.range 16).filterMap fun p =>
    ((s.part p).grants.find? fun g => g.2.covers (s.reqOwner r) r.va r.size r.acc.right (s.otherPod r)).map fun g => p * 64 + g.1).head?

/-- The requests checked under a grant and not answered. -/
def State.grantBusy (s : State) (k : Nat) : Bool :=
  (s.openReqs.any fun r => r.grant == some k) || s.flight.any fun f => match f.msg with | .ans a => a.req.grant == some k | _ => false

/-- A range of granted pages overlaps a GRANTED entry of another partition for the same grantee (R404). -/
def State.grantClash (s : State) (p base pages grantee : Nat) : Bool :=
  (List.range 16).any fun q => q != p && ((s.part q).grants.any fun g =>
    g.2.st == 1 && g.2.grantee == grantee && decide (g.2.base < base + pages ∧ base < g.2.base + g.2.pages))

def Part.grant (p : Part) (i : Nat) : Grant := tget Grant.fresh p.grants i
def State.updGrant (s : State) (p i : Nat) (f : Grant → Grant) : State :=
  s.updPart p fun q => { q with grants := tset q.grants i (f (q.grant i)) }

/-- A write of c:WGDAT1 (R404). -/
def State.wgWrite (s : State) (p i : Nat) (v : Word) : State :=
  let g := (s.part p).grant i
  let pages := wf v 0 32
  let grantee := wf v 32 12
  let st := wf v 48 2
  let base := (s.part p).wgdat0
  let set := fun (g : Grant) =>
    { g with base := base, pages := pages, grantee := grantee, rights := BitVec.ofNat 4 (wf v 44 4), st := st, err := false }
  let bad := wf v 51 13 != 0 || g.st == 2 || decide (2 ≤ st) || (g.st == 1 && st == 1) ||
    (g.st == 0 && st == 1 && (decide (2 ^ 36 < base * 65536 + pages * 65536) || pages == 0 || s.grantClash p base pages grantee))
  if bad then s.updGrant p i fun g => { g with err := true }
  else if g.st = 1 then (s.updGrant p i fun g => { g with st := 2, err := false }).sendAt (s.now + 1) (.grantFree (p * 64 + i))
  else s.updGrant p i set

/-- GRANT (R404): a write of ev.a to c:WGDAT1 of entry ev.b of partition ev.num whose STATE is 1. -/
def execGrant (s : State) : Res := .next (s.wgWrite s.ev.num (s.ev.b % 64) (nw s.ev.a))

/-- REVOKE (R406): a write of STATE 0 to entry ev.b of partition ev.num. -/
def execRevoke (s : State) : Res := .next (s.wgWrite s.ev.num (s.ev.b % 64) 0)

/-- GRANT_DRAINED (R406): the entry becomes FREE once every packet checked under it has been answered. -/
def execGrantDrained (s : State) : Res :=
  .next (match s.arrived with
    | some (.grantFree k) =>
      if s.grantBusy k then s
      else s.taken.updGrant (k / 64) (k % 64) fun g => if g.st = 2 then { g with st := 0 } else g
    | _ => s)

/-! ### Table entries (R353, R354) -/

def pteV (e : Nat) : Bool := nb e 0
def pteLeaf (e : Nat) : Bool := nb e 1
def pteW (e : Nat) : Bool := nb e 2
def pteAddr (e : Nat) : Nat := nf e 12 36 * 4096
def pteOwner (e : Nat) : Nat := nf e 52 12

/-- Page bytes of a leaf at a level. -/
def pageBytes (lvl : Nat) : Nat := if lvl = 1 then 2 ^ 21 else 2 ^ 16

/-- A malformed entry (R353), for a partition's HBM4 range. -/
def pteBad (base len e lvl : Nat) : Bool :=
  let n := if pteLeaf e then pageBytes lvl else 4096
  nf e 3 9 != 0 || nf e 48 4 != 0 || (!pteLeaf e && (pteW e || pteOwner e != 0)) || decide (0x6000000000 ≤ pteAddr e) ||
  !decide (base ≤ pteAddr e ∧ pteAddr e + n ≤ base + len) ||
  (pteLeaf e && pteAddr e % pageBytes lvl != 0) ||
  (if pteLeaf e then decide (2 ≤ lvl) else lvl == 0)

/-- index(lvl, va). -/
def pteIndex (lvl va : Nat) : Nat :=
  match lvl with
  | 3 => nf va 39 9
  | 2 => nf va 30 9
  | 1 => nf va 21 9
  | _ => nf va 16 5

/-- The partition whose root translates a request: the grant's for a POD request (R352). -/
def Req.root (r : Req) : Nat := match r.grant with | some k => k / 64 | none => r.part

/-! ### The fault buffer (R356..R359) -/

/-- Hold a request: a thread's load or atomic parks it with cause PAGE (R356). -/
def State.parkPage (s : State) (t u : Nat) (r : Req) (detail : Nat) : State :=
  let pc := (s.slot t u).pc
  let s := s.trapAt t u { cause := .page, pc := pc, resume := pc, addr := r.addr, detail := detail, mflags := 0 }
  s.updSlot t u fun sl => { sl with heldD := some (r.d, r.code, r.sign, r.nt, r.acc == .atomic) }

/-- A hold notice leaves for the source of an admitted request (R398). The header has no field for the reason: of a hold in the fault buffer
AUX holds 2^32 + the DETAIL of the PAGE trap that R356 asks for, of another hold 0 (DESIGN CHOICE, log 90; unsafe). -/
def State.holdNotice (s : State) (w : Who) (aux : Nat) : State :=
  match w with
  | .fjoic k _ => match tget? s.fj k with
    | some q =>
      if q.hold then s else
      { s with fj := tset s.fj k { q with hold := true },
               fjOut := (k, fjHeader 12 0 0 (nf q.header 56 8) (nf q.header 64 12) s.pod s.pkg 0 (nf q.header 112 16) 0 aux) :: s.fjOut }
    | none => s
  | _ => s

/-- Hold a request with a record index, or with none (bit 15 of DETAIL). -/
def State.hold (s : State) (r : Req) (idx : Option Nat) : State :=
  let det := (match idx with | some i => i | none => 2 ^ 15) + s.fbGen % 65536 * 2 ^ 16
  let s := ({ s with held := s.held ++ [r] }).holdNotice r.who (2 ^ 32 + det)
  if r.acc = .store then s
  else r.askers.foldl (fun s q => if s.waits q.1 q.2 r.lid then s.parkPage q.1 q.2 r det else s) s

/-- KIND and SRC of a fault record (R357); of a request from another package the place is its header's STILE (R396), which names no context
slot. -/
def State.faultKind (_s : State) (r : Req) : Nat :=
  match r.who, r.acc with
  | .job _ _, .read => 3
  | .job _ _, _ => 4
  | .fjoic _ _, .store => 5
  | _, .store => 1
  | _, .read => 0
  | _, .atomic => 2
def State.faultSrc (s : State) (r : Req) : Nat :=
  let t := s.seenTile (s.whoTile r.who)
  let at_ (u : Nat) : Nat := tRow t + tCol t * 2 ^ 8 + s.ownDie t % 8 * 2 ^ 16 + u % 8 * 2 ^ 19 + s.pkg % 4096 * 2 ^ 28
  r.agent * 2 ^ 22 + match r.who with
    | .thread _ u => at_ u
    | .job p x => at_ ((((s.pen p).jobs.find? fun j => j.xid == x).map Job.slot).getD 0)
    | .fjoic k _ =>
      let h := ((tget? s.fj k).map FjReq.header).getD 0
      nf h 80 19 + nf h 64 12 * 2 ^ 28

/-- The size code of a record (R357). -/
def sizeCode (n : Nat) : Nat := if n < 2 then 0 else if n < 4 then 1 else if n < 8 then 2 else if n < 16 then 3 else 4

/-- A record of R357. -/
def State.faultRec (s : State) (r : Req) (reason lvl tbl : Nat) : FaultRec :=
  let lid := match r.who with | .fjoic _ _ => 0 | _ => r.lid
  (r.addr,
   nw (s.fbGen % 65536 + lid % 65536 * 2 ^ 16 + s.faultKind r * 2 ^ 32 + reason * 2 ^ 40 + lvl * 2 ^ 48 + sizeCode r.size * 2 ^ 56),
   nw (s.faultSrc r), nw tbl)

/-- The notification of R358. It concerns a package's buffer: its place fields are free (log 36). -/
def State.notifyFault (s : State) (r : Req) (detail : Nat) : State :=
  let w := (Config.noTile s.ctr).toNat
  { s with ctr := s.ctr + 1 }.queueMsg 0 2
    (trapEntry Cause.page.code 1 (nf w 0 8) (nf w 8 8) 0 (nf w 16 3) 0 r.addr 0 (nf w 19 16) detail)

/-- A translation fault: a record is made and the request held; one decided under a flushed generation is retranslated at once
(R357..R359). -/
def State.pageFault (s : State) (r : Req) (reason lvl tbl : Nat) : State :=
  if r.gen ≠ s.fbGen then s.sendAt s.now (.req { r with phys := none, gen := s.fbGen })
  else
    let n := s.faults.length
    if n < 1024 then
      let det := n + s.fbGen % 65536 * 2 ^ 16
      let s' := { s with faults := s.faults ++ [s.faultRec r reason lvl tbl] }
      (if n = 0 then s'.notifyFault r det else s').hold r (some n)
    else
      let s' := if s.fbOvf then s else s.notifyFault r (2 ^ 15 + s.fbGen % 65536 * 2 ^ 16)
      { s' with fbOvf := true }.hold r none

/-! ### Resuming a parked thread (R360) -/

/-- The access descriptor of R17. -/
def accDesc (d : Reg) (code : Nat) (sign atomic nt poison : Bool) (fl : Fl) : Nat :=
  d.toNat + code % 8 * 2 ^ 4 + b2n sign * 2 ^ 7 + b2n atomic * 2 ^ 8 + b2n nt * 2 ^ 9 + b2n poison * 2 ^ 10 + fl.toNat * 2 ^ 11

/-- The thread still stays parked for its held access. -/
def State.heldPark (s : State) (t u lid : Nat) : Bool :=
  let sl := s.slot t u
  sl.st == .park && sl.cause == Cause.page.code && sl.heldD.isSome && sl.lid == lid

/-- The thread goes on at the tile where it parked, with the answer applied and k0 to k7 zero; its counts, its refusals and what it has in the
engines stay its own (R360; DEDUCED, log 89). -/
def Slot.resumeHere (sl : Slot) (c : WalkCtx) : Slot :=
  let c := c.applyAnswer
  { sl with st := .run, wait := .none, x := c.x, pc := c.pc, status := c.status, loops := c.loops, fpx := c.fpx, k := Vector.replicate 8 0,
            line := none, heldD := none, back := none }

/-- The held access of a parked thread is answered: the thread moves to the tile beside the agent, once its posted stores and its engine work
are done as for any walk (R16), or goes on in place when that is no tile of its launch; a refusal leaves it parked with a new cause and
message. -/
def State.resumeHeld (s : State) (a : Ans) (t u : Nat) : State :=
  let r := a.req
  let poisonNt := a.status == Cause.poison.code && r.acc == .atomic && r.nt
  if a.status ≠ 0 ∧ !poisonNt then
    (s.refuseThread t u (Cause.ofCode a.status) r).updSlot t u fun sl => { sl with heldD := none }
  else
    let s := s.keepMsg t u
    let dest0 := s.agentTile r.agent
    let dest := s.copyTile t (tDie dest0) (tRow dest0) (tCol dest0)
    let l := s.launch (s.slot t u).lid
    let b : HeldAnswer := { dest := dest, answer := a.value, len := r.len,
                            desc := nw (accDesc r.d r.code r.sign (r.acc == .atomic) r.nt poisonNt a.flags) }
    if (s.tile dest).lid = (s.slot t u).lid ∧ l.inRect (tRow dest0) (tCol dest0) ∧ dest ≠ t then
      s.updSlot t u fun sl => { sl with st := .block, wait := .walk dest false r.addr r.code, line := none, heldD := none, back := some b }
    else s.updSlot t u fun sl => sl.resumeHere (s.resumeCtx t u b)

/-- An answer decided at an agent: parked threads resume, all others are answered. -/
def State.agentAnswer (s : State) (a : Ans) : State :=
  let r := a.req
  if r.acc != .store && (r.askers.any fun q => s.heldPark q.1 q.2 r.lid) then
    r.askers.foldl (fun s q => if s.heldPark q.1 q.2 r.lid then s.resumeHeld a q.1 q.2 else s) s
  else s.reply (s.backTime r) a

/-! ### Requests at an agent (R354, R356) -/

/-- The channel of a physical address (R285). -/
def hbmChan (pa : Nat) : Nat := nf pa 12 3 * 32 + nf pa 15 5

/-- Perform a translated request (R151, R158), unless its channel is quiesced (R388). -/
def State.agentPerform (s : State) (r : Req) (key : Nat) : State :=
  let q := s.perform r key false r.root 3 r.agent r.va
  q.1.agentAnswer q.2

/-- The physical address a leaf gives a request; none where owner or W refuses it (R354). -/
def State.leafPhys (s : State) (r : Req) (e lvl : Nat) : Option Nat :=
  if pteOwner e ≠ (s.part r.root).owner ∨ (r.writes ∧ !pteW e) then none else some (pteAddr e + r.va % pageBytes lvl)

/-- A leaf found for a request: owner and W are checked, then it is to be performed (R354). -/
def State.leafFound (s : State) (r : Req) (e lvl : Nat) : State :=
  match s.leafPhys r e lvl with
  | none => s.agentAnswer { req := r, status := Cause.perm.code, value := 0, flags := 0 }
  | some pa =>
    let s := if s.mgmt.quiesced.contains (hbmChan pa) then s.holdNotice r.who 0 else s
    s.sendAt s.now (.req { r with phys := some (hbmKey pa) })

/-- A cached leaf for a request (R286). -/
def State.cached (s : State) (r : Req) : Option (Nat × Nat) :=
  (s.tlb.find? fun c => c.1 == r.agent && c.2.1 == r.root && c.2.2.2.1 == r.va / pageBytes c.2.2.1).map fun c => (c.2.2.1, c.2.2.2.2)

/-- Cache a leaf, dropping an old one of an agent that holds 4,096. -/
def State.cacheLeaf (s : State) (r : Req) (lvl e : Nat) : State :=
  let mine := s.tlb.filter fun c => c.1 == r.agent
  let t := if mine.length < 4096 then s.tlb else match mine with
    | c :: _ => s.tlb.erase c
    | [] => s.tlb
  { s with tlb := t ++ [(r.agent, r.root, lvl, r.va / pageBytes lvl, e)] }

/-- Another request of the same requester is held before this one (R356). -/
def State.heldBefore (s : State) (r : Req) : Bool := s.held.any fun e => sameWho e.who r.who && e.translated

/-- The grant a request is checked under: none needed for PACKAGE; none at all where a POD request is covered by no grant (R405). -/
def State.grantOf (s : State) (r : Req) : Option (Option Nat) :=
  if wf r.addr 56 8 = 4 then some none else match r.grant with
    | some g => some (some g)
    | none => (s.findGrant r).map some

/-- An agent has at most 16 table walks in flight (R286): a request whose leaf is not cached waits for one of them. -/
def State.walkFull (s : State) (r : Req) : Bool :=
  (match s.grantOf r with
    | some g => (s.part { r with grant := g }.root).ptEn && (s.cached { r with grant := g }).isNone
    | none => false) &&
  decide (16 ≤ (s.flight.filter fun f => match f.msg with | .table q => q.agent == r.agent | _ => false).length)

/-- A request may be taken at its agent: translated ones when their channel is not quiesced, others in the order of R150. -/
def State.pkgReady (s : State) (r : Req) : Bool :=
  match r.phys with
  | some k => !s.mgmt.quiesced.contains (hbmChan (k - hbmBase))
  | none => s.heldBefore r || (s.reqReady r && !s.walkFull r)

/-- The agent takes a request. -/
def State.agentTake (s : State) (r : Req) : State :=
  match r.phys with
  | some k => s.agentPerform r k
  | none =>
    if s.heldBefore r then s.hold r none
    else match s.grantOf r with
      | none => s.agentAnswer { req := r, status := Cause.nak.code, value := 0, flags := 0 }
      | some g =>
        let r := { r with grant := g, gen := s.fbGen }
        let p := s.part r.root
        if !p.ptEn then s.pageFault r 4 3 0
        else match s.cached r with
          | some (lvl, e) => s.leafFound r e lvl
          | none => s.send 1 (.table { r with lvl := 3, tbl := p.ptAddr })

/-- PACKAGE_REQUEST (R354, R286): a PACKAGE or POD request is translated, held, refused or, translated, performed. -/
def execPackageRequest (s : State) : Res :=
  .next (match s.arrived with
    | some (.req r) => if s.pkgReady r then s.taken.agentTake r else s.holdNotice r.who 0
    | _ => s)

/-- What one table read of a walk finds (R354): a fault with its reason, a leaf, or the next table. -/
inductive Walked where
  | fault (reason : Nat)
  | leaf (e : Nat)
  | table (tbl : Nat)
  deriving DecidableEq, Repr

/-- One level of a walk: the table read of a request at its level and table. -/
def State.tableStep (s : State) (r : Req) : Walked :=
  let at_ := r.tbl + 8 * pteIndex r.lvl r.va
  let p := s.part r.root
  let e := s.load (hbmKey at_) 8
  if (poisonIn s.poison (hbmKey at_) 8).isSome then .fault 2
  else if !pteV e then .fault 0
  else if pteBad p.hbase p.hlen e r.lvl then .fault 1
  else if pteLeaf e then .leaf e
  else .table (pteAddr e)

/-- The table entry a walk reads. -/
def Req.pte (r : Req) : Nat := r.tbl + 8 * pteIndex r.lvl r.va

/-- TABLE_READ (R354): one level of a walk. -/
def execTableRead (s : State) : Res :=
  .next (match s.arrived with
    | some (.table r) =>
      let s := s.taken
      match s.tableStep r with
      | .fault n => s.pageFault r n r.lvl r.pte
      | .leaf e => (s.cacheLeaf r r.lvl e).leafFound r e r.lvl
      | .table tbl => s.send 1 (.table { r with lvl := r.lvl - 1, tbl := tbl })
    | _ => s)

/-! ### The flush (R359) -/

/-- A whole walk, made in one cycle as a flush makes it: the request where it stops, and a fault's reason or the leaf. -/
def State.walkNow (s : State) : Nat → Req → Req × Walked
  | 0, r => (r, .fault 1)
  | n + 1, r => match s.tableStep r with
    | .table tbl => s.walkNow n { r with lvl := r.lvl - 1, tbl := tbl }
    | w => (r, w)

/-- A retranslated request whose leaf is found: refused, performed, or, while its channel is quiesced or an earlier access to its bytes is not
performed, left to be performed. -/
def State.flushLeaf (s : State) (r : Req) (e lvl : Nat) : State :=
  match s.leafPhys r e lvl with
  | none => s.agentAnswer { req := r, status := Cause.perm.code, value := 0, flags := 0 }
  | some pa =>
    let r := { r with phys := some (hbmKey pa) }
    if s.pkgReady r && s.reqReady r then s.agentPerform r (hbmKey pa) else s.sendAt s.now (.req r)

/-- One held request is retranslated at a flush: behind another of its requester that is held again, it is held (R356). -/
def State.flushOne (s : State) (r : Req) : State :=
  let r := { r with phys := none, gen := s.fbGen, grant := if wf r.addr 56 8 = 4 then r.grant else none }
  if s.heldBefore r then s.hold r none
  else match s.grantOf r with
    | none => s.agentAnswer { req := r, status := Cause.nak.code, value := 0, flags := 0 }
    | some g =>
      let r := { r with grant := g }
      let p := s.part r.root
      if !p.ptEn then s.pageFault r 4 3 0
      else match s.cached r with
        | some (lvl, e) => s.flushLeaf r e lvl
        | none => match s.walkNow 5 { r with lvl := 3, tbl := p.ptAddr } with
          | (q, .leaf e) => (s.cacheLeaf q q.lvl e).flushLeaf q e q.lvl
          | (q, .fault n) => s.pageFault q n q.lvl q.pte
          | (q, .table _) => s.pageFault q 1 q.lvl q.pte

/-- FAULT_FLUSH: a write of g to c:FBCTL (R359): in one cycle the generation advances, the records go, and every held request is retranslated
in the order in which it was held. -/
def State.faultFlush (s : State) (g : Nat) : State :=
  if g ≠ s.fbGen then s
  else s.held.foldl State.flushOne { s with fbGen := (s.fbGen + 1) % 65536, faults := [], fbOvf := false, held := [] }

/-- FAULT_FLUSH (R359): the write of ev.a. -/
def execFaultFlush (s : State) : Res := .next (s.faultFlush (s.ev.a % 65536))

/-! ### Invalidation (R355) -/

/-- The cached leaves that an invalidation leaves. -/
def State.dropLeaves (s : State) (p vpn : Nat) (all : Bool) : State :=
  { s with tlb := s.tlb.filter fun c => !(c.2.1 == p && (all || c.2.2.2.1 == vpn * 65536 / pageBytes c.2.2.1)) }

/-- A write of c:XINV by partition p: the leaves of a page, or all, are dropped; BUSY until the accesses translated with them are
performed. -/
def State.xinv (s : State) (p vpn : Nat) (all : Bool) : State :=
  { s.dropLeaves p vpn all with xinvBusy := true }.send 1 (.xinvDone p vpn all)

/-- XINV_PAGE (R355): partition ev.num, va[47..16] in ev.a. -/
def execXinvPage (s : State) : Res := .next (s.xinv s.ev.num (s.ev.a % 2 ^ 32) false)
/-- XINV_ALL (R355). -/
def execXinvAll (s : State) : Res := .next (s.xinv s.ev.num 0 true)

/-- Every access already translated has been performed, and no walk is left that may have read an entry before the invalidation. -/
def State.translatedDone (s : State) : Bool :=
  !s.flight.any fun f => match f.msg with
    | .req r => r.phys.isSome
    | .table _ => true
    | _ => false

/-- XINV_DONE (R355): a leaf that a walk has cached meanwhile is dropped too. -/
def execXinvDone (s : State) : Res :=
  .next (match s.arrived with
    | some (.xinvDone p vpn all) => if s.translatedDone then { s.taken.dropLeaves p vpn all with xinvBusy := false } else s
    | _ => s)

end Sys2Proof.Machine
end

