-- ==== Sys2Proof/Machine/Drover.lean ====
section
/-! DEFINITION. Drover: DSET, DGO, DMCST, DPOLL, DWAIT, DKILL, SBIND, SUNB and the jobs of a pen (R200..R210, R35). -/

namespace Sys2Proof.Machine

/-! ### Jobs of a tile -/

/-- The pen that runs a tile's jobs: the primary's for a paired twin (R330). -/
def State.jobPen (s : State) (t : Nat) : Nat := penKey (if s.paired t then s.seenTile t else t)
/-- The tile a job counts as accepted from. -/
def State.jobTile (s : State) (t : Nat) : Nat := if s.paired t then s.seenTile t else t

/-- The completion entry of a job still stands in an inbox of its tile, or a stream register is bound to it (R209). -/
def State.jobUsed (s : State) (p : Nat) (j : Job) : Bool :=
  (s.copies j.tile).any fun t =>
    ((s.tile t).inbox.any fun e => nf e.toNat 0 16 == 2 && nf e.toNat 16 16 == j.xid) ||
    ((s.tile t).sreg.any fun b => b.2.pen == p && b.2.xid == j.xid)

/-- Jobs whose state is kept: outstanding, or a stream job still used. -/
def State.keptJobs (s : State) (p : Nat) : List Job := (s.pen p).jobs.filter fun j => j.st != .kept || s.jobUsed p j

/-- Outstanding jobs hold the queue's 32 entries (R200). -/
def Job.outstanding (j : Job) : Bool := j.st != .kept

/-- The identifier after x, never 0. -/
def nextXid (x : Nat) : Nat := if x ≥ 65535 then 1 else x + 1

/-- The first identifier from x that no kept job holds, among at most n tries. -/
def freeXid (js : List Job) : Nat → Nat → Nat
  | 0, x => x
  | n + 1, x => if js.any fun j => j.xid == x then freeXid js n (nextXid x) else x

def Pen.updJob (p : Pen) (x : Nat) (f : Job → Job) : Pen := { p with jobs := p.jobs.map fun j => if j.xid = x then f j else j }
def State.updJob (s : State) (p x : Nat) (f : Job → Job) : State := s.updPen p fun pn => pn.updJob x f

/-! ### Shadow registers (R201, R203) -/

def Slot.sh (sl : Slot) (i : BitVec 4) : Word := sl.shadow[i.toNat]'i.isLt

/-- DSET (R203). -/
def execDset (a n : BitVec 4) (s : State) : Res :=
  .next ((s.updCur fun sl => { sl with shadow := sl.shadow.set n.toNat (sl.xr a) n.isLt }).done 4)

/-- Reserved bits of register 3 and reserved registers 5 to 15 (R201). -/
def Slot.shadowBad (sl : Slot) : Bool :=
  wf (sl.sh 3) 12 52 != 0 || (List.range 11).any fun i => sl.sh (BitVec.ofNat 4 (5 + i)) != 0

/-! ### The checks of DGO (R204) -/

def Win.off : Win → Nat
  | .loc o => o
  | .tile _ _ o => o
  | .group _ _ o => o
  | .die _ _ o => o
  | .package o => o
  | .pod _ o => o
  | .ctrl _ o => o
  | .system _ _ o => o

def Win.withOff (w : Win) (o : Nat) : Win :=
  match w with
  | .loc _ => .loc o
  | .tile r c _ => .tile r c o
  | .group b g _ => .group b g o
  | .die b d _ => .die b d o
  | .package _ => .package o
  | .pod i _ => .pod i o
  | .ctrl b _ => .ctrl b o
  | .system p i _ => .system p i o

/-- A footprint of bytes [lo, hi) about an address lies where R204 allows; an empty one is not checked. -/
def State.footOk (s : State) (t : Nat) (w : Win) (lo hi : Int) : Bool :=
  if hi ≤ lo then true else
  let a := Int.ofNat w.off + lo
  decide (0 ≤ a) && s.reserved t (w.withOff a.toNat) (hi - lo).toNat

/-- Windows a job may read, and write. -/
def Win.srcOk : Win → Bool
  | .ctrl _ _ => false
  | .system _ _ _ => false
  | _ => true
def Win.dstOk : Win → Bool
  | .ctrl _ _ => false
  | _ => true

/-- A job's side: its footprint, with or without the layout. -/
def sideLo (lay : Bool) (r : Rec) : Int := if lay then r.lo 0 else 0
def sideHi (lay : Bool) (r : Rec) (total : Nat) : Int := if lay then r.hi 0 else Int.ofNat total

/-- The layout record fits a side: the address plus BASE and all strides are multiples of z (R204). -/
def laySideOk (r : Rec) (a : Word) : Bool :=
  (a.toNat + r.base) % r.size == 0 && (List.range 4).all fun i => (r.str i).natAbs % r.size == 0

/-- Status of DGO from the shadow registers and the layout record: 2 INVALID, 3 EXCH, 0 otherwise. -/
def State.dgoStatus (s : State) (t : Nat) (sl : Slot) (r : Rec) : Nat :=
  let c := sl.sh 3
  let side := wf c 3 2
  let strm := c.getLsbD 11
  let total := if side = 0 then wf (sl.sh 2) 0 32 else r.count * r.size
  match decodeWin (sl.sh 0), decodeWin (sl.sh 1) with
  | some sw, some dw =>
    let ls := side % 2 == 1
    let ld := decide (2 ≤ side)
    let empty := total == 0
    let isLoc := match dw with | .loc _ => true | _ => false
    let bad := !sw.srcOk || !dw.dstOk || sl.shadowBad || wf (sl.sh 2) 32 32 != 0 ||
      (s.place t sw).isNone || (s.place t dw).isNone ||
      (side != 0 && r.kind != 0) || (ls && !laySideOk r (sl.sh 0)) || (ld && !laySideOk r (sl.sh 1)) ||
      decide (2 ^ 32 ≤ total) || (strm && (!isLoc || ld)) ||
      (!empty && (!s.footOk t sw (sideLo ls r) (sideHi ls r total) || !s.footOk t dw (sideLo ld r) (sideHi ld r total) ||
        s.inRegion t (dw.withOff (Int.ofNat dw.off + sideLo ld r).toNat) (sideHi ld r total - sideLo ld r).toNat))
    if bad then 2 else if (s.exchBad t sw).isSome then 3 else 0
  | _, _ => 2

/-- The job of DGO. -/
def State.dgoJob (s : State) (t u : Nat) (sl : Slot) (r : Rec) : Job :=
  let c := sl.sh 3
  let side := wf c 3 2
  { xid := 0, tile := s.jobTile t, slot := u, lid := (s.tile t).lid, part := (s.launch (s.tile t).lid).part, src := sl.sh 0, dst := sl.sh 1,
    bytes := if side = 0 then wf (sl.sh 2) 0 32 else r.count * r.size, lrec := r, lside := side, hslot := wf c 5 5,
    hval := c.getLsbD 10, strm := c.getLsbD 11, arg := sl.sh 4, mcast := [], st := .queued, next := 0, open_ := 0, landed := 0,
    refused := 0, mask := 0, cause := 0, killed := false, poisoned := false, map := [] }

/-- Accept a job: the identifier and FULL (R200). -/
def State.acceptJob (s : State) (p : Nat) (j : Job) : Nat × State :=
  let js := s.keptJobs p
  if 32 ≤ (js.filter Job.outstanding).length then (2 ^ 16, s)
  else
    let x := freeXid js 65535 (s.pen p).nextXid
    (x, s.updPen p fun pn => { pn with jobs := js ++ [{ j with xid := x }], nextXid := nextXid x })

/-- A DGO or DMCST with its status and job: the result word. -/
def State.launchJob (s : State) (t st : Nat) (j : Job) : Nat × State :=
  if st ≠ 0 then (st * 2 ^ 16, s) else s.acceptJob (s.jobPen t) j

/-! ### Words that a twin copy pairs before they act (R330) -/

/-- A word of a tile that answers at once: unpaired it acts now; a twin copy first waits until its partner has made the same
request, then the primary acts and both take the result. -/
def State.paired1 (s : State) (h : List Nat) (d : Reg) (act : State → Nat × State) : State :=
  let t := s.curTile
  if !s.paired t then
    let r := act s
    r.2.wr d (nw r.1) 4
  else
    let tl := s.curT
    match s.cur.wait with
    | .twin k =>
      match tl.twinLog.find? fun l => l.1 == k with
      | none => s.block (.twin k)
      | some (_, v) =>
        let s := s.updTile t fun tl => { tl with twinLog := tl.twinLog.filter fun l => l.1 != k }
        if tl.twin then s.wr d v 4
        else
          let r := act s
          (r.2.updTile (s.partner t) fun p => { p with twinLog := p.twinLog ++ [(k, nw r.1)] }).wr d (nw r.1) 4
    | _ =>
      if s.twinFull t then s.block .poll
      else
        let q : TwinReq := { tile := s.seenTile t, seq := tl.twinSeq, copy := tl.twin, hash := Config.twinHash h, msg := none, min := 0 }
        let s := s.updTile t fun tl => { tl with twinSeq := tl.twinSeq + 1, twinRun := Config.twinHash (tl.twinRun :: h) }
        { s with pairs := s.pairs ++ [q] }.block (.twin tl.twinSeq)

/-- DGO (R204). -/
def execDgo (d : Reg) (s : State) : Res :=
  let t := s.curTile
  let sl := s.cur
  let r : Rec := s.curT.hrec (wf (sl.sh 3) 0 3)
  let st := s.dgoStatus t sl r
  let j := s.dgoJob t s.curSlot sl r
  .next (s.paired1 [9, st, j.src.toNat, j.dst.toNat, j.bytes, j.lrec.toNat, j.lside, j.arg.toNat, (sl.sh 3).toNat] d
    fun s => s.launchJob t st j)

/-! ### DMCST (R208) -/

/-- The members' destination addresses and whether they are packages: an address with row and col, or the package id, replaced. -/
def mcastAddrs (b : Word) (ms : List Nat) : List Word :=
  ms.map fun m => if nb m 32
    then putField b 36 12 (nf m 20 12)
    else putField b 32 16 (nf m 8 8 + nf m 0 8 * 256)

/-- Status of DMCST, and the job. -/
def State.dmcst (s : State) (t u : Nat) (sl : Slot) (a b : Word) : Nat × Job :=
  let g := wf (sl.kr 1) 0 8
  let l := s.launch (s.tile t).lid
  let ms := tget [] (s.part l.part).gtab g
  let pk := ms.any fun m => nb m 32
  let c := sl.sh 3
  let addrs := mcastAddrs b ms
  let winOk := match decodeWin b with
    | some (.tile _ _ _) => !pk
    | some (.pod _ _) => pk
    | _ => false
  let srcOk := match decodeWin a with
    | some (.loc o) => o % 256 == 0 && s.reserved t (.loc o) 256
    | _ => false
  let memOk := addrs.all fun x => match decodeWin x with
    | some w => s.reserved t w 256 && (s.place t w).isSome && w.off % 256 == 0
    | none => false
  let ok := winOk && srcOk && memOk && l.entries.contains g && decide (1 ≤ ms.length ∧ ms.length ≤ 64) && !sl.shadowBad &&
    wf c 0 5 == 0 && !c.getLsbD 11 && wf b 0 8 == 0
  (if ok then 0 else 2,
   { (s.dgoJob t u sl 0) with src := a, dst := b, bytes := 256, lside := 0, strm := false, mcast := addrs, lrec := BitVec.ofNat 256 g })

/-- DMCST (R208). -/
def execDmcst (d a b : Reg) (s : State) : Res :=
  let r := s.dmcst s.curTile s.curSlot s.cur (s.xr a) (s.xr b)
  let t := s.curTile
  .next (s.paired1 [10, r.1, (s.xr a).toNat, (s.xr b).toNat, r.2.lrec.toNat, (s.cur.sh 3).toNat, (s.cur.sh 4).toNat] d
    fun s => s.launchJob t r.1 r.2)

/-! ### DPOLL, DWAIT, DKILL, SBIND, SUNB (R207, R209) -/

/-- The job a tile names. -/
def State.myJob (s : State) (t x : Nat) : Option Job :=
  ((s.pen (s.jobPen t)).job x).bind fun j => if j.tile = s.jobTile t then some j else none

def JobState.code : JobState → Nat
  | .queued => 1
  | .running => 2
  | .placing => 3
  | .kept => 0

/-- The completion status (R206). -/
def Job.status (j : Job) : Nat := if j.killed then 2 else if j.poisoned then 3 else if j.refused != 0 || j.mask != 0 then 1 else 0

def Job.stateCode (j : Option Job) : Nat := (j.map fun j => j.st.code).getD 0

/-- DPOLL (R207). -/
def execDpoll (d a : Reg) (s : State) : Res :=
  let v := match s.myJob s.curTile (wf (s.xr a) 0 16) with
    | none => 0
    | some j => if j.st = .kept then 0
        else j.st.code + (if j.st = .placing then j.status * 2 ^ 8 else 0) + j.landed % 2 ^ 32 * 2 ^ 32
  .next (s.wr d (nw v) 4)

/-- DWAIT (R207). -/
def execDwait (a : Reg) (s : State) : Res :=
  .next (if Job.stateCode (s.myJob s.curTile (wf (s.xr a) 0 16)) = 0 then s.done 4 else s.block .poll)

/-- DKILL's effect (R207). -/
def Job.kill (j : Job) : Job :=
  match j.st with
  | .queued => { j with killed := true, st := .placing }
  | .running => { j with killed := true }
  | _ => j

/-- DKILL (R207). -/
def execDkill (d a : Reg) (s : State) : Res :=
  let x := wf (s.xr a) 0 16
  let t := s.curTile
  let j := s.myJob t x
  let s' := match j with
    | some _ => s.updJob (s.jobPen t) x Job.kill
    | none => s
  .next (s'.wr d (nw (Job.stateCode j)) 4)

/-- SBIND (R209): to a stream job of the tile whose state is kept. -/
def execSbind (d : BitVec 3) (a : Reg) (s : State) : Res :=
  let x := wf (s.xr a) 0 16
  let t := s.curTile
  let p := s.jobPen t
  .next (match s.myJob t x with
    | some j =>
      if j.strm && (j.st != .kept || s.jobUsed p j) then
        (s.updTile t fun tl => { tl with sreg := tset tl.sreg d.toNat { pen := p, xid := x, pos := 0 } }).done 4
      else s.trapIll (.sbind d a)
    | none => s.trapIll (.sbind d a))

/-- SUNB (R209). -/
def execSunb (d : BitVec 3) (s : State) : Res :=
  .next ((s.updTile s.curTile fun tl => { tl with sreg := terase tl.sreg d.toNat }).done 4)

/-! ### A job's units (R202) -/

/-- Bytes before the first 16-byte boundary of the destination, 1 to 16. -/
def Job.head (j : Job) : Nat := 16 - j.dst.toNat % 16

/-- Number of units: elements in pieces of at most 16 bytes, or 16-byte units of the destination. -/
def Job.units (j : Job) : Nat :=
  let r : Rec := j.lrec
  if j.lside = 0 then (if j.bytes = 0 then 0 else 1 + (j.bytes - min j.bytes j.head + 15) / 16)
  else r.count * ((r.size + 15) / 16)

/-- Unit i: source address, destination address, bytes. -/
def Job.unit (j : Job) (i : Nat) : Word × Word × Nat :=
  let r : Rec := j.lrec
  if j.lside = 0 then
    let o := if i = 0 then 0 else j.head + 16 * (i - 1)
    let e := min j.bytes (j.head + 16 * i)
    (j.src + nw o, j.dst + nw o, e - o)
  else
    let pp := (r.size + 15) / 16
    let n := i / pp
    let o := i % pp * 16
    let at_ := fun (a : Word) (lay : Bool) =>
      a + BitVec.ofInt 64 ((if lay then r.addr 0 n else Int.ofNat (n * r.size)) + Int.ofNat o)
    (at_ j.src (j.lside % 2 == 1), at_ j.dst (decide (2 ≤ j.lside)), min 16 (r.size - o))

/-- A request of a job. -/
def State.jobReq (s : State) (p : Nat) (j : Job) (acc : Acc) (a dst : Word) (size data got len elem : Nat) : Req :=
  let g := ((decodeWin a).bind (s.place j.tile)).bind placeGroup
  let g := g.getD 0
  { num := s.next, who := .job p j.xid, acc := acc, addr := a, size := size, data := data, d := 0, code := 0, sign := false, fn := 0,
    k1 := nw got, rm := 0, nt := false, cls := 0, lid := j.lid, part := j.part, elem := elem, dst := dst, phys := none, lvl := 3,
    tbl := 0, gen := 0, lgrp := g, pgrp := s.physGroup (g / 320) (g % 320), grant := none, len := len, peer := none, bad := false }

/-- Send a job's request (R143); a place the launch no longer has is refused at once. -/
def State.jobSend (s : State) (j : Job) (r : Req) : State :=
  match (decodeWin r.addr).bind (s.place j.tile) with
  | none => s.send 1 (.ans { req := r, status := Cause.nak.code, value := 0, flags := 0 })
  | some p => s.forward j.tile (s.reqTime j.tile p) (.req r)

/-- Bytes from an address to the next 16-byte boundary, at most n. -/
def to16 (a : Word) (n : Nat) : Nat := min n (16 - a.toNat % 16)

/-- Issue the writes of a value: one per 16-byte unit it touches. -/
def State.jobWrite (s : State) (p x : Nat) (dst : Word) (n v elem : Nat) : State :=
  match (s.pen p).job x with
  | none => s
  | some j =>
    let a := to16 dst n
    let s := (s.updJob p x fun j => { j with open_ := j.open_ + 1 }).jobSend j (s.jobReq p j .store dst dst a (v % 2 ^ (8 * a)) 0 a elem)
    if a < n then
      (s.updJob p x fun j => { j with open_ := j.open_ + 1 }).jobSend j
        (s.jobReq p j .store (dst + nw a) (dst + nw a) (n - a) (v / 2 ^ (8 * a) % 2 ^ (8 * (n - a))) 0 (n - a) elem)
    else s

/-- Issue the next part of a unit's remote read: got bytes of len are in data. -/
def State.jobRead (s : State) (p : Nat) (j : Job) (src dst : Word) (data got len elem : Nat) : State :=
  let a := src + nw got
  (s.updJob p j.xid fun j => { j with open_ := j.open_ + 1 }).jobSend j
    (s.jobReq p j .read a dst (to16 a (len - got)) data got len elem)

/-- A source read met poison: the job issues nothing further (R205). -/
def State.jobPoison (s : State) (p x : Nat) : State := s.updJob p x fun j => { j with poisoned := true }

/-- Count a refusal (R205, R206): for a multicast the member's bit. -/
def Job.refuse (j : Job) (st n elem : Nat) : Job :=
  let c := fjStatus st
  let j := { j with cause := if j.cause = 0 then (if j.mcast.isEmpty then c else 1) else j.cause }
  if j.mcast.isEmpty then { j with refused := j.refused + n } else { j with mask := j.mask ||| 2 ^ elem }

/-- Issue unit i of a running job: its source is the own slice, or is read by a request. -/
def State.jobUnit (s : State) (p x i : Nat) : State :=
  match (s.pen p).job x with
  | none => s
  | some j =>
    let (src, dst, n) := j.unit i
    let s := s.updJob p x fun j => { j with next := i + 1 }
    match (decodeWin src).bind (s.place j.tile) with
    | some (.slice t off) =>
      if t = j.tile then match s.sliceRead t off n with
        | .error _ => s.jobPoison p x
        | .ok v => s.jobWrite p x dst n v i
      else s.jobRead p j src dst 0 0 n i
    | _ => s.jobRead p j src dst 0 0 n i

/-- The line of a multicast leaves for every member: by the mesh, or as one multicast packet (R208, R399). -/
def State.jobCast (s : State) (p x : Nat) : State :=
  match (s.pen p).job x with
  | none => s
  | some j =>
    let s := s.updJob p x fun j => { j with next := 1 }
    match s.sliceRead j.tile (j.src.toNat % 65536) 256 with
    | .error _ => s.jobPoison p x
    | .ok v =>
      match decodeWin j.dst with
      | some (.pod id off) =>
        let k := s.next
        let s := (s.updJob p x fun j => { j with open_ := j.open_ + 1 }).fjSend (.req (s.jobReq p j .store j.dst j.dst 256 v 0 256 0)) 4 256
          s.pod id j.tile off (j.lrec.toNat + j.mcast.length * 256) v
        { s with mcasts := tset s.mcasts k { pen := p, xid := x, branches := [], mask := 0, told := false } }
      | _ => ((List.range j.mcast.length).zip j.mcast).foldl (fun s m =>
          (s.updJob p x fun j => { j with open_ := j.open_ + 1 }).jobSend j (s.jobReq p j .store m.2 m.2 256 v 0 256 m.1)) s

/-- Everything a job will issue has been issued. -/
def Job.issued (j : Job) : Bool :=
  j.killed || j.poisoned || (if j.mcast.isEmpty then decide (j.units ≤ j.next) else decide (0 < j.next))

/-- The job the drover advances next: a running one with work and fewer than 64 open accesses, or the oldest queued one when
fewer than four run (R200). -/
def State.droverPick (s : State) (p : Nat) : Option Job :=
  let js := (s.pen p).jobs
  match js.find? fun j => j.st == .running && !j.issued && decide (j.open_ < 64) with
  | some j => some j
  | none => if (js.filter fun j => j.st == .running).length < 4 then js.find? fun j => j.st == .queued else none

/-- DROVER_JOB_START (R200, R202, R205): pen ev.num's drover starts the oldest queued job, or issues the next unit of a running
one. -/
def execDroverJobStart (s : State) : Res :=
  let p := s.ev.num
  .next (match s.droverPick p with
    | none => s
    | some j =>
      let s := s.updJob p j.xid fun j => { j with st := .running }
      if j.issued then s
      else if j.mcast.isEmpty then s.jobUnit p j.xid j.next else s.jobCast p j.xid)

/-! ### Answers to a job (R205, R206) -/

/-- A store of a job is answered: bytes land or are refused; a bound stream register sees event 4 (R209, R37). -/
def State.jobStored (s : State) (p x : Nat) (r : Req) (st : Nat) : State :=
  let n := r.size
  let s := s.updJob p x fun j =>
    let j := { j with open_ := j.open_ - 1 }
    if st ≠ 0 then j.refuse st n r.elem
    else { j with landed := j.landed + n,
                  map := if j.strm then addRange j.map (r.addr.toNat - j.dst.toNat) n else j.map }
  match (s.pen p).job x with
  | none => s
  | some j =>
    if st = 0 ∧ j.strm then (s.copies j.tile).foldl (fun s t =>
      if (s.tile t).sreg.any fun b => b.2.pen == p && b.2.xid == x then s.event t 4 else s) s
    else s

/-- A remote read of a job is answered: the unit's next part, or its write; poison stops the job. -/
def State.jobGot (s : State) (p x : Nat) (r : Req) (st v : Nat) : State :=
  let s := s.updJob p x fun j => { j with open_ := j.open_ - 1 }
  match (s.pen p).job x with
  | none => s
  | some j =>
    if st = Cause.poison.code then s.jobPoison p x
    else if st ≠ 0 then s.updJob p x fun j => j.refuse st r.len r.elem
    else
      let got := r.k1.toNat
      let data := r.data + v % 2 ^ (8 * r.size) * 2 ^ (8 * got)
      if j.killed || j.poisoned then s
      else if got + r.size < r.len then s.jobRead p j (r.addr - nw got) r.dst data (got + r.size) r.len r.elem
      else s.jobWrite p x r.dst r.len data r.elem

/-! ### Completion (R205, R206) -/

/-- A running job has no work left. -/
def Job.finished (j : Job) : Bool := j.st == .running && j.issued && j.open_ == 0

/-- DROVER_JOB_COMPLETE (R205): the oldest finished job of pen ev.num. -/
def execDroverJobComplete (s : State) : Res :=
  let p := s.ev.num
  .next (match (s.pen p).jobs.find? Job.finished with
    | none => s
    | some j => s.updJob p j.xid fun j => { j with st := .placing })

/-- The completion entry (R206). -/
def Job.entry (j : Job) : Entry :=
  mkEntry (2 + j.xid * 2 ^ 16 + j.status * 2 ^ 32 + (j.hslot + b2n j.hval * 128) * 2 ^ 40 + j.cause * 2 ^ 48) j.landed
    (if j.mcast.isEmpty then j.refused else j.mask) j.arg.toNat

/-- A job whose entry can be placed. -/
def State.placeable (s : State) (j : Job) : Bool := j.st == .placing && (s.copies j.tile).all fun t => (s.tile t).room

/-- DROVER_COMPLETION_PLACE (R206): the completion enters the inbox and readies its handler; the job is no longer outstanding, and
a stream job's landing state is kept while it may be read. -/
def execDroverCompletionPlace (s : State) : Res :=
  let p := s.ev.num
  .next (match (s.pen p).jobs.find? s.placeable with
    | none => s
    | some j =>
      let s := (s.copies j.tile).foldl (fun s t => s.placeInbox t j.entry j.arg) s
      s.updPen p fun pn => if j.strm then pn.updJob j.xid fun j => { j with st := .kept }
        else { pn with jobs := pn.jobs.filter fun k => k.xid != j.xid })

end Sys2Proof.Machine
end

