-- ==== Sys2Proof/Machine/Answers.lean ====
section
/-! DEFINITION. Answers: requests at slice, group and die SRAM controllers, the answers that return, and the traps of an
instruction boundary (R143, R146, R151..R154, R158..R160, R174, R197, R58). -/

namespace Sys2Proof.Machine

/-! ### At a controller -/

/-- A request of one kind that has reached a slice, group bank or die SRAM controller is performed or refused, and answered. -/
def State.serve (s : State) (acc : Acc) : State :=
  match s.arrived with
  | some (.req r) =>
    if r.acc = acc ∧ s.reqReady r then
      let s := s.taken
      match s.reqPlace r with
      | none => s.reply 1 { req := r, status := Cause.nak.code, value := 0, flags := 0 }
      | some p =>
        let q := s.performAt r p
        q.1.reply (s.backTime r) q.2
    else s
  | _ => s

/-- POSTED_STORE_LAND (R143, R151). -/
def execPostedStoreLand (s : State) : Res := .next (s.serve .store)
/-- REMOTE_READ_SERVE (R146). -/
def execRemoteReadServe (s : State) : Res := .next (s.serve .read)
/-- ATOMIC_PERFORM (R158). -/
def execAtomicPerform (s : State) : Res := .next (s.serve .atomic)

/-! ### Answers -/

/-- An answer takes effect at its requester: threads, one parked for a hold at another package among them (R360), or a job. -/
def State.takeAns (s : State) (a : Ans) : State :=
  match a.req.who, a.req.acc with
  | .job p x, .store => s.jobStored p x a.req a.status
  | .job p x, _ => s.jobGot p x a.req a.status a.value
  | _, .store => a.req.askers.foldl (fun s q => s.takeStore a q.1 q.2) s
  | _, _ => a.req.askers.foldl (fun s q =>
      if s.heldPark q.1 q.2 a.req.lid then s.resumeHeld a q.1 q.2 else s.takeAnswer a q.1 q.2) s

/-- The cause code of a Fjoic STATUS (R396). -/
def ofFjStatus (st : Nat) : Nat :=
  match st with
  | 0 => 0
  | 1 => Cause.nak.code
  | 2 => Cause.remap.code
  | 3 => Cause.perm.code
  | _ => Cause.poison.code

/-- The answer of another package to request k of an access kind: a late one finds no request and is discarded (R398). -/
def State.fjAns (s : State) (k st v : Nat) (fl : Fl) (acc : Acc) : State :=
  match tget? s.fj k with
  | some q => match q.msg with
    | .req r => if r.acc = acc then
        ({ s with fj := terase s.fj k }).takeAns { req := r, status := ofFjStatus st, value := v, flags := fl }
      else s
    | _ => s
  | none => s

/-- An answer row: the answer in flight, or (ev.a = 1) that of another package with status ev.b, flags ev.c and value in ev.data. -/
def State.answerRow (s : State) (acc : Acc) : State :=
  if s.ev.a = 1 then s.fjAns s.ev.num s.ev.b (s.ev.data.headD 0) (BitVec.ofNat 5 s.ev.c) acc
  else match s.arrived with
    | some (.ans a) => if a.req.acc = acc then s.taken.takeAns a else s
    | _ => s

/-- STORE_ANSWER (R36, R154). -/
def execStoreAnswer (s : State) : Res := .next (s.answerRow .store)
/-- READ_ANSWER (R146, R153). -/
def execReadAnswer (s : State) : Res := .next (s.answerRow .read)
/-- ATOMIC_ANSWER (R159, R160). -/
def execAtomicAnswer (s : State) : Res := .next (s.answerRow .atomic)

/-! ### Traps at a boundary (R154, R174, R197, R58) -/

/-- REFUSAL_TRAP (R154): the oldest refusal held; the trap names the pc of the instruction it stops. -/
def execRefusalTrap (s : State) : Res :=
  let t := s.curTile
  let u := s.curSlot
  .next (match s.cur.refusals with
    | [] => s
    | r :: rest =>
      let s := s.updCur fun sl => { sl with refusals := rest }
      s.trapAt t u { cause := r.cause, pc := s.cur.pc, resume := s.cur.pc, addr := refAddr r.cause r.addr, detail := sizeCode r.size,
                     mflags := 2 + b2n r.overflow * 4 })

/-- ENGINE_TRAP (R174, R197): a sequencer error before a matrix error; the message carries the entry's pc. -/
def execEngineTrap (s : State) : Res :=
  let t := s.curTile
  let u := s.curSlot
  let es := s.cur.engErrs
  let pick := match es.find? fun e => !e.matrix with
    | some e => some e
    | none => es.head?
  .next (match pick with
    | none => s
    | some e =>
      let s := s.updCur fun sl => { sl with engErrs := sl.engErrs.erase e }
      s.trapAt t u { cause := e.cause, pc := e.pc, resume := s.cur.pc, addr := e.addr, detail := 0, mflags := 8 })

/-- DEFERRED_FPX_TRAP (R58, R159): the message names the word that raised the flags; the thread resumes at its next instruction. -/
def execDeferredFpxTrap (s : State) : Res :=
  let t := s.curTile
  let u := s.curSlot
  .next (match s.cur.fpx with
    | none => s
    | some (pc, fl, engine) =>
      let s := s.updCur fun sl => { sl with fpx := none }
      s.trapAt t u { cause := .fpx, pc := pc, resume := s.cur.pc, addr := 0, detail := fl.toNat, mflags := b2n engine * 8 })

end Sys2Proof.Machine
end

