-- ==== Sys2Proof/Machine/Keccak.lean ====
section
/-! DEFINITION. Keccak: the hash SHAKE256 and the tag KMAC256 that the spec names (R108, R402, R411, R414, R419), as the published standards
define them (PRESUMED, log 8; unsafe). A hash is its bytes as a little-endian number. -/

namespace Sys2Proof.Machine

/-- The 25 lanes of the state, lane (x, y) at x + 5y. -/
abbrev Lanes := List (BitVec 64)

def Lanes.at_ (a : Lanes) (i : Nat) : BitVec 64 := a[i]?.getD 0

/-- The rotations of the lanes, and the round constants. -/
def keccakRot : List Nat := [0, 1, 62, 28, 27, 36, 44, 6, 55, 20, 3, 10, 43, 25, 39, 41, 45, 15, 21, 8, 18, 2, 61, 56, 14]
def keccakRc : List (BitVec 64) :=
  [0x1, 0x8082, 0x800000000000808A, 0x8000000080008000, 0x808B, 0x80000001, 0x8000000080008081, 0x8000000000008009, 0x8A, 0x88, 0x80008009,
   0x8000000A, 0x8000808B, 0x800000000000008B, 0x8000000000008089, 0x8000000000008003, 0x8000000000008002, 0x8000000000000080, 0x800A,
   0x800000008000000A, 0x8000000080008081, 0x8000000000008080, 0x80000001, 0x8000000080008008]

/-- The column step. -/
def Lanes.theta (a : Lanes) : Lanes :=
  let c := (List.range 5).map fun x => (List.range 5).foldl (fun v y => v ^^^ a.at_ (x + 5 * y)) (0 : BitVec 64)
  (List.range 25).map fun i => a.at_ i ^^^ Lanes.at_ c ((i + 4) % 5) ^^^ (Lanes.at_ c ((i + 1) % 5)).rotateLeft 1

/-- Each lane rotated, and moved to its new place. -/
def Lanes.rhoPi (a : Lanes) : Lanes :=
  let r := (List.range 25).map fun i => (a.at_ i).rotateLeft (keccakRot[i]?.getD 0)
  (List.range 25).map fun i => let x := i % 5; let y := i / 5; Lanes.at_ r ((x + 3 * y) % 5 + 5 * x)

/-- The row step. -/
def Lanes.chi (a : Lanes) : Lanes :=
  (List.range 25).map fun i => let y := 5 * (i / 5); a.at_ i ^^^ (~~~(a.at_ ((i + 1) % 5 + y)) &&& a.at_ ((i + 2) % 5 + y))

/-- One round. -/
def Lanes.round (a : Lanes) (rc : BitVec 64) : Lanes :=
  match a.theta.rhoPi.chi with
  | l :: r => (l ^^^ rc) :: r
  | [] => []

/-- The permutation of 24 rounds. -/
def Lanes.permute (a : Lanes) : Lanes := keccakRc.foldl Lanes.round a

/-- One block of 136 bytes is absorbed. -/
def Lanes.absorb (a : Lanes) (b : List Byte) : Lanes :=
  Lanes.permute ((List.range 25).map fun i => a.at_ i ^^^ BitVec.ofNat 64 (ofBytes ((b.drop (8 * i)).take 8)))

/-- Bytes absorbed block by block, at most n blocks. -/
def Lanes.absorbAll : Nat → Lanes → List Byte → Lanes
  | 0, a, _ => a
  | n + 1, a, b => if b.isEmpty then a else Lanes.absorbAll n (a.absorb (b.take 136)) (b.drop 136)

/-- The bytes of the state that a block gives out. -/
def Lanes.block (a : Lanes) : List Byte := ((a.take 17).map fun l => toBytes 8 l.toNat).flatten

/-- n blocks squeezed out. -/
def Lanes.squeeze : Nat → Lanes → List Byte
  | 0, _ => []
  | n + 1, a => a.block ++ Lanes.squeeze n a.permute

/-- The message padded to whole blocks: its suffix byte, zeros, and the last bit. -/
def keccakPad (suffix : Nat) (b : List Byte) : List Byte :=
  let n := 136 - b.length % 136
  if n = 1 then b ++ [BitVec.ofNat 8 (suffix + 128)]
  else b ++ [BitVec.ofNat 8 suffix] ++ List.replicate (n - 2) 0 ++ [128]

/-- The sponge of capacity 512 with a suffix byte: n bytes of output. -/
def keccakSponge (suffix : Nat) (b : List Byte) (n : Nat) : List Byte :=
  let p := keccakPad suffix b
  (Lanes.squeeze ((n + 135) / 136) (Lanes.absorbAll (p.length / 136) (List.replicate 25 0) p)).take n

/-- SHAKE256 of some bytes, with the output length n in bytes (R108, R411). -/
@[irreducible] def shake256 (b : List Byte) (n : Nat) : BitVec (8 * n) := BitVec.ofNat (8 * n) (ofBytes (keccakSponge 0x1F b n))

/-- The number of bytes of a number, at least 1. -/
def byteCount (n : Nat) : Nat := if n < 256 then 1 else if n < 65536 then 2 else if n < 2 ^ 24 then 3 else 8

/-- A length in front of a string, and one behind it, big-endian. -/
def leftEncode (n : Nat) : List Byte := BitVec.ofNat 8 (byteCount n) :: (toBytes (byteCount n) n).reverse
def rightEncode (n : Nat) : List Byte := (toBytes (byteCount n) n).reverse ++ [BitVec.ofNat 8 (byteCount n)]
def encodeString (b : List Byte) : List Byte := leftEncode (8 * b.length) ++ b

/-- Bytes filled up to whole blocks behind the block length. -/
def bytePad (b : List Byte) : List Byte :=
  let x := leftEncode 136 ++ b
  x ++ List.replicate ((136 - x.length % 136) % 136) 0

/-- KMAC256 with a key and a customisation string: n bytes of output. -/
def kmac256 (key b custom : List Byte) (n : Nat) : List Byte :=
  keccakSponge 0x04
    (bytePad (encodeString [0x4B, 0x4D, 0x41, 0x43] ++ encodeString custom) ++ bytePad (encodeString key) ++ b ++ rightEncode (8 * n)) n

/-- The customisation string KE82 FJOIC FRAME of R402. -/
def frameString : List Byte := [0x4B, 0x45, 0x38, 0x32, 0x20, 0x46, 0x4A, 0x4F, 0x49, 0x43, 0x20, 0x46, 0x52, 0x41, 0x4D, 0x45]

/-- The 224-bit tag of a frame: the earmark's key of 64 bytes and the input bytes (R402, R419). -/
@[irreducible] def frameTag (key : Nat) (b : List Byte) : BitVec 224 := BitVec.ofNat 224 (ofBytes (kmac256 (toBytes 64 key) b frameString 28))

end Sys2Proof.Machine
end

