-- ==== Sys2Proof/Machine/GroupTable.lean ====
section
/-! DEFINITION. GroupTable: GRPQ, GRPSET and the partition's group table (R28, R236..R238). -/

namespace Sys2Proof.Machine

/-! ### Members (R236) -/

/-- The descriptor of a tile of this package, for a launch. -/
def Launch.tileDesc (l : Launch) (pkg t : Nat) : Nat :=
  tRow t + tCol t * 2 ^ 8 + l.dieOwn (tDie t) % 8 * 2 ^ 16 + pkg % 4096 * 2 ^ 20
def pkgDesc (pkg : Nat) : Nat := pkg % 4096 * 2 ^ 20 + 2 ^ 32
def isPkg (m : Nat) : Bool := nb m 32

/-- Member order: ascending package id, die, row, col. -/
def memberKey (m : Nat) : Nat := ((nf m 20 12 * 8 + nf m 16 3) * 256 + nf m 0 8) * 256 + nf m 8 8

/-- Insert a member in order; a present one changes nothing. -/
def addMember (m : Nat) : List Nat → List Nat
  | [] => [m]
  | x :: r => if x = m then x :: r else if memberKey m < memberKey x then m :: x :: r else x :: addMember m r

/-- The members of an entry. -/
def State.entryMembers (s : State) (p g : Nat) : List Nat := tget [] (s.part p).gtab g

/-- The position of a tile, or of its package, among the members. -/
def memberPos (ms : List Nat) (l : Launch) (pkg t : Nat) : Option Nat :=
  ms.findIdx? fun m => m == l.tileDesc pkg t || m == pkgDesc pkg

/-! ### GRPQ (R237) -/

/-- The word GRPQ writes. -/
def State.grpQuery (s : State) (t : Nat) (a b : Word) : Nat :=
  let l := s.launch (s.tile t).lid
  let g := wf a 0 8
  let ms := s.entryMembers l.part g
  let own := l.entries.contains g
  if b.getLsbD 16 then
    let ms := if own then ms else []
    let pos := memberPos ms l s.pkg (s.seenTile t)
    ms.length + b2n (ms.any isPkg) * 2 ^ 17 + b2n own * 2 ^ 18 + b2n pos.isSome * 2 ^ 19 + pos.getD 0 * 2 ^ 32
  else if own then (ms[wf b 0 16]?).getD (2 ^ 64 - 1) else 2 ^ 64 - 1

/-! ### GRPSET (R238) -/

/-- The descriptor's reserved bits; a package has row, col and die 0. -/
def descBad (m : Nat) : Bool := nb m 19 || decide (2 ^ 33 ≤ m) || (isPkg m && nf m 0 19 != 0)

/-- FIELD of R238. -/
def grpField (a b : Word) : Bool :=
  wf a 10 54 != 0 ||
  match wf a 8 2 with
  | 0 => descBad b.toNat
  | 1 => descBad b.toNat
  | 2 => b != 0
  | _ =>
    let row := wf b 0 8
    let col := wf b 8 8
    let rows := wf b 16 8
    let cols := wf b 24 8
    wf b 36 28 != 0 || (b.getLsbD 35 && wf b 32 3 != 0) || rows == 0 || cols == 0 || decide (128 < row + rows) || decide (160 < col + cols)

/-- A tile of another package may be a member only of an entry of a pod job's launch (log 20). -/
def State.memberIn (s : State) (l : Launch) (m : Nat) : Bool :=
  if isPkg m then decide (nf m 20 12 < 3072)
  else l.inRect (nf m 0 8) (nf m 8 8) && (if nf m 20 12 = s.pkg then (l.dieNow (nf m 16 3)).isSome else nb l.levels 3 && decide (nf m 20 12 < 3072))

/-- The members an operation names. -/
def State.grpNames (s : State) (t : Nat) (a b : Word) : List Nat :=
  match wf a 8 2 with
  | 2 => []
  | 3 =>
    let l := s.launch (s.tile t).lid
    let d := if b.getLsbD 35 then l.dieOwn (tDie t) else wf b 32 3
    ((List.range (wf b 16 8)).map fun i => (List.range (wf b 24 8)).map fun j =>
      wf b 0 8 + i + (wf b 8 8 + j) * 2 ^ 8 + d * 2 ^ 16 + s.pkg % 4096 * 2 ^ 20).flatten
  | _ => [b.toNat]

/-- A VXCHG, DMCST or tree round naming the entry is outstanding, or a tile has arrived in its phase (R238). -/
def State.grpBusy (s : State) (p g : Nat) : Bool :=
  let dom := entryDom p g
  !(s.root dom).arrived.isEmpty || !(s.round dom).terms.isEmpty ||
  (s.flight.any fun f => match f.msg with
    | .hurArrive d _ => d == dom
    | .treeTerm d _ _ _ => d == dom
    | .treeResult d _ _ _ => d == dom
    | _ => false) ||
  (s.tiles.any fun q => (s.launch q.2.lid).part == p && q.2.seq.any fun e => e.st != .done && wf e.val 0 8 == g &&
    match vecOf e.instr with | some v => v.fn == .xchg | none => false) ||
  (s.pens.any fun q => q.2.jobs.any fun j => j.part == p && j.outstanding && !j.mcast.isEmpty && j.lrec.toNat == g)

/-- How many entries of a partition a member is in. -/
def State.memberships (s : State) (p m : Nat) : Nat := ((s.part p).gtab.filter fun e => e.2.contains m).length

/-- The tiles of this package a member descriptor covers, both copies. -/
def State.descTiles (s : State) (l : Launch) (m : Nat) : List Nat :=
  let ts := if isPkg m then (if nf m 20 12 = s.pkg then l.tiles else []) else (s.descTile l m).toList
  (ts.map s.copies).flatten

/-- A tile joins an entry: its hurdle state for it is reset (R222). -/
def State.joinEntry (s : State) (p g t : Nat) : State :=
  let s := s.updTile t fun tl => { tl with hur := terase tl.hur (4 + g) }
  s.updRoot (entryDom p g) fun r => { r with dropped := r.dropped.filter (· != t) }

/-- GRPSET at the table: its status and the new state (R238). -/
def State.grpSet (s : State) (t : Nat) (a b : Word) : Nat × State :=
  let l := s.launch (s.tile t).lid
  let p := l.part
  let g := wf a 0 8
  let op := wf a 8 2
  let ms := s.entryMembers p g
  let new := s.grpNames t a b
  let fresh := new.filter fun m => !ms.contains m
  if grpField a b then (5, s)
  else if !l.entries.contains g || !(new.all (s.memberIn l)) then (3, s)
  else if s.grpBusy p g then (4, s)
  else if !ms.isEmpty && new.any (fun m => isPkg m != ms.any isPkg) then (2, s)
  else if (op == 0 || op == 3) && (fresh.any (fun m => decide (4 ≤ s.memberships p m)) || decide (65536 < ms.length + fresh.length)) then
    (1, s)
  else
    let put := fun (l : List Nat) => s.updPart p fun q => { q with gtab := tset q.gtab g l }
    match op with
    | 1 => (0, (put (ms.filter fun m => !new.contains m)).updRoot (entryDom p g) fun r => { r with rdrop := r.rdrop.filter fun m => !new.contains m })
    | 2 => (0, (put []).updRoot (entryDom p g) fun r => { r with dropped := [], counters := [], rdrop := [] })
    | _ =>
      let s' := put (fresh.foldl (fun l m => addMember m l) ms)
      (0, (fresh.map (s.descTiles l)).flatten.foldl (fun s t => s.joinEntry p g t) s')

/-! ### The instructions -/

/-- Send a request to the group table; the thread waits in BLOCK for the answer to its number, which both copies of a twin launch count alike
(R237, R238). -/
def State.grpSend (s : State) (set_ : Bool) (d : Reg) (a b : Word) : State :=
  if s.twinFull s.curTile then s.block .poll else
  let k := if s.paired s.curTile then s.curT.twinSeq else s.next
  let g : GrpReq := { num := k, set_ := set_, tile := s.curTile, slot := s.curSlot, d := d, a := a, b := b, result := 0, answer := false, peer := none }
  (s.sendOut s.curTile 4 [11, b2n set_, a.toNat, b.toNat] (.grp g)).block (.table k)

/-- GRPQ (R237). -/
def execGrpq (d a b : Reg) (s : State) : Res := .next (s.grpSend false d (s.xr a) (s.xr b))
/-- GRPSET (R238). -/
def execGrpset (d a b : Reg) (s : State) : Res := .next (s.grpSend true d (s.xr a) (s.xr b))

/-- The answer to request number k at a thread; one that no longer waits for it (it was parked, R242) takes nothing. -/
def State.tableAnswer (s : State) (t u k : Nat) (d : Reg) (v : Word) : State :=
  if (s.slot t u).wait = .table k then
    ((s.updSlot t u fun sl => (sl.setX d v).complete (sl.pc + 4) true).settle t u).parkDue t u
  else s

/-- GROUP_TABLE_ANSWER (R237, R238): the table performs the request and the thread takes the answer. -/
def execGroupTableAnswer (s : State) : Res :=
  .next (match s.arrived with
    | some (.grp g) =>
      let s := s.taken
      let r := if g.set_ then s.grpSet g.tile g.a g.b else (s.grpQuery g.tile g.a g.b, s)
      ((g.tile, g.slot) :: g.peer.toList).foldl (fun s q => s.tableAnswer q.1 q.2 g.num g.d (nw r.1)) r.2
    | _ => s)

end Sys2Proof.Machine
end

