-- ==== Sys2Proof/Machine/Image.lean ====
section
/-! DEFINITION. Image: launch packets, PACKAGE memory as the dispatcher and the management core read it, and Knazen images
(R108..R110, R309, R316, R329, R336, R352..R354). -/

namespace Sys2Proof.Machine

/-! ### PACKAGE memory without a request (log 21) -/

/-- The leaf of an offset under a table at a level, level by level from `lvl` down: level and entry (R354). -/
def State.walkTable (s : State) (p : Part) (va : Nat) : Nat → Nat → Option (Nat × Nat)
  | 0, _ => none
  | n + 1, tbl =>
    let at_ := tbl + 8 * pteIndex n va
    let e := s.load (hbmKey at_) 8
    if (poisonIn s.poison (hbmKey at_) 8).isSome || !pteV e || pteBad p.hbase p.hlen e n then none
    else if pteLeaf e then some (n, e)
    else s.walkTable p va n (pteAddr e)

/-- The storage key of an offset of a partition's PACKAGE memory; none when it does not translate (R352..R354). -/
def State.xlate (s : State) (p va : Nat) (write : Bool) : Option Nat :=
  let q := s.part p
  if !q.ptEn then none else
  match s.walkTable q va 4 q.ptAddr with
  | none => none
  | some (lvl, e) =>
    if pteOwner e ≠ q.owner ∨ (write ∧ !pteW e) then none else some (hbmKey (pteAddr e + va % pageBytes lvl))

/-- n bytes of a partition's PACKAGE memory; none when one does not translate or is poisoned. -/
def State.readPkg (s : State) (p va n : Nat) : Option (List Byte) :=
  (List.range n).mapM fun i => match s.xlate p (va + i) false with
    | none => none
    | some k => if s.poison.contains (k / 16) then none else some (readByte s.mem k)

/-- n bytes of physical HBM4; none where poisoned. -/
def State.readPhys (s : State) (pa n : Nat) : Option (List Byte) :=
  if (poisonIn s.poison (hbmKey pa) n).isSome then none else some ((List.range n).map fun i => readByte s.mem (hbmKey (pa + i)))

/-- Write bytes of a partition's PACKAGE memory; none when one does not translate for writing. -/
def State.writePkg (s : State) (p va : Nat) (b : List Byte) : Option State :=
  ((List.range b.length).zip b).foldl (fun s x => s.bind fun s => (s.xlate p (va + x.1) true).map fun k => s.store k 1 x.2.toNat) (some s)

/-! ### Launch packets (R309, R329) -/

/-- The displacement of the twin rectangle as a distance of tile keys; none where neither place fits (R329). -/
def Launch.twinPlace (l : Launch) : Option Nat :=
  let d := (l.cols + 3) / 4 * 4
  let e := (l.rows + 1) / 2 * 2
  if l.orgc + d + l.cols ≤ 160 then some d
  else if l.orgr + e + l.rows ≤ 128 then some (160 * e)
  else none

def Launch.dieCount (l : Launch) : Nat := pk l.packet 16 1 % 16
def Launch.pin (l : Launch) : Bool := nb (pk l.packet 16 1) 7
def Launch.firstDie (l : Launch) : Nat := pk l.packet 16 1 / 16 % 8
def Launch.grps (l : Launch) : Nat := pk l.packet 40 2
def Launch.chnd (l : Launch) : Nat := pk l.packet 46 1
def Launch.carg (l : Launch) : Nat := pk l.packet 48 8
def Launch.image (l : Launch) : Word := nw (pk l.packet 0 8)
def Launch.lidx (l : Launch) : Nat := pk l.packet 8 2
def Launch.packPrio (l : Launch) : Nat := pk l.packet 18 1 % 8
def Launch.packTwin (l : Launch) : Bool := nb (pk l.packet 18 1) 3

/-- A valid packet (R309), for a launch that is twin or not. -/
def Launch.packetValid (l : Launch) (twin : Bool) : Bool :=
  let p := l.packet
  wf l.image 56 8 == 4 && wf l.image 48 8 == 0 && l.image.toNat % 64 == 0 &&
  decide (l.orgr ≤ 127 ∧ 1 ≤ l.rows ∧ l.rows ≤ 128 ∧ l.orgr + l.rows ≤ 128) &&
  decide (l.orgc ≤ 159 ∧ 1 ≤ l.cols ∧ l.cols ≤ 160 ∧ l.orgc + l.cols ≤ 160) &&
  decide (1 ≤ l.dieCount ∧ l.dieCount ≤ 8) && (!l.pin || decide (l.firstDie + l.dieCount ≤ 8)) &&
  decide (1 ≤ pk p 17 1 ∧ pk p 17 1 < 16) && decide (pk p 18 1 < 16) && decide (l.parkCap ≤ 64) &&
  decide (1 ≤ pk p 20 2 ∧ pk p 20 2 ≤ 256) && decide (l.cnt ≤ 4096) &&
  decide (l.goff % 4096 = 0 ∧ l.glen % 4096 = 0 ∧ l.goff + l.glen ≤ 2 ^ 22) &&
  decide (l.doff % 65536 = 0 ∧ l.dlen % 65536 = 0 ∧ l.doff + l.dlen ≤ 0xA0000000) &&
  decide (l.grps ≤ 256) &&
  (if nb l.levels 3 then decide (1 ≤ l.jobn ∧ l.jobn ≤ 3072) else pk p 42 2 == 0 && l.jobn == 0) &&
  l.chnd / 32 % 4 == 0 && pk p 47 1 == 0 && pk p 56 8 == 0 && decide (l.parkCap * 160 ≤ l.slice) &&
  (!twin || l.twinPlace.isSome)

/-- The further conditions on a packet of LNCH (R309). -/
def Launch.childValid (l : Launch) : Bool := l.dieCount == 1 && !l.pin && decide (l.levels < 4)

/-! ### Images (R108, R109) -/

/-- A section entry. -/
structure Section where
  ty : Nat
  lidx : Nat
  off : Nat
  file : Nat
  size : Nat
  deriving DecidableEq, Repr

/-- n bytes of an image at an offset, as a number. -/
def imgNum (img : List Byte) (off n : Nat) : Nat := ofBytes ((img.drop off).take n)

/-- The section entry at an offset; none where the loader refuses it. -/
def imgSection (img : List Byte) (o : Nat) : Option Section :=
  let x : Section := { ty := imgNum img o 2, lidx := imgNum img (o + 4) 4, off := imgNum img (o + 8) 8, file := imgNum img (o + 16) 8,
                       size := imgNum img (o + 24) 8 }
  if x.ty = 0 ∨ 12 < x.ty ∨ imgNum img (o + 2) 2 ≠ 0 ∨ img.length < x.file + x.size then none else some x

/-- The bytes and sections of an image read through a reader; none where a check of R108 or R109 fails. -/
def readImage (rd : Nat → Nat → Option (List Byte)) : Option (List Byte × List Section) :=
  match rd 0 64 with
  | none => none
  | some h =>
    let n := imgNum h 6 2
    let tbl := imgNum h 8 8
    let len := imgNum h 16 8
    if imgNum h 0 4 ≠ 0x495A4E4B ∨ imgNum h 4 2 ≠ 1 ∨ n = 0 ∨ 4096 < n ∨ imgNum h 24 8 ≠ 0 ∨ len < 64 ∨ len < tbl + 32 * n then none
    else match rd 0 len with
      | none => none
      | some img =>
        if imgNum h 32 32 ≠ (shake256 (img.drop 64) 32).toNat then none
        else ((List.range n).mapM fun i => imgSection img (tbl + 32 * i)).map fun ss => (img, ss)

/-- The bytes of a section. -/
def Section.bytes (x : Section) (img : List Byte) : List Byte := (img.drop x.file).take x.size

/-- The sections of a launch of the image with a type. -/
def secsOf (ss : List Section) (lidx : Nat) (ty : Nat) : List Section := ss.filter fun x => x.lidx == lidx && x.ty == ty

/-! ### Timetables (R336) -/

/-- An entry of a block, its destination relative, and whether its fields are valid. -/
def ttEntryOf (b : List Byte) : TtEntry :=
  { start := imgNum b 0 2, stop := imgNum b 2 2, send := imgNum b 4 1 == 0, dest := imgNum b 6 1 * 256 + imgNum b 7 1,
    ofs := imgNum b 8 2 }
def ttEntryOk (b : List Byte) : Bool :=
  decide (imgNum b 0 2 ≤ imgNum b 2 2) && decide (imgNum b 4 1 ≤ 1) && imgNum b 5 1 == 0 && (imgNum b 4 1 == 0 || imgNum b 6 2 == 0) &&
    imgNum b 10 6 == 0

/-- A block of a timetable section: its header's fields, its entries, and whether they are valid. -/
structure TtBlock where
  lvl : Nat
  idx : Nat
  row : Nat
  col : Nat
  entries : List TtEntry
  ok : Bool
  deriving DecidableEq, Repr

/-- The blocks of a timetable section, at most n. -/
def ttBlocks : Nat → List Byte → List TtBlock
  | 0, _ => []
  | n + 1, b =>
    if b.isEmpty then [] else
    let cnt := imgNum b 2 2
    let es := (List.range cnt).map fun i => (b.drop (8 + 16 * i)).take 16
    { lvl := imgNum b 0 1, idx := imgNum b 1 1, row := imgNum b 4 1, col := imgNum b 5 1, entries := es.map ttEntryOf,
      ok := decide (1 ≤ cnt ∧ cnt ≤ 64 ∧ 8 + 16 * cnt ≤ b.length) && decide (imgNum b 0 1 ≤ 1) && imgNum b 1 1 != 255 && imgNum b 6 2 == 0 &&
        es.all ttEntryOk } :: ttBlocks n (b.drop (8 + 16 * cnt))

/-- The timetable blocks of a launch. -/
def Launch.ttSections (l : Launch) (img : List Byte) (ss : List Section) : List TtBlock :=
  ((secsOf ss l.lidx 9).map fun x => ttBlocks (x.size / 8 + 1) (x.bytes img)).flatten

/-- The key of a block's tile, level and index. -/
def TtBlock.key (b : TtBlock) : Nat := ttKey b.lvl b.idx b.row b.col

/-- The timetables of a launch; destinations become logical coordinates (R26). -/
def Launch.readTts (l : Launch) (img : List Byte) (ss : List Section) : Tbl (List TtEntry) :=
  (l.ttSections img ss).map fun b =>
    (b.key, b.entries.map fun e => if e.send then { e with dest := (e.dest / 256 + l.orgr) * 256 + e.dest % 256 + l.orgc } else e)

/-- The blocks are valid under R336, one for a tile, level and index, and name tiles of the launch alone (R110). What a loader makes of an
invalid block is not said: the launch is ended as for R110 (DESIGN CHOICE, log 99; unsafe). -/
def Launch.ttsFit (l : Launch) (bs : List TtBlock) : Bool :=
  let w := if (bs.any fun b => b.lvl == 0) && bs.any fun b => b.lvl == 1 then 8 else 16
  (bs.map TtBlock.key).eraseDups.length == bs.length &&
  bs.all fun b => b.ok && decide (b.row < l.rows ∧ b.col < l.cols) &&
    b.entries.all fun e => e.ofs % w == 0 && (!e.send || decide (e.dest / 256 < l.rows ∧ e.dest % 256 < l.cols))

/-! ### What an image declares -/

/-- Routine slots: relative row, col, slot, entry pc, readied, argument. -/
def Launch.readRoutines (l : Launch) (img : List Byte) (ss : List Section) : List (Nat × Nat × Nat × Nat × Bool × Nat) :=
  ((secsOf ss l.lidx 8).map fun x => Config.routineTable (x.bytes img)).flatten

/-- Group entries with relative members. -/
def Launch.readEntries (l : Launch) (img : List Byte) (ss : List Section) : List (Nat × Bool × List Nat) :=
  ((secsOf ss l.lidx 10).map fun x => Config.groupEntries (x.bytes img)).flatten

/-- The members of an entry once placed: relative coordinates become logical ones, the k-th die given stands for die k, and a member on
every die is listed for each (R26, log 35). -/
def Launch.placeMembers (l : Launch) (pkg : Nat) (ms : List Nat) : List Nat :=
  (ms.map fun m =>
    if isPkg m then [m]
    else
      let at_ := fun d => nf m 0 8 + l.orgr + (nf m 8 8 + l.orgc) * 2 ^ 8 + d * 2 ^ 16 + pkg % 4096 * 2 ^ 20
      if nb m 19 then l.dies.map at_ else ((l.dies[nf m 16 3]?).map at_).toList).flatten.foldl (fun r m => addMember m r) []

/-- Counter declarations: binding address, die, arm record. -/
def Launch.readCounters (l : Launch) (img : List Byte) (ss : List Section) : List (Nat × Nat × Option Nat) :=
  ((secsOf ss l.lidx 11).map fun x => Config.counterDecls (x.bytes img)).flatten

/-- A declaration binds one index, or one per tile (R289). -/
def Launch.declWidth (l : Launch) (d : Nat × Nat × Option Nat) : Nat :=
  if nf d.1 56 8 = 0 then l.rows * l.cols * l.dieCount else 1

/-- Two sections of one kind overlap. -/
def secsOverlap : List Section → Bool
  | [] => false
  | x :: r => (r.any fun y => decide (x.off < y.off + y.size ∧ y.off < x.off + x.size)) || secsOverlap r

/-- The number of group-table entries an image holds, of all its launches. -/
def imageEntries (img : List Byte) (ss : List Section) : Nat :=
  ((ss.filter fun x => x.ty == 10).map fun x => (Config.groupEntries (x.bytes img)).length).foldl (· + ·) 0

/-- The image agrees with the packet and obeys R110 where a loaded image shows it (R316); an entry with more members than R236 lets it hold is
refused in the same way (DESIGN CHOICE, log 99; unsafe). -/
def Launch.imageFits (l : Launch) (img : List Byte) (ss : List Section) : Bool :=
  let mine := fun t => secsOf ss l.lidx t
  let loc := mine 1 ++ mine 2
  let grp := mine 3 ++ mine 5
  let die := mine 4 ++ mine 6
  let ents := l.readEntries img ss
  (ss.any fun x => x.lidx == l.lidx && x.ty != 12) &&
  (loc.all fun x => decide (x.off + x.size ≤ l.parkBase)) && decide ((loc.map Section.size).foldl (· + ·) 0 ≤ l.parkBase) &&
  (grp.all fun x => decide (l.goff ≤ x.off ∧ x.off + x.size ≤ l.goff + l.glen ∧ x.off % 64 = 0)) &&
  (die.all fun x => decide (l.doff ≤ x.off ∧ x.off + x.size ≤ l.doff + l.dlen ∧ x.off % 64 = 0)) &&
  !secsOverlap grp && !secsOverlap die &&
  decide (((l.readCounters img ss).foldl (fun n d => n + l.declWidth d) 0) ≤ l.cnt) && ents.length == l.grps &&
  l.ttsFit (l.ttSections img ss) && decide (imageEntries img ss ≤ 256) &&
  ((l.readRoutines img ss).all fun r => decide (r.1 < l.rows ∧ r.2.1 < l.cols ∧ r.2.2.1 < 32)) &&
  (ents.all fun e => decide ((l.placeMembers 0 e.2.2).length ≤ 65536)) &&
  (ents.all fun e => e.2.2.all fun m => decide ((ents.filter fun f => f.2.2.contains m).length ≤ 4))

/-- Bytes of the supervisor image the management core keeps. -/
def Part.keptImg (p : Part) (o n : Nat) : Option (List Byte) := if o + n ≤ p.img.length then some ((p.img.drop o).take n) else none

/-- The image a packet names, checked (R316); a supervisor launch's is kept by the management core. -/
def State.imageOf (s : State) (l : Launch) : Option (List Byte × List Section) :=
  match readImage fun o n => if l.supervisor then (s.part l.part).keptImg o n else s.readPkg l.part (l.image.toNat % 2 ^ 48 + o) n with
  | some (img, ss) => if l.imageFits img ss then some (img, ss) else none
  | none => none

end Sys2Proof.Machine
end

