-- ==== Sys2Proof/Machine/Dispatcher.lean ====
section
/-! DEFINITION. Dispatcher: launch queues and pools, distribution, placement, completion, pre-emption requests (R27, R232..R235,
R306..R317, R321, R324..R327). -/

namespace Sys2Proof.Machine

/-! ### Who holds what (R311) -/

/-- A launch that holds its reservations on logical die d. -/
def Launch.holdsOn (l : Launch) (d : Nat) : Bool :=
  l.st != .done && l.st != .pending &&
    (((List.range l.cur.length).zip l.cur).any fun p => p.2 == d && !l.savedDies.contains ((l.dies[p.1]?).getD p.2))

/-- Two half-open ranges meet; an empty one meets none. -/
def meet (a n b m : Nat) : Bool := decide (0 < n ∧ 0 < m ∧ a < b + m ∧ b < a + n)

/-- The tiles a launch takes on a die: its rectangle and its twin. -/
def Launch.tilesAt (l : Launch) (d : Nat) : List Nat :=
  l.tilesOn d ++ (if l.twin then (l.tilesOn d).map (twinShift l) else [])

/-- The groups a launch touches. -/
def Launch.groups (l : Launch) : List Nat := (List.range 320).filter l.touches

/-- A tile that could hold a launch: usable, not fenced, not withdrawn, no supervisor tile (R281, R375, R382, R418). -/
def State.tileUsable (s : State) (t : Nat) : Bool :=
  let tl := s.tile t
  !tl.unusable && !s.fenced t && tl.margin.st == 0 && (s.pen (penKey t)).margin.st == 0 &&
  !((List.range 16).any fun q => (s.part q).valid && (s.part q).dies.getLsbD (s.logDie (tDie t)) && s.supTile q (tDie t) == t) &&
  !(s.group (tGroupKey t)).dead

/-- A launch holds the tile: it runs there, or has been distributed to it (R311). -/
def State.tileHeld (s : State) (t : Nat) : Bool :=
  (s.tile t).lid != 0 || s.launches.any fun m => m.2.holdsOn (tDie t) && (m.2.tilesAt (tDie t)).contains t

/-- A tile the dispatcher may use (R315), which R315 does not ask to lie in the partition's rectangle (log 32). -/
def State.tileFree (s : State) (t : Nat) : Bool :=
  !(s.launches.any fun m => m.2.holdsOn (tDie t) && (m.2.tilesAt (tDie t)).contains t) && s.tileUsable t

/-- The group and die ranges are free. -/
def State.rangesFree (s : State) (l : Launch) (d : Nat) : Bool :=
  !(s.launches.any fun m => m.2.holdsOn d &&
    (meet l.doff l.dlen m.2.doff m.2.dlen || (meet l.goff l.glen m.2.goff m.2.glen && l.groups.any m.2.touches)))

/-! ### Binding counters (R289) -/

/-- The controller of a binding address for a launch; none for a window that has none. A die number in the image counts the dies the
launch was given, from 0 (R26, R289, log 35). -/
def Launch.bindAt (l : Launch) (base die : Nat) : Option (Nat × Nat) :=
  let dn := l.cur[die]?
  match decodeWin (nw base) with
  | some (.tile r c _) => dn.map fun d => (0, tileKey d (r + l.orgr) (c + l.orgc))
  | some (.group self g _) => dn.map fun d => (1, groupKey d (if self then 20 * (l.orgr / 8) + l.orgc / 8 else g))
  | some (.die self d _) => (if self then dn else l.cur[d]?).map fun d => (2, d)
  | some (.package off) => some (3, agentOf off)
  | _ => none

/-- The controllers a declaration binds, in index order. -/
def Launch.declCtrs (l : Launch) (d : Nat × Nat × Option Nat) : List (Option (Nat × Nat)) :=
  if nf d.1 56 8 = 0 then l.tiles.map fun t => some (0, t) else [l.bindAt d.1 d.2.1]

/-- An image's arm record once placed: a TILE base is relative to the rectangle, and the die numbers of a DIE base and of a target
become the launch's (R26, R314); none where the launch was given no such die. R26 lists no target of a firing among the relative coordinates: the
row and col of an inbox target are taken as they stand (DESIGN CHOICE, log 35; unsafe). -/
def Launch.absArm (l : Launch) (r : Nat) : Option Nat :=
  let die := fun (v at_ : Nat) => (l.dies[nf v at_ 3]?).map fun d => nput v at_ 3 d
  (match nf r 56 8 with
    | 1 => some (r + l.orgr * 2 ^ 40 + l.orgc * 2 ^ 32)
    | 3 => if nb r 35 then some r else die r 32
    | _ => some r).bind fun r =>
  match arAct r with
  | 1 => die r 169
  | 2 => die r 176
  | _ => some r

/-- The tile that armed an entry at launch: the north-west tile on the launch's first die (R304). -/
def Launch.armer (l : Launch) : Nat := l.orgr + l.orgc * 256 + l.dies.headD 0 * 65536

/-- Bind one index to a free entry of a controller; an entry with a record is armed. -/
def State.bindOne (s : State) (lid idx : Nat) (at_ : Option (Nat × Nat)) (rec? : Option Nat) : Option State :=
  at_.bind fun c => (s.ctrFree c.1 c.2).map fun k =>
    let s := (s.updLaunch lid fun l => { l with ctrs := tset l.ctrs idx k }).updCounter k fun _ =>
      { Counter.fresh with index := idx, lid := lid }
    match rec?.bind (s.launch lid).absArm with
    | some r => s.armAt k r idx lid (s.launch lid).armer
    | none => s

/-- Bind every declared index, from an index on. -/
def State.bindAll (s : State) (lid : Nat) : Nat → List (List (Option (Nat × Nat)) × Option Nat) → Option State
  | _, [] => some s
  | idx, (cs, r) :: rest =>
    match ((List.range cs.length).zip cs).foldl (fun s c => s.bind fun s => s.bindOne lid (idx + c.1) c.2 r) (some s) with
    | none => none
    | some s => s.bindAll lid (idx + cs.length) rest

/-- Bind the counters of launch lid's image. -/
def State.bindImage (s : State) (lid : Nat) (img : List Byte) (ss : List Section) : Option State :=
  let l := s.launch lid
  s.bindAll lid 0 ((l.readCounters img ss).map fun d => (l.declCtrs d, d.2.2))

/-! ### Placement checks (R315) -/

/-- A die is ready and not in a re-roling sequence (R283, R409). -/
def State.dieReady (s : State) (d : Nat) : Bool := s.dieExists d && s.mgmt.ready.getLsbD (34 + s.logDie d) && !s.draining d

/-- The die fits the launch (R315), counters and group entries apart. -/
def State.dieFits (s : State) (l : Launch) (d : Nat) : Bool :=
  s.dieReady d && ((l.tilesAt d).all s.tileFree) && s.rangesFree l d

/-- The ways to take n of some dies, in ascending order. -/
def dieSets : Nat → List Nat → List (List Nat)
  | 0, _ => [[]]
  | _ + 1, [] => []
  | n + 1, d :: r => (dieSets n r).map (d :: ·) ++ dieSets (n + 1) r

/-- The sets of dies the launch could take, counters and group entries apart (R315). -/
def State.dieChoices (s : State) (l : Launch) (pool : Option Nat) : List (List Nat) :=
  (match pool with
    | some d => [[d]]
    | none => if l.pin then [(List.range l.dieCount).filterMap fun i => s.realDie (i + l.firstDie)]
              else dieSets l.dieCount ((List.range 8).filter (s.dieFits l))).filter fun ds =>
    decide (ds.length = l.dieCount) && ds.all (s.dieFits l)

/-- Reserve a launch's group-table entries and counters (R311): none when a controller has no free entry (R289). -/
def State.reserveTables (s : State) (lid : Nat) (img : List Byte) (ss : List Section) : Option State :=
  (s.updLaunch lid fun l => { l with entries := (l.readEntries img ss).map Prod.fst }).bindImage lid img ss

/-- The group-table entries of the image are free in the partition's table. -/
def State.entriesFree (s : State) (p : Nat) (es : List (Nat × Bool × List Nat)) : Bool :=
  es.all fun e => !(s.launches.any fun m => m.2.part == p && m.2.st != .done && m.2.entries.contains e.1)

/-- What the dispatcher can do with a candidate. -/
inductive Fit where
  /-- the command's address does not translate: ERR (R306). -/
  | err
  /-- ended without running (R309, R316). -/
  | bad
  /-- cannot be placed now. -/
  | wait
  | go (dies : List Nat)
  deriving DecidableEq, Repr

/-- The launch record l, as number lid, on the dies it could take. -/
def State.fit (s : State) (lid : Nat) (l : Launch) (pool : Option Nat) : Fit :=
  if !l.packetValid l.twin then .bad else
  match s.imageOf l with
  | none => .bad
  | some (img, ss) =>
    let ok := fun (ds : List Nat) =>
      s.entriesFree l.part (l.readEntries img ss) &&
      ((s.updLaunch lid fun _ => { l with dies := ds.map s.logDie, cur := ds }).reserveTables lid img ss).isSome
    match (s.dieChoices l pool).find? ok with
    | some ds => .go ds
    | none => .wait

/-! ### Identifiers (R313) -/

/-- A completion entry of a launch stands in the tile's inbox (R234). -/
def Tile.hasEntry (t : Tile) (n : Nat) : Bool := t.inbox.any fun e => nf e.toNat 0 16 == 3 && nf e.toNat 16 16 == n

/-- An identifier names a launch that is still known, or an entry not dequeued, or a launch an XSAVE waits for. -/
def State.lidUsed (s : State) (n : Nat) : Bool :=
  (s.launches.any fun l => l.1 == n && (l.2.st != .done || l.2.ended)) || (s.tiles.any fun t => t.2.hasEntry n) ||
  s.tiles.any fun t => t.2.slots.any fun u => match u.2.wait with | .xsave x _ => x == n | _ => false

/-- The first unused identifier from n on, among k tries. -/
def State.lidFrom (s : State) : Nat → Nat → Nat
  | 0, n => n
  | k + 1, n => if s.lidUsed n then s.lidFrom k (if n ≥ 0xFFFE then 1 else n + 1) else n

def State.freshLid (s : State) : Nat := s.lidFrom (s.launches.length + s.tiles.length + 1) s.nextLid

/-! ### Queues (R306, R307) -/

/-- The partition that owns a queue (R418). -/
def State.queuePart (s : State) (q : Nat) : Option Nat :=
  (List.range 16).find? fun p => (s.part p).valid && (s.part p).queues.getLsbD q

/-- A served queue with a command ready (R307). -/
def State.queueReady (s : State) (q : Nat) : Bool :=
  let d := s.queue q
  d.en && d.cur == 0 && d.head != d.tail && (s.queuePart q).isSome

/-- The command at HEAD (R307); none when its address does not translate. -/
def State.queueCmd (s : State) (q : Nat) : Option (BitVec 512) :=
  let d := s.queue q
  match s.queuePart q with
  | none => none
  | some p =>
    let at_ := d.base + 64 * (d.head % 2 ^ d.lsize)
    if nf at_ 48 16 ≠ 0x0400 then none else (s.readPkg p (at_ % 2 ^ 48) 64).map fun b => BitVec.ofNat 512 (ofBytes b)

/-- The launch record of a queue's command (R308, R329). -/
def State.queueLaunch (s : State) (q : Nat) (pkt : BitVec 512) : Launch :=
  let l := { Launch.fresh with packet := pkt, st := .placing, prio := (s.queue q).prio, part := (s.queuePart q).getD 0, queue := some q }
  let tw := l.packTwin || (s.queue q).twin
  { l with twin := tw, twinOff := if tw then l.twinPlace.getD 0 else 0 }

/-- The dwords of a descriptor (R306). -/
def State.qdRead (s : State) (q i : Nat) : Nat :=
  let d := s.queue q
  match i with
  | 0 => d.base
  | 1 => d.lsize + d.prio * 2 ^ 4 + d.plvl * 2 ^ 7 + b2n d.pen * 2 ^ 10 + b2n d.twin * 2 ^ 11 + b2n d.en * 2 ^ 12 + b2n d.err * 2 ^ 13 +
      d.cur * 2 ^ 32
  | 2 => d.head + d.tail * 2 ^ 32
  | _ => d.done_ + d.ended * 2 ^ 32

/-- A write of TAIL (R307). -/
def State.tailWrite (s : State) (q tail : Nat) : State :=
  s.updQueue q fun d =>
    let d := { d with tail := tail % 2 ^ 32 }
    if 2 ^ d.lsize < (d.tail + 2 ^ 32 - d.head) % 2 ^ 32 then { d with err := true, en := false } else d

/-- A write of a descriptor dword (R306). -/
def State.qdWrite (s : State) (q i v : Nat) : State :=
  match i with
  | 0 => if v % 64 ≠ 0 then s else s.updQueue q fun d => { d with base := v % 2 ^ 64 }
  | 1 => s.updQueue q fun d =>
      { d with lsize := min 16 (max 4 (v % 16)), prio := nf v 4 3, plvl := nf v 7 3, pen := nb v 10, twin := nb v 11, en := nb v 12,
               err := d.err && !nb v 13 }
  | 2 => s.tailWrite q (nf v 32 32)
  | _ => s

/-- QUEUE_TAIL_WRITE (R307): a write of ev.a to TAIL of queue ev.num. -/
def execQueueTailWrite (s : State) : Res := .next (s.tailWrite s.ev.num s.ev.a)

/-! ### Candidates (R317) -/

/-- A candidate: a pool entry with its die, or a queue. -/
inductive Cand where
  | pool (d lid : Nat)
  | queue (q : Nat)
  deriving DecidableEq, Repr

/-- The candidates of one priority, in order. -/
def State.candsAt (s : State) (prio : Nat) : List Cand :=
  (s.dies.map fun d => (d.2.pool.filter fun l => (s.launch l).prio == prio).map fun l => Cand.pool d.1 l).flatten ++
  (let qs := (s.queues.filter fun q => q.2.en && q.2.prio == prio && s.queueReady q.1).map Prod.fst
   let r := nf s.rr (6 * prio) 6
   (qs.filter (r ≤ ·) ++ qs.filter (· < r)).map Cand.queue)

/-- All candidates, higher priority first. -/
def State.cands (s : State) : List Cand := ([7, 6, 5, 4, 3, 2, 1, 0].map s.candsAt).flatten

/-- What can be done with a candidate. -/
def State.candFit (s : State) : Cand → Fit
  | .pool d lid => s.fit lid (s.launch lid) (some d)
  | .queue q => match s.queueCmd q with
    | none => .err
    | some pkt => s.fit s.freshLid (s.queueLaunch q pkt) none

/-- The first candidate the dispatcher can do something with. -/
def State.pick (s : State) : Option (Cand × Fit) :=
  s.cands.findSome? fun c => match s.candFit c with
    | .wait => none
    | f => some (c, f)

/-! ### Completion of a launch and its entry (R234, R303, R307) -/

/-- The launch has completed: its queue advances, its entry for the parent waits, its children have no parent, and the end of one whose entry
waited for this parent is done (R234, R307, R328). -/
def State.finishLaunch (s : State) (lid : Nat) (ended : Bool) (cycles : Nat) : State :=
  let l := s.launch lid
  let s := match l.queue with
    | some q => s.updQueue q fun d =>
        { d with cur := 0, head := (d.head + 1) % 2 ^ 32, done_ := (d.done_ + 1) % 2 ^ 32,
                 ended := if ended then (d.ended + 1) % 2 ^ 16 else d.ended }
    | none => s
  let s := s.updLaunch lid fun l =>
    { l with st := .done, endSt := if ended || l.damaged then 1 else 0, cycles := cycles, ended := l.parent != 0, told := false, marked := false,
             t0 := s.now - cycles }
  let mine := fun (l : Launch) => l.parent == lid && lid != 0
  let over_ := s.lendBusy != 0 && mine (s.launch s.lendBusy) && (s.launch s.lendBusy).st == .done
  { s with launches := s.launches.map (fun p => if mine p.2 then (p.1, { p.2 with parent := 0, ended := false }) else p),
           preempt := if s.preempt = lid then 0 else s.preempt, lendBusy := if over_ then 0 else s.lendBusy,
           lendStat := if over_ && s.lendStat == 1 then 2 else s.lendStat }

/-- A tile no launch holds: what belongs to the tile itself stays (R312). -/
def Tile.cleared (t : Tile) : Tile :=
  { Tile.fresh with slots := t.slots.map (fun p => (p.1, p.2.freed)), lastSlot := t.lastSlot, issuedAt := t.issuedAt,
                    cycle0 := t.cycle0, sel := t.sel, margin := t.margin, unusable := t.unusable, halted := t.halted, wref := t.wref,
                    rmrg := t.rmrg }

/-- A group's pool without a launch's tasks. -/
def Group.dropTasks (g : Group) (lid : Nat) : Group :=
  { g with banks := g.banks.map fun b => (b.1, b.2.filter fun k => k.lid != lid) }
/-- A pen without a launch's jobs, and a die without the mismatches of its tiles. -/
def Pen.dropJobs (p : Pen) (lid : Nat) : Pen := { p with jobs := p.jobs.filter fun j => j.lid != lid }
def Die.dropTwins (d : Die) (ts : List Nat) : Die := { d with twins := d.twins.filter fun w => !ts.contains w.1 }

/-- A counter's name belongs to a launch: that of an entry it holds, or of a saved one. -/
def State.ctrOf (s : State) (lid k : Nat) : Bool :=
  (s.counter k).lid == lid || decide (savedCtr lid 0 ≤ k ∧ k < savedCtr (lid + 1) 0)

/-- Counters, firings, group entries, roots, rounds and tasks of a launch are released (R27, R303). -/
def State.releaseTables (s : State) (lid : Nat) : State :=
  let l := s.launch lid
  let mine := fun (d : Nat) => if domIsEntry d then domPart d == l.part && l.entries.contains (domEntry d)
    else if domIsJob d then s.jobLaunches d == [lid] else domLid d == lid
  let s := s.updPart l.part fun p => { p with gtab := p.gtab.filter fun e => !l.entries.contains e.1 }
  let s := { s with counters := s.counters.filter (fun c => c.2.lid != lid), firings := s.firings.filter (fun f => (s.counter f.key).lid != lid),
                    roots := (s.roots.filter (fun (r : Nat × Root) => !mine r.1)).map (fun (r : Nat × Root) =>
                      (r.1, { r.2 with counters := r.2.counters.filter fun c => !s.ctrOf lid c.1 })),
                    rounds := s.rounds.filter (fun r => !mine r.1),
                    groups := s.groups.map (fun (g : Nat × Group) => (g.1, g.2.dropTasks lid)),
                    saved := s.saved.filter (fun v => v.lid != lid) }
  s.updLaunch lid fun l => { l with entries := [], ctrs := [] }

/-- The reservations of a launch are released (R27). -/
def State.releaseLaunch (s : State) (lid : Nat) : State :=
  let ts := (s.tiles.filter fun t => t.2.lid == lid).map Prod.fst
  let s := { s with tiles := s.tiles.map (fun (t : Nat × Tile) => if t.2.lid = lid then (t.1, t.2.cleared) else t),
                    pairs := s.pairs.filter (fun q => !ts.contains q.tile),
                    pens := s.pens.map (fun (p : Nat × Pen) => (p.1, p.2.dropJobs lid)),
                    dies := s.dies.map (fun (d : Nat × Die) => (d.1, d.2.dropTwins ts)) }
  s.releaseTables lid

/-! ### DISPATCH_DISTRIBUTE (R317) -/

/-- A candidate leaves its pool, or its queue takes the identifier. -/
def State.takeCand (s : State) (c : Cand) : State × Nat :=
  match c with
  | .pool d lid => (s.updDie d fun x => { x with pool := x.pool.filter (· != lid) }, lid)
  | .queue q =>
    let id := s.freshLid
    let l := match s.queueCmd q with
      | some pkt => s.queueLaunch q pkt
      | none => Launch.fresh
    ({ (s.updLaunch id fun _ => l).updQueue q fun d => { d with cur := id } with
        nextLid := if id ≥ 0xFFFE then 1 else id + 1, rr := nput s.rr (6 * l.prio) 6 ((q + 1) % 64) }, id)

/-- A launch is distributed to dies: it holds its reservations from here on (R311, R315). -/
def State.distribute (s : State) (lid : Nat) (ds : List Nat) : State :=
  let s := s.updLaunch lid fun l => { l with st := .placing, dies := ds.map s.logDie, cur := ds, t0 := s.now }
  let s := match s.imageOf (s.launch lid) with
    | some (img, ss) => (s.reserveTables lid img ss).getD s
    | none => s
  { s with distAt := s.now }.send 1 (.placed lid)

/-- DISPATCH_DISTRIBUTE (R317): the first candidate that can be placed, one in a cycle; one whose command cannot be read stops its queue, and
one that is not valid ends at once (R306, R309, R316). -/
def execDispatchDistribute (s : State) : Res :=
  .next (match s.pick with
    | none => s
    | some (.queue q, .err) => s.updQueue q fun d => { d with err := true, en := false }
    | some (c, .go ds) =>
      let (s, lid) := s.takeCand c
      s.distribute lid ds
    | some (c, _) =>
      let (s, lid) := s.takeCand c
      s.finishLaunch lid true 0)

/-! ### LAUNCH_PLACED (R312) -/

/-- Write zero over n bytes of a group's SRAM, line by line. -/
def State.zeroGroup (s : State) (g off n : Nat) : State :=
  (List.range (n / 256)).foldl (fun s i => s.zeroRange (s.groupByteKey g (off + 256 * i)) 256) s

/-- Write zero over n bytes of die SRAM, page by page. -/
def State.zeroDie (s : State) (d off n : Nat) : State :=
  (List.range (n / 65536)).foldl (fun s i => s.zeroRange (s.dieByteKey d (off + 65536 * i)) 65536) s

/-- Store bytes at a place byte by byte. -/
def State.loadBytes (s : State) (key : Nat → Nat) (off : Nat) (b : List Byte) : State :=
  ((List.range b.length).zip b).foldl (fun s x => { s with mem := writeByte s.mem (key (off + x.1)) x.2 }) s

/-- Zero a launch's reserved memory and load its sections (R312), both copies of a twin launch. -/
def State.loadLaunch (s : State) (l : Launch) (img : List Byte) (ss : List Section) : State :=
  let gs := (l.cur.map fun d => l.groups.map (groupKey d)).flatten
  let s := l.allTiles.foldl (fun s t => s.zeroRange (s.sliceKey t 0) l.slice) s
  let s := gs.foldl (fun s g => s.zeroGroup g l.goff l.glen) s
  let s := l.cur.foldl (fun s d => s.zeroDie d l.doff l.dlen) s
  (ss.filter fun x => x.lidx == l.lidx).foldl (fun s x =>
    let b := x.bytes img
    match x.ty with
    | 1 => l.allTiles.foldl (fun s t => s.loadBytes (s.sliceKey t) x.off b) s
    | 2 => l.allTiles.foldl (fun s t => s.loadBytes (s.sliceKey t) x.off b) s
    | 3 => gs.foldl (fun s g => s.loadBytes (s.groupByteKey g) x.off b) s
    | 5 => gs.foldl (fun s g => s.loadBytes (s.groupByteKey g) x.off b) s
    | 4 => l.cur.foldl (fun s d => s.loadBytes (s.dieByteKey d) x.off b) s
    | 6 => l.cur.foldl (fun s d => s.loadBytes (s.dieByteKey d) x.off b) s
    | _ => s) s

/-- The timetable state of a tile at the launch's release cycle (R29, R224, R312). -/
def Launch.tt0 (l : Launch) (now t lvl : Nat) : TtState :=
  let i := if (tget? l.tts (ttKey lvl 0 (tRow t - l.orgr) (tCol t - l.orgc))).isSome then 0 else 255
  { sel := i, cur := i, run := true, slot := false, t0 := now, sent := 0 }

/-- The routine slots of a tile from the image (R19, R312): a slot the image does not ready is held (R106, log 33). -/
def Launch.routines0 (l : Launch) (rs : List (Nat × Nat × Nat × Nat × Bool × Nat)) (t : Nat) : Tbl Routine :=
  (rs.filter fun r => r.1 + l.orgr == tRow t && r.2.1 + l.orgc == tCol t).foldl (fun tb r =>
    tset tb r.2.2.1 { rent := nw r.2.2.2.1, rarg := nw r.2.2.2.2.2, rdy := r.2.2.2.2.1, hld := !r.2.2.2.2.1, run := false, mrg := false, vld := true,
                          from_ := 0, lastAt := 0, lastBy := 0 }) []

/-- A tile as its launch starts it (R312); t names the primary's tile. -/
def Launch.tile0 (l : Launch) (lid now : Nat) (rs : List (Nat × Nat × Nat × Nat × Bool × Nat)) (twin : Bool) (t : Nat) (old : Tile) : Tile :=
  { old.cleared with lid := lid, twin := twin, routines := l.routines0 rs t, phase := BitVec.ofNat 4 l.levels, parkCap := l.parkCap,
                     tt := [(0, l.tt0 now t 0), (1, l.tt0 now t 1)], changed := now }

/-- The code regions in section order (R30, R365). -/
def Launch.regions0 (l : Launch) (ss : List Section) : List CodeRegion :=
  (ss.filter fun x => x.lidx == l.lidx && (x.ty == 3 || x.ty == 4)).map fun x => { die := x.ty == 4, base := x.off, len := x.size, nx := [] }

/-- Place a launch whose tables are reserved: memory, tiles, group entries (R312). -/
def State.placeLaunch (s : State) (lid : Nat) (img : List Byte) (ss : List Section) : State :=
  let l0 := s.launch lid
  let es := l0.readEntries img ss
  let l := { l0 with st := .running, regions := l0.regions0 ss, tts := l0.readTts img ss }
  let s := (s.updLaunch lid fun _ => l).loadLaunch l img ss
  let rs := l.readRoutines img ss
  let s := l.tiles.foldl (fun s t => s.updTile t (l.tile0 lid s.now rs false t)) s
  let s := if l.twin then l.tiles.foldl (fun s t => s.updTile (twinShift l t) (l.tile0 lid s.now rs true t)) s else s
  s.updPart l.part fun p => { p with gtab := (es.filter fun e => l.entries.contains e.1).foldl (fun g e => tset g e.1 (l.placeMembers s.pkg e.2.2)) p.gtab }

/-- A launch that was distributed ends without having run: what it held is released. -/
def State.endUnrun (s : State) (lid : Nat) : State := (s.releaseTables lid).finishLaunch lid true 0

/-- LAUNCH_PLACED (R315): the placement completes; an image or a tile lost since distribution ends the launch unrun. -/
def execLaunchPlaced (s : State) : Res :=
  .next (match s.arrived with
    | some (.placed lid) =>
      let s := s.taken
      let l := s.launch lid
      if l.st ≠ .placing then s else
      match s.imageOf l with
      | some (img, ss) => if l.allTiles.any s.fenced then s.endUnrun lid else s.placeLaunch lid img ss
      | none => s.endUnrun lid
    | _ => s)

/-! ### LAUNCH_COMPLETE (R27) and the child's entry (R234) -/

/-- A tile holds nothing of its launch that keeps it from completing. -/
def Tile.idleFor (t : Tile) (lid : Nat) : Bool :=
  (t.slots.all fun u => u.2.st == .free || u.2.lid != lid) && (t.parkq.all fun c => c.lid != lid) &&
  (t.lid != lid || t.routines.all fun r => !r.2.rdy && !r.2.run)

/-- R27. -/
def State.launchDone (s : State) (lid : Nat) : Bool :=
  let l := s.launch lid
  l.st == .running && !l.supervisor && l.savedDies.isEmpty && (s.tiles.all fun t => t.2.idleFor lid) &&
  (s.groups.all fun g => g.2.banks.all fun b => b.2.all fun k => k.lid != lid) &&
  (s.pens.all fun p => p.2.jobs.all fun j => j.lid != lid || !j.outstanding)

/-- LAUNCH_COMPLETE (R27): launch ev.num. -/
def execLaunchComplete (s : State) : Res :=
  let lid := s.ev.num
  .next (if s.launchDone lid then (s.releaseLaunch lid).finishLaunch lid false (s.now - (s.launch lid).t0) else s)

/-- The tiles that take a child's entry; empty when its parent is saved on that die. -/
def State.childTiles (s : State) (l : Launch) : List Nat :=
  let p := s.launch l.parent
  if p.savedDies.contains (tDie l.ptile) then [] else
  match p.dieNow (tDie l.ptile) with
  | some d => s.copies (tileKey d (tRow l.ptile) (tCol l.ptile))
  | none => []

/-- A child whose entry can be placed now. -/
def State.childReady (s : State) (l : Launch) : Bool :=
  l.ended && !l.told && l.parent != 0 && !(s.childTiles l).isEmpty && (s.childTiles l).all fun t => (s.tile t).room

/-- The child that completed first among them. -/
def State.childNext (s : State) : Option Nat :=
  ((s.launches.filter fun p => s.childReady p.2).foldl (fun b p => match b with
    | none => some p
    | some x => if p.2.t0 + p.2.cycles < x.2.t0 + x.2.cycles then some p else b) none).map Prod.fst

/-- The entry of R234. -/
def Launch.entry (l : Launch) (lid : Nat) : Entry :=
  mkEntry (3 + lid * 2 ^ 16 + l.endSt * 2 ^ 32 + l.chnd * 2 ^ 40) l.carg l.cycles 0

/-- CHILD_COMPLETION_PLACE (R234): the end of the launch, when c:LEND waits for this entry, is then done (R328). -/
def execChildCompletionPlace (s : State) : Res :=
  .next (match s.childNext with
    | none => s
    | some lid =>
      let l := s.launch lid
      let s := (s.childTiles l).foldl (fun s t => s.placeInbox t (l.entry lid) (nw l.carg)) s
      let s := s.updLaunch lid fun l => { l with told := true }
      if s.lendBusy = lid then { s with lendBusy := 0, lendStat := if s.lendStat = 1 then 2 else s.lendStat } else s)

/-! ### LNCH and LSTAT (R232, R235, R321) -/

/-- Entries in a die's pool. -/
def State.poolCount (s : State) (d : Nat) : Nat := (s.die d).pool.length

/-- The child record of a packet. -/
def State.childLaunch (s : State) (t : Nat) (pkt : BitVec 512) : Launch :=
  let pid := (s.tile t).lid
  let p := s.launch pid
  let l := { Launch.fresh with packet := pkt, st := .pending, depth := p.depth + 1, part := p.part, parent := pid }
  let b := s.seenTile t
  let tw := l.packTwin || p.twin
  { l with prio := min l.packPrio p.prio, twin := tw, twinOff := if tw then l.twinPlace.getD 0 else 0,
           ptile := tileKey (s.ownDie t) (tRow b) (tCol b) }

/-- The push of R232: the word x[d] receives. -/
def State.launchChild (s : State) (t : Nat) (pkt : BitVec 512) : Nat × State :=
  let l := s.childLaunch t pkt
  let d := tDie t
  if !(l.packetValid l.twin && l.childValid) then (3 * 2 ^ 16, s)
  else if 8 < l.depth then (2 * 2 ^ 16, s)
  else if 4096 ≤ s.poolCount d ∨ s.draining d then (2 ^ 16, s)
  else
    let id := s.freshLid
    (id, { (s.updLaunch id fun _ => l).updDie d fun x => { x with pool := x.pool ++ [id] } with nextLid := if id ≥ 0xFFFE then 1 else id + 1 })

/-- LNCH (R232). -/
def execLnch (d a : Reg) (s : State) : Res :=
  let t := s.curTile
  .next (match s.localArg (s.xr a) 64 64 with
    | .error c => s.trap c (s.xr a) 0
    | .ok off =>
      if !s.drained t s.curSlot then s.block .poll
      else match s.badGranule t off 64 with
        | some g => s.trap .poison (nw g) 0
        | none =>
          let pkt := BitVec.ofNat 512 (s.load (s.sliceKey t off) 64)
          s.paired1 [1, pkt.toNat] d fun s => s.launchChild t pkt)

/-- LSTAT (R235). -/
def execLstat (d a : Reg) (s : State) : Res :=
  let t := s.curTile
  let x := wf (s.xr a) 0 16
  let own := s.curT.lid
  let b := s.seenTile t
  let l := s.launch x
  let child := x != 0xFFFF && l.parent == own && own != 0 && l.ptile == tileKey (s.ownDie t) (tRow b) (tCol b)
  let st := if x = 0xFFFF then 2 else if !child then 0 else
    match l.st with
    | .pending => 1
    | .done => if (l.ended && !l.told) || s.curT.hasEntry x then 3 else 0
    | _ => 2
  let depth := if x = 0xFFFF then (s.launch own).depth else if st = 0 then 0 else l.depth
  .next (s.wr d (nw (st + depth * 2 ^ 8 + s.poolCount (tDie t) * 2 ^ 16)) 4)

/-! ### Pre-emption requests (R324..R327) -/

/-- A group is full: THR of its tiles are held (R324). -/
def State.groupFull (s : State) (d g : Nat) : Bool :=
  decide ((s.die d).dthr ≤ ((List.range 64).filter fun i => s.tileHeld (groupTile (groupKey d g) i)).length)

/-- The dies on which a command could be placed if nothing held them; none when the role maps in force cannot hold it (R315, R325). -/
def State.couldDies (s : State) (l : Launch) : List Nat :=
  let ds := ((List.range l.dieCount).filterMap fun i => s.realDie (i + l.firstDie))
  let could := (if l.pin then ds else List.range 8).filter fun d => s.dieReady d && (l.tilesAt d).all s.tileUsable
  if could.length < l.dieCount then [] else could

/-- The victim for a priority: the lowest priority, the most recently distributed (R325). -/
def State.victim (s : State) (prio : Nat) : Option Nat :=
  ((s.launches.filter fun p => p.2.st == .running && !p.2.supervisor && p.2.savedDies.isEmpty && decide (p.2.prio < prio)).foldl
    (fun b p => match b with
      | none => some p
      | some x => if p.2.prio < x.2.prio ∨ (p.2.prio = x.2.prio ∧ x.2.t0 < p.2.t0) then some p else b) none).map Prod.fst

/-- The launch a queue's request would name now (R325). -/
def State.wouldPreempt (s : State) (q : Nat) : Option Nat :=
  let d := s.queue q
  if !(s.queueReady q && d.pen && decide (d.plvl ≤ d.prio)) then none else
  match s.queueCmd q with
  | none => none
  | some pkt =>
    let l := s.queueLaunch q pkt
    match s.fit s.freshLid l none with
    | .wait =>
      let ds := s.couldDies l
      if !ds.isEmpty && ds.all fun d => (List.range 320).all (s.groupFull d) then s.victim d.prio else none
    | _ => none

/-- The victim of the first queue that may request; none while a request is outstanding (R326). -/
def State.preemptPick (s : State) : Option Nat :=
  if s.preempt ≠ 0 then none else (s.queues.filter fun q => q.2.pen && q.2.en).findSome? fun q => s.wouldPreempt q.1

/-- PREEMPT_REQUEST (R326): the victim is marked and slot 31 of its supervisor tiles is readied. -/
def execPreemptRequest (s : State) : Res :=
  .next (match s.preemptPick with
    | none => s
    | some v =>
      let l := s.launch v
      let s := { s.updLaunch v fun l => { l with marked := true } with preempt := v, starvSeen := s.starvSeen ||| 2 }
      (l.cur.filter (s.hasSup l.part)).foldl (fun s d => s.updTile (s.supTile l.part d) fun t => t.ready s.now 1 31 (nw v)) s)

/-- The cycle that ends as c:STARV sees it: a candidate that could not be placed, and a request outstanding (R327, log 104). -/
def State.noteWaits (s : State) : State :=
  let waits := s.cands.any fun c => match s.candFit c with | .wait => true | _ => false
  { s with starvSeen := s.starvSeen ||| (b2n waits + 2 * b2n (s.preempt != 0)) }

/-- STARV_INTERVAL (R327): at each 1,024-cc boundary, an interval in which a candidate waited and no request was made or outstanding is
counted. -/
def execStarvInterval (s : State) : Res :=
  .next { s with starvAt := s.now, starvSeen := 0, starv := if s.starvSeen = 1 then min (s.starv + 1) (2 ^ 32 - 1) else s.starv }

end Sys2Proof.Machine
end

