-- ==== Sys2Proof/Machine/LaunchEnd.lean ====
section
/-! DEFINITION. LaunchEnd: ending a launch and moving tile groups (R318..R320, R328). -/

namespace Sys2Proof.Machine

/-! ### Ending a launch (R328) -/

/-- A launch of partition p that c:LEND may end. -/
def State.endable (s : State) (p lid : Nat) : Bool :=
  let l := s.launch lid
  lid != 0 && l.st != .done && l.st != .ending && l.part == p

/-- A tile of an ending launch: every thread stops, entries not started are discarded, and a running one stops (R328 steps 2, 3). -/
def Tile.endWork (t : Tile) (lid : Nat) : Tile :=
  let t := if t.lid = lid then { t.stop with seq := [], mq := [], routines := t.routines.map fun r => (r.1, { r.2 with rdy := false }) } else t
  { t with slots := t.slots.map fun u => (u.1, if u.2.lid = lid ∧ u.2.st ≠ .free then { u.2 with stopped := true } else u.2) }

/-- A pen of an ending launch: its jobs are killed; finished ones report no more (R328 step 3). -/
def Pen.endJobs (p : Pen) (lid : Nat) : Pen :=
  { p with jobs := (p.jobs.filter fun j => j.lid != lid || j.st == .running).map fun j => if j.lid = lid then j.kill else j }

/-- A launch leaves every pool. -/
def Die.unpool (d : Die) (f : Nat → Bool) : Die := { d with pool := d.pool.filter fun l => !f l }

/-- The pending children of a launch are ended with it (R321, R328 step 1). -/
def State.endChildren (s : State) (lid : Nat) : State :=
  let kids := (s.launches.filter fun p => p.2.st == .pending && p.2.parent == lid).map Prod.fst
  kids.foldl (fun s k => s.finishLaunch k true 0) { s with dies := s.dies.map fun (d : Nat × Die) => (d.1, d.2.unpool kids.contains) }

/-- A request discarded from the fault buffer leaves its job with one access fewer to wait for (R328 step 3). -/
def State.jobLoses (s : State) (r : Req) : State :=
  match r.who with
  | .job p x => s.updJob p x fun j => { j with open_ := j.open_ - 1 }
  | _ => s

/-- Steps 1 and 2, and the start of step 3: a launch that holds nothing ends at once (R328). -/
def State.endLaunch (s : State) (lid : Nat) : State :=
  let l := s.launch lid
  let cycles := if l.t0 = 0 then 0 else s.now - l.t0
  let s := s.endChildren lid
  match l.st with
  | .pending => ({ s with dies := s.dies.map fun (d : Nat × Die) => (d.1, d.2.unpool (· == lid)) }).finishLaunch lid true 0
  | .placing => s.endUnrun lid
  | .saved => (s.releaseLaunch lid).finishLaunch lid true cycles
  | _ =>
    let s := (s.held.filter fun r => r.lid == lid).foldl (fun s r => s.jobLoses r)
      { s with tiles := s.tiles.map (fun (t : Nat × Tile) => (t.1, t.2.endWork lid)),
               pens := s.pens.map (fun (p : Nat × Pen) => (p.1, p.2.endJobs lid)),
               held := s.held.filter (fun r => r.lid != lid) }
    { s.updLaunch lid fun l => { l with st := .ending } with lendBusy := if s.lendBusy = 0 then lid else s.lendBusy }

/-- The end is done: BUSY clears, unless the parent's entry still waits (R328 step 5). -/
def State.endDone (s : State) (lid : Nat) : State :=
  let l := s.launch lid
  if s.lendBusy = lid ∧ l.st = .done ∧ !(l.ended && !l.told) then { s with lendBusy := 0, lendStat := if s.lendStat = 1 then 2 else s.lendStat } else s

/-- An end is in progress, of a write of c:LEND or of the management core's (R328). -/
def State.lendActive (s : State) : Bool := s.lendBusy != 0 || s.launches.any fun l => l.2.st == .ending

/-- A write of c:LEND by partition p (R328). -/
def State.lendWrite (s : State) (p lid : Nat) : State :=
  if s.endable p lid then ({ s with lendBusy := lid, lendStat := 1 }.endLaunch lid).endDone lid else { s with lendStat := 3 }

/-- LAUNCH_END (R328): the write of ev.a by partition ev.num. -/
def execLaunchEnd (s : State) : Res := .next (s.lendWrite s.ev.num (s.ev.a % 65536))

/-- A message in flight that belongs to a launch's accesses. -/
def Msg.ofLaunch (m : Msg) (lid : Nat) : Bool :=
  match m with
  | .req r => r.lid == lid
  | .table r => r.lid == lid
  | .ans a => a.req.lid == lid
  | .walk c => c.lid == lid
  | .walkRefused c _ => c.lid == lid
  | .sendm m => m.lid == lid
  | .sendmAns m => m.lid == lid
  | _ => false

/-- A swap of one of a launch's die SRAM pages is in progress (R279). -/
def State.swapsOf (s : State) (l : Launch) (d : Nat) : Bool :=
  (List.range (l.dlen / 65536)).any fun i => (s.remapEntry d (l.doff / 65536 + i)).busy

/-- Every message of a launch has been answered and its jobs have stopped. -/
def State.accessesDone (s : State) (lid : Nat) : Bool :=
  (s.flight.all fun f => !f.msg.ofLaunch lid) && (s.fj.all fun q => q.2.incoming || !q.2.msg.ofLaunch lid)

/-- The drain of an ending launch is over (R328 step 3). -/
def State.endDrained (s : State) (lid : Nat) : Bool :=
  let l := s.launch lid
  l.st == .ending && s.accessesDone lid && (s.pens.all fun p => p.2.jobs.all fun j => j.lid != lid || j.open_ == 0) &&
  l.cur.all fun d => !s.swapsOf l d

/-- LAUNCH_END_DONE (R328 steps 4 and 5): launch ev.num. -/
def execLaunchEndDone (s : State) : Res :=
  let lid := s.ev.num
  .next (if s.endDrained lid then ((s.releaseLaunch lid).finishLaunch lid true (s.now - (s.launch lid).t0)).endDone lid else s)

/-! ### The logical tile map (R318..R320) -/

/-- The logical group a physical group serves. -/
def State.logOf (s : State) (d pg : Nat) : Nat := ((List.range 320).find? fun g => s.physGroup d g == pg).getD pg

/-- A group holds a launch. -/
def State.groupHeld (s : State) (d g : Nat) : Bool := (List.range 64).any fun i => s.tileHeld (groupTile (groupKey d g) i)

/-- What belongs to the physical units moves with them: flags of two tiles are exchanged. -/
def State.swapUnits (s : State) (a b : Nat) : State :=
  let ta := s.tile a
  let tb := s.tile b
  let s := s.updTile a fun t => { t with unusable := tb.unusable, margin := tb.margin }
  s.updTile b fun t => { t with unusable := ta.unusable, margin := ta.margin }

/-- The margin states of two matrix units are exchanged. -/
def State.swapPens (s : State) (a b : Nat) : State :=
  let pa := (s.pen a).margin
  let pb := (s.pen b).margin
  (s.updPen a fun p => { p with margin := pb }).updPen b fun p => { p with margin := pa }

/-- Exchange the map entries of two logical groups of a die, and what belongs to the physical groups behind them. -/
def State.exchangeMap (s : State) (d a b : Nat) : State :=
  let pa := s.physGroup d a
  let pb := s.physGroup d b
  let ga := s.group (groupKey d a)
  let gb := s.group (groupKey d b)
  let s := s.updDie d fun x => { x with map := tset (tset x.map a pb) b pa }
  let s := (s.updGroup (groupKey d a) fun g => { g with dead := gb.dead }).updGroup (groupKey d b) fun g => { g with dead := ga.dead }
  let pensOf := fun (g : Nat) => ((List.range 64).map fun i => penKey (groupTile (groupKey d g) i)).eraseDups
  let s := ((pensOf a).zip (pensOf b)).foldl (fun s p => s.swapPens p.1 p.2) s
  (List.range 64).foldl (fun s i => s.swapUnits (groupTile (groupKey d a) i) (groupTile (groupKey d b) i)) s

/-- Copy n bytes of storage and their poison to other keys, given the storage before. -/
def State.copyStorage (s old : State) (a b n : Nat) : State :=
  let s := s.zeroRange b n
  let s := { s with poison := s.poison ++ (old.poison.filter fun g => decide (a / 16 ≤ g ∧ g < (a + n) / 16)).map fun g => g - a / 16 + b / 16 }
  (old.mem.filter fun c => decide (a ≤ c.1 ∧ c.1 < a + n)).foldl (fun s c => { s with mem := writeByte s.mem (c.1 - a + b) c.2 }) s

/-- The tiles of a logical group. -/
def groupTiles (d g : Nat) : List Nat := (List.range 64).map (groupTile (groupKey d g))

/-- A thread of the group is not in PARK, FREE or the park area (R319). -/
def State.notParked (s : State) (d g : Nat) : Bool :=
  (groupTiles d g).any fun t => (s.tile t).slots.any fun u => u.2.st != .free && u.2.st != .park

/-- The status of a c:TMREQ write (R319), in the order RANGE, BUSY, TARGET, NOTPARKED (log 22). -/
def State.moveStatus (s : State) (d v : Nat) : Nat :=
  let g := nf v 0 9
  let pg := nf v 9 9
  let l := s.logOf d pg
  if 320 ≤ g ∨ 320 ≤ pg then 5
  else if (s.die d).move.isSome then 6
  else if s.groupHeld d l ∨ ((groupTiles d l).any fun t => (s.tile t).unusable) ∨ (s.group (groupKey d l)).dead then 4
  else if s.notParked d g then 3
  else 1

/-- Record an outcome in c:TMRES of a tile. -/
def State.setTmres (s : State) (t st tag : Nat) : State := s.updTile t fun tl => { tl with sel := { tl.sel with tmres := st, tmtag := tag } }

/-- A write of c:TMREQ by tile t (R319). -/
def State.tmreq (s : State) (t v : Nat) : State :=
  let d := tDie t
  let st := s.moveStatus d v
  let s' := s.setTmres t st (nf v 19 8)
  if st = 1 then
    (s'.updDie d fun x =>
      { x with move := some { grp := nf v 0 9, phys := nf v 9 9, force := nb v 18, tag := nf v 19 8, tile := t, from_ := s.next } }).sendWithin 50000 (.mapDone d)
  else s'

/-- TILE_MAP_MOVE (R319): the write of ev.a by tile ev.num. -/
def execTileMapMove (s : State) : Res := .next (s.tmreq s.ev.num s.ev.a)

/-- The group a message arrives at, if any: requests, walks and SENDM are held at a moving group's boundary (R320). -/
def State.msgGroup (s : State) (m : Msg) : Option Nat :=
  match m with
  | .req r => match s.reqPlace r with
    | some (.slice t _) => some (tGroupKey t)
    | some (.group g _) => some g
    | _ => none
  | .walk c => some (tGroupKey c.dest)
  | .sendm m => some (tGroupKey m.dest)
  | _ => none

/-- The number of a message in the order of issue: a request and its answer keep the request's. -/
def Flight.issue (f : Flight) : Nat :=
  match f.msg with
  | .req r => r.num
  | .table r => r.num
  | .ans a => a.req.num
  | _ => f.num

/-- Traffic that a move in progress holds: a forced one holds all that arrives, the other what was sent after it began. -/
def State.heldByMove (s : State) (f : Flight) : Bool :=
  match s.msgGroup f.msg with
  | none => false
  | some g => match (s.die (g / 320)).move with
    | none => false
    | some m => m.grp == g % 320 && (m.force || decide (m.from_ ≤ f.issue))

/-- A request's issuer is a tile of a group. -/
def State.fromGroup (s : State) (k : Nat) (m : Msg) : Bool :=
  match m with
  | .req r => tGroupKey (s.whoTile r.who) == k
  | .table r => tGroupKey (s.whoTile r.who) == k
  | .ans a => tGroupKey (s.whoTile a.req.who) == k
  | _ => false

/-- The move may switch: the group's threads are parked, and, without FORCE, the requests to or from the group that were issued before it are
answered, those to and from other packages too (R320 steps 1 and 2). -/
def State.moveQuiet (s : State) (d : Nat) (m : MapMove) : Bool :=
  let k := groupKey d m.grp
  let near := fun (x : Msg) => s.msgGroup x == some k || s.fromGroup k x
  !s.notParked d m.grp &&
  (m.force || !((s.flight.any fun f => decide (f.issue < m.from_) && near f.msg) || s.fj.any fun q => decide (q.1 < m.from_) && near q.2.msg))

/-- Traffic held at the boundary is released to the new physical group (R320 step 4). -/
def Msg.retarget (m : Msg) (pg : Nat) : Msg :=
  match m with
  | .req r => .req { r with pgrp := pg }
  | .walk c => .walk { c with phys := pg }
  | .sendm m => .sendm { m with pgrp := pg }
  | m => m

/-- A message the move held goes on to the new group. -/
def State.releaseHeld (s : State) (m : MapMove) (f : Flight) : Flight :=
  if s.heldByMove f && (!m.force || decide (f.due ≤ s.now)) then { f with msg := f.msg.retarget m.phys } else f

/-- TILE_MAP_MOVE_DONE (R320): the group's storage is copied, the entry switches and the held traffic goes on. -/
def execTileMapMoveDone (s : State) : Res :=
  .next (match s.arrived with
    | some (.mapDone d) => match (s.die d).move with
      | none => s.taken
      | some m =>
        if !s.moveQuiet d m then s else
        let old := s
        let l := s.logOf d m.phys
        let s := { s.taken with flight := s.taken.flight.map (s.releaseHeld m) }
        let s := (s.exchangeMap d m.grp l).updDie d fun x => { x with move := none }
        let s := (groupTiles d m.grp).foldl (fun s t =>
          s.copyStorage old (old.sliceKey t 0) (s.sliceKey t 0) 65536) s
        let s := (List.range 64).foldl (fun s i =>
          s.copyStorage old (old.groupByteKey (groupKey d m.grp) (256 * i)) (s.groupByteKey (groupKey d m.grp) (256 * i)) 65536) s
        s.setTmres m.tile 2 m.tag
    | _ => s)

/-- GROUP_MAP_EXCHANGE (R318): groups ev.a and ev.b of die ev.num, neither of which holds a launch. -/
def execGroupMapExchange (s : State) : Res :=
  let d := s.ev.num
  let a := s.ev.a
  let b := s.ev.b
  .next (if decide (a < 320 ∧ b < 320 ∧ a ≠ b) && s.dieExists d && !s.groupHeld d a && !s.groupHeld d b && (s.die d).move.isNone then
      s.exchangeMap d a b
    else s)

end Sys2Proof.Machine
end

