-- ==== Sys2Proof/Machine/Lirek.lean ====
section
/-! DEFINITION. Lirek: the remap table, the swap engine, spare banks, lost storage and changes of roles (R269..R283, R385, R415). -/

namespace Sys2Proof.Machine

/-! ### Layers -/

def State.isCompute (s : State) (k l : Nat) : Bool := (s.stack k).role.getLsbD l
/-- A free layer (R270) that is neither lost nor in RETAIN (R282, R416). -/
def State.freeLayer (s : State) (k l : Nat) : Bool :=
  decide (l < 8) && !s.isCompute k l && !s.isCompute k (nearLayer l) && !(s.stack k).lostLayers.contains l && !(s.stack k).retain.getLsbD l

/-- The dies of a stack. -/
def State.stackDies (s : State) (k : Nat) : List Nat := (List.range (s.layersOf k).length).map (· + 4 * k)

/-- A page lies in a frame of a layer. -/
def State.frameUsed (s : State) (k l f : Nat) : Bool :=
  (s.stackDies k).any fun d =>
    (let e := s.remapEntry d f
     e.layer == l && e.frame == f && !e.dead) ||
    ((s.stack k).remap.any fun r => r.2.layer == l && r.2.frame == f && !r.2.dead && r.1 / 40960 == d)

/-- A layer holds a page (R416). -/
def State.layerHolds (s : State) (k l : Nat) : Bool :=
  (s.stackDies k).any fun d => (List.range 40960).any fun p => let e := s.remapEntry d p; e.layer == l && !e.dead

/-- Codes of lost ranges: a column of a memory layer is layer + 8 × (col + 1), a spare in use by a slice or group is the layer
itself; 2,000 more when no spare was left (R280, R281). -/
def lossCode (l col : Nat) (dead : Bool) : Nat := l + 8 * (col + 1) + (if dead then 2000 else 0)

/-- A frame of a layer has a unit above a column (R273). -/
def frameHasCol (f col : Nat) : Bool := (List.range 16).any fun i => (16 * f + i) % 160 == col

/-- Whether a frame lies partly in a spare-mapped range, or in one without storage. -/
def Stack.frameLost (k : Stack) (l f : Nat) (dead : Bool) : Bool :=
  k.spareUsed.any fun c => (List.range 160).any fun col => c == lossCode l col dead && frameHasCol f col

/-- Write a remap entry. -/
def State.setRemap (s : State) (d p : Nat) (e : Remap) : State :=
  s.updStack (d / 4) fun k => { k with remap := tset k.remap (remapKey d p) e }

/-! ### Swap requests (R277, R278) -/

/-- Record an outcome of a tile's request; a completed one advances DONE. -/
def State.setSwres (s : State) (t st tag : Nat) (completed : Bool) : State :=
  s.updTile t fun tl => { tl with sel := { tl.sel with swres := st, swtag := tag, swdone := (tl.sel.swdone + b2n completed) % 65536 } }

/-- The status of a c:SWREQ write by tile t, in the order RANGE, CLASS, SAME, DEAD, NOTFREE, FULL (R278, log 23). -/
def State.swapStatus (s : State) (t v : Nat) : Nat :=
  let k := tDie t / 4
  let pgA := nf v 0 16
  let idB := nf v 20 16
  let selB := nf v 36 3
  let move := nb v 39
  let dA := s.realDie (nf v 16 3)
  let dB := s.realDie selB
  let inStack := fun (d : Option Nat) => d.any fun x => x / 4 == k
  if !inStack dA ∨ 40960 ≤ pgA ∨ 40960 ≤ idB ∨ nb v 19 ∨ nf v 48 16 ≠ 0 ∨ (if move then !s.freeLayer k selB else !inStack dB) then 4
  else if pgA % 10 ≠ idB % 10 then 5
  else if !move ∧ pgA = idB ∧ dA = dB then 8
  else if (s.remapEntry (dA.getD 0) pgA).dead ∨ (!move ∧ (s.remapEntry (dB.getD 0) idB).dead) then 7
  else if move ∧ s.frameUsed k selB idB then 6
  else if 16 ≤ (s.stack k).swaps.length then 3
  else 1

/-- A write of c:SWREQ by tile t (R278). -/
def State.swreq (s : State) (t v : Nat) : State :=
  let st := s.swapStatus t v
  let s := s.setSwres t st (nf v 40 8) false
  if st = 1 then
    let w : Swap := { dieA := (s.realDie (nf v 16 3)).getD 0, pgA := nf v 0 16,
                      selB := if nb v 39 then nf v 36 3 else (s.realDie (nf v 36 3)).getD 0, idB := nf v 20 16, move := nb v 39,
                      tag := nf v 40 8, tile := t }
    s.updStack (tDie t / 4) fun k => { k with swaps := k.swaps ++ [w] }
  else s

/-- SWAP_EXCHANGE (R278): the write of ev.a by tile ev.num. -/
def execSwapExchange (s : State) : Res := .next (s.swreq s.ev.num (nput s.ev.a 39 1 0))
/-- SWAP_MOVE (R278). -/
def execSwapMove (s : State) : Res := .next (s.swreq s.ev.num (nput s.ev.a 39 1 1))

/-! ### The engine (R279) -/

/-- The engine of stack k can start a request, on pages that are not BUSY (R278). -/
def State.swapPick (s : State) (k : Nat) : Option Swap :=
  if (s.stack k).swapping then none
  else (s.stack k).swaps.head?.filter fun w => !(s.remapEntry w.dieA w.pgA).busy && (w.move || !(s.remapEntry w.selB w.idB).busy)

def State.setBusy (s : State) (d p : Nat) (b : Bool) : State := s.setRemap d p { s.remapEntry d p with busy := b }

/-- SWAP_START (R279 step 1): stack ev.num; an exchange takes at most 560 cc, a move 300. -/
def execSwapStart (s : State) : Res :=
  let k := s.ev.num
  .next (match s.swapPick k with
    | none => s
    | some w =>
      let s := s.setBusy w.dieA w.pgA true
      let s := if w.move then s else s.setBusy w.selB w.idB true
      (s.updStack k fun x => { x with swapping := true }).sendWithin (if w.move then 300 else 560) (.swapDone k))

/-- The entry of a page that has moved into a frame. -/
def State.movedEntry (s : State) (k l f : Nat) : Remap :=
  { frame := f, layer := l, busy := false, spare := (s.stack k).frameLost l f false, dead := (s.stack k).frameLost l f true }

/-- The contents of a frame, with poison, to another. -/
def State.copyFrame (s old : State) (k la fa lb fb : Nat) : State :=
  s.copyStorage old (lirekKey k la fa 0) (lirekKey k lb fb 0) 65536

/-- SWAP_DONE (R279 steps 3 and 4). -/
def execSwapDone (s : State) : Res :=
  .next (match s.arrived with
    | some (.swapDone k) =>
      let s := s.taken
      match (s.stack k).swaps with
      | [] => s
      | w :: rest =>
        let a := s.remapEntry w.dieA w.pgA
        let s' := if w.move then
            ((s.copyFrame s k a.layer a.frame w.selB w.idB).setRemap w.dieA w.pgA (s.movedEntry k w.selB w.idB))
          else
            let b := s.remapEntry w.selB w.idB
            ((((s.copyFrame s k a.layer a.frame b.layer b.frame).copyFrame s k b.layer b.frame a.layer a.frame).setRemap w.dieA w.pgA
              (s.movedEntry k b.layer b.frame)).setRemap w.selB w.idB (s.movedEntry k a.layer a.frame))
        (s'.updStack k fun x => { x with swaps := rest, swapping := false }).setSwres w.tile 2 w.tag true
    | _ => s)

/-! ### Registers (R271, R275) -/

/-- c:RMDAT for a tile (R275). -/
def State.rmdat (s : State) (t : Nat) : Nat :=
  let v := (s.tile t).sel.rmsel
  let p := nf v 0 16
  match s.realDie (nf v 16 3) with
  | some d =>
    if d / 4 ≠ tDie t / 4 ∨ 40960 ≤ p then 2 ^ 64 - 1
    else
      let e := s.remapEntry d p
      e.frame + e.layer * 2 ^ 16 + b2n e.busy * 2 ^ 19 + b2n e.spare * 2 ^ 20 + b2n e.dead * 2 ^ 21 +
        b2n (e.layer == nearLayer (s.dieLoc d).2) * 2 ^ 22
  | none => 2 ^ 64 - 1

/-- c:ROLE (R271). -/
def State.roleWord (s : State) : Nat :=
  (s.stack 0).role.toNat + (s.stack 1).role.toNat * 2 ^ 8 + s.mgmt.cooling * 2 ^ 16 + b2n (s.stack 0).chg * 2 ^ 18 +
    b2n (s.stack 1).chg * 2 ^ 19 + s.dieTotal * 2 ^ 24

/-! ### Lost storage (R280..R282, R385) -/

/-- A record about a layer: to its die, or, for a memory layer, to the die it serves (log 24). -/
def State.layerRecord (s : State) (code k l row col : Nat) (addr : Word) (detail : Nat) : State :=
  match (s.stackDies k).find? fun d => (s.dieLoc d).2 == l || (s.dieLoc d).2 == nearLayer l with
  | some d => s.record code d row col addr 0 detail
  | none => s.baseRecord code addr detail

/-- The contents of a range of keys are lost: zero bytes under poison (R280). -/
def State.loseRange (s : State) (key n : Nat) : State :=
  let s := s.zeroRange key n
  { s with poison := markPoison s.poison key n }

/-- The die of a compute layer. -/
def State.dieOfLayer (s : State) (k l : Nat) : Nat := 4 * k + ((s.layersOf k).findIdx? (· == l)).getD 0

/-- DETAIL of SPARE and DEAD (R373). -/
def lossDetail (kind l k : Nat) : Nat := kind + l * 2 ^ 4 + k * 2 ^ 7

/-- A slice (row and col are logical) or a whole group is lost on a compute layer. -/
def State.loseSlice (s : State) (k l t : Nat) (dead : Bool) : State :=
  let s := s.loseRange (s.sliceKey t 0) 65536
  let s := if dead then s.updTile t fun tl => { tl with unusable := true } else s
  s.layerRecord (if dead then 0x28 else 0x27) k l (tRow t) (tCol t) (nw (2 ^ 56 + tRow t * 2 ^ 40 + tCol t * 2 ^ 32)) (lossDetail 0 l k)
def State.loseGroup (s : State) (k l g : Nat) (dead : Bool) : State :=
  let s := (List.range 64).foldl (fun s i => s.loseRange (s.groupByteKey g (256 * i)) 65536) s
  let s := if dead then s.updGroup g fun x => { x with dead := true } else s
  s.layerRecord (if dead then 0x28 else 0x27) k l (8 * (g % 320 / 20)) (8 * (g % 320 % 20)) (nw (2 * 2 ^ 56 + g % 320 * 2 ^ 32)) (lossDetail 1 l k)

/-- The pages of a stack that touch a column of a layer, as (die, page). -/
def State.pagesAbove (s : State) (k l col : Nat) : List (Nat × Nat) :=
  ((s.stackDies k).map fun d => ((List.range 40960).filter fun p =>
    let e := s.remapEntry d p
    e.layer == l && !e.dead && frameHasCol e.frame col).map fun p => (d, p)).flatten

/-- The share above a column of a memory layer is lost: its units become poison, its pages SPARE, or DEAD and poison as a whole (R276, R281);
none is BUSY any more. -/
def State.loseColumn (s : State) (k l col : Nat) (dead : Bool) : State :=
  let ps := s.pagesAbove k l col
  let s := (List.range 40960).foldl (fun s f => (List.range 16).foldl (fun s i =>
    if (16 * f + i) % 160 = col then s.loseRange (lirekKey k l f (4096 * i)) 4096 else s) s) s
  let s := ps.foldl (fun s p =>
    let e := s.remapEntry p.1 p.2
    if dead then (s.loseRange (lirekKey k e.layer e.frame 0) 65536).setRemap p.1 p.2 { e with dead := true, busy := false }
    else s.setRemap p.1 p.2 { e with spare := true, busy := false }) s
  let first := match ps with
    | (d, p) :: _ => 3 * 2 ^ 56 + s.logDie d * 2 ^ 32 + p * 65536
    | [] => 0
  s.layerRecord (if dead then 0x28 else 0x27) k l 0 col (nw first) (lossDetail 2 l k)

/-- The pages above a column are held under BUSY while the spare bank is mapped in over it (R280). -/
def State.holdColumn (s : State) (k l col : Nat) (dead : Bool) : State :=
  ((s.pagesAbove k l col).foldl (fun s p => s.setBusy p.1 p.2 true) s).send 1 (.spareDone k l col dead)

/-- The key of a bank of a die, or of a column, that is there. -/
def State.bankThere (s : State) (key : Nat) : Bool :=
  if key < 2 ^ 22 then false
  else if key < 2 ^ 23 then s.dieExists (tDie ((key - 2 ^ 22) / 8))
  else if key < 2 ^ 24 then s.dieExists ((key - 2 ^ 23) / 64 / 320)
  else decide (key - 2 ^ 24 < 2560)

/-- The bank that has reported four poisoned granules within 1 s, as a loss of storage (R385). -/
def State.bankPick (s : State) : Option Ev :=
  (s.mgmt.errLog.find? fun e => s.bankThere e.1 && s.fourErrs e.2).map fun e =>
    let at_ := fun (d b c : Nat) => { num := (s.dieLoc d).1, a := (s.dieLoc d).2, b := b, c := c, data := [] : Ev }
    if e.1 < 2 ^ 23 then let t := (e.1 - 2 ^ 22) / 8; at_ (tDie t) 0 (t % 20480)
    else if e.1 < 2 ^ 24 then let g := (e.1 - 2 ^ 23) / 64; at_ (g / 320) 1 (g % 320)
    else let n := e.1 - 2 ^ 24; { num := n / 1280, a := n / 160 % 8, b := 2, c := n % 160, data := [] }

/-- A bank that is taken out of use is counted afresh. -/
def lostBank (k l d b c key : Nat) : Bool :=
  match b with
  | 0 => decide ((key - 2 ^ 22) / 8 = d * 20480 + c ∧ 2 ^ 22 ≤ key ∧ key < 2 ^ 23)
  | 1 => decide ((key - 2 ^ 23) / 64 = d * 320 + c ∧ 2 ^ 23 ≤ key ∧ key < 2 ^ 24)
  | _ => key == columnKey k l c

/-- STORAGE_LOSS (R280, R281, R385): stack ev.num, layer ev.a; ev.b 0 a slice bank, 1 a group segment, 2 a bank or 3 a vertical port
of a memory layer's column, 4 a bond channel; ev.c the slice (row × 160 + col), the group or the column, logical. ev.b 9 is the end of the
mapping over a column; a slice or group, which no BUSY bit covers, is mapped at once (DESIGN CHOICE, log 92; unsafe). -/
def execStorageLoss (s : State) : Res :=
  let k := s.ev.num % 2
  let l := s.ev.a % 8
  let used := (s.stack k).spareUsed.any fun c => c % 2000 % 8 == l
  let d := s.dieOfLayer k l
  let mark := fun (s : State) (c : Nat) => s.updStack k fun x => { x with spareUsed := c :: x.spareUsed }
  .next (match s.ev.b with
    | 9 => match s.arrived with
      | some (.spareDone k l col dead) => s.taken.loseColumn k l col dead
      | _ => s
    | 4 => s.layerRecord 0x27 k l 0 0 0 (lossDetail 0 l k + 2 ^ 8)
    | b =>
      let s := s.forgetErrs (lostBank k l d b (s.ev.c % (if b = 0 then 20480 else if b = 1 then 320 else 160)))
      match b with
      | 0 => if s.isCompute k l then (mark s l).loseSlice k l (tileKey d (s.ev.c / 160 % 128) (s.ev.c % 160)) used else s
      | 1 => if s.isCompute k l then (mark s l).loseGroup k l (groupKey d (s.ev.c % 320)) used else s
      | _ => if s.isCompute k l then s else (mark s (lossCode l (s.ev.c % 160) used)).holdColumn k l (s.ev.c % 160) used)

/-- A free frame of a page's class in a free layer, ascending (R282). -/
def State.freeFrame (s : State) (k p : Nat) : Option (Nat × Nat) :=
  ((List.range 8).filter (s.freeLayer k)).findSome? fun l =>
    ((List.range 4096).find? fun i => !s.frameUsed k l (10 * i + p % 10)).map fun i => (l, 10 * i + p % 10)

/-- A page of a lost layer takes a free frame, poisoned, or is dead and poisoned (R276, R282). -/
def State.rehome (s : State) (k d p : Nat) : State :=
  match s.freeFrame k p with
  | some (l, f) => (s.loseRange (lirekKey k l f 0) 65536).setRemap d p (s.movedEntry k l f)
  | none =>
    let e := s.remapEntry d p
    (s.loseRange (lirekKey k e.layer e.frame 0) 65536).setRemap d p { e with dead := true, busy := false }

/-- LAYER_LOSS (R282): layer ev.a of stack ev.num. The loss of a compute layer stops its die. -/
def execLayerLoss (s : State) : Res :=
  let k := s.ev.num % 2
  let l := s.ev.a % 8
  .next (if s.isCompute k l then
      let d := s.dieOfLayer k l
      let stop := fun (p : Nat × Tile) => if tDie p.1 = d then (p.1, p.2.stop) else p
      { s with tiles := s.tiles.map stop, mgmt := { s.mgmt with ready := s.mgmt.ready &&& ~~~(nw (2 ^ (34 + s.logDie d))) } }.record 0x29 d 0 0 0 0
        (l + k * 8)
    else
      let s := s.updStack k fun x => { x with lostLayers := l :: x.lostLayers }
      let ps := ((List.range 40960).map fun p => ((s.stackDies k).filter fun d =>
        let e := s.remapEntry d p
        e.layer == l && !e.dead).map fun d => (d, p)).flatten
      let s := ps.foldl (fun s q => s.rehome k q.1 q.2) s
      let dead := (ps.filter fun q => (s.remapEntry q.1 q.2).dead).length
      s.layerRecord 0x29 k l 0 0 0 (l + k * 8 + min dead 65535 * 2 ^ 16))

/-! ### Changing roles (R269, R283, R415) -/

/-- Thermal weight of a map, and the limit of a cooling class (R269). -/
def mapWeight (m : BitVec 8) : Nat := (List.range 8).foldl (fun n l => if m.getLsbD l then n + (8 - l) else n) 0
def classLimit (c : Nat) : Nat := match c with | 0 => 20 | 1 => 12 | _ => 6

/-- A valid map (R269). -/
def mapValid (m : BitVec 8) (cls : Nat) : Bool :=
  ((List.range 4).all fun i => !(m.getLsbD (2 * i) && m.getLsbD (2 * i + 1))) && m != 0 && decide (mapWeight m ≤ classLimit cls)

/-- The records of a keep list at a physical address, at most n: die, first page, pages, save address; none where unreadable. -/
def State.keepList (s : State) : Nat → Nat → Option (List (Nat × Nat × Nat × Nat))
  | 0, _ => some []
  | n + 1, pa =>
    match s.readPhys pa 16 with
    | none => none
    | some b =>
      let v := ofBytes b
      if nf v 16 16 = 0 then some []
      else (s.keepList n (pa + 16)).map fun r => (nf v 32 3, nf v 0 16, nf v 16 16, nf v 64 64) :: r

/-- n bytes of physical memory lie in a partition's HBM4 range. -/
def Part.holdsPhys (p : Part) (pa n : Nat) : Bool := p.valid && decide (p.hbase ≤ pa ∧ pa + n ≤ p.hbase + p.hlen)

/-- The partition whose launch holds pages of a die. -/
def State.pagesPart (s : State) (d first n : Nat) : Option Nat :=
  (s.launches.find? fun l => l.2.holdsOn d && decide (l.2.doff ≤ first * 65536 ∧ (first + n) * 65536 ≤ l.2.doff + l.2.dlen)).map fun l => l.2.part

/-- The keep list and its save areas lie where R415 requires. -/
def State.keepOk (s : State) (pa : Nat) : Bool :=
  pa == 0 ||
  match s.keepList 65536 pa with
  | none => false
  | some rs => rs.all fun r =>
      match (s.realDie r.1).bind fun d => s.pagesPart d r.2.1 r.2.2.1 with
      | some p => (s.part p).holdsPhys r.2.2.2 (r.2.2.1 * 65536) && r.2.2.2 % 65536 == 0 && (s.part p).holdsPhys pa 16
      | none => false

/-- Clear readiness bits. -/
def State.unready (s : State) (m : Nat) : State := { s with mgmt := { s.mgmt with ready := s.mgmt.ready &&& ~~~(nw m) } }

/-- A write of offset 0x200 (R415): a valid map starts the drain of its stack (R283). -/
def State.roleRequest (s : State) (v : Nat) : State :=
  let m := BitVec.ofNat 8 (nf v 0 8)
  let k := nf v 8 1
  let lim := if nf v 9 10 = 0 then 10 else min (nf v 9 10) 1000
  let keep := nf v 19 33 * 64
  if (s.stack 0).chg || (s.stack 1).chg then { s with mgmt := { s.mgmt with roleStat := 4 } }
  else if !mapValid m s.mgmt.cooling || !s.keepOk keep then { s with mgmt := { s.mgmt with roleStat := 3 } }
  else
    let bits := (s.stackDies k).foldl (fun n d => n + 2 ^ (34 + s.logDie d)) (2 ^ (3 + k))
    let s := (s.unready bits).updStack k fun x => { x with chg := true, reroll := some (m, s.now + lim * 1250000, keep, 0) }
    { s with mgmt := { s.mgmt with roleStat := 1 } }

/-- Launches with a tile on a stack that are neither saved nor ended (R283). -/
def State.affected (s : State) (k : Nat) : List Nat :=
  (s.launches.filter fun l => !l.2.supervisor && (s.stackDies k).any l.2.holdsOn).map Prod.fst

/-- The launch has reached its pre-emption point on every die it holds. -/
def Launch.allAtPoint (l : Launch) : Bool := l.dies.all fun d => l.atPoint.contains d || l.savedDies.contains d

/-- The launches DRAIN_LIMIT ends on stack k. -/
def State.drainPick (s : State) (k : Nat) : List Nat :=
  match (s.stack k).reroll with
  | some (_, lim, _, 0) => if lim ≤ s.now then (s.affected k).filter fun l => (s.launch l).st != .ending && !(s.launch l).allAtPoint else []
  | _ => []

/-- DRAIN_LIMIT (R283, R328): stack ev.num. -/
def execDrainLimit (s : State) : Res := .next ((s.drainPick s.ev.num).foldl (fun s l => s.endLaunch l) s)

/-- The drain of stack k is over: every affected launch is saved or ended. -/
def State.flushReady (s : State) (k : Nat) : Bool :=
  match (s.stack k).reroll with
  | some (_, _, _, 0) => (s.affected k).isEmpty
  | _ => false

/-- Copy a kept page to its save area (R283). -/
def State.savePage (s : State) (d p pa : Nat) : State := s.copyStorage s (s.dieByteKey d (65536 * p)) (hbmKey pa) 65536

/-- Whether a counter entry belongs to a controller on stack k. -/
def ctrOnStack (k key : Nat) : Bool :=
  match ctrKind key with
  | 0 => tDie (ctrIdx key) / 4 == k
  | 1 => ctrIdx key / 320 / 4 == k
  | 2 => ctrIdx key / 4 == k
  | _ => false

/-- ROLE_FLUSH (R283, R301): stack ev.num. The entries of saved launches are in their saved state already. -/
def execRoleFlush (s : State) : Res :=
  let k := s.ev.num
  .next (if !s.flushReady k then s else
    match (s.stack k).reroll with
    | none => s
    | some (m, lim, keep, _) =>
      let s := (s.stack k).swaps.foldl (fun s w => s.setSwres w.tile 9 w.tag true) s
      let rs := if keep = 0 then [] else (s.keepList 65536 keep).getD []
      let s := rs.foldl (fun s r => match s.realDie r.1 with
        | some d => if d / 4 = k then (List.range r.2.2.1).foldl (fun s i => s.savePage d (r.2.1 + i) (r.2.2.2 + 65536 * i)) s else s
        | none => s) s
      let s := { s with counters := s.counters.filter (fun c => !ctrOnStack k c.1),
                        flight := s.flight.filter (fun f => match f.msg with | .swapDone x => x != k | .spareDone x _ _ _ => x != k | _ => true) }
      (s.updStack k fun x => { x with swaps := [], swapping := false, remap := [], reroll := some (m, lim, keep, 1) }).send 1 (.reenum k))

/-- The number of compute layers of a map. -/
def mapSize (m : BitVec 8) : Nat := ((List.range 8).filter fun l => m.getLsbD l).length

/-- The largest valid map that leaves the failing layers memory-only (R283): of two of one size, the one of less thermal weight (DESIGN CHOICE,
log 91; unsafe). -/
def largestMap (fail : BitVec 8) (cls : Nat) : Option (BitVec 8) :=
  (List.range 256).foldl (fun best n =>
    let m := BitVec.ofNat 8 n
    if m &&& fail = 0 ∧ mapValid m cls then match best with
      | none => some m
      | some b => if mapSize b < mapSize m ∨ (mapSize b = mapSize m ∧ mapWeight m < mapWeight b) then some m else best
    else best) none

/-- A self-test's outcome, free (log 1). -/
def State.selfTest (s : State) : Bool × State := let r := s.draw; (Config.passes r.1, r.2)

/-- The layers that fail the built-in self-test, as a map; the outcomes are free (log 1). -/
def State.testLayers (s : State) (ls : List Nat) : BitVec 8 × State :=
  ls.foldl (fun r l => let t := r.2.selfTest; (if t.1 then r.1 else r.1 ||| BitVec.ofNat 8 (2 ^ l), t.2)) (0, s)

/-- Self-tests until a map stands: the layers that a map makes compute and that are not tested yet are tested, and where one fails the largest
valid map without it follows; the map, the failing layers, and the state. -/
def State.testMap (s : State) : Nat → (m tested fail : BitVec 8) → Option (BitVec 8) × BitVec 8 × State
  | 0, _, _, fail => (none, fail, s)
  | n + 1, m, tested, fail =>
    let r := s.testLayers ((List.range 8).filter fun l => m.getLsbD l && !tested.getLsbD l)
    let fail := fail ||| r.1
    if m &&& fail = 0 then (some m, fail, r.2)
    else match largestMap fail s.mgmt.cooling with
      | none => (none, fail, r.2)
      | some m' => r.2.testMap n m' (tested ||| m) fail

/-- A tile, pen or group of a re-enumerated die keeps only its unit's own condition. -/
def Tile.rebuilt (t : Tile) (now : Nat) : Tile := { Tile.fresh with margin := t.margin, unusable := t.unusable, cycle0 := now }

/-- The physical position of a tile as a logical one under the default tile map. -/
def State.physTile (s : State) (t : Nat) : Nat := groupTile (groupKey (tDie t) (s.physGroup (tDie t) (tGroup t))) (groupPos t)

/-- Where a die's units are after a new map: the same layer's new place, if it stays a compute layer. -/
def State.movedDie (s : State) (new : List Nat) (d : Nat) : Option Nat :=
  (new.findIdx? (· == (s.dieLoc d).2)).map (· + 4 * (d / 4))

/-- The tiles, groups and dies of stack k under a new list of compute layers: a tile map of identities, and what belongs to the
physical units kept (R283). -/
def State.rebuild (s : State) (k : Nat) (new : List Nat) : State :=
  let ts := (s.tiles.filter fun p => tDie p.1 / 4 == k).filterMap fun p => (s.movedDie new (tDie p.1)).map fun d =>
    (tileKey d (tRow (s.physTile p.1)) (tCol (s.physTile p.1)), p.2.rebuilt s.now)
  let gs := (s.groups.filter fun p => p.1 / 320 / 4 == k && p.2.dead).filterMap fun p => (s.movedDie new (p.1 / 320)).map fun d =>
    groupKey d (s.physGroup (p.1 / 320) (p.1 % 320))
  let ps := (s.pens.filter fun p => p.1 / 2560 / 4 == k).filterMap fun p => (s.movedDie new (p.1 / 2560)).map fun d =>
    (penKey (tileKey d (tRow (s.physTile (penTile p.1 0))) (tCol (s.physTile (penTile p.1 0)))), p.2.margin)
  let s := { s with tiles := s.tiles.filter (fun p => tDie p.1 / 4 != k), groups := s.groups.filter (fun p => p.1 / 320 / 4 != k),
                    pens := s.pens.filter (fun p => p.1 / 2560 / 4 != k) }
  let s := ts.foldl (fun s p => { s with tiles := tset s.tiles p.1 p.2 }) s
  let s := gs.foldl (fun s g => s.updGroup g fun x => { x with dead := true }) s
  let s := ps.foldl (fun s p => s.updPen p.1 fun x => { x with margin := p.2 }) s
  (List.range 4).foldl (fun s i => s.updDie (4 * k + i) fun d => { d with map := [], move := none, twins := [] }) s

/-- The readiness bits of the dies after stack k is re-enumerated: its own are set, the other stack's keep theirs under their new
numbers. -/
def State.dieBits (s : State) (old : State) (k : Nat) : Nat :=
  ((List.range 8).filter fun d => s.dieExists d && (d / 4 == k || (old.dieExists d && old.mgmt.ready.getLsbD (34 + old.logDie d)))).foldl
    (fun n d => n + 2 ^ (34 + s.logDie d)) 0

/-- The supervisor launches of stack k's dies are started again on them (log 25). -/
def State.dropSupervisors (s : State) (k : Nat) : State :=
  let sup := (s.launches.filter fun l => l.2.supervisor && l.2.cur.any fun d => d / 4 == k).map Prod.fst
  let s := sup.foldl (fun s l => s.releaseLaunch l) s
  { s with launches := s.launches.filter fun l => !sup.contains l.1 }

/-- Re-enumerate stack k with a map (R283); STATUS of R415. -/
def State.reenumerate (s : State) (k : Nat) (map : BitVec 8) (stat : Nat) : State :=
    let old := s
    let new := (List.range 8).filter fun l => map.getLsbD l
    let s := s.dropSupervisors k
    let s := s.rebuild k new
    let s := s.zeroRange (lirekKey k 0 0 0) (8 * 40960 * 65536)
    let s := s.updStack k fun x => { x with role := map, chg := false, reroll := none, remap := [] }
    let ready := nput (s.mgmt.ready.toNat) 34 8 (s.dieBits old k / 2 ^ 34)
    { s with mgmt := { s.mgmt with ready := nw (nput ready (3 + k) 1 1), roleStat := stat } }

/-- The re-enumerate step for the map of a re-roling sequence, or of the boot (R283, R411): the layers that it makes compute are self-tested,
those that ran already counting as tested once the stack has been brought up; each that fails is reported. Where no valid map is left the
map stays as it was and the request counts as REFUSED (DESIGN CHOICE, log 91; unsafe). -/
def State.rerollNow (s : State) (k : Nat) : State :=
  match (s.stack k).reroll with
  | none => s
  | some (m, _, _, _) =>
    let ran := if s.mgmt.booted.getLsbD (3 + k) then (s.stack k).role else 0
    let r := s.testMap 9 m ran 0
    let s := match r.1 with
      | some m' => r.2.2.reenumerate k m' (if m' = m then 2 else 5)
      | none => r.2.2.reenumerate k (s.stack k).role 3
    (List.range 8).foldl (fun s l => if r.2.1.getLsbD l then s.layerRecord 0x29 k l 0 0 0 (l + k * 8) else s) s

end Sys2Proof.Machine
end

