-- ==== Sys2Proof/Machine/Reliability.lean ====
section
/-! DEFINITION. Reliability: corrected and uncorrectable errors, paddocks, marginal units and HBM4 repair (R371..R388). -/

namespace Sys2Proof.Machine

/-! ### Corrected errors (R372) -/

/-- A corrected error of die d. -/
def Die.corrected (d : Die) (kind addr now : Nat) : Die :=
  { d with cecnt := min (d.cecnt + 1) (2 ^ 32 - 1), ceFirst := if d.ceFirst.isSome then d.ceFirst else some (kind, addr, now),
           ceInterval := min (d.ceInterval + 1) (2 ^ 24 - 1) }

/-- The timing margin of a unit: a tile's core, or its pen's matrix unit (R381). -/
def State.unitMargin (s : State) (t : Nat) (matrix : Bool) : Margin := if matrix then (s.pen (penKey t)).margin else (s.tile t).margin
def State.setMargin (s : State) (t : Nat) (matrix : Bool) (m : Margin) : State :=
  if matrix then s.updPen (penKey t) fun p => { p with margin := m } else s.updTile t fun tl => { tl with margin := m }

/-- A unit reports a corrected error of its own state (R381). -/
def State.unitError (s : State) (t : Nat) (matrix : Bool) : State :=
  let m := s.unitMargin t matrix
  s.setMargin t matrix { m with errs := (s.now :: m.errs).take 8 }

/-- Eight of a unit's errors came within 2^30 cc (R381). -/
def Margin.trips (m : Margin) (now : Nat) : Bool :=
  match m.errs[7]? with
  | some c => decide (now < c + 2 ^ 30)
  | none => false

/-- The unit flagged for its errors (R381). -/
def State.marginPick (s : State) : Option (Nat × Bool) :=
  ((s.tiles.find? fun p => p.2.margin.trips s.now).map fun p => (p.1, false)) <|>
  (s.pens.find? fun p => p.2.margin.trips s.now).map fun p => (penTile p.1 0, true)

/-- Some failing symbol positions of a granule of a rank are more than its decoder corrects: with m marked positions, t others need
m + 2t ≤ 2 (R386). -/
def State.beyondCode (s : State) (rank : Nat) (ps : List Nat) : Bool :=
  let ms := tget [] s.mgmt.marks rank
  decide (2 < ms.length + 2 * (ps.filter fun p => !ms.contains p).length)

/-- A granule of HBM4 cannot be corrected: poison, and UNCOR (R371, R386). -/
def State.hbmLost (s : State) (o : Nat) : State :=
  ({ s with poison := markPoison s.poison (hbmKey o) 16 }).baseRecord 0x21 (nw o) 3

/-- A corrected error of HBM4 counts in its rank, and at each unmarked position it was met at (R387). -/
def State.rankError (s : State) (rank addr : Nat) (ps : List Nat) : State :=
  let s := { s with mgmt := { s.mgmt with rankCe := tset s.mgmt.rankCe rank (min (tget 0 s.mgmt.rankCe rank + 1) 65535) } }
  ps.foldl (fun s p => if (tget [] s.mgmt.marks rank).contains p then s else s.logErr (symKey rank p) addr) s

/-- ECC_CORRECTED (R372, R381, R386, R387): die ev.num, location kind ev.a, address ev.b. An error of HBM4 (kind 3), in rank ev.c at the symbol
positions ev.data, counts in die 0, or is beyond the code; one of a tile core (4) or matrix unit (5) counts at the unit of tile ev.c. -/
def execEccCorrected (s : State) : Res :=
  let ps := (s.ev.data.filter (· < 18)).eraseDups
  let rank := s.ev.c % 2 ^ 11
  .next (if s.ev.a = 3 ∧ s.beyondCode rank ps = true then s.hbmLost (s.ev.b / 16 * 16)
    else
      let d := if s.ev.a = 3 then 0 else (s.realDie s.ev.num).getD 0
      let s' := s.updDie d fun x => x.corrected s.ev.a s.ev.b s.now
      match s.ev.a with
      | 3 => s'.rankError rank s.ev.b ps
      | 4 => s'.unitError s.ev.c false
      | 5 => s'.unitError s.ev.c true
      | _ => s')

/-- Dies whose interval of 2^24 cc is over. -/
def State.corrDue (s : State) : List Nat :=
  (s.dies.filter fun d => match d.2.ceFirst with | some (_, _, n) => decide (n / 2 ^ 24 < s.now / 2 ^ 24) | none => false).map Prod.fst

/-- One CORR record, and the interval starts afresh. -/
def State.sendCorr (s : State) (d : Nat) : State :=
  match (s.die d).ceFirst with
  | none => s
  | some (kind, addr, _) =>
    let detail := kind + (s.die d).ceInterval * 2 ^ 8
    let s := s.updDie d fun x => { x with ceFirst := none, ceInterval := 0 }
    if kind = 3 then s.baseRecord 0x20 (nw addr) detail else s.record 0x20 d 0 0 (nw addr) 0 detail

/-- CORR_INTERVAL (R372). -/
def execCorrInterval (s : State) : Res := .next (s.corrDue.foldl (fun s d => s.sendCorr d) s)

/-! ### Uncorrectable data (R371) -/

def State.poisonAt (s : State) (key : Nat) : State := { s with poison := markPoison s.poison key 16 }

/-- A message whose payload is lost: what a request or a beat writes is poison, and a read's answer becomes POISON. -/
def Msg.lost (m : Msg) : Msg :=
  match m with
  | .req r => .req { r with bad := true }
  | .table r => .table { r with bad := true }
  | .ans a => .ans { a with status := if a.req.acc = .store then a.status else Cause.poison.code }
  | .beat l src dst w data t0 _ => .beat l src dst w data t0 true
  | .slice t e pos len size data _ => .slice t e pos len size data true
  | m => m

/-- The payload of a message in flight is lost. -/
def State.losePayload (s : State) (num : Nat) : State :=
  { s with flight := s.flight.map fun f => if f.num = num then { f with msg := f.msg.lost } else f }

/-- A message of a hurdle domain is lost: a release on its way to the tiles carries abort code 0xFE, and with none the current phase's will. -/
def State.loseHurdle (s : State) (d : Nat) : State :=
  let down := s.flight.any fun f => match f.msg with | .hurRelease x _ _ => x == d | _ => false
  if down then { s with flight := s.flight.map fun f => match f.msg with
    | .hurRelease x t r => if x = d then { f with msg := .hurRelease x t { r with abort := max r.abort 0xFE } } else f
    | _ => f }
  else s.updRoot d fun r => { r with err := true }

/-- A poisoned granule that a bank reports is counted (R385). -/
def State.bankError (s : State) (kind n o : Nat) : State :=
  match kind with
  | 0 => s.logErr (sliceBankKey n o) o
  | 1 => s.logErr (groupBankKey n o) o
  | _ =>
    let e := s.remapEntry n (o / 65536)
    s.logErr (columnKey (s.dieLoc n).1 e.layer ((16 * e.frame + o % 65536 / 4096) % 160)) o

/-- UNCORRECTABLE_DATA (R371): ev.a 0 a slice (tile ev.num, offset ev.b), 1 group SRAM (group), 2 die SRAM (die), 3 HBM4 (physical
address ev.b), 5 the B slot of tile ev.num, 8 a hurdle message and 9 a tree message of domain ev.num, 10 the payload of message ev.num. -/
def execUncorrectableData (s : State) : Res :=
  let n := s.ev.num
  let o := s.ev.b / 16 * 16
  .next (match s.ev.a with
    | 0 => ((s.poisonAt (s.sliceKey n o)).record 0x21 (tDie n) (tRow n) (tCol n)
        (nw (2 ^ 56 + tRow n * 2 ^ 40 + tCol n * 2 ^ 32 + o)) (s.tile n).lid 0).bankError 0 n o
    | 1 => ((s.poisonAt (s.groupByteKey n o)).record 0x21 (n / 320) 0 0 (nw (2 * 2 ^ 56 + n % 320 * 2 ^ 32 + o)) 0 1).bankError 1 n o
    | 2 => ((s.poisonAt (s.dieByteKey n o)).record 0x21 n 0 0 (nw (3 * 2 ^ 56 + s.logDie n * 2 ^ 32 + o)) 0 2).bankError 2 n o
    | 3 => s.hbmLost o
    | 5 => s.updTile n fun t =>
        { t with bslot := none, mq := match t.mq with | c :: r => { c with err := some (.poison, 0) } :: r | [] => [] }
    | 8 => s.loseHurdle n
    | 9 => s.updRound n fun r => { r with lost := true }
    | _ => s.losePayload n)

/-! ### Paddocks (R374..R380) -/

/-- A paddock of a die by number: an entry, or 64 + group for an implicit one. -/
def State.padOf (s : State) (t : Nat) : Nat := match s.paddockOf t with | some i => i | none => 64 + tGroup t

/-- Its tiles. -/
def State.padTiles (s : State) (d i : Nat) : List Nat :=
  if i < 64 then
    let p := tget Paddock.fresh (s.die d).paddocks i
    ((List.range p.rows).map fun r => (List.range p.cols).map fun c => tileKey d (p.row0 + r) (p.col0 + c)).flatten
  else (groupTiles d (i - 64)).filter fun t => (s.paddockOf t).isNone

/-- Its state. -/
def State.padSt (s : State) (d i : Nat) : Nat :=
  if i < 64 then (tget Paddock.fresh (s.die d).paddocks i).st else tget 0 (s.die d).implicit (i - 64)
def State.setPadSt (s : State) (d i st : Nat) : State :=
  s.updDie d fun x =>
    if i < 64 then { x with paddocks := tset x.paddocks i { tget Paddock.fresh x.paddocks i with st := st } }
    else { x with implicit := tset x.implicit (i - 64) st }

/-- DETAIL of KILL and PDRST (R373). -/
def padDetail (i : Nat) : Nat := if i < 64 then i else 2 ^ 6

/-- The domains that hold a tile: its launch's levels and its entries. -/
def State.domainsOf (s : State) (t : Nat) : List Nat :=
  let l := s.launch (s.tile t).lid
  (((List.range 4).filter (nb l.levels)).map (s.domOf t)) ++ (s.tileEntries t).map (entryDom l.part)

/-- A destroyed tile in one hurdle domain (R378): it arrives dropping with abort code 0xFF, or its arrival becomes a drop. -/
def State.dropAt (s : State) (t dom : Nat) : State :=
  let r := s.root dom
  let me := s.seenTile t
  if r.dropped.contains me then s
  else if r.arrived.any fun c => c.tile == some me then
    s.updRoot dom fun r => { r with arrived := r.arrived.map fun c => if c.tile = some me then { c with drop := true } else c }
  else s.rootCount dom { tile := some me, far := none, counter := none, op := none, val := 0, abort := 0xFF, drop := true }

/-- A destroyed tile in one tree domain (R378). -/
def State.goneAt (s : State) (t dom : Nat) : State :=
  let me := s.seenTile t
  s.updRound dom fun r => { r with gone := me :: r.gone, lost := r.lost || !(r.terms.any fun x => x.1 == me + 1) }

/-- The other copy lives on (R384). -/
def State.survivor (s : State) (ts : List Nat) (t : Nat) : Option Nat :=
  if s.paired t && !ts.contains (s.partner t) && !s.fenced (s.partner t) then some (s.partner t) else none

/-- Forward the requests a solo copy holds, unpaired (R384). -/
def State.forwardSolo (s : State) (t : Nat) : State :=
  let seen := s.seenTile t
  let mine := s.pairs.filter fun q => q.tile == seen && q.copy == (s.tile t).twin
  let s := { s with pairs := s.pairs.filter fun q => q.tile != seen }
  mine.foldl (fun s q => match q.msg with
    | some m => s.forward t q.min m
    | none => s.updTile t fun tl => { tl with slots := tl.slots.map fun u =>
        (u.1, match u.2.wait with | .twin _ => { u.2 with wait := .poll } | _ => u.2) }) s

/-- The survivor of a twin pair runs solo, and TWIN is sent (R384). -/
def State.goSolo (s : State) (dead live : Nat) : State :=
  let p := s.seenTile live
  let w := twinShift (s.launch (s.tile live).lid) p
  let lid := (s.tile live).lid
  let k := (s.tile live).twinSeq
  let _ := dead
  let s := s.updTile live fun t => { t with solo := true }
  let s := (s.forwardSolo live).updDie (tDie p) fun d => { d with twins := d.twins.filter fun x => x.1 != p }
  s.record 0x26 (tDie p) (tRow p) (tCol p) (nw k) lid (tRow w + tCol w * 2 ^ 8 + 2 ^ 17)

/-- One tile of a paddock at the fence (R377, R378). Its requests in flight count as inside, and are discarded (DEDUCED, log 120; unsafe). -/
def State.killTile (s : State) (ts : List Nat) (t : Nat) : State :=
  let s := (List.range 8).foldl (fun s u => s.leaveFlock t u 0) s
  let seen := s.seenTile t
  let keeps := fun (r : Req) => match r.who with | .thread x _ => x != t | _ => true
  let s := { s with held := s.held.filter keeps, fj := s.fj.filter (fun q => match q.2.msg with | .req r => q.2.incoming || keeps r | _ => true) }
  let s := { s with flight := s.flight.filter fun f => match f.msg with
    | .hurArrive _ c => c.tile != some seen
    | .treeTerm _ x _ _ => x != seen
    | .req r => keeps r
    | .table r => keeps r
    | .ans a => keeps a.req
    | .ctr c => c.tile != t
    | .grp g => g.tile != t
    | .sendm m => m.tile != t
    | _ => true }
  let s := { s with pens := s.pens.map fun (p : Nat × Pen) => (p.1, { p.2 with jobs := p.2.jobs.filter fun j => j.tile != t }) }
  match s.survivor ts t with
  | some live => s.goSolo t live
  | none =>
    let ds := s.domainsOf t
    ds.foldl (fun s d => s.goneAt t d) (ds.foldl (fun s d => s.dropAt t d) s)

/-- The launches with a tile among some. -/
def State.launchesOn (s : State) (ts : List Nat) : List Nat := ((ts.map fun t => (s.tile t).lid).filter (· != 0)).eraseDups

/-- Kill paddock i of a die: fenced, damage marked, KILL sent; its reset starts within 2 µs (R375, R377, R380). -/
def State.killPaddock (s : State) (d i t kind : Nat) : State :=
  if s.padSt d i ≠ 0 then s else
  let ts := s.padTiles d i
  let ls := s.launchesOn ts
  let lid := (s.tile t).lid
  let s := ts.foldl (fun s x => s.killTile ts x) s
  let s := ls.foldl (fun s l => s.updLaunch l fun l => { l with damaged := true }) (s.setPadSt d i 1)
  (s.fenceBeats.record 0x22 d (tRow t) (tCol t) 0 lid (padDetail i + kind * 2 ^ 8 + ls.length * 2 ^ 16)).sendWithin 2500 (.padReset d i)

/-- The thread of a walk message in flight is lost with it: its slot, OUT until now, is FREE (R376). -/
def State.loseWalk (s : State) (num : Nat) : State :=
  let gone := fun (c : WalkCtx) =>
    let s := { s with flight := s.flight.filter fun f => f.num != num }
    if (s.slot c.origin c.origSlot).st = .out then s.freeSlot c.origin c.origSlot else s
  match (s.flight.find? fun f => f.num == num).map Flight.msg with
  | some (.walk c) => gone c
  | some (.walkRefused c _) => gone c
  | _ => s

/-- PADDOCK_KILL (R376): the state of tile ev.num consumed is of kind ev.a; a matrix unit's error (5) kills every paddock with a tile
of the pen; ev.b, when not 0, is 1 more than the number of the walk message that holds the error. -/
def execPaddockKill (s : State) : Res :=
  let t := s.ev.num
  let ts := if s.ev.a = 5 then (List.range 8).map (penTile (penKey t)) else [t]
  let s' := if s.ev.b = 0 then s else s.loseWalk (s.ev.b - 1)
  .next (ts.foldl (fun s x => s.killPaddock (tDie x) (s.padOf x) x (s.ev.a % 16)) s')

/-- PADDOCK_RESET_START (R375): the reset ends within 20 µs of the fence. -/
def execPaddockResetStart (s : State) : Res :=
  .next (match s.arrived with
    | some (.padReset d i) => (s.taken.setPadSt d i 2).sendWithin 22500 (.padEnd d i)
    | _ => s)

/-- A group covered whole by some tiles. -/
def wholeGroup (ts : List Nat) (g : Nat) : Bool := (groupTiles (g / 320) (g % 320)).all ts.contains

/-- A byte of an entry's region lies in the group SRAM segment of one of some tiles: the segments of a group interleave at 256 bytes (R272). -/
def Counter.regionIn (c : Counter) (g : Nat) (ts : List Nat) : Bool :=
  let off := ((decodeWin c.base).map Win.off).getD 0
  let lines := (off + c.len - 1) / 256 - off / 256 + 1
  (List.range (min 64 lines)).any fun i => ts.contains (groupTile g ((off / 256 + i) % 64))

/-- Counter entries of a controller that a reset destroys: those of the tiles, and of a group those whose region lies in a segment of one of
them (R379, R302). -/
def State.killsCounter (s : State) (ts : List Nat) (k : Nat) : Bool :=
  match ctrKind k with
  | 0 => ts.contains (ctrIdx k)
  | 1 => wholeGroup ts (ctrIdx k) || (s.counter k).regionIn (ctrIdx k) ts
  | _ => false

/-- Destroy counter entries: bindings, decided firings and domain members go with them. -/
def State.killCounters (s : State) (f : Nat → Bool) : State :=
  { s with counters := s.counters.filter (fun c => !f c.1), firings := s.firings.filter (fun x => !f x.key),
           launches := s.launches.map (fun (l : Nat × Launch) => (l.1, { l.2 with ctrs := l.2.ctrs.filter fun c => !f c.2 })),
           roots := s.roots.map (fun (r : Nat × Root) => (r.1, { r.2 with counters := r.2.counters.filter fun c => !f c.1 })) }

/-- A tile after its paddock's reset: R312 with empty routine slots, still held by its launch (R379). -/
def Tile.reset (t : Tile) (l : Launch) : Tile :=
  { t.cleared with lid := t.lid, twin := t.twin, parkCap := t.parkCap, phase := BitVec.ofNat 4 l.levels }

/-- PADDOCK_RESET_END (R379). -/
def execPaddockResetEnd (s : State) : Res :=
  .next (match s.arrived with
    | some (.padEnd d i) =>
      let s := s.taken
      let ts := s.padTiles d i
      let s := ts.foldl (fun s t =>
        ((s.updTile t fun tl => tl.reset (s.launch tl.lid)).loseRange (s.sliceKey t 0) 65536).loseRange
          (s.groupByteKey (tGroupKey t) (256 * groupPos t)) 65536) s
      ((s.killCounters (s.killsCounter ts)).setPadSt d i 3).record 0x23 d 0 0 0 0 (padDetail i)
    | _ => s)

/-- Two rectangles of tiles overlap. -/
def Paddock.meets (a b : Paddock) : Bool := meet a.row0 a.rows b.row0 b.rows && meet a.col0 a.cols b.col0 b.cols

/-- The tiles of a rectangle of a die. -/
def Paddock.rect (p : Paddock) (d : Nat) : List Nat :=
  ((List.range p.rows).map fun r => (List.range p.cols).map fun c => tileKey d (p.row0 + r) (p.col0 + c)).flatten

/-- A write of c:PDDAT for entry i of die d (R374, R375). -/
def State.pdWrite (s : State) (d i v : Nat) : State :=
  let old := tget Paddock.fresh (s.die d).paddocks i
  let new : Paddock := { row0 := nf v 0 8, col0 := nf v 8 8, rows := nf v 16 8, cols := nf v 24 8, v := nb v 32, st := 0, err := false }
  let set := fun (p : Paddock) => s.updDie d fun x => { x with paddocks := tset x.paddocks i p }
  if nb v 36 && old.v && old.st == 3 && nf v 38 26 == 0 then ((set { old with err := false }).setPadSt d i 4).sendWithin 625000 (.padTest d i)
  else
    let bad := nf v 38 26 != 0 || decide (128 < new.row0 + new.rows) || decide (160 < new.col0 + new.cols) || new.rows == 0 || new.cols == 0 ||
      ((s.die d).paddocks.any fun p => p.1 != i && p.2.v && p.2.meets new) ||
      (new.rect d).any s.fenced || (old.v && (old.rect d).any s.fenced)
    if bad then set { old with err := true } else set new

/-- c:PDDAT (R374). -/
def State.pdRead (s : State) (d i : Nat) : Nat :=
  let p := tget Paddock.fresh (s.die d).paddocks i
  p.row0 + p.col0 * 2 ^ 8 + p.rows * 2 ^ 16 + p.cols * 2 ^ 24 + b2n p.v * 2 ^ 32 + p.st * 2 ^ 33 + b2n p.err * 2 ^ 37

/-- PADDOCK_DEFINE (R374): the write of ev.b to entry ev.a of die ev.num. -/
def execPaddockDefine (s : State) : Res := .next (s.pdWrite s.ev.num (s.ev.a % 64) (nput s.ev.b 36 1 0))
/-- PADDOCK_READMIT (R375): the write with RDM. -/
def execPaddockReadmit (s : State) : Res := .next (s.pdWrite s.ev.num (s.ev.a % 64) (nput s.ev.b 36 1 1))

/-- PADDOCK_TEST_END (R375): tiles that fail are retired, and the paddock opens. -/
def execPaddockTestEnd (s : State) : Res :=
  .next (match s.arrived with
    | some (.padTest d i) =>
      let s := s.taken
      let s := (s.padTiles d i).foldl (fun s t =>
        let r := s.selfTest
        if r.1 then r.2 else r.2.updTile t fun tl => { tl with unusable := true, margin := { tl.margin with st := 3 } }) s
      s.setPadSt d i 0
    | _ => s)

/-! ### Marginal units (R381, R382) -/

/-- Flag a unit (R382 step 1); its errors are counted afresh. -/
def State.marginFlag (s : State) (t : Nat) (matrix : Bool) : State :=
  let m := s.unitMargin t matrix
  let m' := { m with mev := min (m.mev + 1) 255, errs := [] }
  if m.st = 0 then
    (s.setMargin t matrix { m' with st := 1 }).record 0x24 (tDie t) (tRow t) (tCol t) 0 (s.tile t).lid (b2n matrix + m.bin * 2)
  else s.setMargin t matrix m'

/-- MARGIN_FLAG (R381): tile ev.num; its core, or (ev.a = 1) its pen's matrix unit. -/
def execMarginFlag (s : State) : Res := .next (s.marginFlag s.ev.num (s.ev.a == 1))

/-- The unit c:MGSEL of tile t names. -/
def State.mgUnit (s : State) (t : Nat) : Option (Nat × Bool) :=
  let v := (s.tile t).sel.mgsel
  if 128 ≤ nf v 0 8 ∨ 160 ≤ nf v 8 8 then none
  else (s.realDie (nf v 16 3)).map fun d => (tileKey d (nf v 0 8) (nf v 8 8), nb v 19)

/-- c:MGDAT (R382). -/
def State.mgRead (s : State) (t : Nat) : Nat :=
  match s.mgUnit t with
  | some (u, x) => let m := s.unitMargin u x; m.bin + m.st * 4 + m.mev * 2 ^ 8 + m.tests * 2 ^ 16
  | none => 0

/-- A write of c:MGDAT by tile t. -/
def State.mgWrite (s : State) (t v : Nat) : State :=
  match s.mgUnit t with
  | some (u, x) => if nb v 24 then s.marginFlag u x else s
  | none => s

/-- MARGIN_WDR (R382): the write by tile ev.num. -/
def execMarginWdr (s : State) : Res := .next (s.mgWrite s.ev.num (2 ^ 24))

/-- A withdrawn unit that no launch holds (R382 step 2). -/
def State.retestPick (s : State) : Option (Nat × Bool) :=
  match s.tiles.find? fun p => p.2.margin.st == 1 && p.2.lid == 0 with
  | some p => some (p.1, false)
  | none => (s.pens.find? fun p => p.2.margin.st == 1 && (List.range 8).all fun i => (s.tile (penTile p.1 i)).lid == 0).map fun p =>
      (penTile p.1 0, true)

/-- MARGIN_RETEST_START (R382 step 2). -/
def execMarginRetestStart (s : State) : Res :=
  .next (match s.retestPick with
    | none => s
    | some (t, x) =>
      let m := s.unitMargin t x
      (s.setMargin t x { m with bin := min (m.bin + 1) 3, st := 2, tests := min (m.tests + 1) 255 }).sendWithin (if x then 1250000 else 625000) (.retest t x))

/-- MARGIN_RETEST_END (R382 step 3). -/
def execMarginRetestEnd (s : State) : Res :=
  .next (match s.arrived with
    | some (.retest t x) =>
      let r := s.taken.selfTest
      let s := r.2
      let m := s.unitMargin t x
      let rec_ := fun (s : State) (bits : Nat) => s.record 0x25 (tDie t) (tRow t) (tCol t) 0 0 (b2n x + m.bin * 2 + bits)
      if r.1 then rec_ (s.setMargin t x { m with st := 0 }) 8
      else if m.bin < 3 then s.setMargin t x { m with st := 1 }
      else
        let s := s.setMargin t x { m with st := 3 }
        rec_ (if x then s else s.updTile t fun tl => { tl with unusable := true }) 16
    | _ => s)

/-! ### HBM4 repair (R386..R388) -/

/-- A rank's code is laid out as c:HBSEL: stack, channel, pseudo-channel, rank. DETAIL of ERASE, SPPR and HPPR (R373). -/
def rankDetail (rank pos marks : Nat) : Nat := rank % 2 ^ 11 + pos % 32 * 2 ^ 11 + marks * 2 ^ 16

/-- List a row or lane for hard repair, at most 64 per stack, and send HPPR (R387, log 26). -/
def State.listRepair (s : State) (rank base : Nat) (lane : Bool) : State :=
  let code := rank % 2 ^ 11 + b2n lane * 2 ^ 11 + base * 2 ^ 12
  let s := if (s.mgmt.repairs.filter fun r => r % 8 == rank % 8).length < 64 then
      { s with mgmt := { s.mgmt with repairs := s.mgmt.repairs ++ [code] } }
    else s
  s.baseRecord 0x2C (if lane then 0 else nw base) (rankDetail rank 0 0 + b2n lane * 2 ^ 25)

/-- The symbol position to mark next: four errors at it within 1 s, on a rank with fewer than two marks (R387). -/
def State.symPick (s : State) : Option Ev :=
  (s.mgmt.errLog.find? fun e => decide (e.1 < 2 ^ 16) && s.fourErrs e.2 && decide ((tget [] s.mgmt.marks (e.1 / 32)).length < 2)).map fun e =>
    { num := e.1 / 32, a := e.1 % 32, b := (e.2.head?.map Prod.snd).getD 0, c := 0, data := [] }

/-- SYMBOL_MARK (R387): rank ev.num, position ev.a, the granule at physical address ev.b. -/
def execSymbolMark (s : State) : Res :=
  let rank := s.ev.num % 2 ^ 11
  let ms := tget [] s.mgmt.marks rank
  .next (if 2 ≤ ms.length ∨ ms.contains s.ev.a ∨ 18 ≤ s.ev.a then s
    else
      let s' := { s with mgmt := { s.mgmt with marks := tset s.mgmt.marks rank (ms ++ [s.ev.a]) } }
      ((s'.forgetErrs (· == symKey rank s.ev.a)).baseRecord 0x2A (nw s.ev.b) (rankDetail rank s.ev.a (ms.length + 1))).listRepair rank 0 true)

/-- Every partition of the package allows a pause. -/
def State.mayPause (s : State) : Bool := s.parts.all fun p => !p.2.valid || p.2.rlpol

/-- SOFT_REPAIR_START (R387, R388): a row at physical address ev.a of rank ev.num, in bank ev.b, fails. -/
def execSoftRepairStart (s : State) : Res :=
  let rank := s.ev.num % 2 ^ 11
  let bank := rank + s.ev.b * 2 ^ 11
  let ch := s.ev.num % 8 * 32 + s.ev.num / 8 % 32
  .next (if s.mgmt.softUsed.contains bank then s.listRepair rank s.ev.a false
    else if s.mayPause then
      let s' := { s with mgmt := { s.mgmt with quiesced := ch :: s.mgmt.quiesced, softUsed := bank :: s.mgmt.softUsed } }
      let s' := s'.flight.foldl (fun s f => match f.msg with
        | .req r => match r.phys with
          | some k => if hbmChan (k - hbmBase) = ch then s.holdNotice r.who 0 else s
          | none => s
        | _ => s) s'
      (s'.sendWithin 250000 (.repairEnd (rank + s.ev.a * 2 ^ 11))).listRepair rank s.ev.a false
    else (s.baseRecord 0x2B (nw s.ev.a) (rankDetail rank 0 0 + 2 ^ 24)).listRepair rank s.ev.a false)

/-- SOFT_REPAIR_END (R388): the held requests go on. -/
def execSoftRepairEnd (s : State) : Res :=
  .next (match s.arrived with
    | some (.repairEnd v) =>
      let s := s.taken
      let ch := v % 8 * 32 + v / 8 % 32
      { s with mgmt := { s.mgmt with quiesced := s.mgmt.quiesced.erase ch } }.baseRecord 0x2B (nw (v / 2 ^ 11)) (rankDetail v 0 0)
    | _ => s)

/-- c:HBDAT for a tile's c:HBSEL (R387). -/
def State.hbRead (s : State) (t : Nat) : Nat :=
  let rank := (s.tile t).sel.hbsel
  let ms := tget [] s.mgmt.marks rank
  (ms[0]?).getD 0 + b2n (decide (1 ≤ ms.length)) * 2 ^ 5 + (ms[1]?).getD 0 * 2 ^ 6 + b2n (decide (2 ≤ ms.length)) * 2 ^ 11 +
    tget 0 s.mgmt.rankCe rank * 2 ^ 12

end Sys2Proof.Machine
end

