-- ==== Sys2Proof/Machine/Twin.lean ====
section
/-! DEFINITION. Twin: pairing the requests of twin copies and recovering from a mismatch (R329..R331, R383, R384). -/

namespace Sys2Proof.Machine

/-! ### Pairs (R330) -/

/-- The thread that waits for a request's answer. -/
def Msg.asker (m : Msg) : Option (Nat × Nat) :=
  match m with
  | .req r => match r.who with | .thread t u => some (t, u) | _ => none
  | .ctr c => some (c.tile, c.slot)
  | .grp g => some (g.tile, g.slot)
  | .sendm q => some (q.tile, q.slot)
  | _ => none

/-- The answer goes to another thread too. -/
def Msg.withPeer (m : Msg) (p : Option (Nat × Nat)) : Msg :=
  match m with
  | .req r => .req { r with peer := p }
  | .ctr c => .ctr { c with peer := p }
  | .grp g => .grp { g with peer := p }
  | .sendm q => .sendm { q with peer := p }
  | m => m

/-- A mismatch of a primary tile stands (R331). -/
def State.mismatched (s : State) (t : Nat) : Bool := (s.die (tDie t)).twins.any fun x => x.1 == t

/-- The next two requests to compare: the primary's and its twin's of the same number. -/
def State.pairPick (s : State) : Option (TwinReq × TwinReq) :=
  s.pairs.findSome? fun q =>
    if q.copy || s.mismatched q.tile then none
    else (s.pairs.find? fun r => r.copy && r.tile == q.tile && r.seq == q.seq).map fun r => (q, r)

/-- Let a request of a copy go on: its message sets out, or the copy may act (R330). -/
def State.releasePair (s : State) (q : TwinReq) (peer : Option (Nat × Nat)) (live : Nat) : State :=
  match q.msg with
  | some m => s.forward live q.min (m.withPeer peer)
  | none => s.updTile q.tile fun t => { t with twinLog := t.twinLog ++ [(q.seq, 0)] }

/-- The contributions of both are the same, so only the superstep's hash differs (R330). -/
def sameMsg (q r : TwinReq) : Bool :=
  match q.msg, r.msg with
  | some (.hurArrive d c), some (.hurArrive d' c') => d == d' && c == c'
  | _, _ => false

/-- A mismatch is reported; neither request is forwarded, nor any later one (R331, R383). -/
def State.reportTwin (s : State) (q r : TwinReq) : State :=
  let w := twinShift (s.launch (s.tile q.tile).lid) q.tile
  let sup := sameMsg q r
  let s' := s.updDie (tDie q.tile) fun d => { d with twins := d.twins ++ [(q.tile, q.seq)] }
  s'.record 0x26 (tDie q.tile) (tRow q.tile) (tCol q.tile) (if sup then BitVec.allOnes 64 else nw q.seq) (s.tile q.tile).lid
    (tRow w + tCol w * 2 ^ 8 + b2n sup * 2 ^ 16)

/-- TWIN_PAIR_COMPARE (R330, R331). -/
def execTwinPairCompare (s : State) : Res :=
  .next (match s.pairPick with
    | none => s
    | some (q, r) =>
      if q.hash = r.hash then
        ({ s with pairs := (s.pairs.erase q).erase r }).releasePair q (r.msg.bind Msg.asker) q.tile
      else s.reportTwin q r)

/-! ### Recovery (R383) -/

/-- Move tile names of a copy by the displacement of the other one. -/
def moveKey (f : Nat → Nat) (p : Option (Nat × Nat)) : Option (Nat × Nat) := p.map fun x => (f x.1, x.2)

/-- A slot of the other copy. -/
def Slot.moved (sl : Slot) (f : Nat → Nat) : Slot :=
  { sl with home := moveKey f sl.home, flock := moveKey f sl.flock, line := none,
            wait := match sl.wait with | .walk d e a c => .walk (f d) e a c | w => w }

/-- A tile overwritten with the kept copy: what belongs to the unit stays. -/
def Tile.copyOf (old kept : Tile) (f : Nat → Nat) : Tile :=
  { kept with slots := kept.slots.map (fun u => (u.1, u.2.moved f)), twin := old.twin, sel := old.sel, margin := old.margin,
              unusable := old.unusable, halted := old.halted, cycle0 := old.cycle0,
              parkq := kept.parkq.map (fun c => { c with dest := f c.dest, origin := f c.origin, home := moveKey f c.home }) }

/-- Keep one copy of primary tile p (R383): the other's requests are dropped, its tile becomes a copy of the kept one, the kept copy's
requests go on in order, and the dropped copy's core is flagged. -/
def State.keepCopy (s : State) (p : Nat) (twin : Bool) : State :=
  let off := (s.launch (s.tile p).lid).twinOff
  let w := p + off
  let kept := if twin then w else p
  let other := if twin then p else w
  let f := fun (t : Nat) => if twin then t - off else t + off
  let mine := s.pairs.filter fun q => q.tile == p && q.copy == twin
  let s := { s with pairs := s.pairs.filter fun q => q.tile != p }
  let s := s.updDie (tDie p) fun d => { d with twins := d.twins.filter fun x => x.1 != p }
  let k := s.tile kept
  let s := s.updTile other fun o => o.copyOf k f
  let s := s.copyStorage s (s.sliceKey kept 0) (s.sliceKey other 0) 65536
  let s := mine.foldl (fun s q => s.releasePair q (moveKey f (q.msg.bind Msg.asker)) kept) s
  s.marginFlag other false

/-- A write of c:TWCTL on die d (R383). -/
def State.twctl (s : State) (d v : Nat) : State :=
  let p := tileKey d (nf v 0 8) (nf v 8 8)
  if !s.mismatched p then s else
  match nf v 16 2 with
  | 0 => s.keepCopy p false
  | 1 => s.keepCopy p true
  | 2 => s.endLaunch (s.tile p).lid
  | _ => s

/-- TWIN_KEEP_PRIMARY (R383): the write naming row and col ev.a on die ev.num. -/
def execTwinKeepPrimary (s : State) : Res := .next (s.twctl s.ev.num (s.ev.a % 65536))
/-- TWIN_KEEP_TWIN (R383). -/
def execTwinKeepTwin (s : State) : Res := .next (s.twctl s.ev.num (s.ev.a % 65536 + 2 ^ 16))
/-- TWIN_END_LAUNCH (R383). -/
def execTwinEndLaunch (s : State) : Res := .next (s.twctl s.ev.num (s.ev.a % 65536 + 2 * 2 ^ 16))
/-- TWIN_NO_ACTION (R383). -/
def execTwinNoAction (s : State) : Res := .next (s.twctl s.ev.num (s.ev.a % 65536 + 3 * 2 ^ 16))

end Sys2Proof.Machine
end

