-- ==== Sys2Proof/Machine/System.lean ====
section
/-! DEFINITION. System: TRAP, BRK, IDLE, ERET, PARK, MFC and MTC with every control register (R38..R40, R239..R243, R357, R364,
R365). -/

namespace Sys2Proof.Machine

/-! ### TRAP, BRK, IDLE (R239, R240, R420) -/

/-- The executing thread parks; it resumes at the following instruction (R240). -/
def State.parkSelf (s : State) (c : Cause) (detail : Nat) : State :=
  s.trapAt s.curTile s.curSlot { cause := c, pc := s.cur.pc, resume := s.cur.pc + 4, addr := 0, detail := detail, mflags := 0 }

/-- TRAP (R239). -/
def execTrap (n : BitVec 8) (s : State) : Res := .next (s.parkSelf .trap n.toNat)

/-- BRK (R239): with a debug agent attached it halts the tile and records its pc (R420). -/
def execBrk (n : BitVec 8) (s : State) : Res :=
  .next (if s.mgmt.agent.isSome then
      let pc := s.cur.pc.toNat
      let s := (s.done 4).updTile s.curTile fun t => { t with halted := true }
      { s with mgmt := { s.mgmt with brkPc := pc } }
    else s.parkSelf .brk n.toNat)

/-- IDLE (R239): sleeps until an event bit that was 0 in its sample is set; one set in the cycle of the sample is such a bit. It consumes
nothing. -/
def execIdle (s : State) : Res :=
  .next (match s.cur.idle with
    | some smp => if s.cur.evt &&& ~~~smp = 0 then s.updCur fun sl => { sl with st := .sleep } else s.done 4
    | none => if s.cur.evtNew ≠ 0#8 then s.done 4 else s.updCur fun sl => { sl with st := .sleep, idle := some sl.evt, wait := .none })

/-! ### Threads named by a descriptor (R240) -/

/-- The slots a descriptor names on the issuing die: a twin launch's both copies (log 27). -/
def State.named (s : State) (d : Word) : List (Nat × Nat) :=
  if 128 ≤ wf d 0 8 ∨ 160 ≤ wf d 8 8 then []
  else (s.copies (tileKey (tDie s.curTile) (wf d 0 8) (wf d 8 8))).map fun t => (t, wf d 16 3)

/-- A request of a parked thread that the fault buffer holds is dropped when the thread goes on without it. -/
def State.dropHeld (s : State) (t u : Nat) : State :=
  let mine := fun (r : Req) => r.who == .thread t u && r.acc != .store
  { s with held := s.held.filter (fun r => !mine r),
           flight := s.flight.filter (fun f => match f.msg with
             | .req r => !mine r
             | .table r => !mine r
             | _ => true),
           fj := s.fj.filter (fun k => match k.2.msg with
             | .req r => !mine r || k.2.incoming
             | _ => true) }

/-- The length of the word at a thread's pc; 4 where it cannot be read. -/
def State.wordLen (s : State) (t u : Nat) : Nat :=
  match s.fetch t u with
  | .got _ b => b.length
  | _ => 4

/-- ERET's effect on a slot (R241). -/
def State.eretAt (s : State) (d : Word) (t u : Nat) : State :=
  let sl := s.slot t u
  if sl.st ≠ .park ∨ sl.tag ≠ wf d 32 16 then s else
  let len := s.wordLen t u
  let s := (s.dropHeld t u).keepMsg t u
  if d.getLsbD 21 then s.updSlot t u fun sl => { (sl.eret sl.pc).setEvt 0#8 with loops := [], wait := .exit }
  else s.updSlot t u fun sl => sl.eret (if d.getLsbD 20 then sl.pc + BitVec.ofNat 64 len else sl.pc)

/-- ERET (R241): the descriptor is k1. -/
def execEret (s : State) : Res :=
  let d := s.cur.kr 1
  .next (if s.cur.priv then ((s.named d).foldl (fun s q => s.eretAt d q.1 q.2) s).done 4 else s.trapPriv .eret)

/-- PARK of another thread (R242): one that waits for the answer of a read or an atomic parks when it has come; one whose held access is
answered and that waits to move (R360) takes the answer and parks where it is. -/
def State.parkOther (s : State) (t u : Nat) : State :=
  let sl := s.slot t u
  match sl.st with
  | .free => s
  | .out => s
  | .park => s
  | _ =>
    if sl.wait = .answer then s.updSlot t u fun sl => { sl with parkReq := true }
    else
      let s := match sl.back with
        | some b => s.updSlot t u fun sl => sl.resumeHere (s.resumeCtx t u b)
        | none => s
      let pc := (s.slot t u).pc
      s.trapAt t u { cause := .park, pc := pc, resume := pc, addr := 0, detail := 0, mflags := 0 }

/-- PARK (R242). -/
def execPark (a : Reg) (s : State) : Res :=
  let v := s.xr a
  .next (if v = BitVec.allOnes 64 then s.parkSelf .park 0
    else if !s.cur.priv then s.trapPriv (.park a)
    else
      let me := (s.curTile, s.curSlot)
      let ts := s.named v
      let s := ((ts.filter (· != me)).foldl (fun s q => s.parkOther q.1 q.2) s).done 4
      if ts.contains me then s.parkOther me.1 me.2 else s)

/-! ### c:TMR (R38) -/

/-- A write of c:TMR of a slot. -/
def Slot.tmrWrite (sl : Slot) (now v : Nat) : Slot := { sl with tmrEnd := if v = 0 then 0 else now + v }
def Slot.tmr (sl : Slot) (now : Nat) : Nat := sl.tmrEnd - now

/-- TMR_WRITE (R38): slot ev.a of tile ev.num, value ev.b. -/
def execTmrWrite (s : State) : Res := .next (s.updSlot s.ev.num s.ev.a fun sl => sl.tmrWrite s.now (s.ev.b % 2 ^ 64))

/-- The counter has counted down to 0. -/
def Slot.tmrDue (sl : Slot) (now : Nat) : Bool := sl.tmrEnd != 0 && decide (sl.tmrEnd ≤ now)

/-- TMR_EXPIRE (R38): slot ev.a of tile ev.num; event bit 6. -/
def execTmrExpire (s : State) : Res :=
  .next (if (s.slot s.ev.num s.ev.a).tmrDue s.now then s.updSlot s.ev.num s.ev.a fun sl => ({ sl with tmrEnd := 0 }).event 6 else s)

/-! ### c:PKSEL and c:PKDAT (R364) -/

/-- The slot c:PKSEL of tile t names. -/
def State.pkSlot (s : State) (t : Nat) : Option (Nat × Nat) :=
  let v := (s.tile t).sel.pksel
  if 128 ≤ nf v 0 8 ∨ 160 ≤ nf v 8 8 then none else some (tileKey (tDie t) (nf v 0 8) (nf v 8 8), nf v 16 3)

/-- A register of a slot by REG. -/
def Slot.reg (sl : Slot) (r : Nat) : Option Word :=
  if r = 0 then some sl.pc
  else if r < 16 then some (sl.xr (BitVec.ofNat 4 r))
  else if r = 16 then some sl.status
  else if r < 25 then some (sl.kr (BitVec.ofNat 3 (r - 17)))
  else none

/-- A read of c:PKDAT. -/
def State.pkRead (s : State) (t : Nat) : Word :=
  match s.pkSlot t with
  | some (p, u) =>
    let sl := s.slot p u
    if sl.st = .park then (sl.reg (nf (s.tile t).sel.pksel 19 5)).getD (BitVec.allOnes 64) else BitVec.allOnes 64
  | none => BitVec.allOnes 64

/-- A write of a register of a parked slot. -/
def Slot.regWrite (sl : Slot) (r : Nat) (v : Word) : Slot :=
  if r = 0 then (if v.getLsbD 0 then sl else { sl with pc := v })
  else if r < 16 then sl.setX (BitVec.ofNat 4 r) v
  else if r = 16 then { sl with status := putField (putField sl.status 0 12 (wf v 0 12)) 13 1 (wf v 13 1) }
  else if r < 25 then sl.setK (BitVec.ofNat 3 (r - 17)) v
  else sl

/-- A write of c:PKDAT by tile t (R364). -/
def State.pkWrite (s : State) (t : Nat) (v : Word) : State :=
  match s.pkSlot t with
  | some (p, u) => (s.copies p).foldl (fun s p =>
      if (s.slot p u).st = .park then s.updSlot p u fun sl => sl.regWrite (nf (s.tile t).sel.pksel 19 5) v else s) s
  | none => s

/-- PKDAT_WRITE (R364): the write of ev.a by tile ev.num. -/
def execPkdatWrite (s : State) : Res := .next (s.pkWrite s.ev.num (nw s.ev.a))

/-! ### c:CREG (R365) -/

/-- A region's list of dies on which it is not fetchable. -/
def CodeRegion.setNx (r : CodeRegion) (d : Nat) (nx : Bool) : CodeRegion :=
  { r with nx := if nx then d :: r.nx.filter (· != d) else r.nx.filter (· != d) }

/-- A write of c:CREG on die d (R365). -/
def State.cregWrite (s : State) (d v : Nat) : State :=
  let lid := nf v 16 16
  let l := s.launch lid
  if l.holdsOn d then s.updLaunch lid fun l =>
    { l with regions := ((List.range l.regions.length).zip l.regions).map fun r => if r.1 = nf v 0 8 then r.2.setNx d (nb v 8) else r.2 }
  else s

/-- CREG_SET_NX (R365): the write of ev.a on die ev.num. -/
def execCregSetNx (s : State) : Res := .next (s.cregWrite s.ev.num (nput s.ev.a 8 1 1))
/-- CREG_CLEAR_NX (R365). -/
def execCregClearNx (s : State) : Res := .next (s.cregWrite s.ev.num (nput s.ev.a 8 1 0))

/-! ### MFC (R38, R243) -/

/-- c:TILEID: the coordinates, die number and stack a thread of the tile sees. -/
def State.tileId (s : State) (t : Nat) : Nat :=
  let b := s.seenTile t
  tRow b + tCol b * 2 ^ 8 + s.ownDie t % 8 * 2 ^ 16 + tDie t / 4 * 2 ^ 19 + s.pkg % 4096 * 2 ^ 20 + s.pod % 256 * 2 ^ 32

/-- c:SLOT. -/
def Slot.slotWord (sl : Slot) (u : Nat) : Nat := u + match sl.home with | some (_, i) => i * 2 ^ 8 | none => 2 ^ 15

/-- RCTL (R19). -/
def Routine.ctl (r : Routine) : Nat := b2n r.rdy + b2n r.hld * 2 + b2n r.run * 4 + b2n r.mrg * 8 + b2n r.vld * 16

/-- A program-level register: its value and the state after the read; none when unassigned. -/
def State.mfcUser (s : State) (n : Nat) : Option (Nat × State) :=
  let t := s.curTile
  let tl := s.curT
  let sl := s.cur
  let l := s.launch tl.lid
  let ro := fun (v : Nat) => some (v, s)
  if n = 0x000 then ro sl.status.toNat
  else if n = 0x001 then ro sl.evt.toNat
  else if n = 0x002 then ro (sl.cntN % 65536 + sl.cntP % 65536 * 2 ^ 16 + sl.cntF % 65536 * 2 ^ 32)
  else if n = 0x003 then ro (s.tileId t)
  else if n = 0x004 then ro (sl.slotWord s.curSlot)
  else if n = 0x005 then ro (tl.lid + l.prio * 2 ^ 16 + b2n l.twin * 2 ^ 19)
  else if n = 0x006 then ro (s.now - tl.cycle0)
  else if n = 0x007 then ro (sl.tmr s.now)
  else if n < 0x00C then ro (tl.stepCount (n - 8))
  else if n = 0x00C then ro tl.phase.toNat
  else if n = 0x00D then ro tl.chain.toNat
  else if n = 0x00E then ro (tl.parkCap + tl.parkq.length * 2 ^ 8)
  else if n = 0x00F then some (tl.wref, s.updTile t fun x => { x with wref := 0 })
  else if n = 0x010 then some ((s.pen (penKey t)).bkcf, s.updPen (penKey t) fun p => { p with bkcf := 0 })
  else if n = 0x011 then some (tl.rmrg, s.updTile t fun x => { x with rmrg := 0 })
  else if 0x100 ≤ n ∧ n < 0x120 then ro (tl.routine (n - 0x100)).rent.toNat
  else if 0x120 ≤ n ∧ n < 0x140 then ro (tl.routine (n - 0x120)).rarg.toNat
  else if 0x140 ≤ n ∧ n < 0x160 then ro (tl.routine (n - 0x140)).ctl
  else none

/-- c:FBSTAT and c:FBREC (R357). -/
def State.fbstat (s : State) : Nat :=
  s.faults.length + b2n s.fbOvf * 2 ^ 11 + s.fbGen * 2 ^ 16 + min s.held.length 65535 * 2 ^ 32
def State.fbrec (s : State) (t i : Nat) : Nat :=
  match s.faults[(s.tile t).sel.fbsel]? with
  | none => 2 ^ 64 - 1
  | some r => (match i with | 0 => r.1 | 1 => r.2.1 | 2 => r.2.2.1 | _ => r.2.2.2).toNat

/-- c:WGDAT1 of an entry (R404). -/
def Grant.word (g : Grant) : Nat := g.pages + g.grantee * 2 ^ 32 + g.rights.toNat * 2 ^ 44 + g.st * 2 ^ 48 + b2n g.err * 2 ^ 50

def State.updSel (s : State) (t : Nat) (f : Selects → Selects) : State := s.updTile t fun tl => { tl with sel := f tl.sel }

/-- A supervisor register. -/
def State.mfcSup (s : State) (n : Nat) : Option (Nat × State) :=
  let t := s.curTile
  let d := tDie t
  let sel := s.curT.sel
  let p := (s.launch s.curT.lid).part
  let ro := fun (v : Nat) => some (v, s)
  match n with
  | 0x840 => ro 0
  | 0x841 => some (sel.swres + sel.swtag * 2 ^ 4 + sel.swdone * 2 ^ 16, s.updSel t fun x => { x with swres := 0, swtag := 0 })
  | 0x842 => ro sel.rmsel
  | 0x843 => ro (s.rmdat t)
  | 0x844 => ro s.roleWord
  | 0x850 => some (s.aclost, { s with aclost := 0 })
  | 0x860 => some (s.starv, { s with starv := 0 })
  | 0x861 => ro (s.die d).dthr
  | 0x862 => ro sel.qsel
  | 0x863 => ro (s.qdRead sel.qsel 0)
  | 0x864 => ro (s.qdRead sel.qsel 1)
  | 0x865 => ro (s.qdRead sel.qsel 2)
  | 0x866 => ro (s.qdRead sel.qsel 3)
  | 0x867 => ro 0
  | 0x868 => some (sel.tmres + sel.tmtag * 2 ^ 4, s.updSel t fun x => { x with tmres := 0, tmtag := 0 })
  | 0x869 => ro (b2n s.lendActive * 2 ^ 16 + s.lendStat * 2 ^ 17)
  | 0x870 => ro (s.die d).wdog
  | 0x871 => some (sel.sldr, s.updSel t fun x => { x with sldr := 0 })
  | 0x880 => ro (b2n (s.part p).ptEn + (s.part p).ptAddr + (s.part p).owner * 2 ^ 48)
  | 0x881 => ro (b2n s.xinvBusy * 2 ^ 49)
  | 0x883 => ro s.fbstat
  | 0x884 => ro sel.fbsel
  | 0x885 => ro (s.fbrec t 0)
  | 0x886 => ro (s.fbrec t 1)
  | 0x887 => ro (s.fbrec t 2)
  | 0x888 => ro (s.fbrec t 3)
  | 0x889 => ro 0
  | 0x88A => ro s.fbSvc
  | 0x88B => ro 0
  | 0x88C => ro sel.pksel
  | 0x88D => ro (s.pkRead t).toNat
  | 0x88E => some ((s.die d).trlost, s.updDie d fun x => { x with trlost := 0 })
  | 0x890 => ro sel.pdsel
  | 0x891 => ro (s.pdRead d sel.pdsel)
  | 0x893 => ro sel.mgsel
  | 0x894 => ro (s.mgRead t)
  | 0x895 => ro 0
  | 0x896 => ro sel.hbsel
  | 0x897 => ro (s.hbRead t)
  | 0x898 => ro (b2n (s.part p).rlpol)
  | 0x899 => some ((s.die d).cecnt, s.updDie d fun x => { x with cecnt := 0 })
  | 0x8A0 => ro sel.wgsel
  | 0x8A1 => ro ((s.part p).wgdat0 * 2 ^ 16)
  | 0x8A2 => ro ((s.part p).grant sel.wgsel).word
  | _ => none

/-- MFC (R38, R243). -/
def execMfc (d : Reg) (n : BitVec 12) (s : State) : Res :=
  .next (if n.getLsbD 11 && !s.cur.priv then s.trapPriv (.mfc d n)
    else match (if n.getLsbD 11 then s.mfcSup n.toNat else s.mfcUser n.toNat) with
      | none => s.trapIll (.mfc d n)
      | some (v, s') => s'.wr d (nw v) 4)

/-! ### MTC (R38, R243) -/

/-- Outcome of a write. -/
inductive MtcOut where
  | ill
  /-- a register that no write changes. -/
  | fixed
  /-- the write waits (R355, R328). -/
  | wait
  | ok (s : State)

/-- c:STATUS: RW fields, and PSN cleared by a 1 (R14, R243). -/
def Slot.statusWrite (sl : Slot) (v : Word) : Slot :=
  let st := putField sl.status 0 12 (wf v 0 12)
  { sl with status := if v.getLsbD 13 then putField st 13 1 0 else st }

/-- A write of a program-level register. -/
def State.mtcUser (s : State) (n : Nat) (v : Word) : MtcOut :=
  let t := s.curTile
  if n = 0x000 then .ok (s.updCur fun sl => sl.statusWrite v)
  else if n = 0x007 then .ok (s.updCur fun sl => sl.tmrWrite s.now v.toNat)
  else if n = 0x00D then .ok (s.updTile t fun x => { x with chain := BitVec.ofNat 4 (wf v 0 4) })
  else if 0x140 ≤ n ∧ n < 0x160 then
    .ok (if v.getLsbD 3 then s.updTile t fun x => { x with routines := tset x.routines (n - 0x140) { x.routine (n - 0x140) with mrg := false } }
      else s)
  else if n < 0x012 ∨ (0x100 ≤ n ∧ n < 0x140) then .fixed
  else .ill

/-- A write of a supervisor register. -/
def State.mtcSup (s : State) (n : Nat) (w : Word) : MtcOut :=
  let t := s.curTile
  let d := tDie t
  let v := w.toNat
  let sel := s.curT.sel
  let p := (s.launch s.curT.lid).part
  match n with
  | 0x840 => .ok (s.swreq t v)
  | 0x841 => .fixed
  | 0x842 => .ok (s.updSel t fun x => { x with rmsel := nf v 0 19 })
  | 0x843 => .fixed
  | 0x844 => .fixed
  | 0x850 => .fixed
  | 0x860 => .fixed
  | 0x861 => .ok (s.updDie d fun x => { x with dthr := if nf v 0 7 = 0 ∨ 64 < nf v 0 7 then 64 else nf v 0 7 })
  | 0x862 => .ok (s.updSel t fun x => { x with qsel := nf v 0 6 })
  | 0x863 => .ok (s.qdWrite sel.qsel 0 v)
  | 0x864 => .ok (s.qdWrite sel.qsel 1 v)
  | 0x865 => .ok (s.qdWrite sel.qsel 2 v)
  | 0x866 => .fixed
  | 0x867 => .ok (s.tmreq t v)
  | 0x868 => .fixed
  | 0x869 => if s.lendActive then .wait else .ok (s.lendWrite p (nf v 0 16))
  | 0x870 => .ok (s.updDie d fun x => { x with wdog := nf v 0 32 })
  | 0x871 => .fixed
  | 0x880 => .ok (s.updPart p fun q => { q with ptEn := nb v 0, ptAddr := nf v 12 36 * 4096 })
  | 0x881 => if s.xinvBusy then .wait else .ok (s.xinv p (nf v 16 32) (nb v 48))
  | 0x883 => .fixed
  | 0x884 => .ok (s.updSel t fun x => { x with fbsel := nf v 0 10 })
  | 0x885 => .fixed
  | 0x886 => .fixed
  | 0x887 => .fixed
  | 0x888 => .fixed
  | 0x889 => .ok (s.faultFlush (nf v 0 16))
  | 0x88A => .ok { s with fbSvc := nf v 0 19 }
  | 0x88B => .ok (s.cregWrite d v)
  | 0x88C => .ok (s.updSel t fun x => { x with pksel := nf v 0 24 })
  | 0x88D => .ok (s.pkWrite t w)
  | 0x88E => .fixed
  | 0x890 => .ok (s.updSel t fun x => { x with pdsel := nf v 0 6 })
  | 0x891 => .ok (s.pdWrite d sel.pdsel v)
  | 0x893 => .ok (s.updSel t fun x => { x with mgsel := nf v 0 20 })
  | 0x894 => .ok (s.mgWrite t v)
  | 0x895 => .ok (s.twctl d (nf v 0 18))
  | 0x896 => .ok (s.updSel t fun x => { x with hbsel := nf v 0 11 })
  | 0x897 => .fixed
  | 0x898 => .ok (s.updPart p fun q => { q with rlpol := nb v 0 })
  | 0x899 => .fixed
  | 0x8A0 => .ok (s.updSel t fun x => { x with wgsel := nf v 0 6 })
  | 0x8A1 => .ok (s.updPart p fun q => { q with wgdat0 := nf v 16 32 })
  | 0x8A2 => .ok (s.wgWrite p sel.wgsel w)
  | _ => .ill

/-- MTC (R38, R243): `x` is the source register's field. -/
def execMtc (n : BitVec 12) (x : Reg) (s : State) : Res :=
  .next (if n.getLsbD 11 && !s.cur.priv then s.trapPriv (.mtc n x)
    else match (if n.getLsbD 11 then s.mtcSup n.toNat (s.xr x) else s.mtcUser n.toNat (s.xr x)) with
      | .ill => s.trapIll (.mtc n x)
      | .fixed => s.trapPriv (.mtc n x)
      | .wait => s.block .poll
      | .ok s' => s'.done 4)

end Sys2Proof.Machine
end

