-- ==== Sys2Proof/Machine/Preempt.lean ====
section
/-! DEFINITION. Preempt: the pre-emption point, XSAVE and XLOAD (R130, R175, R199, R244, R300, R341, R366..R370). -/

namespace Sys2Proof.Machine

/-! ### XSAVE and XLOAD at issue (R244) -/

/-- The save area an address names: its PACKAGE offset, or the trap. -/
def saveArea (a : Word) : Except Cause Nat :=
  match decodeWin a with
  | some (.package off) => if off % 65536 ≠ 0 then .error .align else .ok off
  | _ => .error .window

/-- XSAVE (R244, R367): the launch is marked and the thread waits for its pre-emption point on the die. -/
def execXsave (a b : Reg) (s : State) : Res :=
  let lid := wf (s.xr a) 0 16
  .next (if !s.cur.priv then s.trapPriv (.xsave a b)
    else match saveArea (s.xr b) with
      | .error c => s.trap c (s.xr b) 0
      | .ok off =>
        if !((s.launch lid).holdsOn (tDie s.curTile)) then s.trap .window (s.xr b) 0
        else (s.updLaunch lid fun l => { l with marked := true }).block (.xsave lid (nw off)))

/-! ### The pre-emption point (R366) -/

/-- A message that must have arrived before a launch is quiescent on die d: a walk, an access or a SENDM of a thread or job of the die,
and the messages of its hurdles, trees, timetables and counters. -/
def State.msgBusy (s : State) (lid d : Nat) (m : Msg) : Bool :=
  let at_ := fun (t : Nat) => tDie t == d && (s.tile t).lid == lid
  match m with
  | .req r => r.lid == lid && tDie (s.whoTile r.who) == d
  | .table r => r.lid == lid && tDie (s.whoTile r.who) == d
  | .ans a => a.req.lid == lid && tDie (s.whoTile a.req.who) == d
  | .walk c => c.lid == lid && (tDie c.origin == d || tDie c.dest == d)
  | .walkRefused c _ => c.lid == lid && tDie c.origin == d
  | .sendm q => at_ q.tile
  | .sendmAns q => at_ q.tile
  | .hurArrive _ c => c.tile.any at_
  | .hurRelease _ t _ => at_ t
  | .treeTerm _ t _ _ => at_ t
  | .treeResult _ t _ _ => at_ t
  | .ctr c => at_ c.tile
  | .ctrAns c => at_ c.tile
  | .grp g => at_ g.tile
  | .ctrAdd _ x _ _ => x == lid
  | .beat _ src dst _ _ _ _ => at_ src || at_ dst
  | .slice t _ _ _ _ _ _ => at_ t
  | .notice _ _ t _ _ => at_ t
  | _ => false

/-- A tile's part of the point: stopped by a held release, no access open, no engine work, no running timetable. -/
def State.tileQuiet (s : State) (t : Nat) : Bool :=
  let tl := s.tile t
  tl.held && (tl.slots.all fun u => u.2.st == .free || (u.2.stopped && u.2.st != .out && u.2.back.isNone && u.2.cntN == 0 && u.2.cntP == 0 && u.2.cntF == 0 &&
    (match u.2.wait with | .answer => false | .twin _ => false | .exit => false | _ => true))) &&
  (tl.seq.all fun e => e.st == .done) && tl.mq.isEmpty && !(tl.tts 0).run && !(tl.tts 1).run &&
  !(s.pairs.any fun q => q.tile == s.seenTile t)

/-- The pens of a die run no job of the launch. -/
def State.jobsQuiet (s : State) (lid d : Nat) : Bool :=
  s.pens.all fun p => p.1 / 2560 != d || p.2.jobs.all fun j => j.lid != lid || !j.outstanding

/-- The launch is quiescent on die d, every tile of it there stopped (R366). -/
def State.quiescent (s : State) (lid d : Nat) : Bool :=
  let l := s.launch lid
  l.st == .running && l.marked && l.holdsOn d && ((l.tilesAt d).all s.tileQuiet) &&
  (s.flight.all fun f => !s.msgBusy lid d f.msg) &&
  (s.fj.all fun q => q.2.incoming || !s.msgBusy lid d q.2.msg) && s.jobsQuiet lid d && !s.swapsOf l d &&
  (s.held.all fun r => r.lid != lid || tDie (s.whoTile r.who) != d)

/-- The next launch and die at which the point is reached. -/
def State.pointPick (s : State) : Option (Nat × Nat) :=
  (s.launches.filter fun l => l.2.marked).findSome? fun l =>
    (l.2.cur.find? fun d => !l.2.atPoint.contains (l.2.dieOwn d) && s.quiescent l.1 d).map fun d => (l.1, d)

/-- A stopped slot of a dissolved flock takes no more forwarded words. -/
def Slot.unflock (sl : Slot) : Slot := { sl.setFlk 0 with flock := none, stream := [], notices := [], pend := none, fwd := none }

/-- Every flock of some tiles is dissolved as SPLIT does (R130). -/
def State.dissolveOn (s : State) (ts : List Nat) : State :=
  let s := ts.foldl (fun s t => (List.range 8).foldl (fun s u => if (s.slot t u).flk = 1 then s.dissolve t u else s) s) s
  ts.foldl (fun s t => s.updTile t fun tl => { tl with slots := tl.slots.map fun p => (p.1, p.2.unflock) }) s

/-- PREEMPTION_POINT (R366): launch ev.num on die ev.a. -/
def execPreemptionPoint (s : State) : Res :=
  let lid := s.ev.num
  let d := s.ev.a
  .next (if s.quiescent lid d then
      (s.dissolveOn ((s.launch lid).tilesAt d)).updLaunch lid fun l => { l with atPoint := l.dieOwn d :: l.atPoint }
    else s)

/-! ### Names of a die that moves -/

/-- The pseudo-die of a launch's own die number while it is saved. -/
def savedDie (lid own : Nat) : Nat := 8 * (lid + 2) + own

/-- A tile key and a die number with die a as die b. -/
def mvTile (a b t : Nat) : Nat := if tDie t = a then t - a * 20480 + b * 20480 else t
def mvDie (a b d : Nat) : Nat := if d = a then b else d

/-- A counter key of an entry that a launch leaves on a die as its saved name, and a saved name as the key it is bound to again (R300). -/
def State.ctrOut (s : State) (lid d k : Nat) : Nat :=
  let die := match ctrKind k with | 0 => tDie (ctrIdx k) | 1 => ctrIdx k / 320 | 2 => ctrIdx k | _ => 8
  if (s.counter k).lid = lid ∧ die = d then savedCtr lid (s.counter k).index else k
def State.ctrIn (s : State) (lid k : Nat) : Nat :=
  if savedCtr lid 0 ≤ k ∧ k < savedCtr (lid + 1) 0 then tget k (s.launch lid).ctrs (k % 65536) else k

/-- A tile's contents with its own die's name changed. -/
def Tile.mv (t : Tile) (a b : Nat) : Tile :=
  let h := moveKey (mvTile a b)
  { t with slots := t.slots.map (fun (u : Nat × Slot) => (u.1, { u.2 with home := h u.2.home })),
           parkq := t.parkq.map (fun (c : WalkCtx) => { c with dest := mvTile a b c.dest, origin := mvTile a b c.origin, home := h c.home }) }

/-- A contribution, a root and a round with a die's name and counter keys changed. -/
def Contrib.mv (c : Contrib) (f k : Nat → Nat) : Contrib := { c with tile := c.tile.map f, counter := c.counter.map k }
def Root.mv (r : Root) (f k : Nat → Nat) : Root :=
  { r with arrived := r.arrived.map (fun (c : Contrib) => c.mv f k), counters := r.counters.map (fun (c : Nat × Bool) => (k c.1, c.2)),
           dropped := r.dropped.map f, out := r.out.map (fun (o : List Nat × Release) => (o.1.map f, o.2)) }
def Round.mv (r : Round) (f : Nat → Nat) : Round :=
  { r with terms := r.terms.map (fun (x : Nat × Word × Word) => (if x.1 = 0 then 0 else f (x.1 - 1) + 1, x.2)), gone := r.gone.map f }

/-- A domain kept on a die: level 0 or 1 of the launch there. -/
def domOn (lid d x : Nat) : Bool := !domIsEntry x && !domIsJob x && domLid x == lid && decide (domLevel x ≤ 1) && domDie x == d
def mvDom (b x : Nat) : Nat := levelDom (domLid x) (domLevel x) b (domGroup x)

/-! ### The save area (R368) -/

/-- Fixed sizes of the area. -/
def recTile : Nat := 0x2C000
def areaTile (i : Nat) : Nat := 0x10000 + i * recTile
def areaGroup (l : Launch) (j : Nat) : Nat := 0x10000 + l.rows * l.cols * recTile + j * (l.glen + 0x10000)
def areaDie (l : Launch) : Nat := areaGroup l l.groups.length
def areaTotal (l : Launch) : Nat := areaDie l + l.dlen + 0x30000

/-- The storage behind the area on die d: granule of the area and storage key of 16 bytes. -/
def State.areaKeys (s : State) (l : Launch) (d : Nat) : List (Nat × Nat) :=
  let ts := l.tilesOn d
  let gs := l.groups
  (((List.range ts.length).zip ts).map fun t => (List.range (l.slice / 16)).map fun j => (areaTile t.1 / 16 + j, s.sliceKey t.2 (16 * j))).flatten ++
  (((List.range gs.length).zip gs).map fun g => (List.range (l.glen / 16)).map fun j =>
    (areaGroup l g.1 / 16 + j, s.groupByteKey (groupKey d g.2) (l.goff + 16 * j))).flatten ++
  (List.range (l.dlen / 16)).map fun j => (areaDie l / 16 + j, s.dieByteKey d (l.doff + 16 * j))

/-- Bytes at an offset, by granule. -/
def granules (off : Nat) (b : List Byte) : List (Nat × Nat) :=
  (List.range ((b.length + 15) / 16)).map fun i => (off / 16 + i, ofBytes ((b.drop (16 * i)).take 16))

/-- State number of a slot (R368). -/
def SlotState.num : SlotState → Nat
  | .run => 1
  | .block => 2
  | .sleep => 3
  | .park => 4
  | _ => 0
def SlotState.ofNum : Nat → SlotState
  | 1 => .run
  | 2 => .block
  | 3 => .sleep
  | 4 => .park
  | _ => .free

/-- A loop entry as R17 lays it out, relative to a pc. -/
def loopWord (pc : Word) (e : Option LoopEntry) : Nat :=
  match e with
  | none => 0
  | some e => e.remaining.toNat + (pc - e.start).toNat % 65536 * 2 ^ 32 + (e.stop - e.start).toNat % 65536 * 2 ^ 48
def loopOf (pc : Word) (v : Nat) : List LoopEntry :=
  if v = 0 then [] else
  let start := pc - nw (nf v 32 16)
  [{ start := start, stop := start + nw (nf v 48 16), remaining := BitVec.ofNat 32 v }]
/-- The outer entry, then the inner one, of a list kept innermost first. -/
def loopPair (l : List LoopEntry) : Option LoopEntry × Option LoopEntry :=
  match l with
  | [] => (none, none)
  | [o] => (some o, none)
  | i :: o :: _ => (some o, some i)

/-- A context slot record (R368); the layout of a refusal record's second dword is the model's (DESIGN CHOICE, log 7; unsafe). -/
def Slot.record (sl : Slot) (now : Nat) : List Byte :=
  let hr := match sl.home with | some (_, i) => i % 32 | none => 32
  let lp := loopPair sl.loops
  toBytes 8 (sl.st.num + sl.cause % 256 * 2 ^ 8 + sl.tag % 65536 * 2 ^ 16 + hr * 2 ^ 32) ++ toBytes 8 sl.pc.toNat ++
  toBytes 8 sl.status.toNat ++ ((List.range 15).map fun i => toBytes 8 (sl.xr (BitVec.ofNat 4 (i + 1))).toNat).flatten ++
  toBytes 8 (loopWord sl.pc lp.1) ++ toBytes 8 (loopWord sl.pc lp.2) ++
  ((List.range 8).map fun i => toBytes 8 (sl.kr (BitVec.ofNat 3 i)).toNat).flatten ++
  ((List.range 16).map fun i => toBytes 8 (sl.sh (BitVec.ofNat 4 i)).toNat).flatten ++
  ((List.range 4).map fun i => match sl.refusals[i]? with
    | some r => toBytes 8 r.addr.toNat ++ toBytes 8 (r.size % 256 + r.cause.code * 2 ^ 8 + b2n r.overflow * 2 ^ 16)
    | none => toBytes 16 0).flatten ++
  toBytes 8 (sl.tmr now) ++ toBytes 88 0

/-- An entry image (R290). -/
def Counter.image (c : Counter) : List Byte :=
  toBytes 8 c.base.toNat ++ toBytes 4 c.len ++ toBytes 4 c.total ++ toBytes 1 c.act ++ toBytes 1 c.mode ++ toBytes 1 c.st ++
  toBytes 1 (b2n c.ovr + b2n c.heldArr * 2 + b2n c.lost * 4) ++ toBytes 4 c.tgt ++ toBytes 8 c.arg.toNat ++ toBytes 4 c.count ++
  toBytes 4 (c.pend % 256) ++ toBytes 4 (c.armer % 2 ^ 24) ++ toBytes 4 c.fires ++ toBytes 2 c.index ++ toBytes 2 c.lid ++ toBytes 12 0

/-- The images of a controller's entries of a launch, at their places. -/
def State.ctrImages (s : State) (lid kind idx : Nat) : List Byte :=
  ((List.range (ctrCount kind)).map fun i => match tget? s.counters (ctrBase kind idx + i) with
    | some c => if c.lid = lid then c.image else toBytes 64 0
    | none => toBytes 64 0).flatten

/-- Hurdle state of a domain in 32 bytes: marks, the tree slot's busy mark, operator, abort code and release count, the value, and 1 + the number
of a group-table entry (the layout is the model's: DESIGN CHOICE, log 7; unsafe). -/
def HurState.record (h : HurState) (busy : Bool) (entry : Nat) : List Byte :=
  toBytes 8 (b2n h.arr + b2n h.drop * 2 + b2n h.mix * 4 + b2n h.none_ * 8 + b2n busy * 16 + h.op % 256 * 2 ^ 8 + h.abort.toNat * 2 ^ 16 +
    h.rels % 2 ^ 32 * 2 ^ 32) ++ toBytes 8 h.value.toNat ++ toBytes 16 entry
def hurStateOf (b : List Byte) : HurState :=
  let v := imgNum b 0 8
  { arr := nb v 0, drop := nb v 1, mix := nb v 2, none_ := nb v 3, op := nf v 8 8, abort := BitVec.ofNat 8 (nf v 16 8), rels := nf v 32 32,
    value := nw (imgNum b 8 8) }

/-- Timetable state of a level in 16 bytes: the TTSTS fields, then the cycle of the last release (log 7). -/
def TtState.record (t : TtState) : List Byte :=
  toBytes 8 (t.sel % 256 + t.cur % 256 * 2 ^ 8 + b2n t.run * 2 ^ 16 + b2n t.slot * 2 ^ 17) ++ toBytes 8 t.t0
def ttStateOf (b : List Byte) : TtState :=
  let v := imgNum b 0 4
  { sel := nf v 0 8, cur := nf v 8 8, run := nb v 16, slot := nb v 17, t0 := imgNum b 8 8, sent := 0 }

/-- The phase at a root in 16 bytes: what has been combined of it, or its held release (log 7). -/
def Root.record (r : Root) : List Byte :=
  let x := match r.out with
    | some (_, x) => x
    | none => mkRelease r.arrived
  toBytes 8 (r.phase % 2 ^ 32 + b2n r.heldOut * 2 ^ 32 + b2n x.mix * 2 ^ 33 + b2n x.none_ * 2 ^ 34 + b2n r.err * 2 ^ 35 + x.op % 16 * 2 ^ 36 + x.abort % 256 * 2 ^ 40) ++
  toBytes 8 x.value.toNat

/-- The contributions of the tiles that have arrived, from what was combined of them: the first gives the value, the others change nothing. -/
def contribsOf (x : Release) (ts drops : List Nat) : List Contrib :=
  ((List.range ts.length).zip ts).map fun t =>
    { tile := some t.2, far := none, counter := none, drop := drops.contains t.2, abort := if t.1 = 0 then x.abort else 0,
      op := if x.none_ then none else if x.mix then some (min t.1 1) else some x.op,
      val := if t.1 = 0 ∨ (x.op != 0 && x.op != 3) then x.value else 0 }

/-- A root from its 16 bytes and the tiles that have arrived and dropped; counter members and the watchdog's marks are kept (log 7). -/
def rootOf (kept : Root) (b : List Byte) (ts drops : List Nat) : Root :=
  let v := imgNum b 0 8
  let x : Release := { value := nw (imgNum b 8 8), abort := nf v 40 8, op := nf v 36 4, mix := nb v 33, none_ := nb v 34 }
  let cts := kept.arrived.filter fun c => c.tile.isNone
  let held := nb v 32
  { kept with phase := nf v 0 32, heldOut := held, err := nb v 35, out := if held then some (ts, x) else none,
              arrived := if held then cts else contribsOf x ts drops ++ cts,
              dropped := drops.filter fun t => held || !ts.contains t }

/-- The landed ranges of n bytes from a map, one bit a byte. -/
def rangesOf (v n : Nat) : List (Nat × Nat) := (List.range n).foldl (fun m p => if nb v p then addRange m p 1 else m) []

/-- Landing map of a bound job: one bit per byte (R368). -/
def landingMap (j : Option Job) : Nat :=
  match j with
  | none => 0
  | some j => j.map.foldl (fun n r => n ||| (2 ^ r.2 - 1) * 2 ^ r.1) 0 % 2 ^ 65536

/-- The description of a B slot: the MSTAT fields, the element type and a mark that it is loaded (log 7). -/
def bslotWord (b : Option BBlock) : Nat :=
  match b with
  | none => 0
  | some b => b.kk + b.nn * 2 ^ 11 + b.cls * 2 ^ 27 + b.xch * 2 ^ 30 + b2n b.tr * 2 ^ 32 + b.ty * 2 ^ 36 + 2 ^ 40
/-- Its elements by row. -/
def bslotData (b : Option BBlock) : Nat :=
  match b with
  | none => 0
  | some b => joinEntry (tySize b.ty 0) b.data
def bslotOf (w : Nat) (data : Nat) : Option BBlock :=
  let ty := nf w 36 4
  let z := tySize ty 0
  if !nb w 40 then none else
  some { kk := nf w 0 11, nn := nf w 11 16, cls := nf w 27 3, xch := nf w 30 2, tr := nb w 32, ty := ty,
         data := (List.range (nf w 0 11 * nf w 11 16)).map fun i => nf data (8 * z * i) (8 * z) }

/-- A tile record after its slice (R368). Where the rule names contents without their bits the layout is the model's (DESIGN CHOICE, log 7;
unsafe): at 0x1740 a byte for each occupancy, the inbox count, c:CHAIN and the weight, then a dword each for c:WREF, c:RMRG and the B slot; at
0x1780 identifier, LOCAL offset, total, read position and the bound bit; at 0x1C00 eight hurdle states, the phase bits, c:STEP0 to c:STEP3, two
timetable states and the tree results not yet extracted. -/
def State.tileRecord (s : State) (lid t : Nat) : List Byte :=
  let tl := s.tile t
  let bind := fun i => tget? tl.sreg i
  let job := fun i => (bind i).bind fun b => (s.pen b.pen).jobs.find? fun j => j.xid == b.xid && j.tile == s.seenTile t
  ((List.range 8).map fun u => (tl.slot u).record s.now).flatten ++
  ((List.range 32).map fun i => let r := tl.routine i; toBytes 8 r.rent.toNat ++ toBytes 8 r.rarg.toNat ++ toBytes 16 r.ctl).flatten ++
  ((List.range 8).map fun i => toBytes 32 (tl.hrec i).toNat).flatten ++
  ((List.range 4).map fun i => ((List.range 8).map fun j => toBytes 16 (((tl.queue i)[j]?.getD 0).toNat)).flatten).flatten ++
  ((List.range 8).map fun j => toBytes 8 ((tl.cout[j]?.getD 0).toNat)).flatten ++
  ((List.range 4).map fun i => toBytes 1 (tl.queue i).length).flatten ++ toBytes 1 tl.cout.length ++ toBytes 1 tl.inbox.length ++
  toBytes 1 tl.chain.toNat ++ toBytes 1 tl.mWgt ++ toBytes 8 tl.wref ++ toBytes 8 tl.rmrg ++ toBytes 8 (bslotWord tl.bslot) ++ toBytes 32 0 ++
  ((List.range 8).map fun i => match bind i, job i with
    | some b, some j => toBytes 2 b.xid ++ toBytes 2 (j.dst.toNat % 65536) ++ toBytes 4 j.bytes ++ toBytes 4 b.pos ++ toBytes 4 1
    | _, _ => toBytes 16 0).flatten ++
  ((List.range 32).map fun j => toBytes 32 ((tl.inbox[j]?.getD 0).toNat)).flatten ++
  ((List.range 4).map fun i => (tl.hurd i).record (tl.busy.contains i) 0).flatten ++
  ((List.range 4).map fun i => match (s.tileEntries t)[i]? with
    | some g => (tl.hurd (4 + g)).record (tl.busy.contains (4 + g)) (g + 1)
    | none => toBytes 32 0).flatten ++
  toBytes 8 tl.phase.toNat ++ ((List.range 4).map fun i => toBytes 8 (tl.stepCount i)).flatten ++ (tl.tts 0).record ++ (tl.tts 1).record ++
  toBytes 8 tl.xq.length ++ ((List.range 8).map fun i => match tl.xq[i]? with
    | some x => toBytes 8 x.1.toNat ++ toBytes 8 x.2.toNat
    | none => toBytes 16 0).flatten ++ toBytes 560 0 ++
  s.ctrImages lid 0 t ++ toBytes 0x1C00 0 ++
  ((List.range 8).map fun i => toBytes 8192 (landingMap (job i))).flatten ++
  toBytes 0x8000 (bslotData tl.bslot)

/-- The tasks of a launch in a group, in push-stamp order. -/
def Group.tasksOf (g : Group) (lid : Nat) : List Task :=
  ((g.banks.map fun b => b.2.filter fun k => k.lid == lid).flatten).foldl (fun r k =>
    (r.filter fun x => decide (x.stamp ≤ k.stamp)) ++ [k] ++ r.filter fun x => decide (k.stamp < x.stamp)) []

/-- A task in 16 bytes: slot, priority, a mark that it is there, and the push stamp, then the argument (log 7). -/
def Task.record (k : Task) : List Byte := toBytes 8 (k.slot % 32 + k.prio % 8 * 2 ^ 8 + 2 ^ 15 + k.stamp % 2 ^ 32 * 2 ^ 32) ++ toBytes 8 k.arg.toNat
def taskOf (lid : Nat) (b : List Byte) : Option Task :=
  let v := imgNum b 0 8
  if nb v 15 then some { slot := nf v 0 5, arg := nw (imgNum b 8 8), lid := lid, prio := nf v 8 3, stamp := nf v 32 32 } else none

/-- A root and its tree slot in 1 KiB: the root's 16 bytes; the exact terms of an open round have no layout, so bytes of the implementation
stand for them (log 7). -/
def State.rootRecord (s : State) (d : Nat) : List Byte :=
  (s.root d).record ++ toBytes 0x3F0 (match tget? s.rounds d with
    | some r => Config.saveField d (r.num :: (r.terms.map fun x => [x.1, x.2.1.toNat, x.2.2.toNat]).flatten)
    | none => 0)

/-- A group record after its SRAM, and the die record after its SRAM (R368). -/
def State.groupRecord (s : State) (lid d g : Nat) : List Byte :=
  let ks := (s.group (groupKey d g)).tasksOf lid
  ((List.range 512).map fun i => match ks[i]? with
    | some k => k.record
    | none => toBytes 16 0).flatten ++
  s.ctrImages lid 1 (groupKey d g) ++ s.rootRecord (levelDom lid 0 d g) ++ toBytes 0xCC00 0
def State.dieRecord (s : State) (lid d : Nat) : List Byte :=
  s.ctrImages lid 2 d ++ s.rootRecord (levelDom lid 1 d 0) ++ toBytes 0xFC00 0

/-- Levels with a held release. -/
def State.heldMask (s : State) (lid : Nat) : Nat :=
  (List.range 4).foldl (fun m v => if s.roots.any fun r => r.2.heldOut && !domIsEntry r.1 && (s.domLaunches r.1).contains lid && domLevel r.1 == v
    then m + 2 ^ v else m) 0

/-- The header (R368). -/
def State.saveHeader (s : State) (lid own : Nat) : List Byte :=
  let l := s.launch lid
  toBytes 4 0x56535A4B ++ toBytes 2 1 ++ toBytes 2 lid ++ toBytes 1 own ++ toBytes 1 (l.prio + b2n l.twin * 8) ++ toBytes 2 (s.heldMask lid) ++
  toBytes 4 (l.rows * l.cols) ++ toBytes 8 l.groups.length ++ toBytes 8 (areaTotal l) ++ toBytes 96 0 ++ toBytes 64 l.packet.toNat ++
  ((List.range 8).map fun i => toBytes 1 (match l.dieNow i with | some d => if d < 8 then s.logDie d else i | none => 0)).flatten ++
  toBytes 0xFF38 0

/-- Everything XSAVE writes but memory: granule of the area and its bytes. -/
def State.saveImage (s : State) (lid d : Nat) : List (Nat × Nat) :=
  let l := s.launch lid
  let ts := l.tilesOn d
  granules 0 (s.saveHeader lid (l.dieOwn d)) ++
  (((List.range ts.length).zip ts).map fun t =>
    granules (areaTile t.1 + l.slice) (List.replicate (65536 - l.slice) 0) ++ granules (areaTile t.1 + 65536) (s.tileRecord lid t.2)).flatten ++
  (((List.range l.groups.length).zip l.groups).map fun g => granules (areaGroup l g.1 + l.glen) (s.groupRecord lid d g.2)).flatten ++
  granules (areaDie l + l.dlen) (s.dieRecord lid d)

/-- Write granules of an area of partition p at an offset; none when one does not translate for writing. -/
def State.writeArea (s : State) (p va : Nat) (gs : List (Nat × Nat)) : Option State :=
  gs.foldl (fun s g => s.bind fun s => (s.xlate p (va + 16 * g.1) true).map fun k => s.store k 16 g.2) (some s)

/-- Copy the launch's memory into the area; a poisoned granule stays poisoned there (R371). -/
def State.writeMemory (s : State) (p va : Nat) (ks : List (Nat × Nat)) : Option State :=
  ks.foldl (fun s x => s.bind fun s => (s.xlate p (va + 16 * x.1) true).map fun k =>
    let s' := s.store k 16 (s.load x.2 16)
    if s.poison.contains (x.2 / 16) then { s' with poison := markPoison s'.poison k 16 } else s') (some s)

/-! ### XSAVE_WRITE (R367) -/

/-- The part of the state kept beside the area. -/
def State.snapshot (s : State) (lid d own : Nat) : Saved :=
  let l := s.launch lid
  let b := savedDie lid own
  let f := mvTile d b
  let k := s.ctrOut lid d
  { lid := lid, die := own,
    tiles := (l.tilesOn d).map (fun t => (f t, (s.tile t).mv d b)),
    roots := (s.roots.filter (fun (r : Nat × Root) => domOn lid d r.1)).map (fun (r : Nat × Root) => (r.1, r.2.mv f k)),
    rounds := (s.rounds.filter (fun (r : Nat × Round) => domOn lid d r.1)).map (fun (r : Nat × Round) => (r.1, r.2.mv f)),
    firings := (s.firings.filter (fun (x : Firing) => k x.key != x.key)).map
      (fun (x : Firing) => { x with key := k x.key }) }

/-- What stays in the package names the launch's tiles on the die, and its counters there, by other names. -/
def State.renameDie (s : State) (lid a b : Nat) (k : Nat → Nat) : State :=
  let ts := (s.launch lid).tilesOn a
  let f := fun (t : Nat) => if ts.contains t then mvTile a b t else t
  let mine := fun (x : Nat) => (s.domLaunches x).contains lid
  { s with roots := s.roots.map (fun (r : Nat × Root) => if mine r.1 then (r.1, r.2.mv f k) else r),
           rounds := s.rounds.map (fun (r : Nat × Round) => if mine r.1 then (r.1, r.2.mv f) else r) }.updLaunch lid fun l =>
    { l with cur := l.cur.map (mvDie a b), regions := l.regions.map (fun (r : CodeRegion) => { r with nx := r.nx.map (mvDie a b) }) }

/-- The launch leaves die d: tiles, jobs, counter entries and tasks are freed (R367). -/
def State.leaveDie (s : State) (lid d : Nat) : State :=
  let l := s.launch lid
  let here := fun (k : Nat) => s.ctrOut lid d k != k
  let ts := l.tilesAt d
  { s with tiles := s.tiles.map (fun (t : Nat × Tile) => if ts.contains t.1 then (t.1, t.2.cleared) else t),
           pens := s.pens.map (fun (p : Nat × Pen) => if p.1 / 2560 = d then (p.1, p.2.dropJobs lid) else p),
           groups := s.groups.map (fun (g : Nat × Group) => if g.1 / 320 = d then (g.1, g.2.dropTasks lid) else g),
           counters := s.counters.filter (fun (c : Nat × Counter) => !here c.1),
           firings := s.firings.filter (fun (x : Firing) => !here x.key),
           roots := s.roots.filter (fun (r : Nat × Root) => !domOn lid d r.1),
           rounds := s.rounds.filter (fun (r : Nat × Round) => !domOn lid d r.1) }.updLaunch lid fun l =>
    { l with ctrs := l.ctrs.filter fun c => !here c.2 }

/-- The launch is saved on die d, its trap messages not yet delivered staying queued (R363); when it is saved on every die a pre-emption request
for it is over. -/
def State.saveDie (s : State) (lid d : Nat) : State :=
  let own := (s.launch lid).dieOwn d
  let s : State := ((s.launch lid).tilesAt d).foldl (fun s t => (List.range 8).foldl (fun s u => s.keepMsg t u) s) s
  let sv := s.snapshot lid d own
  let k := s.ctrOut lid d
  let s := (s.renameDie lid d (savedDie lid own) k).leaveDie lid d
  let s := { s with saved := sv :: s.saved.filter fun v => !(v.lid == lid && v.die == own) }
  let s := s.updLaunch lid fun l =>
    let ds := own :: l.savedDies
    { l with savedDies := ds, atPoint := l.atPoint.filter (· != own), st := if l.dies.all ds.contains then .saved else l.st }
  if (s.launch lid).st = .saved ∧ s.preempt = lid then { s with preempt := 0 } else s

/-- What the thread in slot u of tile t, waiting in XSAVE, can do now: the state after it (R367, R380); it waits for a swap of the launch's
pages (R279). An area that does not translate
for writing makes it wait on (log 29). -/
def State.xsaveNow (s : State) (t u : Nat) : Option State :=
  match (s.slot t u).wait with
  | .xsave lid area =>
    let l := s.launch lid
    let p := (s.launch (s.slot t u).lid).part
    let d := tDie t
    let fin := fun (s : State) => s.updSlot t u fun sl => sl.complete (sl.pc + 4) true
    if l.st = .done ∨ l.damaged then ((s.xlate p area.toNat true).map fun k => s.store k 8 0).map fin
    else if l.holdsOn d && l.atPoint.contains (l.dieOwn d) && !s.swapsOf l d then
      ((s.writeMemory p area.toNat (s.areaKeys l d)).bind fun x => x.writeArea p area.toNat (s.saveImage lid d)).map fun s => fin (s.saveDie lid d)
    else none
  | _ => none

/-- XSAVE_WRITE (R367): slot ev.a of tile ev.num. -/
def execXsaveWrite (s : State) : Res := .next ((s.xsaveNow s.ev.num s.ev.a).getD s)

/-! ### XLOAD (R369) -/

/-- A refusal record from its 16 bytes; none where its cause code is no refusal's. -/
def refusalOf (b : List Byte) : Option RefusalRec :=
  let v := imgNum b 8 8
  ([Cause.ill, .priv, .align, .window, .exch, .page, .perm, .fetch, .poison, .slot, .hover, .remap, .nak, .stall, .fpx, .trap, .brk, .park].find?
    fun c => c.code == nf v 8 8).map fun c => { addr := nw (imgNum b 0 8), size := nf v 0 8, cause := c, overflow := nb v 16 }

/-- A slot from its record, over the slot that was saved, of which it keeps what the record has no place for (log 7). -/
def slotOf (old : Slot) (b : List Byte) (key now : Nat) : Slot :=
  let n := fun (o k : Nat) => imgNum b o k
  let st := SlotState.ofNum (n 0 1 % 8)
  let pc := nw (n 8 8)
  { old with
    st := st, cause := n 1 1, tag := n 2 2, pc := pc, status := nw (n 16 8),
    x := Vector.ofFn (fun (i : Fin 16) => if i.val = 0 then 0 else nw (n (24 + 8 * (i.val - 1)) 8)),
    loops := loopOf pc (n 152 8) ++ loopOf pc (n 144 8),
    k := Vector.ofFn (fun (i : Fin 8) => nw (n (160 + 8 * i.val) 8)),
    shadow := Vector.ofFn (fun (i : Fin 16) => nw (n (224 + 8 * i.val) 8)),
    refusals := (List.range 4).filterMap fun i => refusalOf (b.drop (352 + 16 * i)),
    tmrEnd := if n 416 8 = 0 then 0 else now + n 416 8,
    home := if n 4 1 / 32 % 2 = 1 then none else some ((old.home.map Prod.fst).getD key, n 4 1 % 32), stopped := true, line := none, lastTicket := 0, repeatSet := [], flock := none,
    stream := [], notices := [], fwd := none, pend := none, wait := match old.wait with | .exit => .exit | _ => .none,
    idle := if st = .sleep then none else old.idle, polledAt := 0, refusedWalk := false, yieldTo := 0, yieldWait := [] }

/-- A counter entry from its image. -/
def counterOf (b : List Byte) : Counter :=
  let n := fun (o k : Nat) => imgNum b o k
  { base := nw (n 0 8), len := n 8 4, total := n 12 4, act := n 16 1, mode := n 17 1, st := n 18 1, ovr := nb (n 19 1) 0,
    heldArr := nb (n 19 1) 1, lost := nb (n 19 1) 2, tgt := n 20 4, arg := nw (n 24 8), count := n 32 4, pend := n 36 1, armer := n 40 3,
    fires := n 44 4, index := n 48 2, lid := n 50 2, hop := 0 }

/-- The eight hurdle states of a tile record with their keys, and which of them have a tree result to come. -/
def hursOf (b : List Byte) : Tbl HurState × List Nat :=
  let ks := (List.range 8).filterMap fun i =>
    let r := b.drop (0x1C00 + 32 * i)
    let e := imgNum r 16 2
    if i < 4 then some (i, r) else if e = 0 then none else some (3 + e, r)
  (ks.foldl (fun h k => tset h k.1 (hurStateOf k.2)) [], (ks.filter fun k => nb (imgNum k.2 0 1) 4).map Prod.fst)

/-- The stream jobs bound in a tile's registers, from its record after the slice: register, identifier, position and job, all of whose bytes to
come have come (R209, R366). -/
def bindingsOf (b : List Byte) (tile lid : Nat) : List (Nat × Nat × Nat × Job) :=
  (List.range 8).filterMap fun i =>
    let r := b.drop (0x1780 + 16 * i)
    if imgNum r 12 1 % 2 = 0 then none else
    some (i, imgNum r 0 2, imgNum r 8 4,
      { xid := imgNum r 0 2, tile := tile, slot := 0, lid := lid, part := 0, src := 0, dst := nw (imgNum r 2 2), bytes := imgNum r 4 4, lrec := 0,
        lside := 0, hslot := 0, hval := false, strm := true, arg := 0, mcast := [], st := .kept, next := 0, open_ := 0, landed := 0, refused := 0,
        mask := 0, cause := 0, killed := false, poisoned := false, map := rangesOf (imgNum b (0x4000 + 0x2000 * i) 0x2000) (imgNum r 4 4 % 65537) })

/-- A tile from its record, over the new tile: what the record holds from its bytes, the rest from the state kept (log 7); key names the
primary copy. -/
def tileOf (new kept : Tile) (b : List Byte) (key lid now : Nat) (twin : Bool) : Tile :=
  let n := fun (o k : Nat) => imgNum b o k
  { kept with
    cout := (List.range (n 0x1744 1)).map (fun j => nw (n (0x1700 + 8 * j) 8)),
    inbox := (List.range (n 0x1745 1)).map (fun j => BitVec.ofNat 256 (n (0x1800 + 32 * j) 32)),
    q := (List.range 4).map (fun i => (i, (List.range (n (0x1740 + i) 1)).map (fun j => BitVec.ofNat 128 (n (0x1500 + 128 * i + 16 * j) 16)))),
    chain := BitVec.ofNat 4 (n 0x1746 1), mWgt := n 0x1747 1, wref := n 0x1748 8, rmrg := n 0x1750 8,
    bslot := bslotOf (n 0x1758 8) (n 0x14000 0x8000),
    sreg := (bindingsOf b key lid).map (fun (x : Nat × Nat × Nat × Job) => (x.1, { pen := penKey key, xid := x.2.1, pos := x.2.2.1 })),
    hur := (hursOf b).1, busy := (hursOf b).2, phase := BitVec.ofNat 4 (n 0x1D00 1),
    steps := (List.range 4).map (fun i => (i, n (0x1D08 + 8 * i) 8)),
    tt := [(0, ttStateOf (b.drop 0x1D28)), (1, ttStateOf (b.drop 0x1D38))],
    xq := (List.range (min 8 (n 0x1D48 8))).map (fun i => (nw (n (0x1D50 + 16 * i) 8), nw (n (0x1D58 + 16 * i) 8))),
    slots := (List.range 8).map (fun u => (u, slotOf (kept.slot u) (b.drop (0x200 * u)) key now)),
    routines := kept.routines.map (fun (r : Nat × Routine) =>
      let o := 0x1000 + 32 * r.1
      let c := n (o + 16) 8
      (r.1, { r.2 with rent := nw (n o 8), rarg := nw (n (o + 8) 8), rdy := nb c 0, hld := nb c 1, run := nb c 2, mrg := nb c 3, vld := nb c 4 })),
    h := (List.range 8).map (fun i => (i, BitVec.ofNat 256 (n (0x1400 + 32 * i) 32))),
    lid := lid, twin := twin, held := true, seq := [], mq := [], mI := 0, mC := 0, twinSeq := 0, twinLog := [], solo := false,
    lastSlot := new.lastSlot, issuedAt := new.issuedAt, cycle0 := new.cycle0, sel := new.sel, margin := new.margin, halted := new.halted,
    unusable := new.unusable, changed := now, stallTold := false }

/-- The counter images of an area: kind and index of the controller on die d, and the entry. -/
def areaCounters (l : Launch) (lid d : Nat) (area : List Byte) : List ((Nat × Nat) × Counter) :=
  let at_ := fun (off kind idx : Nat) => (List.range (ctrCount kind)).filterMap fun i =>
    let c := counterOf ((area.drop (off + 64 * i)).take 64)
    if c.lid = lid then some ((kind, idx), c) else none
  let ts := l.tilesOn d
  (((List.range ts.length).zip ts).map fun t => at_ (areaTile t.1 + 0x12000) 0 t.2).flatten ++
  (((List.range l.groups.length).zip l.groups).map fun g => at_ (areaGroup l g.1 + l.glen + 0x2000) 1 (groupKey d g.2)).flatten ++
  at_ (areaDie l + l.dlen) 2 d

/-- Rebind each saved entry to a free entry of the same controller on the new die (R300). -/
def State.rebind (s : State) (lid : Nat) : List ((Nat × Nat) × Counter) → Option State
  | [] => some s
  | (k, c) :: r => match s.ctrFree k.1 k.2 with
    | none => none
    | some n => ((s.updCounter n fun _ => c).updLaunch lid fun l => { l with ctrs := tset l.ctrs c.index n }).rebind lid r

/-- Rebuild a group's pool with tasks pushed in order. -/
def Group.pushAll (g : Group) (ts : List Task) : Group := ts.foldl (fun g k => (g.pushTask k).getD g) g

/-- The poisoned granules among those of an area at an address of a partition (R371). -/
def State.areaPoison (s : State) (p va : Nat) (gs : List Nat) : List Nat :=
  gs.filter fun g => match s.xlate p (va + 16 * g) false with
    | some k => s.poison.contains (k / 16)
    | none => false

/-- n bytes of an area, poisoned or not; none when one does not translate. -/
def State.readArea (s : State) (p va n : Nat) : Option (List Byte) :=
  (List.range n).mapM fun i => (s.xlate p (va + i) false).map (readByte s.mem)

/-- Memory of the launch on die d from the area, both copies of a twin; a poisoned granule comes back poisoned. -/
def State.loadArea (s : State) (l : Launch) (d : Nat) (area : List Byte) (bad : List Nat) : State :=
  let put := fun (s : State) (x : Nat × Nat) =>
    let s := s.store x.2 16 (imgNum area (16 * x.1) 16)
    if bad.contains x.1 then { s with poison := markPoison s.poison x.2 16 } else s
  let s := (s.areaKeys l d).foldl put s
  if l.twin then
    let ts := l.tilesOn d
    (((List.range ts.length).zip ts).map fun t => (List.range (l.slice / 16)).map fun j =>
      (areaTile t.1 / 16 + j, s.sliceKey (twinShift l t.2) (16 * j))).flatten.foldl put s
  else s

/-- The tiles among some whose restored hurdle state at a level satisfies a test. -/
def State.tilesWith (s : State) (ts : List Nat) (lvl : Nat) (f : HurState → Bool) : List Nat := ts.filter fun t => f ((s.tile t).hurd lvl)

/-- A level-0 or level-1 root of a restored die from its record in the area. -/
def State.loadRoot (s : State) (d lvl : Nat) (kept : Root) (ts : List Nat) (b : List Byte) : State :=
  let arr := s.tilesWith ts lvl fun h => h.arr
  let r := rootOf kept b arr (s.tilesWith ts lvl fun h => h.drop)
  if r = Root.fresh then s else s.updRoot d fun _ => r

/-- Place the saved state of a launch's own die on die d from its area; none while its entries are not free (R369). -/
def State.loadDie (s : State) (lid own d : Nat) (area : List Byte) (bad : List Nat) : Option State :=
  let l := s.launch lid
  let b := savedDie lid own
  let fresh : Saved := { lid := lid, die := own, tiles := [], roots := [], rounds := [], firings := [] }
  let sv := (s.saved.find? fun v => v.lid == lid && v.die == own).getD fresh
  (s.rebind lid (areaCounters l lid d area)).map fun s =>
    let k := s.ctrIn lid
    let f := mvTile b d
    let ts := l.tilesOn d
    let one := fun (twin : Bool) (s : State) (t : Nat × Nat) =>
      let x := if twin then twinShift l t.2 else t.2
      let sh := fun (y : Nat) => if twin then twinShift l y else y
      let t0 := (tget Tile.fresh sv.tiles (mvTile d b t.2)).mv b d
      let kept := if twin then t0.copyOf t0 sh else t0
      s.updTile x fun new => tileOf new kept (area.drop (areaTile t.1 + 65536)) t.2 lid s.now twin
    let s := ((List.range ts.length).zip ts).foldl (one false) s
    let s := if l.twin then ((List.range ts.length).zip ts).foldl (one true) s else s
    let s := ((List.range ts.length).zip ts).foldl (fun (s : State) (t : Nat × Nat) =>
      (bindingsOf (area.drop (areaTile t.1 + 65536)) t.2 lid).foldl (fun (s : State) x =>
        s.updPen (penKey t.2) fun p => { p with jobs := p.jobs ++ [x.2.2.2] }) s) s
    let s := s.loadArea l d area bad
    let s := s.renameDie lid b d k
    let keptRoot := fun (x : Nat) => (((sv.roots.find? fun r => mvDom d r.1 == x).map Prod.snd).getD Root.fresh).mv f k
    let s := ((List.range l.groups.length).zip l.groups).foldl (fun (s : State) (g : Nat × Nat) =>
      let r := area.drop (areaGroup l g.1 + l.glen)
      let s := s.updGroup (groupKey d g.2) fun x => x.pushAll ((List.range 512).filterMap fun i => taskOf lid (r.drop (16 * i)))
      let x := levelDom lid 0 d g.2
      s.loadRoot x 0 (keptRoot x) (ts.filter fun t => tGroup t == g.2) (r.drop 0x3000)) s
    let x := levelDom lid 1 d 0
    let s := s.loadRoot x 1 (keptRoot x) ts (area.drop (areaDie l + l.dlen + 0x20000))
    let s := sv.rounds.foldl (fun (s : State) (r : Nat × Round) => s.updRound (mvDom d r.1) fun _ => r.2.mv f) s
    let s := { s with saved := s.saved.filter (fun v => !(v.lid == lid && v.die == own)),
                      firings := s.firings ++ sv.firings.map (fun (x : Firing) => { x with key := k x.key }) }
    s.updLaunch lid fun l => { l with savedDies := l.savedDies.filter (· != own), restored := own :: l.restored }

/-- XLOAD's header checks (R369): MAGIC, VERSION, LAUNCH and TOTAL for the header's packet. -/
def saveHeaderOk (h : List Byte) (lid : Nat) : Bool :=
  let l := { Launch.fresh with packet := BitVec.ofNat 512 (imgNum h 128 64) }
  imgNum h 0 4 == 0x56535A4B && imgNum h 4 2 == 1 && imgNum h 6 2 == lid && imgNum h 24 8 == areaTotal l

/-- XLOAD (R244, R369): the thread waits until the rectangle, the ranges and the entries are free; an area that cannot be read makes it
wait too (log 29). A die of the launch that is not saved is no such launch. -/
def execXload (a b : Reg) (s : State) : Res :=
  let lid := wf (s.xr a) 0 16
  let l := s.launch lid
  let d := tDie s.curTile
  let p := (s.launch s.curT.lid).part
  .next (if !s.cur.priv then s.trapPriv (.xload a b)
    else match saveArea (s.xr b) with
      | .error c => s.trap c (s.xr b) 0
      | .ok off =>
        if l.savedDies.isEmpty then s.trap .window (s.xr b) 0
        else match s.readPkg p off 256 with
          | none => s.block .poll
          | some h =>
            let own := imgNum h 8 1
            if !saveHeaderOk h lid then s.trapIll (.xload a b)
            else if !l.savedDies.contains own then s.trap .window (s.xr b) 0
            else if !(((l.tilesAt d).all s.tileFree) && s.rangesFree l d) then s.block .poll
            else match (s.readArea p off (areaTotal l)).bind fun a =>
                s.loadDie lid own d a (s.areaPoison p off ((s.areaKeys l d).map Prod.fst)) with
              | none => s.block .poll
              | some s' => s'.done 4)

/-! ### XLOAD_RESUME (R369, R341) -/

/-- A launch whose every die is restored; one of level 3 resumes when its other packages say so (ev.num from outside). -/
def Launch.restoredAll (l : Launch) : Bool := l.savedDies.isEmpty && !l.restored.isEmpty

/-- The launch that resumes by itself. -/
def State.resumePick (s : State) : Option Nat := (s.launches.find? fun l => l.2.restoredAll && l.2.top != 3).map Prod.fst

/-- A slot resumes in its saved state: a thread in BLOCK or SLEEP executes its waiting instruction again (R366). -/
def Slot.resumed (sl : Slot) : Slot :=
  let sl := { sl with stopped := false }
  match sl.st with
  | .block => { sl with wait := .poll, polledAt := 0 }
  | .sleep => { sl with st := .run }
  | _ => sl

/-- A held release reaches the tiles of launch lid (R341). -/
def State.releaseOut (s : State) (lid : Nat) (x : Nat × Root) : State :=
  match x.2.out with
  | some (ts, r) =>
    let rest := ts.filter fun t => !s.holdsLaunch t lid
    let s := s.updRoot x.1 fun q => { q with out := if rest.isEmpty then none else some (rest, r), heldOut := !rest.isEmpty }
    (((ts.filter fun t => s.holdsLaunch t lid).map s.copies).flatten).foldl (fun s t => s.releaseAt x.1 t r) s
  | none => s

/-- XLOAD_RESUME (R369): launch ev.num. -/
def execXloadResume (s : State) : Res :=
  let lid := s.ev.num
  .next (if !(s.launch lid).restoredAll then s else
    let s := s.updLaunch lid fun l => { l with st := .running, marked := false, restored := [], atPoint := [] }
    let rs := s.roots.filter fun r => r.2.heldOut && (s.domLaunches r.1).contains lid
    let ts := (s.tiles.filter fun t => t.2.lid == lid).map Prod.fst
    let s : State := ts.foldl (fun s t => s.updTile t fun tl => { tl with held := false, slots := tl.slots.map fun u => (u.1, u.2.resumed) }) s
    rs.foldl (fun s x => s.releaseOut lid x) (ts.foldl (fun s t => (List.range 8).foldl (fun s _ => s.grant t) s) s))

end Sys2Proof.Machine
end

