-- ==== Sys2Proof/Machine/Watchdog.lean ====
section
/-! DEFINITION. Watchdog: stalled phases, rounds and tiles (R342, R350). -/

namespace Sys2Proof.Machine

/-- A count of cycles above c:WDOG TIME of a die, from a cycle; a TIME of 0 disables the watchdog (R342). -/
def State.overTime (s : State) (d first : Nat) : Bool :=
  (s.die d).wdog != 0 && decide ((s.die d).wdog * 1024 < s.now - first)

/-- The dies with a member of a domain. -/
def State.memberDies (s : State) (x : Nat) : List Nat := ((s.members x).map tDie).eraseDups

/-- The first die that has to report a phase, or a round. -/
def State.stallPhase (s : State) (x : Nat) : Option Nat :=
  let r := s.root x
  if r.arrived.isEmpty then none else (s.memberDies x).find? fun d => s.overTime d r.first && !r.told.contains d
def State.stallRound (s : State) (x : Nat) : Option Nat :=
  let r := s.round x
  if r.terms.isEmpty then none else (s.memberDies x).find? fun d => s.overTime d r.first && !r.told.contains d

/-- A tile whose occupied slots are all in BLOCK or SLEEP and have not changed for too long; a halted one (R420) and one of a pair that
stands mismatched (R383) are not reported. -/
def State.tileStalls (s : State) (t : Nat) (tl : Tile) : Bool :=
  let occ := tl.slots.filter fun u => u.2.st != .free
  !occ.isEmpty && (occ.all fun u => u.2.st == .block || u.2.st == .sleep) && !tl.stallTold && !tl.halted && !s.fenced t &&
    !s.mismatched (s.seenTile t) && s.overTime (tDie t) tl.changed

/-- The next stall: kind (0 a phase, 1 a round, 2 a tile), domain or tile, die. -/
def State.stallPick (s : State) : Option (Nat × Nat × Nat) :=
  match s.roots.findSome? fun r => (s.stallPhase r.1).map fun d => (0, r.1, d) with
  | some x => some x
  | none =>
    match s.rounds.findSome? fun r => (s.stallRound r.1).map fun d => (1, r.1, d) with
    | some x => some x
    | none => (s.tiles.find? fun t => s.tileStalls t.1 t.2).map fun t => (2, t.1, tDie t.1)

/-- The message of a stalled domain: DETAIL names it and the members missing (R361); ROW and COL name no tile and are free
(log 36). -/
def State.stallMsg (s : State) (x d addr missing : Nat) : State :=
  let lid := s.domLaunch x
  let w := (Config.noTile s.ctr).toNat
  { s with ctr := s.ctr + 1 }.queueMsg d (16 + (s.launch lid).part)
    (trapEntry Cause.stall.code 1 (nf w 0 8) (nf w 8 8) 0 (s.logDie d) 0 (nw addr) 0 lid (domDetail x + min missing 65535 * 2 ^ 16))

/-- WATCHDOG_STALL (R350): the domain or tile ev.num, of kind ev.a, reported by die ev.b. Phases and rounds count from 1: the one in
progress is one past those completed (the phases of R223's example; the number a result carries, R347). -/
def execWatchdogStall (s : State) : Res :=
  let x := s.ev.num
  let d := s.ev.b
  .next (match s.ev.a with
    | 0 =>
      let r := s.root x
      if s.stallPhase x ≠ some d then s else
      (s.updRoot x fun r => { r with told := d :: r.told }).stallMsg x d (r.phase + 1) (s.expected x - r.arrived.length)
    | 1 =>
      let r := s.round x
      if s.stallRound x ≠ some d then s else
      (s.updRound x fun r => { r with told := d :: r.told }).stallMsg x d (r.num + 1)
        ((s.treeMembers x).length + ((s.farMembers x).filter fun m => !r.rgone.contains m).length - r.terms.length)
    | _ =>
      let tl := s.tile x
      if !s.tileStalls x tl then s else
      (s.updTile x fun t => { t with stallTold := true }).queueMsg d (16 + (s.launch tl.lid).part)
        (trapEntry Cause.stall.code 1 (tRow x) (tCol x) 0 (s.logDie d) 0 0 0 tl.lid (2 ^ 11)))

end Sys2Proof.Machine
end

