-- ==== Sys2Proof/Machine/Stoxis.lean ====
section
/-! DEFINITION. Stoxis: host requests and hardware semaphores (R389..R393). A request's port is ev.num, and its answer is kept in `cpl`
as port × 16 + status, with the data. -/

namespace Sys2Proof.Machine

/-- A CPL answer (R390). -/
def State.answerHost (s : State) (port status data : Nat) : State := { s with cpl := (port * 16 + status, data) :: s.cpl }

/-- A Stoxis port is up (R408, R409); and the management core, which serves the management space, runs. -/
def State.portUp (s : State) (port : Nat) : Bool := decide (port < 2) && s.isReady port
def State.mgmtUp (s : State) (port : Nat) : Bool := s.portUp port && s.isReady 2

/-- The partition is open to a port (R418). -/
def State.openTo (s : State) (p port : Nat) : Bool :=
  let q := s.part p
  q.valid && q.st == 2 && q.ports.getLsbD port

/-- Where a host access lands: a status, a wait, or runs of storage as (key, bytes, offset in the data) with what counts them. -/
inductive HostAt where
  | no (status : Nat)
  | wait
  | at_ (runs : List (Nat × Nat × Nat)) (kind idx off : Nat)
  deriving DecidableEq, Repr

/-- The storage of one offset of a partition's PACKAGE memory, for a host (R354, R390): PAGE, PERM, or its key. -/
def State.hostByte (s : State) (p va : Nat) (write : Bool) : Except Nat Nat :=
  let q := s.part p
  if !q.ptEn then .error 4 else
  match s.walkTable q va 4 q.ptAddr with
  | none => .error 4
  | some (lvl, e) =>
    if pteOwner e ≠ q.owner ∨ (write ∧ !pteW e) then .error 2
    else
      let pa := pteAddr e + va % pageBytes lvl
      if s.isReady (5 + hbmChan pa / 32) then .ok (hbmKey pa) else .error 1

/-- The bytes of an access up to the next 64 KiB boundary, and the rest. -/
def splitPage (off n : Nat) : List (Nat × Nat × Nat) :=
  let a := min n (65536 - off % 65536)
  (off, a, 0) :: (if a < n then [(off + a, n - a, a)] else [])

/-- A host access to PACKAGE memory. -/
def State.hostPackage (s : State) (p va n : Nat) (write : Bool) : HostAt :=
  match (splitPage va n).mapM fun r => (s.hostByte p r.1 write).map fun k => (k, r.2) with
  | .error e => .no e
  | .ok runs =>
    if runs.any fun r => s.mgmt.quiesced.contains (hbmChan (r.1 - hbmBase)) then .wait else .at_ runs 3 (agentOf va) va

/-- A host access to die SRAM of logical die n (R390): inside a reservation of the partition resident there; NAK in the range of a launch
saved from the die (R370). -/
def State.hostDie (s : State) (p die off n : Nat) : HostAt :=
  let inside := fun (l : Launch) => l.part == p && decide (l.doff ≤ off ∧ off + n ≤ l.doff + l.dlen)
  match s.realDie die with
  | none => .no 5
  | some d =>
    if !(s.part p).dies.getLsbD die then .no 5
    else if s.launches.any fun l => inside l.2 && l.2.holdsOn d then
      if !s.isReady (34 + die) then .no 1
      else if (splitPage off n).any fun r => (s.remapEntry d (r.1 / 65536)).busy then .wait
      else .at_ ((splitPage off n).map fun r => (s.dieByteKey d r.1, r.2)) 2 d off
    else if s.launches.any fun l => inside l.2 && l.2.savedDies.contains die then .no 1
    else .no 5

/-- Where a host request lands (R390). -/
def State.hostAt (s : State) (port p : Nat) (addr : Word) (n : Nat) (write : Bool) : HostAt :=
  if !s.portUp port then .no 1 else
  match decodeWin addr with
  | some (.package off) => if !s.openTo p port then .no 1 else if 2 ^ 48 < off + n then .no 5 else s.hostPackage p off n write
  | some (.die false d off) => if !s.openTo p port then .no 1 else s.hostDie p d off n
  | _ => .no 5

/-- A run of a host's write lands at its controller: of PACKAGE memory, at the agent of its 64 KiB range (R286, R291). -/
def State.landHost (s : State) (p kind idx va n : Nat) : State := s.land p kind (if kind = 3 then agentOf va else idx) va n

/-- A run meets storage that is lost: a DEAD page (R281). -/
def State.hostDead (s : State) (kind idx off n : Nat) : Bool :=
  kind == 2 && (splitPage off n).any fun r => (s.remapEntry idx (r.1 / 65536)).dead

/-- A blocked request is tried again in the next cycle, before every later one (R391). -/
def State.retryHost (s : State) (i : Instr) : State := { s with inputs := (s.now + 1, i, s.ev) :: s.inputs }

/-- STOXIS_WRITE (R390): port ev.num, partition ev.a, address ev.b, length ev.c, bytes ev.data. -/
def execStoxisWrite (s : State) : Res :=
  let n := s.ev.c
  let v := ofBytes (s.ev.data.map fun b => BitVec.ofNat 8 b)
  .next (if n = 0 ∨ 256 < n ∨ s.ev.data.length ≠ n then s.answerHost s.ev.num 5 0 else
    match s.hostAt s.ev.num s.ev.a (nw s.ev.b) n true with
    | .no st => s.answerHost s.ev.num st 0
    | .wait => s.retryHost .stoxisWrite
    | .at_ runs kind idx off =>
      if s.hostDead kind idx off n || runs.any fun r => (partialPoison s.poison r.1 r.2.1).isSome then s.answerHost s.ev.num 3 0
      else
        let s := runs.foldl (fun s r => s.store r.1 r.2.1 (v / 2 ^ (8 * r.2.2) % 2 ^ (8 * r.2.1))) s
        (runs.foldl (fun s r => s.landHost s.ev.a kind idx (off + r.2.2) r.2.1) s).answerHost s.ev.num 0 0)

/-- STOXIS_READ (R390). -/
def execStoxisRead (s : State) : Res :=
  let n := s.ev.c
  .next (if n = 0 ∨ 256 < n then s.answerHost s.ev.num 5 0 else
    match s.hostAt s.ev.num s.ev.a (nw s.ev.b) n false with
    | .no st => s.answerHost s.ev.num st 0
    | .wait => s.retryHost .stoxisRead
    | .at_ runs kind idx off =>
      if s.hostDead kind idx off n || runs.any fun r => (poisonIn s.poison r.1 r.2.1).isSome then s.answerHost s.ev.num 3 0
      else s.answerHost s.ev.num 0 (runs.foldl (fun v r => v + s.load r.1 r.2.1 * 2 ^ (8 * r.2.2)) 0))

/-! ### Semaphores (R393) -/

/-- Semaphore n: owner, acquires, ignored releases. -/
def State.sem (s : State) (n : Nat) : Nat × Nat × Nat := tget (0, 0, 0) s.mgmt.sems n
def State.setSem (s : State) (n : Nat) (v : Nat × Nat × Nat) : State := { s with mgmt := { s.mgmt with sems := tset s.mgmt.sems n v } }

/-- The state word. -/
def semWord (v : Nat × Nat × Nat) (got : Bool) : Nat := v.1 + b2n got * 4 + v.2.1 % 65536 * 2 ^ 16 + v.2.2 * 2 ^ 32

/-- An acquire attempt by a port: the word read, and the state. -/
def State.acquire (s : State) (port n : Nat) : Nat × State :=
  let v := s.sem n
  if v.1 = 0 then
    let w := (port + 1, (v.2.1 + 1) % 65536, v.2.2)
    (semWord w true, s.setSem n w)
  else (semWord v false, s)

/-- A write to the second dword: bit 0 releases. -/
def State.release (s : State) (port n v : Nat) : State :=
  let w := s.sem n
  if !nb v 0 then s
  else if w.1 = port + 1 then s.setSem n (0, w.2)
  else s.setSem n (w.1, w.2.1, min (w.2.2 + 1) 65535)

/-- SEMAPHORE_ACQUIRE (R393): port ev.num, semaphore ev.a. -/
def execSemaphoreAcquire (s : State) : Res :=
  let port := s.ev.num
  .next (if !s.mgmtUp port then s.answerHost port 1 0 else
    let r := s.acquire port (s.ev.a % 32)
    r.2.answerHost port 0 r.1)

/-- SEMAPHORE_RELEASE (R393). -/
def execSemaphoreRelease (s : State) : Res :=
  let port := s.ev.num
  .next (if !s.mgmtUp port then s.answerHost port 1 0 else (s.release port (s.ev.a % 32) 1).answerHost port 0 0)

/-- Every semaphore a port owns is released, and LINK is sent. -/
def State.loseSems (s : State) (port : Nat) : State :=
  { s with mgmt := { s.mgmt with sems := s.mgmt.sems.map fun (x : Nat × Nat × Nat × Nat) => if x.2.1 = port + 1 then (x.1, 0, x.2.2) else x } }.linkRecord
    6 port 0 true 0

/-- STOXIS_PORT_DOWN (R393, R407): port ev.num. -/
def execStoxisPortDown (s : State) : Res := .next ((s.unready (2 ^ (s.ev.num % 2))).loseSems (s.ev.num % 2))

end Sys2Proof.Machine
end

