-- ==== Sys2Proof/Machine/Fjoic.lean ====
section
/-! DEFINITION. Fjoic: frames, requests to and from other packages, multicast in the switches, and lost links (R394..R403, R407). -/

namespace Sys2Proof.Machine

/-! ### Fields of R394 and R396. A flit is 256 bits: the 4-byte header and 28 bytes of payload. -/

def flitChan (f : Nat) : Nat := nf f 12 3
def flitFirst (f : Nat) : Bool := nb f 15
def flitLast (f : Nat) : Bool := nb f 16
def flitPay (f : Nat) : Nat := nf f 32 224

def fhType (h : Nat) : Nat := nf h 0 8
def fhStatus (h : Nat) : Nat := nf h 8 8
def fhLen (h : Nat) : Nat := nf h 16 16
def fhSpod (h : Nat) : Nat := nf h 56 8
def fhSpkg (h : Nat) : Nat := nf h 64 12
def fhTile (h : Nat) : Nat := nf h 80 24
def fhBudget (h : Nat) : Nat := nf h 104 8
def fhTag (h : Nat) : Nat := nf h 112 16
def fhOff (h : Nat) : Nat := nf h 128 36
def fhAux (h : Nat) : Nat := nf h 176 48

/-- The outgoing request a tag names. -/
def State.fjTagged (s : State) (tag : Nat) : Option Nat := (s.fj.find? fun q => !q.2.incoming && fhTag q.2.header == tag).map Prod.fst

/-! ### Frames (R401, R402) -/

/-- The message a complete packet makes: its header and data flits' payloads, of one earmark on one link. -/
def State.packetIn (s : State) (link em : Nat) (p : List Nat) : State :=
  match p with
  | [] => s
  | h :: ds =>
    let data := (ds.foldl (fun (a : Nat × Nat) d => (a.1 + d * 2 ^ (224 * a.2), a.2 + 1)) (0, 0)).1 % 2 ^ (8 * fhLen h)
    let push := fun (i : Instr) (e : Ev) => { s with inputs := s.inputs ++ [(s.now, i, e)] }
    let ans := fun (i : Instr) (st : Nat) (v : List Nat) => match s.fjTagged (fhTag h) with
      | some k => push i { num := k, a := 1, b := st, c := fhAux h % 32, data := v }
      | none => s
    match fhType h with
    | 8 => ans .storeAnswer (fhStatus h) []
    | 9 => ans .readAnswer (fhStatus h) [data]
    | 10 => ans .atomicAnswer (fhStatus h) [data]
    | 11 => ans .sendmAnswer (let st := fhStatus h; if st = 0 then 0 else if st = 5 then 1 else st + 2) []
    | 12 => match s.fjTagged (fhTag h) with
      | some k => push .holdNotice { num := k, a := 0, b := nf (fhAux h) 32 1, c := nf (fhAux h) 0 32, data := [] }
      | none => s
    | 13 => match s.fjTagged (fhTag h) with
      | some k => push .multicastAnswer { num := k, a := 255, b := 0, c := 0, data := [data] }
      | none => s
    | _ => push .fjoicAdmit { num := h, a := em, b := link, c := 0, data := [data] }

/-- One flit of an accepted frame joins its packet. -/
def State.flitIn (s : State) (link em f : Nat) : State :=
  let key := (link * 4096 + em) * 8 + flitChan f
  if 2 ≤ flitChan f then s else
  let old := if flitFirst f then [] else tget [] s.mgmt.rx key
  let p := old ++ [flitPay f]
  if flitLast f then ({ s with mgmt := { s.mgmt with rx := terase s.mgmt.rx key } }).packetIn link em p
  else { s with mgmt := { s.mgmt with rx := tset s.mgmt.rx key p } }

/-- The bytes a tag covers (R402). -/
def frameBytes (link dir num : Nat) (fs : List Nat) : List Byte :=
  toBytes 8 link ++ toBytes 1 dir ++ toBytes 8 num ++ toBytes 1 fs.length ++ (fs.map (toBytes 32)).flatten

/-- An earmark's entry changed. -/
def State.updEarmark (s : State) (em : Nat) (f : Earmark → Earmark) : State :=
  { s with mgmt := { s.mgmt with earmarks := tset s.mgmt.earmarks em (f (tget Earmark.fresh s.mgmt.earmarks em)) } }

/-- A frame whose tag does not verify; the third in a row blocks the earmark on the link. -/
def State.frameFail (s : State) (em link : Nat) (e : Earmark) : State :=
  let n := tget 0 e.fails link + 1
  if 3 ≤ n then
    (s.updEarmark em fun e => { e with fails := tset e.fails link 0, blocked := e.blocked ||| BitVec.ofNat 16 (2 ^ link) }).linkRecord 0 link em false 0
  else s.updEarmark em fun e => { e with fails := tset e.fails link n }

/-- FRAME_RECEIVE (R401, R402): link ev.num, earmark ev.a, direction ev.b, tag ev.c, flits ev.data. -/
def execFrameReceive (s : State) : Res :=
  let link := s.ev.num % 16
  let em := s.ev.a % 4096
  let fs := s.ev.data
  .next (if s.mgmt.fjDown.getLsbD link || !s.isReady (13 + link) then s else
    match tget? s.mgmt.earmarks em with
    | none => ({ s with mgmt := { s.mgmt with fjDrops := s.mgmt.fjDrops + 1 } }).linkRecord 1 link em false 0
    | some e =>
      if !e.mask.getLsbD link then ({ s with mgmt := { s.mgmt with fjDrops := s.mgmt.fjDrops + 1 } }).linkRecord 1 link em false 0
      else if e.blocked.getLsbD link then s
      else
        let k := link * 2 + s.ev.b % 2
        let num := tget 0 e.frames k
        if decide (1 ≤ fs.length ∧ fs.length ≤ 16) && s.ev.c == (frameTag e.key (frameBytes link (s.ev.b % 2) num fs)).toNat then
          let s := s.updEarmark em fun e => { e with fails := tset e.fails link 0, frames := tset e.frames k (num + 1) }
          fs.foldl (fun s f => s.flitIn link em f) s
        else s.frameFail em link e)

/-! ### Admission (R398) -/

/-- A NAK for a request that is not admitted. -/
def State.fjRefuse (s : State) (h : Nat) : State :=
  let ty := match fhType h with
    | 0 => 8
    | 1 => 9
    | 2 => 10
    | 3 => 11
    | _ => 13
  let a := fjHeader ty (if ty = 13 then 0 else 1) (if ty = 13 then 8 else 0) (fhSpod h) (fhSpkg h) s.pod s.pkg 0 (fhTag h) 0 0
  { s with next := s.next + 1, fjOut := (s.next, fjPacket a (if ty = 13 then 2 ^ nf h 192 6 else 0)) :: s.fjOut }

/-- The memory request of an admitted packet of owner `own`, as number k. -/
def State.fjReqOf (s : State) (k own h data : Nat) : Req :=
  let aux := fhAux h
  let at_ := nw (5 * 2 ^ 56 + s.pkg * 2 ^ 36 + fhOff h)
  let base : Req :=
    { num := s.next, who := .fjoic k (fhSpod h + fhSpkg h * 2 ^ 8 + fhTile h * 2 ^ 20), acc := .store, addr := at_, size := fhLen h,
      data := data, d := 0, code := 0, sign := false, fn := 0,
      k1 := 0, rm := 0, nt := false, cls := 0, lid := 0, part := 16 + own, elem := 0, dst := 0, phys := none, lvl := 3, tbl := 0, gen := 0,
      lgrp := 0, pgrp := 0, grant := none, len := 0, peer := none, bad := false }
  match fhType h with
  | 1 => { base with acc := .read, data := 0 }
  | 2 => { base with acc := .atomic, size := nf aux 8 8, data := nf data 0 64, k1 := nw (nf data 64 64), fn := nf aux 0 8,
                     rm := BitVec.ofNat 2 (nf aux 16 2) }
  | _ => base

/-- The message of an admitted packet (R227, R228): the tile it names, and its entry. -/
def State.fjMsgOf (s : State) (k own h data : Nat) : Option SendReq :=
  let off := fhOff h
  let row := nf off 0 8
  let col := nf off 8 8
  if 128 ≤ row ∨ 160 ≤ col then none else
  (s.realDie (nf off 16 3)).map fun d =>
    let e := 1 + nf (fhTile h) 0 16 * 2 ^ 16 + (nf (fhTile h) 16 3 + b2n (fhSpod h != s.pod) * 2 ^ 6 + 2 ^ 7) * 2 ^ 32 +
      nf (fhAux h) 0 8 * 2 ^ 40 + fhSpkg h * 2 ^ 48 + data % 2 ^ 192 * 2 ^ 64
    { tile := 0, slot := 8, d := 0, entry := BitVec.ofNat 256 e, dest := tileKey d row col, owner := own, lid := 0, byOwner := true, pgrp := k,
      status := 0, peer := none }

/-- An admitted request is recorded under a new number and goes to its agent or tile. -/
def State.fjTake (s : State) (h : Nat) (m : Nat → Msg) : State :=
  let k := s.next
  ({ s with next := k + 1, fj := tset s.fj k { msg := m k, header := h, hold := false, incoming := true, limit := 0 } }).send 1 (m k)

/-- FJOIC_ADMIT (R397, R398, R409): header ev.num, owner ev.a, link ev.b, data ev.data. -/
def execFjoicAdmit (s : State) : Res :=
  let h := s.ev.num
  let own := s.ev.a
  let data := s.ev.data.headD 0
  let cross := fhSpod h != s.pod && fhType h != 0 && fhType h != 3
  .next (if 4 < fhType h then s
    else if fhBudget h = 0 ∨ cross ∨ !s.isReady (13 + s.ev.b % 16) then s.fjRefuse h
    else if fhType h = 3 then
      match s.fjMsgOf s.next own h data with
      | none => s.fjRefuse h
      | some m => s.fjTake h fun k => .sendm { m with pgrp := k }
    else s.fjTake h fun k => .req (s.fjReqOf k own h data))

/-! ### At the source (R398) -/

/-- HOLD_NOTICE (R398): the source stops timing request ev.num; a thread's load or atomic that is held in the other package's fault buffer
(ev.b odd) parks with cause PAGE and DETAIL ev.c (R356). -/
def execHoldNotice (s : State) : Res :=
  .next (match tget? s.fj s.ev.num with
    | some q =>
      if q.incoming then s else
      let s := { s with fj := tset s.fj s.ev.num { q with hold := true } }
      match q.msg with
      | .req r => if r.acc = .store ∨ s.ev.b % 2 = 0 then s
          else r.askers.foldl (fun s p => if s.waits p.1 p.2 r.lid then s.parkPage p.1 p.2 r (s.ev.c % 2 ^ 32) else s) s
      | _ => s
    | none => s)

/-- The final mask of a multicast reaches its job (R208, R400). -/
def State.castDone (s : State) (k mask : Nat) : State :=
  match tget? s.mcasts k with
  | none => s
  | some m =>
    let s := { s with mcasts := terase s.mcasts k, fj := terase s.fj k }
    s.updJob m.pen m.xid fun j =>
      let n := j.mcast.length
      let mk := mask % 2 ^ n
      let ok := ((List.range n).filter fun i => !nb mk i).length
      { j with open_ := j.open_ - 1, landed := j.landed + 256 * ok, mask := j.mask ||| mk, cause := if mk ≠ 0 ∧ j.cause = 0 then 1 else j.cause }

/-- A request of this package that is refused NAK by its source port. -/
def State.fjTimeout (s : State) (k : Nat) (q : FjReq) : State :=
  match q.msg with
  | .req r =>
    if (tget? s.mcasts k).isSome then s.castDone k (2 ^ 64 - 1)
    else ({ s with fj := terase s.fj k }).takeAns { req := r, status := Cause.nak.code, value := 0, flags := 0 }
  | .sendm m => ({ s with fj := terase s.fj k }).answerTo ((m.tile, m.slot) :: m.peer.toList) m.d 3 4
  | _ => { s with fj := terase s.fj k }

/-- The address of a request, for its LINK record. -/
def fjAddr (q : FjReq) : Word := match q.msg with | .req r => r.addr | _ => 0

/-- A request unanswered at 20 µs. -/
def State.fjLate (s : State) : Option (Nat × FjReq) := s.fj.find? fun q => !q.2.incoming && !q.2.hold && decide (q.2.limit ≤ s.now)

/-- The owner of a tile's requests. -/
def State.fjOwner (s : State) (q : FjReq) : Nat :=
  match q.msg with
  | .req r => (s.part r.part).owner
  | .sendm m => m.owner
  | _ => 0

/-- FJOIC_SOURCE_TIMEOUT (R398): the first late request is reported NAK, and LINK with event 4 names it. -/
def execFjoicSourceTimeout (s : State) : Res :=
  .next (match s.fjLate with
    | some (k, q) => (s.fjTimeout k q).linkRecord 4 0 (s.fjOwner q) false (fjAddr q)
    | none => s)

/-! ### Multicast (R399, R400) -/

/-- MULTICAST_REPLICATE (R399): the header of multicast ev.num reaches the switch, which copies it to branches with the member masks of
ev.data; each has 18 µs. -/
def execMulticastReplicate (s : State) : Res :=
  let k := s.ev.num
  .next (match tget? s.mcasts k with
    | none => s
    | some m =>
      if !m.branches.isEmpty ∨ m.told then s else
      let bs := (List.range s.ev.data.length).zip s.ev.data
      let s := { s with mcasts := tset s.mcasts k { m with branches := bs, told := true } }
      bs.foldl (fun s b => s.sendAt (s.now + 22500) (.branchTimer k b.1)) s)

/-- A branch is settled with a mask; the last one sends the answer upward. -/
def State.branchDone (s : State) (k b mask : Nat) : State :=
  match tget? s.mcasts k with
  | none => s
  | some m =>
    if !(m.branches.any fun x => x.1 == b) then s else
    let m := { m with branches := m.branches.filter fun x => x.1 != b, mask := m.mask ||| mask }
    let s := { s with mcasts := tset s.mcasts k m }
    if m.branches.isEmpty then s.castDone k m.mask else s

/-- MULTICAST_BRANCH_TIMEOUT (R400): every member of the silent branch has its bit set. -/
def execMulticastBranchTimeout (s : State) : Res :=
  .next (match s.arrived with
    | some (.branchTimer k b) =>
      let s := s.taken
      let bits := (((tget? s.mcasts k).bind fun m => m.branches.find? fun x => x.1 == b).map Prod.snd).getD 0
      s.branchDone k b bits
    | _ => s)

/-- MULTICAST_ANSWER (R400): branch ev.a of multicast ev.num answers with the mask in ev.data; an answer for the whole multicast when no
branches are known. -/
def execMulticastAnswer (s : State) : Res :=
  let mask := s.ev.data.headD 0
  .next (match tget? s.mcasts s.ev.num with
    | none => s
    | some m => if m.told then s.branchDone s.ev.num s.ev.a mask else s.castDone s.ev.num mask)

/-! ### Lost links (R403, R407) -/

/-- Every member on another package leaves a level-3 domain with abort code 0xFF. -/
def State.leaveRemote (s : State) (x : Nat) : State :=
  let r := s.root x
  let far := s.farMembers x
  let late := far.filter fun m => !r.rdrop.contains m && !r.arrived.any fun c => c.far == some m
  let s := s.updRoot x fun r => { r with arrived := r.arrived.map fun c => if c.far.isSome then { c with drop := true } else c }
  let s := late.foldl (fun s m => s.rootCount x { tile := none, far := some m, counter := none, op := none, val := 0, abort := 0xFF, drop := true }) s
  s.updRound x fun r => { r with lost := r.lost || decide ((r.terms.filter fun t => t.1 == 0).length < (far.filter fun m => !r.rgone.contains m).length),
                                 rgone := far }

/-- The level-3 domains of running launches. -/
def State.podDomains (s : State) : List Nat :=
  ((s.launches.filter fun l => l.2.st == .running && nb l.2.levels 3).map fun l => s.launchDom l.1 3 0 0).eraseDups

/-- FJOIC_PORT_DOWN (R403, R407): port group ev.num loses a lane (ev.a = 0) or goes down; with every group down the other packages have
left the level-3 domains. -/
def execFjoicPortDown (s : State) : Res :=
  let g := s.ev.num % 16
  .next (if s.ev.a = 0 then s.linkRecord 2 g 0 false 0
    else
      let s := ({ s with mgmt := { s.mgmt with fjDown := s.mgmt.fjDown ||| BitVec.ofNat 16 (2 ^ g) } }.unready (2 ^ (13 + g))).linkRecord 3 g 0 false 0
      if s.mgmt.fjDown = BitVec.allOnes 16 then s.podDomains.foldl State.leaveRemote s else s)

end Sys2Proof.Machine
end

