-- ==== Sys2Proof/Machine/Bringup.lean ====
section
/-! DEFINITION. Bringup: readiness, resets, the boot sequence, attestation, link keys, changes of role and power (R283, R408..R417,
R419). -/

namespace Sys2Proof.Machine

/-! ### Readiness (R408, R409, R411) -/

def State.setReady (s : State) (m : Nat) : State := { s with mgmt := { s.mgmt with ready := s.mgmt.ready ||| nw m, booted := s.mgmt.booted ||| nw m } }

/-- The order in which the functions come up: the boot port; with firmware, the other port and HBM4; then maps with their dies, port
groups, hurdle networks and the tree. -/
def bootOrder (port : Nat) : List Nat :=
  [port] ++ ((List.range 2).filter (· != port)) ++ (List.range 8).map (· + 5) ++ [3, 4] ++ (List.range 16).map (· + 13) ++
    (List.range 4).map (· + 29) ++ [33]

/-- The next function of the boot sequence that can finish: nothing after the boot port before the firmware is verified. -/
def State.bootNext (s : State) : Option Nat :=
  if !s.mgmt.booted.getLsbD s.mgmt.bootPort then some s.mgmt.bootPort
  else if !s.isReady 2 then none
  else (bootOrder s.mgmt.bootPort).find? fun b => !s.mgmt.booted.getLsbD b

/-- The boot map of a stack: the one it has, where the cooling class bears it (R269); else the one with most compute layers on the layers of
least weight: 3, 5, 7 under RL, 5, 7 under HA (DESIGN CHOICE, log 3; unsafe). -/
def State.bootRole (s : State) (k : Nat) : BitVec 8 :=
  let m := (s.stack k).role
  if mapValid m s.mgmt.cooling then m else if s.mgmt.cooling = 1 then 0xA8 else 0xA0

/-- A stack's boot map is applied under the re-enumerate step (R411, R283). -/
def State.bootMap (s : State) (k : Nat) : State :=
  let s := (s.updStack k fun x => { x with reroll := some (s.bootRole k, 0, 0, 1) }).rerollNow k
  { s with mgmt := { s.mgmt with roleStat := 0, booted := s.mgmt.booted ||| nw (2 ^ (3 + k)) } }

/-- FUNCTION_READY (R409, R411): the function of readiness bit ev.num finishes; one that the boot sequence has not reached yet cannot. -/
def execFunctionReady (s : State) : Res :=
  let b := s.ev.num
  .next (if s.bootNext = some b then
      if b = 3 ∨ b = 4 then s.bootMap (b - 3) else s.setReady (2 ^ b)
    else if s.mgmt.booted.getLsbD b then s.setReady (2 ^ b)
    else s)

/-- FUNCTION_LOST (R409): bit ev.num clears; a lost Stoxis port's semaphores are released (R393). -/
def execFunctionLost (s : State) : Res :=
  let b := s.ev.num % 42
  let s' := s.unready (2 ^ b)
  .next (if b < 2 then s'.loseSems b else s')

/-! ### Resets (R410) -/

/-- A state in which everything is lost but the clock, what comes in and what went out, and the straps. -/
def State.coldReset (s : State) : State :=
  { State.reset with now := s.now, next := s.next, ctr := s.ctr, inputs := s.inputs, toMgmt := s.toMgmt, events := s.events, cpl := s.cpl,
                     fjOut := s.fjOut, pkg := s.pkg, pod := s.pod,
                     mgmt := { Mgmt.fresh with bootPort := s.mgmt.bootPort, cooling := s.mgmt.cooling } }

/-- A tile of which only the margin state stays. -/
def Tile.kept (t : Tile) : Tile := { Tile.fresh with margin := t.margin, unusable := t.margin.st == 3 }

/-- A PACKAGE reset keeps marks, bins and identity; the hard-repair list is applied and empty. -/
def State.packageReset (s : State) : State :=
  let c := s.coldReset
  { c with tiles := (s.tiles.filter (fun (t : Nat × Tile) => t.2.margin != Margin.fresh)).map (fun (t : Nat × Tile) => (t.1, t.2.kept)),
           pens := (s.pens.filter (fun (p : Nat × Pen) => p.2.margin != Margin.fresh)).map
             (fun (p : Nat × Pen) => (p.1, { Pen.fresh with margin := p.2.margin })),
           mgmt := { c.mgmt with marks := s.mgmt.marks, rankCe := s.mgmt.rankCe, fwDigest := s.mgmt.fwDigest } }

/-- A PORT reset: the port goes down, its semaphores are released, and it trains again. -/
def State.portReset (s : State) (port : Nat) : State :=
  let s := (s.unready (2 ^ port)).loseSems port
  { s with mgmt := { s.mgmt with booted := s.mgmt.booted &&& ~~~(nw (2 ^ port)) } }

/-- A write of the reset register by a port (R410): reserved bits are ignored. -/
def State.resetWrite (s : State) (port v : Nat) : State :=
  match v % 4 with
  | 1 => s.coldReset
  | 2 => s.packageReset
  | 3 => s.portReset port
  | _ => s

/-- A management write by port ev.num: NAK when the port is not ready, else its effect and an acknowledgement. -/
def State.host (s : State) (f : State → State) : State :=
  if !s.portUp s.ev.num then s.answerHost s.ev.num 1 0 else (f s).answerHost s.ev.num 0 0

/-- The same for a register that the management core's firmware serves: NAK before it runs, too (R409). -/
def State.hostMc (s : State) (f : State → State) : State :=
  if !s.mgmtUp s.ev.num then s.answerHost s.ev.num 1 0 else (f s).answerHost s.ev.num 0 0

/-- RESET_COLD (R410): port ev.num. -/
def execResetCold (s : State) : Res := .next (s.host fun s => s.resetWrite s.ev.num 1)
/-- RESET_PACKAGE (R410). -/
def execResetPackage (s : State) : Res := .next (s.host fun s => s.resetWrite s.ev.num 2)
/-- RESET_PORT (R410). -/
def execResetPort (s : State) : Res := .next (s.host fun s => s.resetWrite s.ev.num 3)
/-- POWER_ON (R410, R411): the straps give the boot port ev.num and the cooling class ev.a; class 3 does not occur (R271). -/
def execPowerOn (s : State) : Res :=
  let c := s.coldReset
  .next { c with mgmt := { c.mgmt with bootPort := s.ev.num % 2, cooling := s.ev.a % 3 } }

/-! ### The firmware check (R411, R412) -/

/-- n bytes of the boot window. -/
def State.bootBytes (s : State) (off n : Nat) : List Byte := (List.range n).map fun i => tget 0 s.mgmt.boot (off + i)
def State.bootNum (s : State) (off n : Nat) : Nat := ofBytes (s.bootBytes off n)

/-- The image format of R412, for a written length. -/
def State.bootFormat (s : State) (len : Nat) : Bool :=
  decide (4096 ≤ len ∧ len ≤ 2 ^ 24) && s.bootNum 0 4 == 0x57465A4B && s.bootNum 4 2 == 1 && s.bootNum 6 2 == 0 &&
  s.bootNum 0x10 8 == len - 4096 && decide (1 ≤ s.bootNum 0x10 8) && decide (s.bootNum 0x18 8 < s.bootNum 0x10 8) &&
  s.bootNum 0x741 191 == 0 && s.bootNum 0xD00 768 == 0

/-- The digest of an image (R412). -/
def State.bootDigest (s : State) (len : Nat) : Nat := (shake256 (s.bootBytes 0 0x800 ++ s.bootBytes 0x1000 (len - 4096)) 64).toNat

/-- The check that fails, of R411, the format before the others (log 30). -/
def State.bootFails (s : State) (len : Nat) : Option Nat :=
  let key := s.bootBytes 0x40 1793
  let hash := s.bootNum 0x20 32
  if !s.bootFormat len then some 3
  else if !Config.falconVerify key (s.bootBytes 0x800 1280) (s.bootDigest len) then some 0
  else if hash ≠ (shake256 key 32).toNat ∨ hash ≠ Config.fuseKeyHash.toNat then some 1
  else if s.bootNum 8 8 < Config.fuseRollback.toNat then some 2
  else none

/-- A write of the image length by a port (R412): only the boot ROM, on the boot port, acts on it. -/
def State.bootCheck (s : State) (port len : Nat) : State :=
  if s.isReady 2 ∨ port ≠ s.mgmt.bootPort then s else
  match s.bootFails len with
  | some c =>
    { s with events := trapEntry 0x2E 1 0 0 0 0 0 0 0 0 (c + min (s.bootNum 8 8) 65535 * 2 ^ 16) :: s.events }
  | none =>
    let s' := s.setReady 4
    { s' with mgmt := { s'.mgmt with fwDigest := s.bootDigest len, boot := [] } }

/-- BOOT_IMAGE_CHECK (R412): port ev.num, length ev.a. -/
def execBootImageCheck (s : State) : Res := .next (s.host fun s => s.bootCheck s.ev.num s.ev.a)

/-! ### Attestation (R414) -/

/-- SHAKE256 over the loaded keys (R419). -/
def State.keyDigest (s : State) : Nat :=
  (shake256 ((s.mgmt.earmarks.map fun e => toBytes 2 e.1 ++ toBytes 2 e.2.mask.toNat ++
    toBytes 32 (shake256 (toBytes 64 e.2.key) 32).toNat).flatten) 64).toNat

/-- The fields of a report before its signature. -/
def State.reportFields (s : State) (nonce : Nat) : List Byte :=
  toBytes 32 nonce ++ toBytes 16 Config.fuseSerial.toNat ++ toBytes 64 s.mgmt.fwDigest ++ toBytes 8 Config.fuseRollback.toNat ++ toBytes 8 s.roleWord ++
    toBytes 8 s.mgmt.ready.toNat ++ toBytes 64 s.keyDigest

/-- A write of 1 to 0x2820 (R414): the report so far is void, and a new one is prepared for the port's nonce. -/
def State.attest (s : State) (port : Nat) : State :=
  let old := fun (f : Flight) => match f.msg with | .report _ _ => true | _ => false
  { s with flight := s.flight.filter (fun f => !old f),
           mgmt := { s.mgmt with attDone := false, reportNonce := terase s.mgmt.reportNonce port } }.sendWithin 6250000 (.report port (tget 0 s.mgmt.nonce port))

/-- ATTEST_REQUEST (R414): port ev.num. -/
def execAttestRequest (s : State) : Res := .next (s.hostMc fun s => s.attest s.ev.num)

/-- ATTEST_REPORT_DONE (R414). -/
def execAttestReportDone (s : State) : Res :=
  .next (match s.arrived with
    | some (.report port nonce) =>
      let s := s.taken
      let f := s.reportFields nonce
      let sig := Config.falconSign s.mgmt.fwDigest (shake256 f 64).toNat
      { s with mgmt := { s.mgmt with report := ofBytes (f ++ toBytes 1280 sig), attDone := true, reportNonce := tset s.mgmt.reportNonce port nonce } }
    | _ => s)

/-! ### Link keys (R419) -/

/-- A commit of a port's key block by a write of v: NONCE is decided before FIELD and FULL (log 31). FIELD looks at the reserved bits of this
write alone: those of the earmark word are never stored (R8). -/
def State.keyCommit (s : State) (port v : Nat) : State :=
  let w := tget 0 s.mgmt.keyWord port
  let em := nf w 0 12
  let keyStat := fun (n : Nat) => tset s.mgmt.keyStat port n
  let stat := fun (n : Nat) => { s with mgmt := { s.mgmt with keyStat := keyStat n } }
  if tget? s.mgmt.reportNonce port ≠ some (tget 0 s.mgmt.keyNonce port) then stat 2
  else if em = 0 ∨ v ≠ 1 then stat 4
  else if nb w 28 then { s with mgmt := { s.mgmt with earmarks := terase s.mgmt.earmarks em, keyStat := keyStat 1 } }
  else if (tget? s.mgmt.earmarks em).isNone ∧ 256 ≤ s.mgmt.earmarks.length then stat 3
  else
    let e : Earmark := { mask := BitVec.ofNat 16 (nf w 12 16), key := tget 0 s.mgmt.keyVal port, blocked := 0, fails := [], frames := [] }
    { s with mgmt := { s.mgmt with earmarks := tset s.mgmt.earmarks em e, keyStat := keyStat 1 } }

/-- KEY_LOAD (R419): a commit by port ev.num. -/
def execKeyLoad (s : State) : Res := .next (s.hostMc fun s => s.keyCommit s.ev.num 1)
/-- KEY_REMOVE (R419): a commit by port ev.num whose word has REMOVE. -/
def execKeyRemove (s : State) : Res :=
  .next (s.hostMc fun s =>
    ({ s with mgmt := { s.mgmt with keyWord := tset s.mgmt.keyWord s.ev.num (nput (tget 0 s.mgmt.keyWord s.ev.num) 28 1 1) } }).keyCommit s.ev.num 1)

/-! ### Role-map requests (R415) -/

/-- ROLE_MAP_REQUEST (R415): port ev.num writes ev.a to offset 0x200. -/
def execRoleMapRequest (s : State) : Res := .next (s.hostMc fun s => s.roleRequest s.ev.a)

/-! ### Retention and power (R416, R417) -/

/-- A layer that may enter RETAIN: free and empty. -/
def State.retainable (s : State) (k l : Nat) : Bool :=
  !s.isCompute k l && !s.isCompute k (nearLayer l) && !(s.stack k).lostLayers.contains l && !s.layerHolds k l

/-- A write of offset 0x300. -/
def State.retainWrite (s : State) (v : Nat) : State :=
  let bits := fun (k : Nat) => (List.range 8).foldl (fun n l => if nb v (8 * k + l) && s.retainable k l then n + 2 ^ l else n) 0
  let b0 := bits 0
  let b1 := bits 1
  (s.updStack 0 fun x => { x with retain := BitVec.ofNat 8 b0 }).updStack 1 fun x => { x with retain := BitVec.ofNat 8 b1 }

/-- LAYER_RETAIN (R416): port ev.num writes ev.a. -/
def execLayerRetain (s : State) : Res := .next (s.hostMc fun s => s.retainWrite s.ev.a)

/-- Power limit of a cooling class in watts (R269). -/
def powerLimit (c : Nat) : Nat := match c with | 0 => 3800 | 1 => 2700 | _ => 1500

/-- The cycle from which a condition holds. -/
def holdSince (c : Bool) (old : Option Nat) (now : Nat) : Option Nat := if c then some (old.getD now) else none

/-- POWER_SAMPLE (R417): ev.a watts measured. -/
def execPowerSample (s : State) : Res :=
  let m := s.mgmt
  let lim := powerLimit m.cooling
  let hot := decide (lim < s.ev.a)
  let low := holdSince (decide (s.ev.a * 10 < lim * 9)) m.lowSince s.now
  let ovr := holdSince (hot && m.duty == 4) m.overSince s.now
  let rise := match low with | some t => m.duty != 0 && decide (t + 1250000 ≤ s.now) | none => false
  let m' := { m with duty := if hot then min (m.duty + 1) 4 else if rise then m.duty - 1 else m.duty, overSince := ovr,
                     lowSince := if rise then some s.now else low }
  .next (match ovr with
    | some t => if t + 125000000 ≤ s.now then s.packageReset else { s with mgmt := m' }
    | none => { s with mgmt := m' })

end Sys2Proof.Machine
end

