-- ==== Sys2Proof/Machine/Tenancy.lean ====
section
/-! DEFINITION. Tenancy: partitions, their supervisor launches, and re-enumeration of a stack (R283, R418). -/

namespace Sys2Proof.Machine

/-! ### The block of a partition -/

/-- The dwords of a block. -/
def Part.word (p : Part) (i : Nat) : Nat :=
  match i with
  | 0 => b2n p.valid + p.st * 2 + p.ports.toNat * 2 ^ 3 + b2n p.err * 2 ^ 5 + p.owner * 2 ^ 16
  | 1 => p.dies.toNat + p.grow0 * 2 ^ 8 + p.gcol0 * 2 ^ 12 + p.grows * 2 ^ 17 + p.gcols * 2 ^ 22
  | 2 => p.hbase
  | 3 => p.hlen
  | 4 => p.simg
  | 5 => p.queues.toNat
  | _ => 0

/-- A write of dwords 1 to 5: only while FREE; reserved bits are dropped. -/
def State.partField (s : State) (p i v : Nat) : State :=
  if (s.part p).st ≠ 0 then s else
  s.updPart p fun q => match i with
    | 1 => { q with dies := BitVec.ofNat 8 (nf v 0 8), grow0 := nf v 8 4, gcol0 := nf v 12 5, grows := nf v 17 5, gcols := nf v 22 5 }
    | 2 => { q with hbase := nf v 0 39 }
    | 3 => { q with hlen := nf v 0 39 }
    | 4 => { q with simg := nf v 0 39 }
    | 5 => { q with queues := BitVec.ofNat 64 (nf v 0 64) }
    | _ => q

/-- Rectangles of two partitions meet on a die. -/
def Part.meets (a b : Part) : Bool :=
  a.dies &&& b.dies != 0 && meet a.grow0 a.grows b.grow0 b.grows && meet a.gcol0 a.gcols b.gcol0 b.gcols

/-- A write of dword 0 that sets VALID is refused for partition number n with fields q and value v. -/
def State.partRefused (s : State) (n : Nat) (q : Part) (v : Nat) : Bool :=
  let others := (List.range 16).filterMap fun i => if i != n && (s.part i).valid then some (s.part i) else none
  q.owner == 0 || (others.any fun o => o.owner == q.owner) ||
  q.dies == 0 || ((List.range 8).any fun d => q.dies.getLsbD d && !(decide (d < s.dieTotal) && s.isReady (34 + d))) ||
  q.grows == 0 || q.gcols == 0 || decide (16 < q.grow0 + q.grows) || decide (20 < q.gcol0 + q.gcols) || (others.any q.meets) ||
  q.hbase % 65536 != 0 || q.hlen % 65536 != 0 || q.hlen == 0 || decide (0x6000000000 < q.hbase + q.hlen) ||
  (others.any fun o => meet o.hbase o.hlen q.hbase q.hlen) ||
  !decide (q.hbase ≤ q.simg ∧ q.simg < q.hbase + q.hlen) || (others.any fun o => o.queues &&& q.queues != 0) ||
  nf v 6 10 != 0 || nf v 28 36 != 0

/-! ### Closing -/

/-- The launches of a partition that are not done, its supervisors apart. -/
def State.partLaunches (s : State) (p : Nat) : List Nat :=
  (s.launches.filter fun l => l.2.part == p && l.2.st != .done && !l.2.supervisor).map Prod.fst

/-- STATE becomes CLOSING: the queues stop, and every launch is ended. -/
def State.partClose (s : State) (p : Nat) : State :=
  let q := s.part p
  let s := s.updPart p fun q => { q with st := 3, err := false }
  let s := (List.range 64).foldl (fun s i => if q.queues.getLsbD i then s.updQueue i fun d => { d with en := false } else s) s
  (s.partLaunches p).foldl (fun s l => if (s.launch l).st = .done ∨ (s.launch l).st = .ending then s else s.endLaunch l) s

/-- Some grant of a partition is GRANTED. -/
def Part.granting (q : Part) : Bool := q.grants.any fun g => g.2.st == 1

/-- Every grant of a partition is revoked (R406). -/
def State.revokeAll (s : State) (p : Nat) : State :=
  (s.part p).grants.foldl (fun s g => if g.2.st = 1 then s.wgWrite p g.1 0 else s) s

/-- A closing partition whose launches have ended, with no revocation under way. -/
def State.freePick (s : State) : Option Nat :=
  (List.range 16).find? fun p => let q := s.part p
    q.valid && q.st == 3 && (s.partLaunches p).isEmpty && q.grants.all fun g => g.2.st != 2

/-- PARTITION_FREED (R418): partition ev.num, whose launches have ended. Its grants are revoked; with none left, its table entries are cleared,
its supervisors end, its range is zeroed, and it is FREE. -/
def execPartitionFreed (s : State) : Res :=
  .next (if s.freePick = some s.ev.num then
      if (s.part s.ev.num).granting then s.revokeAll s.ev.num else
      let p := s.ev.num
      let sup := (s.launches.filter fun l => l.2.part == p && l.2.supervisor).map Prod.fst
      let s := { s with held := s.held.filter fun r => !sup.contains r.lid }
      let s := sup.foldl (fun s l => s.releaseLaunch l) s
      let s := { s with launches := s.launches.filter (fun l => !sup.contains l.1) }
      let q := s.part p
      (s.zeroRange (hbmKey q.hbase) q.hlen).updPart p fun q => { q with valid := false, st := 0, gtab := [], ptEn := false, img := [] }
    else s)

/-! ### Opening -/

/-- The span of some sections, rounded out to a unit: base and length. -/
def spanOf (unit : Nat) (ss : List Section) : Nat × Nat :=
  match ss with
  | [] => (0, 0)
  | x :: r =>
    let lo := r.foldl (fun m y => min m y.off) x.off / unit * unit
    let hi := (r.foldl (fun m y => max m (y.off + y.size)) (x.off + x.size) + unit - 1) / unit * unit
    (lo, hi - lo)

/-- The packet of a supervisor launch at a tile: launch 0 of the image on one tile with its whole slice, level 0 and the ranges its sections
name (log 25). -/
def supPacket (img : List Byte) (ss : List Section) (row col : Nat) : BitVec 512 :=
  let l := { Launch.fresh with packet := BitVec.ofNat 512 (2 ^ 88 + 2 ^ 112 + 2 ^ 128) }
  let g := spanOf 4096 (secsOf ss 0 3 ++ secsOf ss 0 5)
  let d := spanOf 65536 (secsOf ss 0 4 ++ secsOf ss 0 6)
  let cnt := (l.readCounters img ss).foldl (fun n x => n + l.declWidth x) 0
  BitVec.ofNat 512 (row * 2 ^ 80 + 2 ^ 88 + col * 2 ^ 96 + 2 ^ 112 + 2 ^ 128 + 2 ^ 136 + 7 * 2 ^ 144 + 256 * 2 ^ 160 + cnt % 65536 * 2 ^ 176 +
    g.1 * 2 ^ 192 + g.2 * 2 ^ 224 + d.1 * 2 ^ 256 + d.2 * 2 ^ 288 + (l.readEntries img ss).length % 65536 * 2 ^ 320)

/-- Place the supervisor launch of partition p on die d, if its image is sound. -/
def State.placeSup (s : State) (p d : Nat) : State :=
  match readImage (s.part p).keptImg with
  | none => s
  | some (img, ss) =>
    let t := s.supTile p d
    let lid := s.freshLid
    let l := { Launch.fresh with packet := supPacket img ss (tRow t) (tCol t), st := .placing, prio := 7, part := p, dies := [s.logDie d], cur := [d],
                                 t0 := s.now, supervisor := true, pinned := true }
    if !l.imageFits img ss then s
    else
      let s := { s.updLaunch lid fun _ => l with nextLid := if lid ≥ 0xFFFE then 1 else lid + 1 }
      ((s.reserveTables lid img ss).getD s).placeLaunch lid img ss

/-- The image at a physical address: its header gives its length (R108). -/
def State.readSimg (s : State) (pa : Nat) : List Byte :=
  match s.readPhys pa 64 with
  | none => []
  | some h => (s.readPhys pa (min (imgNum h 16 8) (2 ^ 32))).getD []

/-- The dies of a partition now. -/
def State.partDies (s : State) (p : Nat) : List Nat := ((List.range 8).filter fun d => (s.part p).dies.getLsbD d).filterMap s.realDie

/-- PARTITION_OPENED (R418): the image is read, the range cleared, the supervisors placed, and STATE becomes OPEN. -/
def execPartitionOpened (s : State) : Res :=
  .next (match s.arrived with
    | some (.opened p) =>
      let s := s.taken
      let q := s.part p
      if q.st ≠ 1 then s else
      let img := s.readSimg q.simg
      let s := (s.zeroRange (hbmKey q.hbase) q.hlen).updPart p fun q => { q with img := img }
      let s := (s.partDies p).foldl (fun s d => s.placeSup p d) s
      s.updPart p fun q => { q with st := 2 }
    | _ => s)

/-- A write of dword 0 of partition p (R418). -/
def State.partWrite (s : State) (p v : Nat) : State :=
  let q := s.part p
  let q' := { q with ports := BitVec.ofNat 2 (nf v 3 2), owner := if q.st = 0 then nf v 16 12 else q.owner }
  if nb v 0 then
    if q.st = 3 ∨ (q.st = 0 ∧ s.partRefused p q' v) then s.updPart p fun q => { q with err := true }
    else if q.st = 0 then
      (s.updPart p fun _ => { q' with valid := true, st := 1, err := false, ptEn := false, ptAddr := 0, rlpol := false, grants := [], gtab := [],
                                      img := [] }).send 1 (.opened p)
    else s.updPart p fun _ => { q' with err := false }
  else if q.st = 1 ∨ q.st = 2 then (s.updPart p fun _ => q').partClose p
  else s.updPart p fun _ => { q' with err := false }

/-- PARTITION_CREATE (R418): port ev.num writes ev.b, with VALID, to dword 0 of partition ev.a. -/
def execPartitionCreate (s : State) : Res := .next (s.hostMc fun s => s.partWrite (s.ev.a % 16) (nput s.ev.b 0 1 1))
/-- PARTITION_CLOSE (R418): port ev.num writes ev.b, with VALID = 0. -/
def execPartitionClose (s : State) : Res := .next (s.hostMc fun s => s.partWrite (s.ev.a % 16) (nput s.ev.b 0 1 0))

/-! ### Re-enumeration (R283) -/

/-- The open partitions get their supervisors on the dies of a stack again (log 25). -/
def State.restoreSups (s : State) (k : Nat) : State :=
  (List.range 16).foldl (fun s p =>
    if (s.part p).valid ∧ (s.part p).st = 2 then
      ((s.partDies p).filter fun d => d / 4 == k).foldl (fun s d => s.placeSup p d) s
    else s) s

/-- ROLE_REENUMERATE (R283): layers that become compute are tested; one that fails is reported and stays memory. -/
def execRoleReenumerate (s : State) : Res :=
  .next (match s.arrived with
    | some (.reenum k) =>
      let s := s.taken
      match (s.stack k).reroll with
      | none => s
      | some _ =>
        (s.rerollNow k).restoreSups k
    | _ => s)

end Sys2Proof.Machine
end

