-- ==== Sys2Proof/Machine/Debug.lean ====
section
/-! DEFINITION. Debug: the debug agent and the management space as a whole (R390..R393, R408..R421). -/

namespace Sys2Proof.Machine

/-! ### The agent (R420) -/

/-- A write of 0x800: an agent attaches only after a report completed on the port. -/
def State.attach (s : State) (port v : Nat) : State :=
  if nb v 0 && (tget? s.mgmt.reportNonce port).isSome then { s with mgmt := { s.mgmt with agent := some port } } else s

/-- DEBUG_ATTACH (R420): port ev.num. -/
def execDebugAttach (s : State) : Res := .next (s.hostMc fun s => s.attach s.ev.num 1)

/-- A write of 0x808 (R420). -/
def State.haltWrite (s : State) (v : Nat) : State :=
  if s.mgmt.agent.isNone ∨ nb v 19 = nb v 20 ∨ 128 ≤ nf v 0 8 ∨ 160 ≤ nf v 8 8 then s else
  match s.realDie (nf v 16 3) with
  | none => s
  | some d => s.updTile (tileKey d (nf v 0 8) (nf v 8 8)) fun t => { t with halted := nb v 19, changed := s.now }

/-- TILE_HALT (R420): port ev.num writes ev.a with HALT. -/
def execTileHalt (s : State) : Res := .next (s.hostMc fun s => s.haltWrite (nput s.ev.a 19 2 1))
/-- TILE_RESUME (R420). -/
def execTileResume (s : State) : Res := .next (s.hostMc fun s => s.haltWrite (nput s.ev.a 19 2 2))

/-! ### Debug reads (R421) -/

/-- What a debug read meets: a status with its data, or a wait behind BUSY and quiesce; a wake is counted. -/
inductive DbgOut where
  | wait
  | ok (status data : Nat) (woke : Bool)
  deriving DecidableEq, Repr

/-- A dword of storage, or POISON. -/
def State.dbgWord (s : State) (key : Nat) (woke : Bool) : DbgOut :=
  if (poisonIn s.poison key 8).isSome then .ok 2 0 woke else .ok 0 (s.load key 8) woke

/-- A read of Lirek storage. -/
def State.dbgLirek (s : State) (a : Nat) : DbgOut :=
  let off := nf a 0 16
  let frame := nf a 16 16
  let l := nf a 32 3
  let k := nf a 35 1
  let busy := ((s.stackDies k).any fun d => (List.range 40960).any fun p => let e := s.remapEntry d p; e.busy && e.layer == l && e.frame == frame)
  if off % 8 ≠ 0 ∨ 40960 ≤ frame ∨ nf a 37 25 ≠ 0 then .ok 4 0 false
  else if !s.isReady (3 + k) || (s.isCompute k l && !s.isReady (34 + s.logDie (s.dieOfLayer k l))) then .ok 3 0 false
  else if (s.stack k).retain.getLsbD l then if nb a 36 then s.dbgWord (lirekKey k l frame off) true else .ok 1 0 false
  else if !s.isCompute k l && busy then .wait
  else s.dbgWord (lirekKey k l frame off) false

/-- A read of HBM4. -/
def State.dbgHbm (s : State) (a : Nat) : DbgOut :=
  let pa := nf a 0 39
  if pa % 8 ≠ 0 ∨ 0x6000000000 ≤ pa ∨ nf a 39 23 ≠ 0 then .ok 4 0 false
  else if !s.isReady (5 + hbmChan pa / 32) then .ok 3 0 false
  else if s.mgmt.quiesced.contains (hbmChan pa) then .wait
  else s.dbgWord (hbmKey pa) false

/-- A read of a halted thread's register. -/
def State.dbgThread (s : State) (a : Nat) : DbgOut :=
  if 128 ≤ nf a 0 8 ∨ 160 ≤ nf a 8 8 ∨ nf a 27 35 ≠ 0 then .ok 4 0 false else
  match s.realDie (nf a 16 3) with
  | none => .ok 4 0 false
  | some d =>
    let t := tileKey d (nf a 0 8) (nf a 8 8)
    if !(s.tile t).halted ∨ (s.slot t (nf a 19 3)).st = .free then .ok 3 0 false
    else match (s.slot t (nf a 19 3)).reg (nf a 22 5) with
      | some v => .ok 0 v.toNat false
      | none => .ok 4 0 false

/-- The read of a port's debug address. -/
def State.dbgRead (s : State) (port : Nat) : DbgOut :=
  let a := tget 0 s.mgmt.dbgAddr port
  match nf a 62 2 with
  | 0 => s.dbgLirek a
  | 1 => s.dbgHbm a
  | 2 => s.dbgThread a
  | _ => .ok 4 0 false

/-! ### Reads of the management space -/

/-- What an access of the management space does. -/
inductive MgOut where
  | no (status : Nat)
  | wait
  | ok (v : Nat) (s : State)

/-- A port reaches the descriptor of a queue (R418). -/
def State.queueReach (s : State) (port q : Nat) : Bool :=
  match s.queuePart q with
  | some p => (s.part p).ports.getLsbD port
  | none => false

/-- Dword i of a number. -/
def dwordOf (v i : Nat) : Nat := nf v (64 * i) 64

/-- A read at an offset by a port (R392, R408..R421). Before firmware runs, only the readiness word answers. -/
def State.mgmtRead (s : State) (port off : Nat) : MgOut :=
  if off % 8 ≠ 0 then .no 5
  else if off = 0 then .ok s.mgmt.ready.toNat s
  else if !s.isReady 2 then .no 1
  else if off = 0x208 then .ok s.mgmt.roleStat s
  else if off = 0x300 then .ok ((s.stack 0).retain.toNat + (s.stack 1).retain.toNat * 2 ^ 8) s
  else if off = 0x308 then .ok s.mgmt.duty s
  else if off = 0x800 then .ok (b2n s.mgmt.agent.isSome) s
  else if off = 0x818 then .ok s.mgmt.brkPc s
  else if off = 0x820 then
    if s.mgmt.agent.isNone then .no 1 else
    match s.dbgRead port with
    | .wait => .wait
    | .ok st v woke => .ok v { s with mgmt := { s.mgmt with dbgStat := st, wakes := s.mgmt.wakes + b2n woke } }
  else if off = 0x828 then .ok s.mgmt.dbgStat s
  else if off = 0x830 then .ok s.mgmt.wakes { s with mgmt := { s.mgmt with wakes := 0 } }
  else if 0x1000 ≤ off ∧ off < 0x1200 then
    if off % 16 = 0 then (let r := s.acquire port ((off - 0x1000) / 16); .ok r.1 r.2) else .ok (semWord (s.sem ((off - 0x1000) / 16)) false) s
  else if 0x2000 ≤ off ∧ off < 0x2800 then .ok (dwordOf (Config.identityKey s.mgmt.fwDigest % 2 ^ 14344) ((off - 0x2000) / 8)) s
  else if off = 0x2828 then .ok (b2n s.mgmt.attDone) s
  else if off = 0x2988 then .ok (tget 0 s.mgmt.keyStat port) s
  else if 0x3000 ≤ off ∧ off < 0x4000 then .ok (if s.mgmt.attDone then dwordOf s.mgmt.report ((off - 0x3000) / 8) else 0) s
  else if 0x4000 ≤ off ∧ off < 0x4400 then .ok ((s.part ((off - 0x4000) / 64)).word ((off - 0x4000) / 8 % 8)) s
  else if 0x40000 ≤ off ∧ off < 0x40800 then
    let q := (off - 0x40000) / 32
    if s.queueReach port q then .ok (s.qdRead q ((off - 0x40000) / 8 % 4)) s else .no 1
  else .ok 0 s

/-- A field written dword by dword. -/
def putDword (t : Tbl Nat) (port i v : Nat) : Tbl Nat := tset t port (nput (tget 0 t port) (64 * i) 64 v)

/-- A write of v at an offset by a port. -/
def State.mgmtWrite (s : State) (port off v : Nat) : MgOut :=
  let m := s.mgmt
  let ok := fun (s : State) => MgOut.ok 0 s
  if off % 8 ≠ 0 then .no 5
  else if off = 0 then ok s
  else if off = 0x100 then ok (s.resetWrite port v)
  else if 0x1000000 ≤ off ∧ off < 0x2000000 then
    if s.isReady 2 ∨ port ≠ m.bootPort then .no 1 else
    ok { s with mgmt := { m with boot := (List.range 8).foldl (fun b i => tset b (off - 0x1000000 + i) (BitVec.ofNat 8 (v / 256 ^ i))) m.boot } }
  else if off = 0x108 then ok (s.bootCheck port v)
  else if !s.isReady 2 then .no 1
  else if off = 0x200 then ok (s.roleRequest v)
  else if off = 0x300 then ok (s.retainWrite v)
  else if off = 0x800 then ok (s.attach port v)
  else if off = 0x808 then ok (s.haltWrite v)
  else if off = 0x810 then ok { s with mgmt := { m with dbgAddr := tset m.dbgAddr port v } }
  else if 0x1000 ≤ off ∧ off < 0x1200 then ok (if off % 16 = 8 then s.release port ((off - 0x1000) / 16) v else s)
  else if 0x2800 ≤ off ∧ off < 0x2820 then ok { s with mgmt := { m with nonce := putDword m.nonce port ((off - 0x2800) / 8) v } }
  else if off = 0x2820 then ok (if v = 1 then s.attest port else s)
  else if 0x2900 ≤ off ∧ off < 0x2920 then ok { s with mgmt := { m with keyNonce := putDword m.keyNonce port ((off - 0x2900) / 8) v } }
  else if off = 0x2920 then ok { s with mgmt := { m with keyWord := tset m.keyWord port (v % 2 ^ 29) } }
  else if 0x2940 ≤ off ∧ off < 0x2980 then ok { s with mgmt := { m with keyVal := putDword m.keyVal port ((off - 0x2940) / 8) v } }
  else if off = 0x2980 then ok (if nb v 0 then s.keyCommit port v else s)
  else if 0x4000 ≤ off ∧ off < 0x4400 then
    let p := (off - 0x4000) / 64
    let i := (off - 0x4000) / 8 % 8
    ok (if i = 0 then s.partWrite p v else s.partField p i v)
  else if 0x40000 ≤ off ∧ off < 0x40800 then
    let q := (off - 0x40000) / 32
    if s.queueReach port q then ok (s.qdWrite q ((off - 0x40000) / 8 % 4) v) else .no 1
  else ok s

/-- The CPL answer of a management access; one that waits is tried again before every later request. -/
def State.mgmtAnswer (s : State) (i : Instr) (o : MgOut) : State :=
  match o with
  | .no st => s.answerHost s.ev.num st 0
  | .wait => s.retryHost i
  | .ok v s' => s'.answerHost s.ev.num 0 v

/-- MGMT_READ (R391, R392): port ev.num, offset ev.a. -/
def execMgmtRead (s : State) : Res :=
  .next (if !s.portUp s.ev.num then s.answerHost s.ev.num 1 0 else s.mgmtAnswer .mgmtRead (s.mgmtRead s.ev.num s.ev.a))
/-- MGMT_WRITE (R391, R392): port ev.num, offset ev.a, value ev.b. -/
def execMgmtWrite (s : State) : Res :=
  .next (if !s.portUp s.ev.num then s.answerHost s.ev.num 1 0 else s.mgmtAnswer .mgmtWrite (s.mgmtWrite s.ev.num s.ev.a (s.ev.b % 2 ^ 64)))
/-- DEBUG_READ (R421): port ev.num reads 0x820. -/
def execDebugRead (s : State) : Res :=
  .next (if !s.portUp s.ev.num then s.answerHost s.ev.num 1 0 else s.mgmtAnswer .debugRead (s.mgmtRead s.ev.num 0x820))

end Sys2Proof.Machine
end

