-- ==== Sys2Proof/Machine/FpAlu.lean ====
section
/-! DEFINITION. FpAlu: scalar floating-point words (R135..R142). -/

namespace Sys2Proof.Machine

/-- FADD (R136, R140). -/
def execFadd (d a b : Reg) (y : BitVec 1) (r p : BitVec 2) (s : State) : Res :=
  s.fp d (fpAddV (precFmt p) (s.rmOf y r) (fpOp p (s.xr a)) (fpOp p (s.xr b)))
/-- FSUB (R136, R140). -/
def execFsub (d a b : Reg) (y : BitVec 1) (r p : BitVec 2) (s : State) : Res :=
  s.fp d (fpAddV (precFmt p) (s.rmOf y r) (fpOp p (s.xr a)) (fpOp p (s.xr b)).neg)
/-- FMUL (R136, R140). -/
def execFmul (d a b : Reg) (y : BitVec 1) (r p : BitVec 2) (s : State) : Res :=
  s.fp d (fpMul (precFmt p) (s.rmOf y r) (fpOp p (s.xr a)) (fpOp p (s.xr b)))
/-- FDIV (R136, R140). -/
def execFdiv (d a b : Reg) (y : BitVec 1) (r p : BitVec 2) (s : State) : Res :=
  s.fp d (fpDiv (precFmt p) (s.rmOf y r) (fpOp p (s.xr a)) (fpOp p (s.xr b)))
/-- FRCPN (R136, R140). -/
def execFrcpn (d a b : Reg) (y : BitVec 1) (r p : BitVec 2) (s : State) : Res :=
  s.fp d (fpRcpN (precFmt p) (s.rmOf y r) (fpBits p (s.xr a)) (fpBits p (s.xr b)))
/-- FRSQN (R136, R140). -/
def execFrsqn (d a b : Reg) (y : BitVec 1) (r p : BitVec 2) (s : State) : Res :=
  s.fp d (fpRsqN (precFmt p) (s.rmOf y r) (fpBits p (s.xr a)) (fpBits p (s.xr b)))
/-- FMA (R136, R140). -/
def execFma (d a b : Reg) (y : BitVec 1) (r p : BitVec 2) (s : State) : Res :=
  s.fp d (fpFma (precFmt p) (s.rmOf y r) false (fpOp p (s.xr a)) (fpOp p (s.xr b)) (fpOp p (s.xr d)))
/-- FMS (R136, R140). -/
def execFms (d a b : Reg) (y : BitVec 1) (r p : BitVec 2) (s : State) : Res :=
  s.fp d (fpFma (precFmt p) (s.rmOf y r) false (fpOp p (s.xr a)) (fpOp p (s.xr b)) (fpOp p (s.xr d)).neg)
/-- FNMA (R136, R140). -/
def execFnma (d a b : Reg) (y : BitVec 1) (r p : BitVec 2) (s : State) : Res :=
  s.fp d (fpFma (precFmt p) (s.rmOf y r) true (fpOp p (s.xr a)) (fpOp p (s.xr b)) (fpOp p (s.xr d)))
/-- FSQRT (R136, R140). -/
def execFsqrt (d a : Reg) (y : BitVec 1) (r p : BitVec 2) (s : State) : Res :=
  s.fp d (fpSqrt (precFmt p) (s.rmOf y r) (fpOp p (s.xr a)))
/-- FRCP (R136, R140). -/
def execFrcp (d a : Reg) (y : BitVec 1) (r p : BitVec 2) (s : State) : Res :=
  s.fp d (fpRcp (precFmt p) (s.rmOf y r) (fpOp p (s.xr a)))
/-- FRSQ (R136, R140). -/
def execFrsq (d a : Reg) (y : BitVec 1) (r p : BitVec 2) (s : State) : Res :=
  s.fp d (fpRsq (precFmt p) (s.rmOf y r) (fpOp p (s.xr a)))
/-- FMIN (R137, R60). -/
def execFmin (d a b : Reg) (p : BitVec 2) (s : State) : Res :=
  s.fp d (fpMinMax (precFmt p) false (fpBits p (s.xr a)) (fpBits p (s.xr b)))
/-- FMAX (R137, R60). -/
def execFmax (d a b : Reg) (p : BitVec 2) (s : State) : Res :=
  s.fp d (fpMinMax (precFmt p) true (fpBits p (s.xr a)) (fpBits p (s.xr b)))
/-- The place of the sign bit of a precision. -/
def signAt (p : BitVec 2) : Nat := (precFmt p).width - 1
/-- FABS (R137): clears the sign bit. -/
def execFabs (d a : Reg) (p : BitVec 2) (s : State) : Res := .next (s.wr d (nw (nf (s.xr a).toNat 0 (signAt p))) 4)
/-- FNEG (R137): inverts the sign bit. -/
def execFneg (d a : Reg) (p : BitVec 2) (s : State) : Res :=
  .next (s.wr d (nw (nf (s.xr a).toNat 0 (signAt p) + (1 - nf (s.xr a).toNat (signAt p) 1) * 2 ^ signAt p)) 4)
/-- FSGNJ (R137): magnitude of a, sign of b. -/
def execFsgnj (d a b : Reg) (p : BitVec 2) (s : State) : Res :=
  .next (s.wr d (nw (nf (s.xr a).toNat 0 (signAt p) + nf (s.xr b).toNat (signAt p) 1 * 2 ^ signAt p)) 4)
/-- A comparison writes 1 or 0, with its flags (R138). -/
def State.fcmp (s : State) (cond : Nat) (d a b : Reg) (p : BitVec 2) : Res :=
  let r := fpCmp cond (fpOp p (s.xr a)) (fpOp p (s.xr b))
  .next (s.fpEnd d (tw r.1) r.2)
/-- FCMP_EQ (R138). -/
def execFcmpEq (d a b : Reg) (p : BitVec 2) (s : State) : Res := s.fcmp 0 d a b p
/-- FCMP_NE (R138). -/
def execFcmpNe (d a b : Reg) (p : BitVec 2) (s : State) : Res := s.fcmp 1 d a b p
/-- FCMP_LT (R138). -/
def execFcmpLt (d a b : Reg) (p : BitVec 2) (s : State) : Res := s.fcmp 2 d a b p
/-- FCMP_LE (R138). -/
def execFcmpLe (d a b : Reg) (p : BitVec 2) (s : State) : Res := s.fcmp 3 d a b p
/-- FCMP_UN (R138). -/
def execFcmpUn (d a b : Reg) (p : BitVec 2) (s : State) : Res := s.fcmp 4 d a b p
/-- FCLASS (R139). -/
def execFclass (d a : Reg) (p : BitVec 2) (s : State) : Res := .next (s.wr d (nw (fpClass (precFmt p) (fpOp p (s.xr a)))) 4)
/-- FCVT (R141): source precision s, destination p. -/
def execFcvt (d : Reg) (q : BitVec 2) (a : Reg) (y : BitVec 1) (r p : BitVec 2) (s : State) : Res :=
  s.fp d (fpCvt (precFmt q) (precFmt p) (s.rmOf y r) (fpBits q (s.xr a)))
/-- FCVTI (R142): to the integer type of code t, extended into x[d]. -/
def execFcvti (d a : Reg) (y : BitVec 1) (r p : BitVec 2) (t : BitVec 3) (s : State) : Res :=
  let i := fpToInt t.toNat (s.rmOf y r) (fpOp p (s.xr a))
  .next (s.fpEnd d (BitVec.ofInt 64 i.1) i.2)
/-- ICVTF (R142): from the integer type of code t. -/
def execIcvtf (d a : Reg) (y : BitVec 1) (r p : BitVec 2) (t : BitVec 3) (s : State) : Res :=
  let w := intWidth t.toNat
  let i := if intSigned t.toNat then sx w (s.xr a).toNat else Int.ofNat ((s.xr a).toNat % 2 ^ w)
  s.fp d (intToFp (precFmt p) (s.rmOf y r) i)

end Sys2Proof.Machine
end

