-- ==== Sys2Proof/Machine/IntAlu.lean ====
section
/-! DEFINITION. IntAlu: integer register, immediate and bit-field words and their compact forms (R111..R116, R99). -/

namespace Sys2Proof.Machine

/-- MULX high halves: bits 127..64 of an exact product (R112). -/
def mulHigh (x y : Int) : Word := nw (wrapTo 128 (x * y) / 2 ^ 64)

/-- Signed division and remainder, truncating, with the borderline cases of R49. -/
def sdivW (a b : Word) : Word := if b = 0 then BitVec.allOnes 64 else BitVec.ofInt 64 (a.toInt.tdiv b.toInt)
def sremW (a b : Word) : Word := if b = 0 then a else BitVec.ofInt 64 (a.toInt.tmod b.toInt)
def udivW (a b : Word) : Word := if b = 0 then BitVec.allOnes 64 else a / b
def uremW (a b : Word) : Word := if b = 0 then a else a % b

/-- Zero bits above the highest 1, and below the lowest 1; 64 for 0 (R112). -/
def clzW (a : Word) : Word := nw (64 - bitLen a.toNat)
def ctzAux (v : Nat) : Nat → Nat
  | 0 => 0
  | n + 1 => if v % 2 = 1 then 0 else 1 + ctzAux (v / 2) n
def ctzW (a : Word) : Word := nw (ctzAux a.toNat 64)
/-- The number of 1 bits. -/
def popcAux (v : Nat) : Nat → Nat
  | 0 => 0
  | n + 1 => v % 2 + popcAux (v / 2) n
def popcW (a : Word) : Word := nw (popcAux a.toNat 64)
/-- Bit i is bit 63 - i. -/
def brevAux (v : Nat) : Nat → Nat → Nat
  | 0, acc => acc
  | n + 1, acc => brevAux (v / 2) n (2 * acc + v % 2)
def brevW (a : Word) : Word := nw (brevAux a.toNat 64 0)
/-- Byte j is byte 7 - j. -/
def bswapW (a : Word) : Word := nw (ofBytes (toBytes 8 a.toNat).reverse)

/-- The width of SEXT and ZEXT: 8, 16 or 32 (R88). -/
def extWidth (w : BitVec 2) : Nat := 8 * 2 ^ w.toNat
def sextW (n : Nat) (a : Word) : Word := BitVec.ofInt 64 (sx n a.toNat)
def zextW (n : Nat) (a : Word) : Word := nw (a.toNat % 2 ^ n)

/-- The bits pos+len-1..pos of a word, as a number (R115). -/
def bfField (a : Word) (pos len : Nat) : Nat := nf a.toNat pos len

/-- ADD (R112). -/
def execAdd (d a b : Reg) (s : State) : Res := s.op2 d a b 4 fun x y => x + y
/-- SUB (R112). -/
def execSub (d a b : Reg) (s : State) : Res := s.op2 d a b 4 fun x y => x - y
/-- AND (R112). -/
def execAnd (d a b : Reg) (s : State) : Res := s.op2 d a b 4 fun x y => x &&& y
/-- OR (R112). -/
def execOr (d a b : Reg) (s : State) : Res := s.op2 d a b 4 fun x y => x ||| y
/-- XOR (R112). -/
def execXor (d a b : Reg) (s : State) : Res := s.op2 d a b 4 fun x y => x ^^^ y
/-- ANDN (R112). -/
def execAndn (d a b : Reg) (s : State) : Res := s.op2 d a b 4 fun x y => x &&& ~~~y
/-- ORN (R112). -/
def execOrn (d a b : Reg) (s : State) : Res := s.op2 d a b 4 fun x y => x ||| ~~~y
/-- SLL (R112). -/
def execSll (d a b : Reg) (s : State) : Res := s.op2 d a b 4 fun x y => x <<< (y.toNat % 64)
/-- SRL (R112). -/
def execSrl (d a b : Reg) (s : State) : Res := s.op2 d a b 4 fun x y => x >>> (y.toNat % 64)
/-- SRA (R112). -/
def execSra (d a b : Reg) (s : State) : Res := s.op2 d a b 4 fun x y => x.sshiftRight (y.toNat % 64)
/-- ROL (R112). -/
def execRol (d a b : Reg) (s : State) : Res := s.op2 d a b 4 fun x y => x.rotateLeft (y.toNat % 64)
/-- ROR (R112). -/
def execRor (d a b : Reg) (s : State) : Res := s.op2 d a b 4 fun x y => x.rotateRight (y.toNat % 64)
/-- SLT (R112). -/
def execSlt (d a b : Reg) (s : State) : Res := s.op2 d a b 4 fun x y => tw (x.slt y)
/-- SLTU (R112). -/
def execSltu (d a b : Reg) (s : State) : Res := s.op2 d a b 4 fun x y => tw (x.ult y)
/-- SEQ (R112). -/
def execSeq (d a b : Reg) (s : State) : Res := s.op2 d a b 4 fun x y => tw (x == y)
/-- SNE (R112). -/
def execSne (d a b : Reg) (s : State) : Res := s.op2 d a b 4 fun x y => tw (x != y)
/-- MIN (R112). -/
def execMin (d a b : Reg) (s : State) : Res := s.op2 d a b 4 fun x y => if x.slt y then x else y
/-- MAX (R112). -/
def execMax (d a b : Reg) (s : State) : Res := s.op2 d a b 4 fun x y => if x.slt y then y else x
/-- MINU (R112). -/
def execMinu (d a b : Reg) (s : State) : Res := s.op2 d a b 4 fun x y => if x.ult y then x else y
/-- MAXU (R112). -/
def execMaxu (d a b : Reg) (s : State) : Res := s.op2 d a b 4 fun x y => if x.ult y then y else x
/-- MUL (R112). -/
def execMul (d a b : Reg) (s : State) : Res := s.op2 d a b 4 fun x y => x * y
/-- MULXS (R112). -/
def execMulxs (d a b : Reg) (s : State) : Res := s.op2 d a b 4 fun x y => mulHigh x.toInt y.toInt
/-- MULXN (R112). -/
def execMulxn (d a b : Reg) (s : State) : Res := s.op2 d a b 4 fun x y => mulHigh (Int.ofNat x.toNat) (Int.ofNat y.toNat)
/-- MULXSN (R112). -/
def execMulxsn (d a b : Reg) (s : State) : Res := s.op2 d a b 4 fun x y => mulHigh x.toInt (Int.ofNat y.toNat)
/-- DIV (R49). -/
def execDiv (d a b : Reg) (s : State) : Res := s.op2 d a b 4 fun x y => sdivW x y
/-- DIVU (R49). -/
def execDivu (d a b : Reg) (s : State) : Res := s.op2 d a b 4 fun x y => udivW x y
/-- REM (R49). -/
def execRem (d a b : Reg) (s : State) : Res := s.op2 d a b 4 fun x y => sremW x y
/-- REMU (R49). -/
def execRemu (d a b : Reg) (s : State) : Res := s.op2 d a b 4 fun x y => uremW x y
/-- CLZ (R112). -/
def execClz (d a : Reg) (s : State) : Res := s.op1 d a 4 clzW
/-- CTZ (R112). -/
def execCtz (d a : Reg) (s : State) : Res := s.op1 d a 4 ctzW
/-- POPC (R112). -/
def execPopc (d a : Reg) (s : State) : Res := s.op1 d a 4 popcW
/-- BREV (R112). -/
def execBrev (d a : Reg) (s : State) : Res := s.op1 d a 4 brevW
/-- BSWAP (R112). -/
def execBswap (d a : Reg) (s : State) : Res := s.op1 d a 4 bswapW
/-- MOV (R112). -/
def execMov (d a : Reg) (s : State) : Res := s.op1 d a 4 id
/-- SEXT (R112). -/
def execSext (d a : Reg) (w : BitVec 2) (s : State) : Res := s.op1 d a 4 (sextW (extWidth w))
/-- ZEXT (R112). -/
def execZext (d a : Reg) (w : BitVec 2) (s : State) : Res := s.op1 d a 4 (zextW (extWidth w))
/-- The condition of CSEL: nz, z, lt, ge (R113). -/
def cselCond (k : BitVec 2) (v : Word) : Bool := match k.toNat with
  | 0 => v != 0 | 1 => v == 0 | 2 => v.slt 0 | _ => !v.slt 0
/-- CSEL (R113). -/
def execCsel (d c a b : Reg) (k : BitVec 2) (s : State) : Res :=
  .next (s.wr d (if cselCond k (s.xr c) then s.xr a else s.xr b) 4)
/-- ADDI (R114). -/
def execAddi (d a : Reg) (i : BitVec 17) (s : State) : Res := s.op1 d a 4 fun x => x + imm i
/-- ANDI (R114). -/
def execAndi (d a : Reg) (i : BitVec 17) (s : State) : Res := s.op1 d a 4 fun x => x &&& imm i
/-- ORI (R114). -/
def execOri (d a : Reg) (i : BitVec 17) (s : State) : Res := s.op1 d a 4 fun x => x ||| imm i
/-- XORI (R114). -/
def execXori (d a : Reg) (i : BitVec 17) (s : State) : Res := s.op1 d a 4 fun x => x ^^^ imm i
/-- SLTI (R114). -/
def execSlti (d a : Reg) (i : BitVec 17) (s : State) : Res := s.op1 d a 4 fun x => tw (x.slt (imm i))
/-- SLLI (R114). -/
def execSlli (d a : Reg) (n : BitVec 6) (s : State) : Res := s.op1 d a 4 fun x => x <<< n.toNat
/-- SRLI (R114). -/
def execSrli (d a : Reg) (n : BitVec 6) (s : State) : Res := s.op1 d a 4 fun x => x >>> n.toNat
/-- SRAI (R114). -/
def execSrai (d a : Reg) (n : BitVec 6) (s : State) : Res := s.op1 d a 4 fun x => x.sshiftRight n.toNat
/-- LUI (R114). -/
def execLui (d : Reg) (i : BitVec 17) (s : State) : Res := .next (s.wr d (imm i <<< 16) 4)
/-- PCHI (R114): from the PCHI's own pc. -/
def execPchi (d : Reg) (i : BitVec 17) (s : State) : Res := .next (s.wr d (s.cur.pc + (imm i <<< 16)) 4)
/-- BFX (R115): len - 1 stands in l. -/
def execBfx (d a : Reg) (l p : BitVec 6) (s : State) : Res :=
  s.op1 d a 4 fun x => sextW (l.toNat + 1) (nw (bfField x p.toNat (l.toNat + 1)))
/-- BFXU (R115). -/
def execBfxu (d a : Reg) (l p : BitVec 6) (s : State) : Res := s.op1 d a 4 fun x => nw (bfField x p.toNat (l.toNat + 1))
/-- BFI (R115): reads x[d] as a source. -/
def execBfi (d a : Reg) (l p : BitVec 6) (s : State) : Res :=
  .next (s.wr d (putField (s.xr d) p.toNat (l.toNat + 1) (bfField (s.xr a) 0 (l.toNat + 1))) 4)
/-- NOP (R116). -/
def execNop (s : State) : Res := .next (s.done 4)
/-- ADD_C (R99). -/
def execAddC (d b : Reg) (s : State) : Res := s.op2 d d b 2 fun x y => x + y
/-- SUB_C (R99). -/
def execSubC (d b : Reg) (s : State) : Res := s.op2 d d b 2 fun x y => x - y
/-- AND_C (R99). -/
def execAndC (d b : Reg) (s : State) : Res := s.op2 d d b 2 fun x y => x &&& y
/-- OR_C (R99). -/
def execOrC (d b : Reg) (s : State) : Res := s.op2 d d b 2 fun x y => x ||| y
/-- XOR_C (R99). -/
def execXorC (d b : Reg) (s : State) : Res := s.op2 d d b 2 fun x y => x ^^^ y
/-- SLL_C (R99). -/
def execSllC (d b : Reg) (s : State) : Res := s.op2 d d b 2 fun x y => x <<< (y.toNat % 64)
/-- SRL_C (R99). -/
def execSrlC (d b : Reg) (s : State) : Res := s.op2 d d b 2 fun x y => x >>> (y.toNat % 64)
/-- SRA_C (R99). -/
def execSraC (d b : Reg) (s : State) : Res := s.op2 d d b 2 fun x y => x.sshiftRight (y.toNat % 64)
/-- MOV_C (R99). -/
def execMovC (d b : Reg) (s : State) : Res := s.op1 d b 2 id
/-- ADDI_C (R99). -/
def execAddiC (d : Reg) (i : BitVec 4) (s : State) : Res := s.op1 d d 2 fun x => x + imm i
/-- SLLI_C (R99). -/
def execSlliC (d : Reg) (n : BitVec 4) (s : State) : Res := s.op1 d d 2 fun x => x <<< n.toNat
/-- SRLI_C (R99). -/
def execSrliC (d : Reg) (n : BitVec 4) (s : State) : Res := s.op1 d d 2 fun x => x >>> n.toNat
/-- ADDI_X0_C (R99): ADDI xd, x0, imm6. -/
def execAddiX0C (d : Reg) (i : BitVec 6) (s : State) : Res := .next (s.wr d (imm i) 2)
/-- NOP_C (R99). -/
def execNopC (s : State) : Res := .next (s.done 2)

end Sys2Proof.Machine
end

