-- ==== Sys2Proof/Machine/Issue.lean ====
section
/-! DEFINITION. Issue: what the machine does next: a stimulus that is due, a hardware step, a thread's word or trap, the end of a
cycle (R11, R12, R21, R41, R101, R124, R127, R133, R154, R174, R219, R293). Hardware steps of one cycle run one after the other before
any thread issues (log 1). -/

namespace Sys2Proof.Machine

/-- A row and what it concerns. -/
abbrev Todo := Instr × Ev

def todo (i : Instr) (num a b : Nat) : Todo := (i, { num := num, a := a, b := b, c := 0, data := [] })

/-- A row when a condition holds. -/
def todoIf (c : Bool) (i : Instr) (num a b : Nat) : Option Todo := if c then some (todo i num a b) else none

/-! ### Messages in flight -/

/-- The row a request in flight takes when it may be served: at its agent (R354), else at its controller (R143, R146, R158). -/
def State.reqRow (s : State) (r : Req) : Option Instr :=
  if r.translated then (if s.pkgReady r then some .packageRequest else none)
  else if s.reqReady r then some (match r.acc with
    | .store => .postedStoreLand
    | .read => .remoteReadServe
    | .atomic => .atomicPerform)
  else none

/-- The row a message in flight takes; none while it must wait. -/
def State.msgRow (s : State) (m : Msg) : Option Instr :=
  match m with
  | .walk c => some (if c.resume then .resumeMove else .walkArrival)
  | .walkRefused _ _ => some .walkRefusalReturn
  | .req r => s.reqRow r
  | .table _ => some .tableRead
  | .ans a => some (match a.req.acc with
    | .store => .storeAnswer
    | .read => .readAnswer
    | .atomic => .atomicAnswer)
  | .hurArrive _ _ => some .hurdleRootCount
  | .hurRelease _ _ _ => some .hurdleRelease
  | .treeTerm _ _ _ _ => some .treeRoundComplete
  | .treeResult _ _ _ _ => some .treeResultPlace
  | .sendm _ => some .messageArrival
  | .sendmAns _ => some .sendmAnswer
  | .ctr _ => some .counterRequest
  | .ctrAns _ => some .counterAnswer
  | .ctrAdd _ _ _ _ => some .counterAddition
  | .grp _ => some .groupTableAnswer
  | .beat _ _ _ _ _ _ _ => some .beatReceive
  | .slice _ _ _ _ _ _ _ => some .vxchgSliceArrival
  | .notice _ _ _ _ _ => some .rejoinNotice
  | .placed _ => some .launchPlaced
  | .swapDone _ => some .swapDone
  | .spareDone _ _ _ _ => some .storageLoss
  | .xinvDone _ _ _ => if s.translatedDone then some .xinvDone else none
  | .padReset _ _ => some .paddockResetStart
  | .padEnd _ _ => some .paddockResetEnd
  | .padTest _ _ => some .paddockTestEnd
  | .retest _ _ => some .marginRetestEnd
  | .repairEnd _ => some .softRepairEnd
  | .grantFree k => if s.grantBusy k then none else some .grantDrained
  | .mapDone d => match (s.die d).move with
    | some m => if s.moveQuiet d m then some .tileMapMoveDone else none
    | none => some .tileMapMoveDone
  | .report _ _ => some .attestReportDone
  | .opened _ => some .partitionOpened
  | .reenum _ => some .roleReenumerate
  | .srcTimer _ => none
  | .branchTimer _ _ => some .multicastBranchTimeout

/-- A message that has arrived and may take effect. -/
def State.flightTodo (s : State) (f : Flight) : Option Todo :=
  if s.now < f.due || s.heldByMove f then none
  else (s.msgRow f.msg).map fun i => todo i f.num 0 (match f.msg with | .spareDone _ _ _ _ => 9 | _ => 0)

/-- The row and col of a tile as one number, in the order of rows, then cols (R12). -/
def tPlace (t : Nat) : Nat := tRow t * 256 + tCol t

/-- Of the walks that reach a tile in one cycle, the one with the lower origin (row, col) goes first (R12). -/
def State.firstWalk (s : State) (f : Flight) : Flight :=
  match f.msg with
  | .walk c => s.flight.foldl (fun b g => match g.msg, b.msg with
      | .walk x, .walk y => if x.dest = c.dest ∧ tPlace x.origin < tPlace y.origin ∧ (s.flightTodo g).isSome then g else b
      | _, _ => b) f
  | _ => f

/-- A release at a tile: of the messages that arrive in one cycle it takes effect first, since the exchange phase it ends and the timetable it
starts govern that whole cycle (R338, R340). -/
def Msg.isRelease : Msg → Bool
  | .hurRelease _ _ _ => true
  | _ => false

/-- A request to a counter controller, which acts after every landing and firing of its cycle (R211, R214). -/
def Msg.isCtr : Msg → Bool
  | .ctr _ => true
  | _ => false

/-- The next message to take effect. -/
def State.nextFlight (s : State) : Option Todo :=
  (s.flight.find? fun f => f.msg.isRelease && (s.flightTodo f).isSome).bind s.flightTodo <|>
  (s.flight.find? fun f => !f.msg.isCtr && (s.flightTodo f).isSome).bind fun f => s.flightTodo (s.firstWalk f)

/-- The next request to a counter controller. -/
def State.nextCtr (s : State) : Option Todo :=
  (s.flight.find? fun f => f.msg.isCtr && (s.flightTodo f).isSome).bind s.flightTodo

/-! ### Threads -/

/-- A trap of the thread is due at its next instruction boundary (R58, R154, R159, R174, R197). -/
def Slot.trapDue (sl : Slot) : Bool := !sl.refusals.isEmpty || !sl.engErrs.isEmpty || sl.fpx.isSome

/-- The thread is at a boundary: it waits for no answer, nor for its twin copy's, nor to move with the answer of a held access (R154, R330,
R360). -/
def Slot.atBoundary (sl : Slot) : Bool := sl.back.isNone && match sl.wait with | .answer => false | .table _ => false | .twin _ => false | _ => true

/-- Nothing holds the thread at a boundary: it is not stopped (R366) and its tile is not halted (R420). -/
def Tile.live (t : Tile) (u : Nat) : Bool := !(t.slot u).stopped && !t.halted

/-- A row or word that a thread executes: where, the word, its fetch line, the flock word it belongs to, and whether it takes the
tile's issue of this cycle; a word that waited takes it when it no longer waits. -/
structure Act where
  tile : Nat
  slot : Nat
  instr : Instr
  line : Option FetchLine
  pend : Option FwdWord
  issues : Bool
  deriving DecidableEq, Repr

/-- A word that waits is tried again: no row of a trap. -/
def Act.polls (a : Act) : Bool := !a.issues && hasWord a.instr

/-- What a thread at a boundary executes: a trap that is due, a forwarded word, or the word at its pc (R101, R127). -/
def State.actOf (s : State) (t u : Nat) (issues : Bool) : Option Act :=
  let sl := s.slot t u
  let row := fun (i : Instr) => some { tile := t, slot := u, instr := i, line := sl.line, pend := sl.pend, issues := issues }
  if sl.atBoundary && !sl.refusals.isEmpty then row .refusalTrap
  else if sl.atBoundary && !sl.engErrs.isEmpty then row .engineTrap
  else if sl.atBoundary && sl.fpx.isSome then row .deferredFpxTrap
  else match sl.fwd with
    | some w => some { tile := t, slot := u, instr := w.instr, line := sl.line, pend := some w, issues := issues }
    | none =>
      if sl.flk = 2 then none
      else match s.fetchDecode t u with
        | .trap _ _ => row .decodeTrap
        | .stall => none
        | .walk _ => none
        | .run l i =>
          let p := if sl.flk = 1 then some { instr := i, pc := sl.pc, next := 0, at_ := 0 } else none
          some { tile := t, slot := u, instr := i, line := some l, pend := p, issues := issues }

/-- A trap that is due is taken whatever the thread waits for, but for an answer (R154, R174), and at the boundary at which a held release
stops the thread (R366). -/
def State.trapsNow (s : State) (t u : Nat) : Bool :=
  let sl := s.slot t u
  ((s.tile t).live u || ((s.tile t).held && !(s.tile t).halted)) && sl.trapDue && (sl.st == .run || sl.st == .block) && sl.atBoundary

/-- A waiting word that has not been tried in this cycle. -/
def State.untried (s : State) (t u : Nat) : Bool :=
  let sl := s.slot t u
  sl.st == .block && decide (sl.polledAt < s.now) && decide ((s.tile t).issuedAt < s.now)

/-- A waiting word is tried again once in a cycle, in its turn of the issue order, or, of words that wait for one queue, the lowest slot's first
(R34): when its condition holds it issues (R11, R41, R144, R154, R155); a twin copy's pairing even while it is stopped (R330). -/
def State.pollsNow (s : State) (t u : Nat) : Bool :=
  let tl := s.tile t
  s.untried t u &&
  match (tl.slot u).wait with
  | .poll => tl.live u
  | .release _ => tl.live u
  | .entry _ => tl.live u
  | .command _ => tl.live u
  | .queue q => tl.live u && !(List.range u).any fun v => (tl.slot v).wait == .queue q && tl.live v && s.untried t v
  | .twin _ => true
  | _ => false

/-- YIELD lets the thread issue again: the others in RUN have issued, or 8 cc have passed (R133). -/
def Tile.yieldOver (t : Tile) (u now : Nat) : Bool :=
  decide ((t.slot u).yieldTo ≤ now) || (t.slot u).yieldWait.all fun v => (t.slot v).st != .run

/-- A bellwether stalls while it keeps a word that a full buffer does not take, while a REJOIN notice of its flock is on its way, and in the
cycle in which one reaches a detached follower, whose REJOIN of that cycle still attaches it (R127, R128). -/
def State.flockStalls (s : State) (t u : Nat) : Bool :=
  let sl := s.slot t u
  sl.flk == 1 &&
  ((sl.pend.isSome && s.flockFull (t, u)) ||
   (s.flight.any fun f => match f.msg with | .notice bt bu _ _ _ => bt == t && bu == u | _ => false) ||
   (s.followers (t, u)).any fun f => let m := s.slot f.1 f.2; m.flk == 3 && (m.notices.any fun n => n.2 == s.now))

/-- The core may issue from a slot (R41). -/
def State.issuesFrom (s : State) (t u : Nat) : Bool :=
  let tl := s.tile t
  let sl := tl.slot u
  decide (tl.issuedAt < s.now) && tl.live u && sl.st == .run && sl.wait == .none && !sl.trapDue && tl.yieldOver u s.now && !s.flockStalls t u

/-- What a tile's threads do next: a trap, or the issue of this cycle, in rotating order after the slot that issued last; a waiting
word whose turn comes is tried, and passed over while its condition does not hold (R41). -/
def State.threadOn (s : State) (t : Nat) : Option Act :=
  let us := (List.range 8).map fun i => ((s.tile t).lastSlot + 1 + i) % 8
  (us.findSome? fun u => if s.trapsNow t u then s.actOf t u false else none) <|>
  us.findSome? fun u =>
    if s.pollsNow t u then s.actOf t u false else if s.issuesFrom t u then s.actOf t u true else none

/-- The next thread's word of this cycle. -/
def State.threadNext (s : State) : Option Act := s.tiles.findSome? fun t => s.threadOn t.1

/-- What an issue leaves on its tile: the slot that issued last, and the others' yields (R41, R133). -/
def Tile.issued (t : Tile) (u now : Nat) : Tile :=
  { t with issuedAt := now, lastSlot := u,
           slots := t.slots.map fun p => (p.1, { p.2 with yieldWait := p.2.yieldWait.filter (· != u) }) }

/-! ### Tiles -/

/-- A thread that takes a forwarded word now (R127). -/
def Slot.takesWord (sl : Slot) (now : Nat) : Bool :=
  sl.st == .run && sl.wait == .none && sl.fwd.isNone && sl.pend.isNone &&
  match sl.stream with
  | w :: _ => decide (w.at_ ≤ now)
  | [] => false

/-- A lower slot of the tile makes its arrival in this cycle: it goes first (R218). -/
def State.arrivesBelow (s : State) (t u : Nat) : Bool :=
  match s.threadOn t with
  | some a => decide (a.slot < u) && arrives a.instr
  | none => false

/-- What the hardware does next for a slot. -/
def State.slotTodo (s : State) (t u : Nat) : Option Todo :=
  let tl := s.tile t
  let sl := tl.slot u
  let free := tl.live u && !sl.trapDue
  if sl.tmrDue s.now then some (todo .tmrExpire t u 0)
  else match sl.wait with
    | .exit => todoIf (sl.refusals.isEmpty && sl.engErrs.isEmpty && s.drained t u) .exitSlotFree t u 0
    | .arrive _ _ _ _ _ => todoIf (free && s.drained t u && !s.arrivesBelow t u) .hurdleArrive t u 0
    | .walk _ _ _ _ => todoIf ((free || (sl.back.isSome && !tl.halted)) && s.drained t u) .walkDepart t u 0
    | .gang _ _ n _ => todoIf (tl.live u && decide (n ≤ s.now)) .gangTimeout t u 0
    | .reissue n => todoIf (tl.live u && decide (n ≤ s.now)) .walkReissue t u 0
    | .xsave _ _ => todoIf (tl.live u && (s.xsaveNow t u).isSome) .xsaveWrite t u 0
    | .none =>
      if sl.takesWord s.now && free then some (todo .forwardedWord t u 0)
      else todoIf (sl.st == .run && sl.flk != 2 && free && s.drained t u && (s.walkWaiting t u).isSome) .walkDepart t u 0
    | _ => none

/-- A routine can start (R12, R21). -/
def State.startsRoutine (s : State) (t : Nat) : Bool :=
  let tl := s.tile t
  tl.lid != 0 && (tl.startable s.now).isSome && tl.freeSlot.isSome && tl.parkq.isEmpty && !tl.held && !s.fenced t

/-- What the hardware does next on a tile. -/
def State.tileTodo (s : State) (t : Nat) : Option Todo :=
  let tl := s.tile t
  (tl.slots.findSome? fun q => s.slotTodo t q.1) <|>
  todoIf (s.startsRoutine t) .routineStart t 0 0 <|>
  todoIf (s.seqStopped t) .seqEntryStop t 0 0 <|>
  todoIf (s.seqFinished t) .seqEntryComplete t 0 0 <|>
  todoIf (s.seqStep t).isSome .seqEntryStart t 0 0 <|>
  todoIf (s.mStopped t) .matrixCommandStop t 0 0 <|>
  todoIf (s.mFinished t) .matrixCommandComplete t 0 0 <|>
  todoIf (!tl.mq.isEmpty && (s.mPick (penKey t)).isSome) .matrixGrant (penKey t) 0 0 <|>
  ([0, 1].findSome? fun l => todoIf (!tl.halted && !(s.sendsNow t l).isEmpty) .beatSend t l 0) <|>
  ([0, 1].findSome? fun l => todoIf (s.ttDue t l) .timetableEnd t l 0)

/-! ### Pens, pools, counters, dies -/

/-- What a drover does next. -/
def State.penTodo (s : State) (p : Nat) : Option Todo :=
  todoIf (s.droverPick p).isSome .droverJobStart p 0 0 <|>
  todoIf ((s.pen p).jobs.any Job.finished) .droverJobComplete p 0 0 <|>
  todoIf ((s.pen p).jobs.any s.placeable) .droverCompletionPlace p 0 0

/-- The tile a pool serves next, in rotating order of group position: one in a cycle (R323). -/
def State.poolTodo (s : State) (g : Nat) : Option Todo :=
  if decide (s.now ≤ (s.group g).popAt) || (s.group g).banks.all fun b => b.2.isEmpty then none
  else (((List.range 64).map fun i => groupTile g (((s.group g).rot + i) % 64)).find? s.asksPop).map fun t => todo .poolPop g t 0

/-- A decided firing that is delivered, or an arrival that is first held back (R294). -/
def State.firingTodo (s : State) : Option Todo :=
  (((List.range s.firings.length).zip s.firings).find? fun x => s.firingFirst x.2 &&
    (s.firingRoom x.2 || (s.firingHeld x.2 && s.firingOpen x.2 && !(s.counter x.2.key).heldArr))).map fun x => todo .firingDelivery x.1 0 0

/-- What a die's trap router does next. -/
def State.dieTodo (s : State) : Option Todo :=
  ((List.range 8).find? fun d => (s.trapDeliver d).isSome).map fun d => todo .trapMessageDelivery d 0 0

/-! ### Launches and the package -/

/-- What the dispatcher does next. -/
def State.launchTodo (s : State) : Option Todo :=
  ((s.launches.find? fun l => s.endDrained l.1).map fun l => todo .launchEndDone l.1 0 0) <|>
  ((s.launches.find? fun l => s.launchDone l.1).map fun l => todo .launchComplete l.1 0 0) <|>
  todoIf s.childNext.isSome .childCompletionPlace 0 0 0 <|>
  (s.pointPick.map fun x => todo .preemptionPoint x.1 x.2 0) <|>
  (s.resumePick.map fun l => todo .xloadResume l 0 0) <|>
  todoIf (decide (s.distAt < s.now) && s.pick.isSome) .dispatchDistribute 0 0 0 <|>
  todoIf s.preemptPick.isSome .preemptRequest 0 0 0 <|>
  todoIf (s.now % 1024 == 0 && decide (s.starvAt < s.now)) .starvInterval 0 0 0

/-- What a base die does next. -/
def State.stackTodo (s : State) (k : Nat) : Option Todo :=
  todoIf (s.swapPick k).isSome .swapStart k 0 0 <|>
  todoIf (!(s.drainPick k).isEmpty) .drainLimit k 0 0 <|>
  todoIf (s.flushReady k) .roleFlush k 0 0

/-- What the rest of the package does next. -/
def State.packageTodo (s : State) : Option Todo :=
  (s.bootNext.map fun b => todo .functionReady b 0 0) <|>
  todoIf s.pairPick.isSome .twinPairCompare 0 0 0 <|>
  s.stackTodo 0 <|> s.stackTodo 1 <|>
  todoIf (!s.corrDue.isEmpty) .corrInterval 0 0 0 <|>
  (s.marginPick.map fun x => todo .marginFlag x.1 (b2n x.2) 0) <|>
  todoIf s.retestPick.isSome .marginRetestStart 0 0 0 <|>
  (s.symPick.map fun e => (Instr.symbolMark, e)) <|>
  (s.bankPick.map fun e => (Instr.storageLoss, e)) <|>
  (s.freePick.map fun p => todo .partitionFreed p 0 0) <|>
  todoIf s.fjLate.isSome .fjoicSourceTimeout 0 0 0 <|>
  (s.stallPick.map fun x => todo .watchdogStall x.2.1 x.1 x.2.2)

/-- The next hardware step of this cycle. -/
def State.hwNext (s : State) : Option Todo :=
  s.nextFlight <|>
  (s.tiles.findSome? fun t => s.tileTodo t.1) <|>
  (s.pens.findSome? fun p => s.penTodo p.1) <|>
  s.firingTodo <|> (s.groups.findSome? fun g => s.poolTodo g.1) <|> s.dieTodo <|> s.launchTodo <|> s.packageTodo

/-- What the end of a cycle does: counters fire once, then their controllers serve the requests of the cycle, and full phases and rounds complete
(R211, R214, R219, R293, R333, R347). -/
def State.cycleEnd (s : State) : Option Todo :=
  todoIf (decide (s.firedAt < s.now) && s.counters.any fun c => c.2.due) .counterFire 0 0 0 <|>
  s.nextCtr <|>
  ((s.roots.find? fun r => s.phaseFull r.1).map fun r => todo .hurdleRootCount r.1 2 0) <|>
  ((s.rounds.find? fun r => s.roundFull r.1).map fun r => todo .treeRoundComplete r.1 2 0)

/-! ### Words -/

/-- The state in which a thread's word executes: a bellwether forwards first what it has kept (R127). -/
def State.prepare (s : State) (a : Act) : State :=
  let s := { s.settle a.tile a.slot with curTile := a.tile, curSlot := a.slot }
  let s := if a.issues then s.updTile a.tile fun t => t.issued a.slot s.now else s
  s.updSlot a.tile a.slot fun sl => { sl with line := a.line, pend := a.pend, polledAt := if a.issues then sl.polledAt else s.now }

/-- A waiting word has been tried and still waits. -/
def Act.waits (a : Act) (s : State) : Bool := !a.issues && (s.slot a.tile a.slot).st == .block

/-- After a thread's word: its flock takes note (R127), and unless it still waits, a word that waited has taken the tile's issue of this
cycle (R41) and the watchdog sees a change (R350). -/
def State.afterWord (s : State) (a : Act) : State :=
  let s := s.settle a.tile a.slot
  if a.waits s then s
  else s.updTile a.tile fun tl =>
    let tl := if a.polls then tl.issued a.slot s.now else tl
    { tl with changed := s.now, stallTold := false }

/-- The same of what a meaning answers. -/
def finishWord (a : Act) (r : Res) : Res :=
  match r with
  | .next s => .next (s.afterWord a)
  | r => r

/-! ### Stimuli -/

/-- The accesses of the management space, whose port is the stimulus's number. -/
def isMgmtAccess : Instr → Bool
  | .mgmtRead | .mgmtWrite | .debugRead | .semaphoreAcquire | .semaphoreRelease => true
  | .bootImageCheck | .attestRequest | .keyLoad | .keyRemove | .roleMapRequest | .layerRetain => true
  | .debugAttach | .tileHalt | .tileResume | .partitionCreate | .partitionClose => true
  | _ => false

/-- The place in the list of the stimulus to take: the first, but of the management accesses that reach the package in one cycle port 0's
before port 1's (R391, R393). -/
def State.inputPlace (s : State) : Nat :=
  match s.inputs with
  | (n, i, _) :: _ =>
    if isMgmtAccess i then ((s.inputs.takeWhile fun x => x.1 == n && isMgmtAccess x.2.1).findIdx? fun x => x.2.2.num == 0).getD 0 else 0
  | [] => 0

/-- The stimulus to take, once it is due (log 1). -/
def State.inputDue (s : State) : Option Todo :=
  match s.inputs[s.inputPlace]? with
  | some (n, i, e) => if n ≤ s.now then some (i, e) else none
  | none => none

/-- The state in which a stimulus takes effect. -/
def State.takeInput (s : State) (e : Ev) : State := { s with inputs := s.inputs.eraseIdx s.inputPlace, ev := e }

/-- The event bits set in the cycle that ends are no longer new (R239). -/
def Tile.clearNew (t : Tile) : Tile := { t with slots := t.slots.map fun q => (q.1, { q.2 with evtNew := 0#8 }) }

/-- One cycle of the clock; the beats that meet on a link, or the boundary of a fence, in the cycle that begins are discarded there (R337,
R377). -/
def State.tick (s : State) : State :=
  let s : State := s.noteWaits
  { s with now := s.now + 1, tiles := s.tiles.map fun (p : Nat × Tile) => (p.1, p.2.clearNew) }.meetBeats.fenceBeats

end Sys2Proof.Machine
end

