-- ==== Sys2Proof/Machine/Dispatch.lean ====
section
/-! DEFINITION. Dispatch: one arm per constructor of Instr, each a direct call of its meaning. -/

namespace Sys2Proof.Machine

def exec (i : Instr) (s : State) : Host.Outcome State Fault Refusal :=
  match i with
  | .add d a b => Sys2Proof.Machine.execAdd d a b s
  | .sub d a b => Sys2Proof.Machine.execSub d a b s
  | .and d a b => Sys2Proof.Machine.execAnd d a b s
  | .or d a b => Sys2Proof.Machine.execOr d a b s
  | .xor d a b => Sys2Proof.Machine.execXor d a b s
  | .andn d a b => Sys2Proof.Machine.execAndn d a b s
  | .orn d a b => Sys2Proof.Machine.execOrn d a b s
  | .sll d a b => Sys2Proof.Machine.execSll d a b s
  | .srl d a b => Sys2Proof.Machine.execSrl d a b s
  | .sra d a b => Sys2Proof.Machine.execSra d a b s
  | .rol d a b => Sys2Proof.Machine.execRol d a b s
  | .ror d a b => Sys2Proof.Machine.execRor d a b s
  | .slt d a b => Sys2Proof.Machine.execSlt d a b s
  | .sltu d a b => Sys2Proof.Machine.execSltu d a b s
  | .seq d a b => Sys2Proof.Machine.execSeq d a b s
  | .sne d a b => Sys2Proof.Machine.execSne d a b s
  | .min d a b => Sys2Proof.Machine.execMin d a b s
  | .max d a b => Sys2Proof.Machine.execMax d a b s
  | .minu d a b => Sys2Proof.Machine.execMinu d a b s
  | .maxu d a b => Sys2Proof.Machine.execMaxu d a b s
  | .mul d a b => Sys2Proof.Machine.execMul d a b s
  | .mulxs d a b => Sys2Proof.Machine.execMulxs d a b s
  | .mulxn d a b => Sys2Proof.Machine.execMulxn d a b s
  | .mulxsn d a b => Sys2Proof.Machine.execMulxsn d a b s
  | .div d a b => Sys2Proof.Machine.execDiv d a b s
  | .divu d a b => Sys2Proof.Machine.execDivu d a b s
  | .rem d a b => Sys2Proof.Machine.execRem d a b s
  | .remu d a b => Sys2Proof.Machine.execRemu d a b s
  | .clz d a => Sys2Proof.Machine.execClz d a s
  | .ctz d a => Sys2Proof.Machine.execCtz d a s
  | .popc d a => Sys2Proof.Machine.execPopc d a s
  | .brev d a => Sys2Proof.Machine.execBrev d a s
  | .bswap d a => Sys2Proof.Machine.execBswap d a s
  | .sext d a w => Sys2Proof.Machine.execSext d a w s
  | .zext d a w => Sys2Proof.Machine.execZext d a w s
  | .csel d c a b k => Sys2Proof.Machine.execCsel d c a b k s
  | .mov d a => Sys2Proof.Machine.execMov d a s
  | .addi d a im => Sys2Proof.Machine.execAddi d a im s
  | .andi d a im => Sys2Proof.Machine.execAndi d a im s
  | .ori d a im => Sys2Proof.Machine.execOri d a im s
  | .xori d a im => Sys2Proof.Machine.execXori d a im s
  | .slti d a im => Sys2Proof.Machine.execSlti d a im s
  | .slli d a n => Sys2Proof.Machine.execSlli d a n s
  | .srli d a n => Sys2Proof.Machine.execSrli d a n s
  | .srai d a n => Sys2Proof.Machine.execSrai d a n s
  | .lui d im => Sys2Proof.Machine.execLui d im s
  | .pchi d im => Sys2Proof.Machine.execPchi d im s
  | .movk d im => Sys2Proof.Machine.execMovk d im s
  | .movfk d a => Sys2Proof.Machine.execMovfk d a s
  | .acomp d a b w => Sys2Proof.Machine.execAcomp d a b w s
  | .adec d a => Sys2Proof.Machine.execAdec d a s
  | .kget d a => Sys2Proof.Machine.execKget d a s
  | .bfx d a l p => Sys2Proof.Machine.execBfx d a l p s
  | .bfxu d a l p => Sys2Proof.Machine.execBfxu d a l p s
  | .bfi d a l p => Sys2Proof.Machine.execBfi d a l p s
  | .beq a b o => Sys2Proof.Machine.execBeq a b o s
  | .bne a b o => Sys2Proof.Machine.execBne a b o s
  | .blt a b o => Sys2Proof.Machine.execBlt a b o s
  | .bge a b o => Sys2Proof.Machine.execBge a b o s
  | .bltu a b o => Sys2Proof.Machine.execBltu a b o s
  | .bgeu a b o => Sys2Proof.Machine.execBgeu a b o s
  | .jal d o => Sys2Proof.Machine.execJal d o s
  | .jalr d sz o => Sys2Proof.Machine.execJalr d sz o s
  | .loop c l => Sys2Proof.Machine.execLoop c l s
  | .loopi l n => Sys2Proof.Machine.execLoopi l n s
  | .gang d c r => Sys2Proof.Machine.execGang d c r s
  | .wfe d => Sys2Proof.Machine.execWfe d s
  | .lb d a b im w => Sys2Proof.Machine.execLb d a b im w s
  | .lh d a b im w => Sys2Proof.Machine.execLh d a b im w s
  | .lw d a b im w => Sys2Proof.Machine.execLw d a b im w s
  | .ld d a b im w => Sys2Proof.Machine.execLd d a b im w s
  | .ldp d a b im w => Sys2Proof.Machine.execLdp d a b im w s
  | .lbu d a b im w => Sys2Proof.Machine.execLbu d a b im w s
  | .lhu d a b im w => Sys2Proof.Machine.execLhu d a b im w s
  | .lwu d a b im w => Sys2Proof.Machine.execLwu d a b im w s
  | .sb d a b im w => Sys2Proof.Machine.execSb d a b im w s
  | .sh d a b im w => Sys2Proof.Machine.execSh d a b im w s
  | .sw d a b im w => Sys2Proof.Machine.execSw d a b im w s
  | .sd d a b im w => Sys2Proof.Machine.execSd d a b im w s
  | .sdp d a b im w => Sys2Proof.Machine.execSdp d a b im w s
  | .waitc f => Sys2Proof.Machine.execWaitc f s
  | .walk a => Sys2Proof.Machine.execWalk a s
  | .whereOp d a => Sys2Proof.Machine.execWhere d a s
  | .amoadd d sz a b w n => Sys2Proof.Machine.execAmoadd d sz a b w n s
  | .amoand d sz a b w n => Sys2Proof.Machine.execAmoand d sz a b w n s
  | .amoor d sz a b w n => Sys2Proof.Machine.execAmoor d sz a b w n s
  | .amoxor d sz a b w n => Sys2Proof.Machine.execAmoxor d sz a b w n s
  | .amomin d sz a b w n => Sys2Proof.Machine.execAmomin d sz a b w n s
  | .amomax d sz a b w n => Sys2Proof.Machine.execAmomax d sz a b w n s
  | .amominu d sz a b w n => Sys2Proof.Machine.execAmominu d sz a b w n s
  | .amomaxu d sz a b w n => Sys2Proof.Machine.execAmomaxu d sz a b w n s
  | .amoswp d sz a b w n => Sys2Proof.Machine.execAmoswp d sz a b w n s
  | .amocas d sz a b w n => Sys2Proof.Machine.execAmocas d sz a b w n s
  | .amofadd d sz a b r w n => Sys2Proof.Machine.execAmofadd d sz a b r w n s
  | .fadd d a b y r p => Sys2Proof.Machine.execFadd d a b y r p s
  | .fsub d a b y r p => Sys2Proof.Machine.execFsub d a b y r p s
  | .fmul d a b y r p => Sys2Proof.Machine.execFmul d a b y r p s
  | .fdiv d a b y r p => Sys2Proof.Machine.execFdiv d a b y r p s
  | .fsqrt d a y r p => Sys2Proof.Machine.execFsqrt d a y r p s
  | .fmin d a b p => Sys2Proof.Machine.execFmin d a b p s
  | .fmax d a b p => Sys2Proof.Machine.execFmax d a b p s
  | .fabs d a p => Sys2Proof.Machine.execFabs d a p s
  | .fneg d a p => Sys2Proof.Machine.execFneg d a p s
  | .fsgnj d a b p => Sys2Proof.Machine.execFsgnj d a b p s
  | .fcmpEq d a b p => Sys2Proof.Machine.execFcmpEq d a b p s
  | .fcmpNe d a b p => Sys2Proof.Machine.execFcmpNe d a b p s
  | .fcmpLt d a b p => Sys2Proof.Machine.execFcmpLt d a b p s
  | .fcmpLe d a b p => Sys2Proof.Machine.execFcmpLe d a b p s
  | .fcmpUn d a b p => Sys2Proof.Machine.execFcmpUn d a b p s
  | .fclass d a p => Sys2Proof.Machine.execFclass d a p s
  | .frcp d a y r p => Sys2Proof.Machine.execFrcp d a y r p s
  | .frsq d a y r p => Sys2Proof.Machine.execFrsq d a y r p s
  | .frcpn d a b y r p => Sys2Proof.Machine.execFrcpn d a b y r p s
  | .frsqn d a b y r p => Sys2Proof.Machine.execFrsqn d a b y r p s
  | .fma d a b y r p => Sys2Proof.Machine.execFma d a b y r p s
  | .fms d a b y r p => Sys2Proof.Machine.execFms d a b y r p s
  | .fnma d a b y r p => Sys2Proof.Machine.execFnma d a b y r p s
  | .fcvt d sz a y r p => Sys2Proof.Machine.execFcvt d sz a y r p s
  | .fcvti d a y r p t => Sys2Proof.Machine.execFcvti d a y r p t s
  | .icvtf d a y r p t => Sys2Proof.Machine.execIcvtf d a y r p t s
  | .vadd d a b r t => Sys2Proof.Machine.execVadd d a b r t s
  | .vsub d a b r t => Sys2Proof.Machine.execVsub d a b r t s
  | .vmul d a b r t => Sys2Proof.Machine.execVmul d a b r t s
  | .vfma d a b r t => Sys2Proof.Machine.execVfma d a b r t s
  | .vmin d a b t => Sys2Proof.Machine.execVmin d a b t s
  | .vmax d a b t => Sys2Proof.Machine.execVmax d a b t s
  | .vabs d a r t => Sys2Proof.Machine.execVabs d a r t s
  | .vneg d a r t => Sys2Proof.Machine.execVneg d a r t s
  | .vdiv d a b r t => Sys2Proof.Machine.execVdiv d a b r t s
  | .vsqrt d a r t => Sys2Proof.Machine.execVsqrt d a r t s
  | .vrcp d a r t => Sys2Proof.Machine.execVrcp d a r t s
  | .vrsq d a r t => Sys2Proof.Machine.execVrsq d a r t s
  | .vrcpn d a b r t => Sys2Proof.Machine.execVrcpn d a b r t s
  | .vrsqn d a b r t => Sys2Proof.Machine.execVrsqn d a b r t s
  | .vexp2 d a r t => Sys2Proof.Machine.execVexp2 d a r t s
  | .vlog2 d a r t => Sys2Proof.Machine.execVlog2 d a r t s
  | .vand d a b t => Sys2Proof.Machine.execVand d a b t s
  | .vor d a b t => Sys2Proof.Machine.execVor d a b t s
  | .vxor d a b t => Sys2Proof.Machine.execVxor d a b t s
  | .vshl d a b t => Sys2Proof.Machine.execVshl d a b t s
  | .vshr d a b t => Sys2Proof.Machine.execVshr d a b t s
  | .vcmpEq d a b t => Sys2Proof.Machine.execVcmpEq d a b t s
  | .vcmpNe d a b t => Sys2Proof.Machine.execVcmpNe d a b t s
  | .vcmpLt d a b t => Sys2Proof.Machine.execVcmpLt d a b t s
  | .vcmpLe d a b t => Sys2Proof.Machine.execVcmpLe d a b t s
  | .vcmpUn d a b t => Sys2Proof.Machine.execVcmpUn d a b t s
  | .vsel d a b t => Sys2Proof.Machine.execVsel d a b t s
  | .vcopy d a t => Sys2Proof.Machine.execVcopy d a t s
  | .vcvt d a r t => Sys2Proof.Machine.execVcvt d a r t s
  | .vreds d a r t => Sys2Proof.Machine.execVreds d a r t s
  | .vredmMin d a t => Sys2Proof.Machine.execVredmMin d a t s
  | .vredmMax d a t => Sys2Proof.Machine.execVredmMax d a t s
  | .vscan d a r t => Sys2Proof.Machine.execVscan d a r t s
  | .vdot d a b t => Sys2Proof.Machine.execVdot d a b t s
  | .vfold d a t => Sys2Proof.Machine.execVfold d a t s
  | .vunf d a r t => Sys2Proof.Machine.execVunf d a r t s
  | .viota d r t => Sys2Proof.Machine.execViota d r t s
  | .vgath d a b t => Sys2Proof.Machine.execVgath d a b t s
  | .vscat d a b t => Sys2Proof.Machine.execVscat d a b t s
  | .vperm d a b t => Sys2Proof.Machine.execVperm d a b t s
  | .vxchg d a t => Sys2Proof.Machine.execVxchg d a t s
  | .vfill d a t => Sys2Proof.Machine.execVfill d a t s
  | .vshape d a => Sys2Proof.Machine.execVshape d a s
  | .vloop a n => Sys2Proof.Machine.execVloop a n s
  | .mldb a x t => Sys2Proof.Machine.execMldb a x t s
  | .mma d a => Sys2Proof.Machine.execMma d a s
  | .mmap d a => Sys2Proof.Machine.execMmap d a s
  | .mzro d => Sys2Proof.Machine.execMzro d s
  | .mrnd d a r => Sys2Proof.Machine.execMrnd d a r s
  | .mstat d => Sys2Proof.Machine.execMstat d s
  | .mpoll d => Sys2Proof.Machine.execMpoll d s
  | .mwait a => Sys2Proof.Machine.execMwait a s
  | .mwgt w => Sys2Proof.Machine.execMwgt w s
  | .dset a n => Sys2Proof.Machine.execDset a n s
  | .dgo d => Sys2Proof.Machine.execDgo d s
  | .dpoll d a => Sys2Proof.Machine.execDpoll d a s
  | .dwait a => Sys2Proof.Machine.execDwait a s
  | .dkill d a => Sys2Proof.Machine.execDkill d a s
  | .dmcst d a b => Sys2Proof.Machine.execDmcst d a b s
  | .sbind d a => Sys2Proof.Machine.execSbind d a s
  | .sunb d => Sys2Proof.Machine.execSunb d s
  | .acarm d a b => Sys2Proof.Machine.execAcarm d a b s
  | .acrd d a => Sys2Proof.Machine.execAcrd d a s
  | .acdis d a => Sys2Proof.Machine.execAcdis d a s
  | .acchn d a b => Sys2Proof.Machine.execAcchn d a b s
  | .harvAdd a b m l => Sys2Proof.Machine.execHarvAdd a b m l s
  | .harvAnd a b m l => Sys2Proof.Machine.execHarvAnd a b m l s
  | .harvOr a b m l => Sys2Proof.Machine.execHarvOr a b m l s
  | .harvXor a b m l => Sys2Proof.Machine.execHarvXor a b m l s
  | .harvMin a b m l => Sys2Proof.Machine.execHarvMin a b m l s
  | .harvMax a b m l => Sys2Proof.Machine.execHarvMax a b m l s
  | .harvMinu a b m l => Sys2Proof.Machine.execHarvMinu a b m l s
  | .harvMaxu a b m l => Sys2Proof.Machine.execHarvMaxu a b m l s
  | .harn m l => Sys2Proof.Machine.execHarn m l s
  | .hdrop m l => Sys2Proof.Machine.execHdrop m l s
  | .hwt d m l => Sys2Proof.Machine.execHwt d m l s
  | .hqry d m l => Sys2Proof.Machine.execHqry d m l s
  | .hxend l => Sys2Proof.Machine.execHxend l s
  | .ttgo a l => Sys2Proof.Machine.execTtgo a l s
  | .ttsts d l => Sys2Proof.Machine.execTtsts d l s
  | .sendm d a b => Sys2Proof.Machine.execSendm d a b s
  | .inbox d a => Sys2Proof.Machine.execInbox d a s
  | .inbq d => Sys2Proof.Machine.execInbq d s
  | .rhold a => Sys2Proof.Machine.execRhold a s
  | .rrel a => Sys2Proof.Machine.execRrel a s
  | .rrdy a b => Sys2Proof.Machine.execRrdy a b s
  | .lnch d a => Sys2Proof.Machine.execLnch d a s
  | .lstat d a => Sys2Proof.Machine.execLstat d a s
  | .grpq d a b => Sys2Proof.Machine.execGrpq d a b s
  | .grpset d a b => Sys2Proof.Machine.execGrpset d a b s
  | .trap n => Sys2Proof.Machine.execTrap n s
  | .mfc d c => Sys2Proof.Machine.execMfc d c s
  | .mtc c sz => Sys2Proof.Machine.execMtc c sz s
  | .brk n => Sys2Proof.Machine.execBrk n s
  | .park a => Sys2Proof.Machine.execPark a s
  | .xsave a b => Sys2Proof.Machine.execXsave a b s
  | .xload a b => Sys2Proof.Machine.execXload a b s
  | .addC d b => Sys2Proof.Machine.execAddC d b s
  | .subC d b => Sys2Proof.Machine.execSubC d b s
  | .andC d b => Sys2Proof.Machine.execAndC d b s
  | .orC d b => Sys2Proof.Machine.execOrC d b s
  | .xorC d b => Sys2Proof.Machine.execXorC d b s
  | .sllC d b => Sys2Proof.Machine.execSllC d b s
  | .srlC d b => Sys2Proof.Machine.execSrlC d b s
  | .sraC d b => Sys2Proof.Machine.execSraC d b s
  | .movC d b => Sys2Proof.Machine.execMovC d b s
  | .addiC d im => Sys2Proof.Machine.execAddiC d im s
  | .slliC d n => Sys2Proof.Machine.execSlliC d n s
  | .srliC d n => Sys2Proof.Machine.execSrliC d n s
  | .addiX0C d im => Sys2Proof.Machine.execAddiX0C d im s
  | .ldC d sz b => Sys2Proof.Machine.execLdC d sz b s
  | .sdC d sz b => Sys2Proof.Machine.execSdC d sz b s
  | .lwC d sz b => Sys2Proof.Machine.execLwC d sz b s
  | .swC d sz b => Sys2Proof.Machine.execSwC d sz b s
  | .beqzC d o => Sys2Proof.Machine.execBeqzC d o s
  | .bnezC d o => Sys2Proof.Machine.execBnezC d o s
  | .jC o => Sys2Proof.Machine.execJC o s
  | .wfeC d => Sys2Proof.Machine.execWfeC d s
  | .waitcC m => Sys2Proof.Machine.execWaitcC m s
  | .jalrC d => Sys2Proof.Machine.execJalrC d s
  | .nop => Sys2Proof.Machine.execNop s
  | .join => Sys2Proof.Machine.execJoin s
  | .split => Sys2Proof.Machine.execSplit s
  | .rejoin => Sys2Proof.Machine.execRejoin s
  | .sev => Sys2Proof.Machine.execSev s
  | .yield => Sys2Proof.Machine.execYield s
  | .exit => Sys2Proof.Machine.execExit s
  | .vsync => Sys2Proof.Machine.execVsync s
  | .eret => Sys2Proof.Machine.execEret s
  | .idle => Sys2Proof.Machine.execIdle s
  | .nopC => Sys2Proof.Machine.execNopC s
  | .exitC => Sys2Proof.Machine.execExitC s
  | .yieldC => Sys2Proof.Machine.execYieldC s
  | .sevC => Sys2Proof.Machine.execSevC s
  | .vsyncC => Sys2Proof.Machine.execVsyncC s
  | .splitC => Sys2Proof.Machine.execSplitC s
  | .rejoinC => Sys2Proof.Machine.execRejoinC s
  | .joinC => Sys2Proof.Machine.execJoinC s
  | .walkDepart => Sys2Proof.Machine.execWalkDepart s
  | .walkArrival => Sys2Proof.Machine.execWalkArrival s
  | .walkRefusalReturn => Sys2Proof.Machine.execWalkRefusalReturn s
  | .walkReissue => Sys2Proof.Machine.execWalkReissue s
  | .resumeMove => Sys2Proof.Machine.execResumeMove s
  | .exitSlotFree => Sys2Proof.Machine.execExitSlotFree s
  | .routineStart => Sys2Proof.Machine.execRoutineStart s
  | .postedStoreLand => Sys2Proof.Machine.execPostedStoreLand s
  | .storeAnswer => Sys2Proof.Machine.execStoreAnswer s
  | .remoteReadServe => Sys2Proof.Machine.execRemoteReadServe s
  | .readAnswer => Sys2Proof.Machine.execReadAnswer s
  | .atomicPerform => Sys2Proof.Machine.execAtomicPerform s
  | .atomicAnswer => Sys2Proof.Machine.execAtomicAnswer s
  | .refusalTrap => Sys2Proof.Machine.execRefusalTrap s
  | .deferredFpxTrap => Sys2Proof.Machine.execDeferredFpxTrap s
  | .engineTrap => Sys2Proof.Machine.execEngineTrap s
  | .seqEntryStart => Sys2Proof.Machine.execSeqEntryStart s
  | .seqEntryComplete => Sys2Proof.Machine.execSeqEntryComplete s
  | .seqEntryStop => Sys2Proof.Machine.execSeqEntryStop s
  | .vxchgSliceArrival => Sys2Proof.Machine.execVxchgSliceArrival s
  | .matrixGrant => Sys2Proof.Machine.execMatrixGrant s
  | .matrixCommandComplete => Sys2Proof.Machine.execMatrixCommandComplete s
  | .matrixCommandStop => Sys2Proof.Machine.execMatrixCommandStop s
  | .droverJobStart => Sys2Proof.Machine.execDroverJobStart s
  | .droverJobComplete => Sys2Proof.Machine.execDroverJobComplete s
  | .droverCompletionPlace => Sys2Proof.Machine.execDroverCompletionPlace s
  | .counterRequest => Sys2Proof.Machine.execCounterRequest s
  | .counterAnswer => Sys2Proof.Machine.execCounterAnswer s
  | .counterFire => Sys2Proof.Machine.execCounterFire s
  | .firingDelivery => Sys2Proof.Machine.execFiringDelivery s
  | .counterAddition => Sys2Proof.Machine.execCounterAddition s
  | .poolPop => Sys2Proof.Machine.execPoolPop s
  | .hurdleArrive => Sys2Proof.Machine.execHurdleArrive s
  | .hurdleRootCount => Sys2Proof.Machine.execHurdleRootCount s
  | .hurdleRelease => Sys2Proof.Machine.execHurdleRelease s
  | .timetableEnd => Sys2Proof.Machine.execTimetableEnd s
  | .beatSend => Sys2Proof.Machine.execBeatSend s
  | .beatReceive => Sys2Proof.Machine.execBeatReceive s
  | .treeInject => Sys2Proof.Machine.execTreeInject s
  | .treeRoundComplete => Sys2Proof.Machine.execTreeRoundComplete s
  | .treeResultPlace => Sys2Proof.Machine.execTreeResultPlace s
  | .treeExtract => Sys2Proof.Machine.execTreeExtract s
  | .inboxCtrlRemove => Sys2Proof.Machine.execInboxCtrlRemove s
  | .watchdogStall => Sys2Proof.Machine.execWatchdogStall s
  | .messageArrival => Sys2Proof.Machine.execMessageArrival s
  | .sendmAnswer => Sys2Proof.Machine.execSendmAnswer s
  | .trapMessageDelivery => Sys2Proof.Machine.execTrapMessageDelivery s
  | .tmrWrite => Sys2Proof.Machine.execTmrWrite s
  | .tmrExpire => Sys2Proof.Machine.execTmrExpire s
  | .gangTimeout => Sys2Proof.Machine.execGangTimeout s
  | .forwardedWord => Sys2Proof.Machine.execForwardedWord s
  | .rejoinNotice => Sys2Proof.Machine.execRejoinNotice s
  | .dispatchDistribute => Sys2Proof.Machine.execDispatchDistribute s
  | .launchPlaced => Sys2Proof.Machine.execLaunchPlaced s
  | .launchComplete => Sys2Proof.Machine.execLaunchComplete s
  | .childCompletionPlace => Sys2Proof.Machine.execChildCompletionPlace s
  | .queueTailWrite => Sys2Proof.Machine.execQueueTailWrite s
  | .preemptRequest => Sys2Proof.Machine.execPreemptRequest s
  | .preemptionPoint => Sys2Proof.Machine.execPreemptionPoint s
  | .starvInterval => Sys2Proof.Machine.execStarvInterval s
  | .launchEnd => Sys2Proof.Machine.execLaunchEnd s
  | .launchEndDone => Sys2Proof.Machine.execLaunchEndDone s
  | .tileMapMove => Sys2Proof.Machine.execTileMapMove s
  | .tileMapMoveDone => Sys2Proof.Machine.execTileMapMoveDone s
  | .twinPairCompare => Sys2Proof.Machine.execTwinPairCompare s
  | .twinKeepPrimary => Sys2Proof.Machine.execTwinKeepPrimary s
  | .twinKeepTwin => Sys2Proof.Machine.execTwinKeepTwin s
  | .twinEndLaunch => Sys2Proof.Machine.execTwinEndLaunch s
  | .twinNoAction => Sys2Proof.Machine.execTwinNoAction s
  | .swapExchange => Sys2Proof.Machine.execSwapExchange s
  | .swapMove => Sys2Proof.Machine.execSwapMove s
  | .swapStart => Sys2Proof.Machine.execSwapStart s
  | .swapDone => Sys2Proof.Machine.execSwapDone s
  | .storageLoss => Sys2Proof.Machine.execStorageLoss s
  | .layerLoss => Sys2Proof.Machine.execLayerLoss s
  | .roleMapRequest => Sys2Proof.Machine.execRoleMapRequest s
  | .drainLimit => Sys2Proof.Machine.execDrainLimit s
  | .roleFlush => Sys2Proof.Machine.execRoleFlush s
  | .roleReenumerate => Sys2Proof.Machine.execRoleReenumerate s
  | .packageRequest => Sys2Proof.Machine.execPackageRequest s
  | .tableRead => Sys2Proof.Machine.execTableRead s
  | .faultFlush => Sys2Proof.Machine.execFaultFlush s
  | .xinvPage => Sys2Proof.Machine.execXinvPage s
  | .xinvAll => Sys2Proof.Machine.execXinvAll s
  | .xinvDone => Sys2Proof.Machine.execXinvDone s
  | .pkdatWrite => Sys2Proof.Machine.execPkdatWrite s
  | .cregSetNx => Sys2Proof.Machine.execCregSetNx s
  | .cregClearNx => Sys2Proof.Machine.execCregClearNx s
  | .xsaveWrite => Sys2Proof.Machine.execXsaveWrite s
  | .xloadResume => Sys2Proof.Machine.execXloadResume s
  | .eccCorrected => Sys2Proof.Machine.execEccCorrected s
  | .corrInterval => Sys2Proof.Machine.execCorrInterval s
  | .uncorrectableData => Sys2Proof.Machine.execUncorrectableData s
  | .paddockKill => Sys2Proof.Machine.execPaddockKill s
  | .paddockResetStart => Sys2Proof.Machine.execPaddockResetStart s
  | .paddockResetEnd => Sys2Proof.Machine.execPaddockResetEnd s
  | .paddockDefine => Sys2Proof.Machine.execPaddockDefine s
  | .paddockReadmit => Sys2Proof.Machine.execPaddockReadmit s
  | .paddockTestEnd => Sys2Proof.Machine.execPaddockTestEnd s
  | .marginFlag => Sys2Proof.Machine.execMarginFlag s
  | .marginWdr => Sys2Proof.Machine.execMarginWdr s
  | .marginRetestStart => Sys2Proof.Machine.execMarginRetestStart s
  | .marginRetestEnd => Sys2Proof.Machine.execMarginRetestEnd s
  | .symbolMark => Sys2Proof.Machine.execSymbolMark s
  | .softRepairStart => Sys2Proof.Machine.execSoftRepairStart s
  | .softRepairEnd => Sys2Proof.Machine.execSoftRepairEnd s
  | .frameReceive => Sys2Proof.Machine.execFrameReceive s
  | .fjoicAdmit => Sys2Proof.Machine.execFjoicAdmit s
  | .holdNotice => Sys2Proof.Machine.execHoldNotice s
  | .fjoicSourceTimeout => Sys2Proof.Machine.execFjoicSourceTimeout s
  | .multicastReplicate => Sys2Proof.Machine.execMulticastReplicate s
  | .multicastBranchTimeout => Sys2Proof.Machine.execMulticastBranchTimeout s
  | .multicastAnswer => Sys2Proof.Machine.execMulticastAnswer s
  | .fjoicPortDown => Sys2Proof.Machine.execFjoicPortDown s
  | .stoxisWrite => Sys2Proof.Machine.execStoxisWrite s
  | .stoxisRead => Sys2Proof.Machine.execStoxisRead s
  | .mgmtWrite => Sys2Proof.Machine.execMgmtWrite s
  | .semaphoreAcquire => Sys2Proof.Machine.execSemaphoreAcquire s
  | .semaphoreRelease => Sys2Proof.Machine.execSemaphoreRelease s
  | .stoxisPortDown => Sys2Proof.Machine.execStoxisPortDown s
  | .grant => Sys2Proof.Machine.execGrant s
  | .revoke => Sys2Proof.Machine.execRevoke s
  | .grantDrained => Sys2Proof.Machine.execGrantDrained s
  | .resetCold => Sys2Proof.Machine.execResetCold s
  | .resetPackage => Sys2Proof.Machine.execResetPackage s
  | .resetPort => Sys2Proof.Machine.execResetPort s
  | .bootImageCheck => Sys2Proof.Machine.execBootImageCheck s
  | .functionReady => Sys2Proof.Machine.execFunctionReady s
  | .functionLost => Sys2Proof.Machine.execFunctionLost s
  | .attestRequest => Sys2Proof.Machine.execAttestRequest s
  | .attestReportDone => Sys2Proof.Machine.execAttestReportDone s
  | .keyLoad => Sys2Proof.Machine.execKeyLoad s
  | .keyRemove => Sys2Proof.Machine.execKeyRemove s
  | .partitionCreate => Sys2Proof.Machine.execPartitionCreate s
  | .partitionOpened => Sys2Proof.Machine.execPartitionOpened s
  | .partitionClose => Sys2Proof.Machine.execPartitionClose s
  | .partitionFreed => Sys2Proof.Machine.execPartitionFreed s
  | .layerRetain => Sys2Proof.Machine.execLayerRetain s
  | .powerSample => Sys2Proof.Machine.execPowerSample s
  | .debugAttach => Sys2Proof.Machine.execDebugAttach s
  | .tileHalt => Sys2Proof.Machine.execTileHalt s
  | .tileResume => Sys2Proof.Machine.execTileResume s
  | .debugRead => Sys2Proof.Machine.execDebugRead s
  | .groupTableAnswer => Sys2Proof.Machine.execGroupTableAnswer s
  | .decodeTrap => Sys2Proof.Machine.execDecodeTrap s
  | .powerOn => Sys2Proof.Machine.execPowerOn s
  | .mgmtRead => Sys2Proof.Machine.execMgmtRead s
  | .groupMapExchange => Sys2Proof.Machine.execGroupMapExchange s

end Sys2Proof.Machine
end

