-- ==== Sys2Proof/Machine/Step.lean ====
section
/-! DEFINITION. Step: one step of the machine, and the state in which a given word is the next one fetched. -/

namespace Sys2Proof.Machine

/-- One step: a stimulus that is due, else a hardware step of this cycle, else a thread's word, else the end of the cycle, else the
clock (log 1). -/
def step (s : State) : Host.Outcome State Fault Refusal :=
  match s.inputDue with
  | some x => if hasWord x.1 then .next (s.takeInput s.ev) else exec x.1 (s.takeInput x.2)
  | none =>
    match s.hwNext with
    | some x => exec x.1 { s with ev := x.2 }
    | none =>
      match s.threadNext with
      | some a => finishWord a (exec a.instr (s.prepare a))
      | none =>
        match s.cycleEnd with
        | some x => exec x.1 { s with ev := x.2 }
        | none => .next s.tick

/-- The launch that stands for a loaded program: tile (0, 0) of die 0 with its whole slice, as a supervisor launch, so that every word
may run (log 11). -/
def loadedLaunch : Launch :=
  { Launch.fresh with packet := BitVec.ofNat 512 (2 ^ 88 + 2 ^ 112 + 7 * 2 ^ 136 + 256 * 2 ^ 160), st := .running, dies := [0], cur := [0],
                      supervisor := true }

/-- Its one thread, about to fetch at LOCAL 0x100. -/
def loadedSlot : Slot := { Slot.fresh with st := .run, pc := 0x100, status := BitVec.ofNat 64 (2 ^ 12), lid := 1 }

def loadedTile : Tile := { Tile.fresh with slots := [(0, loadedSlot)], lid := 1, phase := 4 }

/-- The machine with a word where its next step fetches: a launch is placed with one thread, every function is ready, and nothing else is
pending (log 11). -/
def State.withFetchWord (s : State) (nbits w : Nat) : State :=
  let s := { s with inputs := [], flight := [], pairs := [], firings := [], roots := [], rounds := [], counters := [], pens := [],
                    groups := [], dies := [], stks := [], queues := [], parts := [], fj := [], poison := [], starvAt := s.now, preempt := 0,
                    tiles := [(0, loadedTile)], launches := [(1, loadedLaunch)],
                    mgmt := { s.mgmt with ready := nw (2 ^ 42 - 1), booted := nw (2 ^ 42 - 1) } }
  { s with mem := writeMem s.mem (s.sliceKey 0 0x100) 4 (w % 2 ^ nbits) }

end Sys2Proof.Machine
end

