-- ==== Sys2Proof/Safety.lean ====
section
/-! DEFINITION. Safety: what a safe run is, and the words the statements are written in: what a word's completion leaves, and what it
leaves alone. -/

namespace Sys2Proof

open Machine

/-- The step answers a next state. -/
def Completes (r : Host.Outcome State Fault Refusal) : Prop := ∃ t, r = .next t

/-- It answers a next state of which P holds. -/
def Answers (r : Host.Outcome State Fault Refusal) (P : State → Prop) : Prop := ∃ t, r = .next t ∧ P t

/-- No step of the first k from a state stops. -/
def SafeFor (k : Nat) (s : State) : Prop := ∃ t, core.run k s = .next t

namespace Machine

/-- A tile is the same but for its context slots. -/
def Tile.Same (a b : Tile) : Prop := { b with slots := a.slots } = a

/-- Everything outside the executing thread's slot is as before: every byte of memory, every other slot, every tile's own registers,
and all that stands outside the tiles. -/
def SameElsewhere (s t : State) : Prop :=
  { t with tiles := s.tiles } = s ∧ (∀ k, readByte t.mem k = readByte s.mem k) ∧ (∀ k, (s.tile k).Same (t.tile k)) ∧
  ∀ k u, k ≠ s.curTile ∨ u ≠ s.curSlot → t.slot k u = s.slot k u

/-- A slot is the same but for x, pc and the loop entries, and but for what the end of a wait clears: every flag and the rest of the
status word, k, the drover shadow registers, the counts N, P and F, c:TMR, the park tag and cause are as before. -/
def Slot.SameButX (a b : Slot) : Prop :=
  { b with x := a.x, pc := a.pc, loops := a.loops, st := a.st, wait := a.wait, fwd := a.fwd, refusedWalk := a.refusedWalk,
           idle := a.idle } = a

/-- The thread is at its next word: in RUN, waiting for nothing, its pc and loop entries as loop_advance of R123 leaves them. -/
def Slot.At (a b : Slot) (next : Word) (seq : Bool) : Prop :=
  b.st = .run ∧ b.wait = .none ∧ (b.pc, b.loops) = loopAdvanceAux seq a.loops false next

/-- A word of len bytes completes and its one effect is x[d] := v; a write to x0 is discarded. -/
def WritesX (i : Instr) (s : State) (d : Reg) (v : Word) (len : Nat) : Prop :=
  Answers (exec i s) fun t =>
    (∀ r, t.xr r = if r = d ∧ d ≠ 0 then v else s.xr r) ∧ s.cur.At t.cur (s.cur.pc + BitVec.ofNat 64 len) true ∧
    s.cur.SameButX t.cur ∧ SameElsewhere s t

/-- A word completes and its one effect is a transfer or a sequential advance; it writes no register. -/
def MovesPc (i : Instr) (s : State) (next : Word) (seq : Bool) : Prop :=
  Answers (exec i s) fun t => (∀ r, t.xr r = s.xr r) ∧ s.cur.At t.cur next seq ∧ s.cur.SameButX t.cur ∧ SameElsewhere s t

/-- A word of 4 bytes completes and its one effect is k[d] := v. -/
def WritesK (i : Instr) (s : State) (d : BitVec 3) (v : Word) : Prop :=
  Answers (exec i s) fun t =>
    (∀ r, t.cur.kr r = if r = d then v else s.cur.kr r) ∧ (∀ r, t.xr r = s.xr r) ∧ s.cur.At t.cur (s.cur.pc + 4) true ∧
    s.cur.SameButX { t.cur with k := s.cur.k } ∧ SameElsewhere s t

/-- A word completes with a link: x[d] := v, and a taken transfer to a pc. -/
def Links (i : Instr) (s : State) (d : Reg) (v next : Word) : Prop :=
  Answers (exec i s) fun t =>
    (∀ r, t.xr r = if r = d ∧ d ≠ 0 then v else s.xr r) ∧ s.cur.At t.cur next false ∧ s.cur.SameButX t.cur ∧ SameElsewhere s t

/-- The 32-byte trap message of the executing thread (R362): CAUSE, the FLAGS byte, the place, pc, ADDR, the advanced tag, the launch and
DETAIL. -/
def State.trapMessage (s : State) (c : Cause) (addr : Word) (detail : Nat) : Entry :=
  trapEntry c.code 0 (tRow (s.seenTile s.curTile)) (tCol (s.seenTile s.curTile)) s.curSlot
    ((s.launch s.cur.lid).dieOwn (tDie s.curTile)) s.cur.pc addr ((s.cur.tag + 1) % 65536) s.cur.lid detail

/-- From state s to state t the executing thread has taken a trap of a cause (R40, R240): it is in PARK with its context in place and the
resume pc, its tag has advanced, its message waits in the slot, or has gone to the management core from supervisor level, and no byte of
memory and no other thread has changed. -/
def Trapped (s t : State) (c : Cause) (resume addr : Word) (detail : Nat) : Prop :=
  t.cur.st = .park ∧ t.cur.cause = c.code ∧ t.cur.pc = resume ∧ t.cur.tag = (s.cur.tag + 1) % 65536 ∧ (∀ r, t.xr r = s.xr r) ∧
  t.cur.status = s.cur.status ∧ t.cur.k = s.cur.k ∧ t.cur.shadow = s.cur.shadow ∧ t.cur.loops = s.cur.loops ∧
  (t.cur.cntN, t.cur.cntP, t.cur.cntF) = (s.cur.cntN, s.cur.cntP, s.cur.cntF) ∧
  (if s.cur.priv then t.cur.trapMsg = none ∧ t.toMgmt = s.trapMessage c addr detail :: s.toMgmt
   else t.cur.trapMsg = some (s.trapMessage c addr detail) ∧ t.toMgmt = s.toMgmt) ∧
  (∀ k, readByte t.mem k = readByte s.mem k) ∧ ∀ k u, k ≠ s.curTile ∨ u ≠ s.curSlot → t.slot k u = s.slot k u

/-- A word takes a trap at its own pc. -/
def Traps (i : Instr) (s : State) (c : Cause) (addr : Word) (detail : Nat) : Prop :=
  Answers (exec i s) fun t => Trapped s t c s.cur.pc addr detail

/-! ### Memory words -/

/-- The address of a word of format WM (R82): x[a] + x[b] + sext(imm8) × bytes(size) + k0. -/
def State.wmAddr (s : State) (a b : Reg) (im : BitVec 8) (code : Nat) : Word :=
  s.xr a + s.xr b + BitVec.ofInt 64 (im.toInt * 2 ^ code) + s.cur.kr 0

/-- The address of a compact memory word (R99): x[b] + q × bytes(size) + k0. -/
def State.compactAddr (s : State) (b : Reg) (q : BitVec 2) (code : Nat) : Word :=
  s.xr b + BitVec.ofNat 64 (q.toNat * 2 ^ code) + s.cur.kr 0

/-- The load words: destination, address, size code, sign extension, wait field and length (R145, R99). LDP writes x[2d] and x[2d+1]. -/
def LoadForm (i : Instr) (s : State) (d : Reg) (ea : Word) (code : Nat) (sign : Bool) (w : BitVec 2) (len : Nat) : Prop :=
  (∃ a b im, ea = s.wmAddr a b im code ∧ len = 4 ∧
    ((i = .lb d a b im w ∧ code = 0 ∧ sign = true) ∨ (i = .lh d a b im w ∧ code = 1 ∧ sign = true) ∨
     (i = .lw d a b im w ∧ code = 2 ∧ sign = true) ∨ (i = .ld d a b im w ∧ code = 3 ∧ sign = false) ∨
     (i = .lbu d a b im w ∧ code = 0 ∧ sign = false) ∨ (i = .lhu d a b im w ∧ code = 1 ∧ sign = false) ∨
     (i = .lwu d a b im w ∧ code = 2 ∧ sign = false) ∨
     (∃ d3 : BitVec 3, i = .ldp d3 a b im w ∧ d = d3 ++ 0#1 ∧ code = 4 ∧ sign = false))) ∨
  (∃ q b, ea = s.compactAddr b q code ∧ len = 2 ∧ w = 0 ∧
    ((i = .ldC d q b ∧ code = 3 ∧ sign = false) ∨ (i = .lwC d q b ∧ code = 2 ∧ sign = true)))

/-- The store words: the number stored, address, size code, wait field and length (R148, R99). -/
def StoreForm (i : Instr) (s : State) (data : Nat) (ea : Word) (code : Nat) (w : BitVec 2) (len : Nat) : Prop :=
  (∃ a b im, ea = s.wmAddr a b im code ∧ len = 4 ∧
    ((∃ d, data = (s.xr d).toNat ∧
      ((i = .sb d a b im w ∧ code = 0) ∨ (i = .sh d a b im w ∧ code = 1) ∨ (i = .sw d a b im w ∧ code = 2) ∨
       (i = .sd d a b im w ∧ code = 3))) ∨
     (∃ d3 : BitVec 3, i = .sdp d3 a b im w ∧ code = 4 ∧
      data = (s.xr (d3 ++ 0#1)).toNat + (s.xr (d3 ++ 1#1)).toNat * 2 ^ 64))) ∨
  (∃ d q b, ea = s.compactAddr b q code ∧ len = 2 ∧ w = 0 ∧ data = (s.xr d).toNat ∧
    ((i = .sdC d q b ∧ code = 3) ∨ (i = .swC d q b ∧ code = 2)))

/-- The atomic words: destination, address x[a] + k0, size code, function, rounding, operand, wait field and .nt (R158, R159, R92). -/
def AtomicForm (i : Instr) (s : State) (d : Reg) (ea : Word) (code fn : Nat) (rm : BitVec 2) (data : Word) (w : BitVec 2)
    (nt : Bool) : Prop :=
  ∃ (a b : Reg) (z n : BitVec 1), ea = s.xr a + s.cur.kr 0 ∧ data = s.xr b ∧ code = 2 + z.toNat ∧ nt = (n == 1) ∧
    ((rm = 0 ∧ ((i = .amoadd d z a b w n ∧ fn = 0) ∨ (i = .amoand d z a b w n ∧ fn = 1) ∨ (i = .amoor d z a b w n ∧ fn = 2) ∨
      (i = .amoxor d z a b w n ∧ fn = 3) ∨ (i = .amomin d z a b w n ∧ fn = 4) ∨ (i = .amomax d z a b w n ∧ fn = 5) ∨
      (i = .amominu d z a b w n ∧ fn = 6) ∨ (i = .amomaxu d z a b w n ∧ fn = 7) ∨ (i = .amoswp d z a b w n ∧ fn = 8) ∨
      (i = .amocas d z a b w n ∧ fn = 9))) ∨ (i = .amofadd d z a b rm w n ∧ fn = 16))

/-- The executing thread waits in BLOCK at the word, which is tried again, and nothing else has changed. -/
def Waits (i : Instr) (s : State) : Prop :=
  Answers (exec i s) fun t => t.cur.st = .block ∧ t.cur.pc = s.cur.pc ∧ (∀ r, t.xr r = s.xr r) ∧ t.cur.status = s.cur.status ∧
    (t.cur.cntN, t.cur.cntP, t.cur.cntF) = (s.cur.cntN, s.cur.cntP, s.cur.cntF) ∧ SameElsewhere s t

/-- A scalar FP word ends as R57 says: FLAGS collects what it raised; when no raised flag is enabled x[d] := v and the thread is at its
next word; when one is, it traps FPX at its own pc with the raised flags as DETAIL and x[d] is not written. -/
def FpEnds (i : Instr) (s : State) (d : Reg) (v : Word) (fl : BitVec 5) : Prop :=
  (fl &&& s.cur.enable = 0 → Answers (exec i s) fun t =>
    (∀ r, t.xr r = if r = d ∧ d ≠ 0 then v else s.xr r) ∧ s.cur.At t.cur (s.cur.pc + 4) true ∧
    t.cur.status = putField s.cur.status 0 5 (s.cur.flags ||| fl).toNat ∧
    s.cur.SameButX { t.cur with status := s.cur.status } ∧ SameElsewhere s t) ∧
  (fl &&& s.cur.enable ≠ 0 → s.cur.flk = 0 → Answers (exec i s) fun t =>
    Trapped (s.updCur fun sl => sl.orFlags fl) t .fpx s.cur.pc 0 fl.toNat)

/-- Nothing outside tile k has changed, no byte of memory among it. -/
def OnlyTile (s t : State) (k : Nat) : Prop := { t with tiles := s.tiles } = s ∧ ∀ j, j ≠ k → t.tile j = s.tile j

/-- Nothing outside slot u of tile k has changed. -/
def OnlySlot (s t : State) (k u : Nat) : Prop :=
  { t with tiles := s.tiles } = s ∧ (∀ j, (s.tile j).Same (t.tile j)) ∧ ∀ j v, j ≠ k ∨ v ≠ u → t.slot j v = s.slot j v

/-- The executing word of len bytes is done and has written no register, and no other thread of its tile has changed. -/
def WordDone (s t : State) (len : Nat) : Prop :=
  s.cur.At t.cur (s.cur.pc + BitVec.ofNat 64 len) true ∧ (∀ r, t.xr r = s.xr r) ∧
  ∀ u, u ≠ s.curSlot → t.slot s.curTile u = s.slot s.curTile u

/-- The executing word is done with x[d] := v, and no other thread has changed. -/
def WordWrote (s t : State) (d : Reg) (v : Word) (len : Nat) : Prop :=
  (∀ r, t.xr r = if r = d ∧ d ≠ 0 then v else s.xr r) ∧ s.cur.At t.cur (s.cur.pc + BitVec.ofNat 64 len) true ∧
  s.cur.SameButX t.cur ∧ (∀ k, (s.tile k).Same (t.tile k)) ∧ ∀ k u, k ≠ s.curTile ∨ u ≠ s.curSlot → t.slot k u = s.slot k u

/-- Exactly one message has joined those in flight, and it arrives later. -/
def Sent (s t : State) (m : Msg) : Prop := ∃ f, t.flight = s.flight ++ [f] ∧ f.msg = m ∧ s.now ≤ f.due

/-- Exactly one message has joined those in flight, and it arrives within n cycles. -/
def SentBy (s t : State) (n : Nat) (m : Msg) : Prop := ∃ f, t.flight = s.flight ++ [f] ∧ f.msg = m ∧ s.now < f.due ∧ f.due ≤ s.now + n

/-- The ADDR of an ILL or PRIV trap: the word itself (R361). -/
def wordOf (i : Instr) : Word := BitVec.ofNat 64 (encodeWord i)

/-- The word sends one message and its thread waits in BLOCK for what comes back, at its own pc; nothing else has changed. -/
def AsksWith (w : Wait) (i : Instr) (s : State) (m : Msg) : Prop :=
  Answers (exec i s) fun t =>
    Sent s t m ∧ t.cur.st = .block ∧ t.cur.wait = w ∧ t.cur.pc = s.cur.pc ∧ (∀ r, t.xr r = s.xr r) ∧ s.cur.SameButX t.cur ∧
    { t with tiles := s.tiles, flight := s.flight, next := s.next, ctr := s.ctr } = s ∧ (∀ k, (s.tile k).Same (t.tile k)) ∧
    ∀ k u, k ≠ s.curTile ∨ u ≠ s.curSlot → t.slot k u = s.slot k u

/-- The same of a word that waits for an answer to its request. -/
abbrev Asks (i : Instr) (s : State) (m : Msg) : Prop := AsksWith .answer i s m

/-- The LOCAL address of an instruction's record of n bytes, aligned, in the reservation and outside the park area (R144). -/
def State.localAt (s : State) (a : Word) (n : Nat) (off : Nat) : Prop :=
  decodeWin a = some (.loc off) ∧ off + n ≤ (s.launch s.curT.lid).parkBase

/-- A word with a LOCAL record at an address traps as R144 says where the record is misplaced: WINDOW before ALIGN. -/
def ArgTraps (i : Instr) (s : State) (a : Word) (n align : Nat) : Prop :=
  s.cur.flk = 0 → ((∀ off, ¬ s.localAt a n off) → Traps i s .window a 0) ∧
    (∀ off, s.localAt a n off → off % align ≠ 0 → Traps i s .align a 0)

end Machine

end Sys2Proof
end

