-- ==== Sys2Proof/Certificates/Slice0/Obligations.lean ====
section
/-! DEFINITION. Obligations: the statements for the provers, each a proposition with a name that says what it states. -/

open Sys2Proof Sys2Proof.Machine

/-- R112, R111: the two-source integer words, each with its value, and that it changes nothing else. -/
def Obligations.IntegerRegisterWords : Prop :=
  ∀ (s : State) (d a b : Reg),
    let x := s.xr a
    let y := s.xr b
    let sh := y.toNat % 64
    WritesX (.add d a b) s d (x + y) 4 ∧ WritesX (.sub d a b) s d (x - y) 4 ∧
    WritesX (.and d a b) s d (x &&& y) 4 ∧ WritesX (.or d a b) s d (x ||| y) 4 ∧ WritesX (.xor d a b) s d (x ^^^ y) 4 ∧
    WritesX (.andn d a b) s d (x &&& ~~~y) 4 ∧ WritesX (.orn d a b) s d (x ||| ~~~y) 4 ∧
    WritesX (.sll d a b) s d (BitVec.ofNat 64 (x.toNat * 2 ^ sh)) 4 ∧
    WritesX (.srl d a b) s d (BitVec.ofNat 64 (x.toNat / 2 ^ sh)) 4 ∧
    WritesX (.sra d a b) s d (BitVec.ofInt 64 (x.toInt / 2 ^ sh)) 4 ∧
    WritesX (.rol d a b) s d (x <<< sh ||| x >>> (64 - sh)) 4 ∧ WritesX (.ror d a b) s d (x >>> sh ||| x <<< (64 - sh)) 4 ∧
    WritesX (.slt d a b) s d (if x.toInt < y.toInt then 1 else 0) 4 ∧
    WritesX (.sltu d a b) s d (if x.toNat < y.toNat then 1 else 0) 4 ∧
    WritesX (.seq d a b) s d (if x = y then 1 else 0) 4 ∧ WritesX (.sne d a b) s d (if x ≠ y then 1 else 0) 4 ∧
    WritesX (.min d a b) s d (BitVec.ofInt 64 (min x.toInt y.toInt)) 4 ∧
    WritesX (.max d a b) s d (BitVec.ofInt 64 (max x.toInt y.toInt)) 4 ∧
    WritesX (.minu d a b) s d (BitVec.ofNat 64 (min x.toNat y.toNat)) 4 ∧
    WritesX (.maxu d a b) s d (BitVec.ofNat 64 (max x.toNat y.toNat)) 4 ∧
    WritesX (.mul d a b) s d (BitVec.ofNat 64 (x.toNat * y.toNat)) 4 ∧
    WritesX (.mulxs d a b) s d (BitVec.ofInt 64 (x.toInt * y.toInt / 2 ^ 64)) 4 ∧
    WritesX (.mulxn d a b) s d (BitVec.ofNat 64 (x.toNat * y.toNat / 2 ^ 64)) 4 ∧
    WritesX (.mulxsn d a b) s d (BitVec.ofInt 64 (x.toInt * (y.toNat : Int) / 2 ^ 64)) 4

/-- R49 at w = 64, with both borderline cases. -/
def Obligations.IntegerDivision : Prop :=
  ∀ (s : State) (d a b : Reg),
    let x := s.xr a
    let y := s.xr b
    WritesX (.div d a b) s d (if y = 0 then BitVec.allOnes 64 else BitVec.ofInt 64 (x.toInt.tdiv y.toInt)) 4 ∧
    WritesX (.divu d a b) s d (if y = 0 then BitVec.allOnes 64 else BitVec.ofNat 64 (x.toNat / y.toNat)) 4 ∧
    WritesX (.rem d a b) s d (if y = 0 then x else BitVec.ofInt 64 (x.toInt.tmod y.toInt)) 4 ∧
    WritesX (.remu d a b) s d (if y = 0 then x else BitVec.ofNat 64 (x.toNat % y.toNat)) 4

/-- R112 and R113: the one-source words by what their result is, not by how it is computed. -/
def Obligations.OneSourceIntegerWords : Prop :=
  ∀ (s : State) (d c a b : Reg) (w : BitVec 2),
    let x := s.xr a
    (∃ n : Nat, WritesX (.clz d a) s d (BitVec.ofNat 64 n) 4 ∧
      (if x = 0 then n = 64 else n < 64 ∧ x.getLsbD (63 - n) ∧ ∀ j, 63 - n < j → x.getLsbD j = false)) ∧
    (∃ n : Nat, WritesX (.ctz d a) s d (BitVec.ofNat 64 n) 4 ∧
      (if x = 0 then n = 64 else n < 64 ∧ x.getLsbD n ∧ ∀ j, j < n → x.getLsbD j = false)) ∧
    WritesX (.popc d a) s d (BitVec.ofNat 64 ((List.range 64).countP fun i => x.getLsbD i)) 4 ∧
    (∃ v : Word, WritesX (.brev d a) s d v 4 ∧ ∀ i < 64, v.getLsbD i = x.getLsbD (63 - i)) ∧
    (∃ v : Word, WritesX (.bswap d a) s d v 4 ∧ ∀ j < 8, ∀ i < 8, v.getLsbD (8 * j + i) = x.getLsbD (8 * (7 - j) + i)) ∧
    (w ≠ 3 → WritesX (.sext d a w) s d ((x.setWidth (8 * 2 ^ w.toNat)).signExtend 64) 4 ∧
      WritesX (.zext d a w) s d ((x.setWidth (8 * 2 ^ w.toNat)).setWidth 64) 4) ∧
    WritesX (.mov d a) s d x 4 ∧
    WritesX (.csel d c a b 0) s d (if s.xr c ≠ 0 then x else s.xr b) 4 ∧
    WritesX (.csel d c a b 1) s d (if s.xr c = 0 then x else s.xr b) 4 ∧
    WritesX (.csel d c a b 2) s d (if (s.xr c).toInt < 0 then x else s.xr b) 4 ∧
    WritesX (.csel d c a b 3) s d (if 0 ≤ (s.xr c).toInt then x else s.xr b) 4

/-- R114 in full, and R115. -/
def Obligations.ImmediateAndFieldWords : Prop :=
  ∀ (s : State) (d a : Reg) (i : BitVec 17) (n l p : BitVec 6),
    let x := s.xr a
    let m : Word := i.signExtend 64
    let len := l.toNat + 1
    WritesX (.addi d a i) s d (x + m) 4 ∧ WritesX (.andi d a i) s d (x &&& m) 4 ∧ WritesX (.ori d a i) s d (x ||| m) 4 ∧
    WritesX (.xori d a i) s d (x ^^^ m) 4 ∧ WritesX (.slti d a i) s d (if x.toInt < m.toInt then 1 else 0) 4 ∧
    WritesX (.slli d a n) s d (BitVec.ofNat 64 (x.toNat * 2 ^ n.toNat)) 4 ∧
    WritesX (.srli d a n) s d (BitVec.ofNat 64 (x.toNat / 2 ^ n.toNat)) 4 ∧
    WritesX (.srai d a n) s d (BitVec.ofInt 64 (x.toInt / 2 ^ n.toNat)) 4 ∧
    WritesX (.lui d i) s d (BitVec.ofInt 64 (i.toInt * 2 ^ 16)) 4 ∧
    WritesX (.pchi d i) s d (s.cur.pc + BitVec.ofInt 64 (i.toInt * 2 ^ 16)) 4 ∧
    (p.toNat + len ≤ 64 →
      WritesX (.bfx d a l p) s d ((x.extractLsb' p.toNat len).signExtend 64) 4 ∧
      WritesX (.bfxu d a l p) s d ((x.extractLsb' p.toNat len).setWidth 64) 4 ∧
      ∃ v : Word, WritesX (.bfi d a l p) s d v 4 ∧
        ∀ j < 64, v.getLsbD j = if p.toNat ≤ j ∧ j < p.toNat + len then x.getLsbD (j - p.toNat) else (s.xr d).getLsbD j)

/-- R99 and R116. -/
def Obligations.CompactIntegerWords : Prop :=
  ∀ (s : State) (d b : Reg) (i4 n : BitVec 4) (i6 : BitVec 6),
    let x := s.xr d
    let y := s.xr b
    let sh := y.toNat % 64
    WritesX (.addC d b) s d (x + y) 2 ∧ WritesX (.subC d b) s d (x - y) 2 ∧ WritesX (.andC d b) s d (x &&& y) 2 ∧
    WritesX (.orC d b) s d (x ||| y) 2 ∧ WritesX (.xorC d b) s d (x ^^^ y) 2 ∧
    WritesX (.sllC d b) s d (BitVec.ofNat 64 (x.toNat * 2 ^ sh)) 2 ∧ WritesX (.srlC d b) s d (BitVec.ofNat 64 (x.toNat / 2 ^ sh)) 2 ∧
    WritesX (.sraC d b) s d (BitVec.ofInt 64 (x.toInt / 2 ^ sh)) 2 ∧ WritesX (.movC d b) s d y 2 ∧
    WritesX (.addiC d i4) s d (x + i4.signExtend 64) 2 ∧ WritesX (.slliC d n) s d (BitVec.ofNat 64 (x.toNat * 2 ^ n.toNat)) 2 ∧
    WritesX (.srliC d n) s d (BitVec.ofNat 64 (x.toNat / 2 ^ n.toNat)) 2 ∧ WritesX (.addiX0C d i6) s d (i6.signExtend 64) 2 ∧
    MovesPc .nop s (s.cur.pc + 4) true ∧ MovesPc .nopC s (s.cur.pc + 2) true

/-- R117, R118 and R119. -/
def Obligations.OperandExtensionWords : Prop :=
  ∀ (s : State) (k : BitVec 3) (d a b : Reg) (i : BitVec 17) (w : BitVec 4),
    let x := s.xr a
    let y := s.xr b
    WritesK (.movk k i) s k (i.signExtend 64) ∧ WritesK (.movfk k a) s k x ∧ WritesX (.kget d k) s d (s.cur.kr k) 4 ∧
    (∃ v, WritesK (.acomp k a b w) s k v) ∧
    WritesK (.acomp k a b 0) s k (if y.toNat < 2 ^ 16 then y else badWindow) ∧
    WritesK (.acomp k a b 1) s k (if x.toNat % 256 < 128 ∧ x.toNat / 256 % 256 < 160 ∧ y.toNat < 2 ^ 16
      then BitVec.ofNat 64 (2 ^ 56 + x.toNat % 256 * 2 ^ 40 + x.toNat / 256 % 256 * 2 ^ 32) + y else badWindow) ∧
    WritesK (.acomp k a b 2) s k (if y.toNat < 2 ^ 22 ∧ (x = BitVec.allOnes 64 ∨ x.toNat % 512 < 320)
      then BitVec.ofNat 64 (2 * 2 ^ 56 + (if x = BitVec.allOnes 64 then 2 ^ 41 else x.toNat % 512 * 2 ^ 32)) + y else badWindow) ∧
    WritesK (.acomp k a b 3) s k (if y.toNat < 0xA0000000
      then BitVec.ofNat 64 (3 * 2 ^ 56 + (if x = BitVec.allOnes 64 then 2 ^ 35 else x.toNat / 2 ^ 16 % 8 * 2 ^ 32)) + y else badWindow) ∧
    WritesK (.acomp k a b 4) s k (if y.toNat < 2 ^ 48 then BitVec.ofNat 64 (4 * 2 ^ 56) + y else badWindow) ∧
    WritesK (.acomp k a b 5) s k (if x.toNat / 2 ^ 20 % 4096 < 3072 ∧ y.toNat < 2 ^ 36
      then BitVec.ofNat 64 (5 * 2 ^ 56 + x.toNat / 2 ^ 20 % 4096 * 2 ^ 36) + y else badWindow) ∧
    WritesK (.acomp k a b 6) s k (if x.toNat % 256 < 4 ∧ y.toNat < 2 ^ 16
      then BitVec.ofNat 64 (6 * 2 ^ 56 + x.toNat % 256 * 2 ^ 16) + y else badWindow) ∧
    WritesK (.acomp k a b 8) s k (if x.toNat / 2 ^ 20 % 4096 < 3072 ∧ y.toNat < 2 ^ 36
      then BitVec.ofNat 64 (8 * 2 ^ 56 + x.toNat / 2 ^ 32 % 256 * 2 ^ 48 + x.toNat / 2 ^ 20 % 4096 * 2 ^ 36) + y else badWindow) ∧
    WritesK (.adec k a) s k (if (decodeWin x).isSome
      then BitVec.ofNat 64 (x.toNat - x.toNat % 2 ^ offsetBits (x.toNat / 2 ^ 56)) else badWindow)

/-- R120, with the displacements of R83 and R99. -/
def Obligations.BranchWords : Prop :=
  ∀ (s : State) (a b : Reg) (o : BitVec 17) (o6 : BitVec 6),
    let x := s.xr a
    let y := s.xr b
    let pc := s.cur.pc
    let to_ : Word := pc + BitVec.ofInt 64 (2 * o.toInt)
    let toC : Word := pc + BitVec.ofInt 64 (2 * o6.toInt)
    MovesPc (.beq a b o) s (if x = y then to_ else pc + 4) (decide (x ≠ y)) ∧
    MovesPc (.bne a b o) s (if x ≠ y then to_ else pc + 4) (decide (x = y)) ∧
    MovesPc (.blt a b o) s (if x.toInt < y.toInt then to_ else pc + 4) (decide (¬ x.toInt < y.toInt)) ∧
    MovesPc (.bge a b o) s (if y.toInt ≤ x.toInt then to_ else pc + 4) (decide (¬ y.toInt ≤ x.toInt)) ∧
    MovesPc (.bltu a b o) s (if x.toNat < y.toNat then to_ else pc + 4) (decide (¬ x.toNat < y.toNat)) ∧
    MovesPc (.bgeu a b o) s (if y.toNat ≤ x.toNat then to_ else pc + 4) (decide (¬ y.toNat ≤ x.toNat)) ∧
    MovesPc (.beqzC a o6) s (if x = 0 then toC else pc + 2) (decide (x ≠ 0)) ∧
    MovesPc (.bnezC a o6) s (if x ≠ 0 then toC else pc + 2) (decide (x = 0))

/-- R121 with the offsets of R84 and R99, and the ALIGN of R121 as R361 describes it. -/
def Obligations.JumpWords : Prop :=
  ∀ (s : State) (d r : Reg) (o : BitVec 21) (o9 : BitVec 9) (o10 : BitVec 10),
    let pc := s.cur.pc
    let to_ := s.xr r + BitVec.ofInt 64 (2 * o9.toInt)
    Links (.jal d o) s d (pc + 4) (pc + BitVec.ofInt 64 (2 * o.toInt)) ∧
    MovesPc (.jC o10) s (pc + BitVec.ofInt 64 (2 * o10.toInt)) false ∧
    (to_.getLsbD 0 = false → Links (.jalr d r o9) s d (pc + 4) to_) ∧
    ((s.xr r).getLsbD 0 = false → MovesPc (.jalrC r) s (s.xr r) false) ∧
    (to_.getLsbD 0 = true → s.cur.flk = 0 → Traps (.jalr d r o9) s .align to_ 0) ∧
    ((s.xr r).getLsbD 0 = true → s.cur.flk = 0 → Traps (.jalrC r) s .align (s.xr r) 0)

/-- R123's loop_advance, entry by entry from the innermost. -/
def Obligations.LoopAdvance : Prop :=
  ∀ (a : Slot) (next : Word) (seq : Bool),
    let b := a.advanceTo next seq
    (a.loops = [] → b.pc = next ∧ b.loops = []) ∧
    ∀ (e : LoopEntry) (r : List LoopEntry), a.loops = e :: r →
      (if seq = true ∧ next = e.stop ∧ 1 < e.remaining.toNat then
        b.pc = e.start ∧ b.loops = { e with remaining := e.remaining - 1 } :: r
      else if e.start.toNat ≤ next.toNat ∧ next.toNat < e.stop.toNat then b.pc = next ∧ b.loops = e :: r
      else (b.pc, b.loops) =
        (({ a with loops := r }.advanceTo next seq).pc, ({ a with loops := r }.advanceTo next seq).loops))

/-- R122's loop_start for both words. -/
def Obligations.LoopWords : Prop :=
  ∀ (s : State) (c : Reg) (l13 : BitVec 13) (l5 : BitVec 5) (n12 : BitVec 12),
    let start := s.cur.pc + 4
    ∀ (i : Instr) (n len : Nat),
      ((i = .loop c l13 ∧ n = (s.xr c).toNat % 2 ^ 32 ∧ len = l13.toNat) ∨ (i = .loopi l5 n12 ∧ n = n12.toNat ∧ len = l5.toNat)) →
      let stop := start + BitVec.ofNat 64 (2 * len)
      let bad := 2 ≤ s.cur.loops.length ∨ ∃ e ∈ s.cur.loops, e.stop.toNat < stop.toNat
      (bad → s.cur.flk = 0 → Traps i s .ill (BitVec.ofNat 64 (encodeWord i)) 0) ∧
      (¬ bad → n = 0 → MovesPc i s stop true) ∧
      (¬ bad → n ≠ 0 → Answers (exec i s) fun t =>
        (∀ r, t.xr r = s.xr r) ∧ SameElsewhere s t ∧ s.cur.SameButX t.cur ∧
        { s.cur with loops := { start := start, stop := stop, remaining := BitVec.ofNat 32 n } :: s.cur.loops }.At t.cur start true)

/-- R125, R126, R128 and R129: what each flock word does by the role of its thread. -/
def Obligations.FlockWords : Prop :=
  ∀ (s : State) (d : Reg) (c r : BitVec 3),
    let t := s.curTile
    (s.cur.flk ≠ 0 → WritesX (.gang d c r) s d 2 4) ∧
    (s.cur.flk = 0 → s.gangFits t (r.toNat + 1) (c.toNat + 1) = false → WritesX (.gang d c r) s d 1 4) ∧
    (s.cur.flk = 0 → s.gangFits t (r.toNat + 1) (c.toNat + 1) = true → (s.tile t).carriesFlock = true → WritesX (.gang d c r) s d 3 4) ∧
    (s.cur.flk = 0 → s.gangFits t 1 1 = true → s.gangTiles t 1 1 = [] → (s.tile t).carriesFlock = false → Answers (exec (.gang d 0 0) s) fun u =>
      u.cur.flk = 1 ∧ u.cur.flock = some (t, s.curSlot) ∧ (∀ r, u.xr r = if r = d then 0 else s.xr r) ∧
      s.cur.At u.cur (s.cur.pc + 4) true ∧ SameElsewhere s u) ∧
    ∀ (join_ split_ rejoin_ : Instr) (len : Nat),
      ((join_ = .join ∧ split_ = .split ∧ rejoin_ = .rejoin ∧ len = 4) ∨
       (join_ = .joinC ∧ split_ = .splitC ∧ rejoin_ = .rejoinC ∧ len = 2)) →
      let next := s.cur.pc + BitVec.ofNat 64 len
      (s.cur.flk ≠ 0 → MovesPc join_ s next true) ∧
      (s.cur.flk = 0 → (∀ k ∈ s.tiles, ∀ u ∈ k.2.slots, ∀ a b n e, u.2.wait ≠ .gang a b n e) →
        Answers (exec join_ s) fun u => u.cur.st = .block ∧ u.cur.wait = .join len ∧ u.cur.pc = s.cur.pc ∧ SameElsewhere s u) ∧
      (s.cur.flk = 0 ∨ s.cur.flk = 2 → MovesPc split_ s next true ∧ MovesPc rejoin_ s next true) ∧
      (s.cur.flk = 1 → s.flockFull (t, s.curSlot) = true → Waits split_ s) ∧
      (s.cur.flk = 1 → s.flockFull (t, s.curSlot) = false → (s.followers (t, s.curSlot)).Nodup → Answers (exec split_ s) fun u =>
        ∀ k v, (s.slot k v).flock = some (t, s.curSlot) → (u.slot k v).flock = none ∧
          if (s.slot k v).flk = 2 ∧ (k, v) ≠ (t, s.curSlot) then
            (u.slot k v).flk = 2 ∧ ∃ w : FwdWord, (u.slot k v).stream = (s.slot k v).stream ++ [w] ∧ w.instr = split_ ∧ w.pc = s.cur.pc ∧
              w.at_ = s.now + 1
          else (u.slot k v).flk = 0) ∧
      (s.cur.flk = 3 → Answers (exec split_ s) fun u =>
        u.cur.flk = 0 ∧ u.cur.flock = none ∧ (∀ r, u.xr r = s.xr r) ∧ s.cur.At u.cur next true ∧ SameElsewhere s u) ∧
      (s.cur.flk = 3 → (∃ n ∈ s.cur.notices, n.1 = s.cur.pc) → (∀ n ∈ s.cur.notices, n.1 = s.cur.pc → n.2 ≠ s.now) →
        MovesPc rejoin_ s next true) ∧
      (s.cur.flk = 3 → (∃ n ∈ s.cur.notices, n.1 = s.cur.pc) → (∀ n ∈ s.cur.notices, n.1 = s.cur.pc → n.2 = s.now) →
        Answers (exec rejoin_ s) fun u => u.cur.flk = 2 ∧ u.cur.flock = s.cur.flock ∧ u.cur.stream = [] ∧ (∀ r, u.xr r = s.xr r) ∧
          s.cur.At u.cur next true ∧ SameElsewhere s u) ∧
      (s.cur.flk = 3 → (∀ n ∈ s.cur.notices, n.1 ≠ s.cur.pc) → Answers (exec rejoin_ s) fun u =>
        u.cur.st = .block ∧ u.cur.wait = .rejoin len ∧ u.cur.pc = s.cur.pc ∧ SameElsewhere s u) ∧
      (s.cur.flk = 1 → Answers (exec rejoin_ s) fun u =>
        u.flight.length = s.flight.length + (s.followers (t, s.curSlot)).length ∧ s.cur.At u.cur next true)

/-- R131, R132, R133, R134, R239 and the event bits of R37. -/
def Obligations.EventWords : Prop :=
  ∀ (s : State) (d : Reg) (wfe_ sev_ yield_ exit_ : Instr) (len : Nat),
    ((wfe_ = .wfe d ∧ sev_ = .sev ∧ yield_ = .yield ∧ exit_ = .exit ∧ len = 4) ∨
     (wfe_ = .wfeC d ∧ sev_ = .sevC ∧ yield_ = .yieldC ∧ exit_ = .exitC ∧ len = 2)) →
    let next := s.cur.pc + BitVec.ofNat 64 len
    (s.cur.evt ≠ 0 → Answers (exec wfe_ s) fun t =>
      (∀ r, t.xr r = if r = d ∧ d ≠ 0 then s.cur.evt.setWidth 64 else s.xr r) ∧ t.cur.evt = 0 ∧ t.cur.flags = s.cur.flags ∧
      s.cur.At t.cur next true ∧ SameElsewhere s t) ∧
    (s.cur.evt = 0 → Answers (exec wfe_ s) fun t =>
      t.cur.st = .sleep ∧ t.cur.pc = s.cur.pc ∧ (∀ r, t.xr r = s.xr r) ∧ t.cur.status = s.cur.status ∧ SameElsewhere s t) ∧
    (Answers (exec sev_ s) fun t =>
      (∀ u ∈ s.curT.slots, (s.slot s.curTile u.1).st ≠ .free → (s.slot s.curTile u.1).st ≠ .out →
        (t.slot s.curTile u.1).evt.getLsbD 0 = true) ∧ (∀ r, t.xr r = s.xr r) ∧ ∀ k, readByte t.mem k = readByte s.mem k) ∧
    (Answers (exec yield_ s) fun t =>
      t.cur.yieldTo = s.now + 8 ∧
      (∀ u, u ∈ t.cur.yieldWait ↔ u < 8 ∧ u ≠ s.curSlot ∧ (s.slot s.curTile u).st = .run) ∧
      (∀ r, t.xr r = s.xr r) ∧ s.cur.At t.cur next true ∧ SameElsewhere s t) ∧
    (s.cur.idle = none → s.cur.evtNew ≠ 0 → MovesPc .idle s (s.cur.pc + 4) true) ∧
    (s.cur.idle = none → s.cur.evtNew = 0 → Answers (exec .idle s) fun t =>
      t.cur.st = .sleep ∧ t.cur.idle = some s.cur.evt ∧ t.cur.pc = s.cur.pc ∧ t.cur.status = s.cur.status ∧ SameElsewhere s t) ∧
    (∀ b, s.cur.idle = some b → s.cur.evt &&& ~~~b ≠ 0 → MovesPc .idle s (s.cur.pc + 4) true) ∧
    (s.cur.flk = 0 → Answers (exec exit_ s) fun t =>
      t.cur.st = .run ∧ t.cur.wait = .exit ∧ t.cur.loops = [] ∧ t.cur.evt = 0 ∧ (∀ r, t.xr r = s.xr r) ∧ SameElsewhere s t)

/-- R239, R240 and R242: the words whose own effect is to park the thread, and the privilege of PARK and ERET. -/
def Obligations.SystemTraps : Prop :=
  ∀ (s : State) (n : BitVec 8) (a : Reg), s.cur.flk = 0 →
    (Answers (exec (.trap n) s) fun t => Trapped s t .trap (s.cur.pc + 4) 0 n.toNat) ∧
    (s.mgmt.agent = none → Answers (exec (.brk n) s) fun t => Trapped s t .brk (s.cur.pc + 4) 0 n.toNat) ∧
    (s.mgmt.agent ≠ none → Answers (exec (.brk n) s) fun t =>
      t.curT.halted = true ∧ t.mgmt.brkPc = s.cur.pc.toNat ∧ t.cur.trapMsg = s.cur.trapMsg ∧ t.toMgmt = s.toMgmt) ∧
    (s.xr a = BitVec.allOnes 64 → Answers (exec (.park a) s) fun t => Trapped s t .park (s.cur.pc + 4) 0 0) ∧
    (s.xr a ≠ BitVec.allOnes 64 → s.cur.priv = false → Traps (.park a) s .priv (BitVec.ofNat 64 (encodeWord (.park a))) 0) ∧
    (s.cur.priv = false → Traps .eret s .priv (BitVec.ofNat 64 (encodeWord .eret)) 0)

/-- R241 and R242, for a thread other than the issuing one. -/
def Obligations.SupervisorResume : Prop :=
  ∀ (s : State), s.cur.priv = true →
    (∀ k u, s.named (s.cur.kr 1) = [(k, u)] → (k ≠ s.curTile ∨ u ≠ s.curSlot) → (s.slot k u).st = .park →
      (s.cur.kr 1).getLsbD 20 = false → (s.cur.kr 1).getLsbD 21 = false →
      ((s.slot k u).tag = wf (s.cur.kr 1) 32 16 → Answers (exec .eret s) fun t =>
        (t.slot k u).st = .run ∧ (t.slot k u).pc = (s.slot k u).pc ∧ (∀ r, (t.slot k u).xr r = (s.slot k u).xr r) ∧
        (t.slot k u).status = (s.slot k u).status ∧ (∀ r, t.xr r = s.xr r) ∧ s.cur.At t.cur (s.cur.pc + 4) true) ∧
      ((s.slot k u).tag ≠ wf (s.cur.kr 1) 32 16 → MovesPc .eret s (s.cur.pc + 4) true)) ∧
    ∀ (a : Reg) k u, s.xr a ≠ BitVec.allOnes 64 → s.named (s.xr a) = [(k, u)] → (k ≠ s.curTile ∨ u ≠ s.curSlot) →
      (s.slot k u).st = .sleep → (s.slot k u).flk = 0 → (s.slot k u).wait = .none → (s.slot k u).back = none →
      Answers (exec (.park a) s) fun t =>
        (t.slot k u).st = .park ∧ (t.slot k u).cause = Cause.park.code ∧ (t.slot k u).pc = (s.slot k u).pc ∧
        (∀ r, (t.slot k u).xr r = (s.slot k u).xr r) ∧ (∀ r, t.xr r = s.xr r) ∧ s.cur.At t.cur (s.cur.pc + 4) true

/-- R144's checks in their order, for the windows whose accesses do not walk. -/
def Obligations.AccessChecks : Prop :=
  ∀ (s : State) (t kind : Nat) (ea : Word) (n code : Nat),
    (decodeWin ea = none → s.memCheck t kind ea n code = .trap .window code) ∧
    (∀ p id off, decodeWin ea = some (.system p id off) → s.memCheck t kind ea n code = .trap .window code) ∧
    (∀ b off, decodeWin ea = some (.ctrl b off) → kind = 2 ∨ code < 3 → s.memCheck t kind ea n code = .trap .window code) ∧
    (∀ off, decodeWin ea = some (.loc off) →
      s.memCheck t kind ea n code =
        if (s.launch (s.tile t).lid).parkBase ≤ off then .trap .window code
        else if ea.toNat % n ≠ 0 then .trap .align 0 else .ok (.slice t off)) ∧
    (∀ self g off, decodeWin ea = some (.group self g off) →
      let own := tGroup (s.seenTile t)
      let g' := if self then own else g
      let l := s.launch (s.tile t).lid
      let lvl := if self ∨ g = own then 0 else 1
      s.memCheck t kind ea n code =
        if ¬ (l.touches g' = true ∧ l.goff ≤ off ∧ off < l.goff + l.glen) then .trap .window code
        else if ea.toNat % n ≠ 0 then .trap .align 0
        else if kind ≠ 0 ∧ (l.regionAt false off n).isSome = true then .trap .perm code
        else if kind = 0 ∧ (s.tile t).phaseBit lvl = false then .trap .exch lvl
        else .ok (.group (groupKey (tDie t) g') off))

/-- R145 and R146 for an access in place; the address is that of R82 or R99. -/
def Obligations.LoadsFromTheOwnSlice : Prop :=
  ∀ (s : State) (i : Instr) (d : Reg) (ea : Word) (code : Nat) (sign : Bool) (w : BitVec 2) (len off : Nat),
    LoadForm i s d ea code sign w len → s.cur.countsZero (waitMask w) = true →
    s.memCheck s.curTile 0 ea (2 ^ code) code = .ok (.slice s.curTile off) → s.curT.unusable = false →
    poisonIn s.poison (s.sliceKey s.curTile off) (2 ^ code) = none →
    let v := readMem s.mem (s.sliceKey s.curTile off) (2 ^ code)
    Answers (exec i s) fun t =>
      (∀ r, t.xr r =
        if code = 4 then (if r = d + 1 then BitVec.ofNat 64 (v / 2 ^ 64) else if r = d ∧ d ≠ 0 then BitVec.ofNat 64 v else s.xr r)
        else if r = d ∧ d ≠ 0 then
          (if sign then (BitVec.ofNat (8 * 2 ^ code) v).signExtend 64 else (BitVec.ofNat (8 * 2 ^ code) v).setWidth 64)
        else s.xr r) ∧
      s.cur.At t.cur (s.cur.pc + BitVec.ofNat 64 len) true ∧ s.cur.SameButX t.cur ∧ SameElsewhere s t

/-- R148 and R151 for a store in place; the address of the stored bytes is that of the meaning. -/
def Obligations.StoresToTheOwnSlice : Prop :=
  ∀ (s : State) (i : Instr) (data : Nat) (ea : Word) (code : Nat) (w : BitVec 2) (len off : Nat),
    StoreForm i s data ea code w len → s.cur.countsZero (waitMask w) = true →
    s.memCheck s.curTile 1 ea (2 ^ code) code = .ok (.slice s.curTile off) → s.curT.unusable = false →
    partialPoison s.poison (s.sliceKey s.curTile off) (2 ^ code) = none →
    let key := s.sliceKey s.curTile off
    Answers (exec i s) fun t =>
      (∀ j < 2 ^ code, readByte t.mem (key + j) = BitVec.ofNat 8 (data / 256 ^ j)) ∧
      (∀ k, k < key ∨ key + 2 ^ code ≤ k → readByte t.mem k = readByte s.mem k) ∧
      (∀ r, t.xr r = s.xr r) ∧ s.cur.At t.cur (s.cur.pc + BitVec.ofNat 64 len) true ∧ s.cur.SameButX t.cur ∧
      { t with tiles := s.tiles, mem := s.mem, poison := s.poison, counters := s.counters } = s ∧
      (∀ k, (s.tile k).Same (t.tile k)) ∧ (∀ k u, k ≠ s.curTile ∨ u ≠ s.curSlot → t.slot k u = s.slot k u)

/-- R143, R146, R148 and R158: what an access outside the own slice sends, and the counts of R36. -/
def Obligations.RemoteAccessesSend : Prop :=
  ∀ (s : State) (i : Instr) (ea : Word) (code len : Nat) (w : BitVec 2) (p : Place), s.paired s.curTile = false →
    s.cur.countsZero (waitMask w) = true →
    ((∃ g off, p = .group g off) ∨ (∃ d off, p = .die d off) ∨ (∃ off, p = .package off)) →
    let sends (t : State) (acc : Acc) (data : Nat) : Prop := ∃ f r, t.flight = s.flight ++ [f] ∧ f.msg = .req r ∧ r.acc = acc ∧
      r.addr = ea ∧ r.size = 2 ^ code ∧ r.who = .thread s.curTile s.curSlot ∧ (acc ≠ .read → r.data = data) ∧ s.now < f.due
    let quiet (t : State) : Prop := (∀ k, readByte t.mem k = readByte s.mem k) ∧ (∀ r, t.xr r = s.xr r) ∧
      ∀ k u, k ≠ s.curTile ∨ u ≠ s.curSlot → t.slot k u = s.slot k u
    (∀ d sign, LoadForm i s d ea code sign w len → s.memCheck s.curTile 0 ea (2 ^ code) code = .ok p → Answers (exec i s) fun t =>
      sends t .read 0 ∧ quiet t ∧ t.cur.st = .block ∧ t.cur.wait = .answer ∧ t.cur.pc = s.cur.pc) ∧
    (∀ data, StoreForm i s data ea code w len → s.memCheck s.curTile 1 ea (2 ^ code) code = .ok p →
      s.cur.count (placeCls p) ≠ 65535 → Answers (exec i s) fun t =>
      sends t .store (data % 2 ^ (8 * 2 ^ code)) ∧ quiet t ∧ s.cur.At t.cur (s.cur.pc + BitVec.ofNat 64 len) true ∧
      (t.cur.cntN, t.cur.cntP, t.cur.cntF) =
        (match p with
         | .package _ => (s.cur.cntN, s.cur.cntP + 1, s.cur.cntF)
         | _ => (s.cur.cntN + 1, s.cur.cntP, s.cur.cntF))) ∧
    (∀ d fn rm data nt (q : Place), AtomicForm i s d ea code fn rm data w nt → s.memCheck s.curTile 2 ea (2 ^ code) code = .ok q →
      (q = p ∨ ∃ off, q = .slice s.curTile off) → Answers (exec i s) fun t =>
      sends t .atomic data.toNat ∧ quiet t ∧ t.cur.st = .block ∧ t.cur.wait = .answer ∧ t.cur.pc = s.cur.pc)

/-- R144: an instruction with a nonzero wait field has not issued while it waits; the first check that fails traps. -/
def Obligations.AccessesThatStop : Prop :=
  ∀ (s : State) (i : Instr) (ea : Word) (code : Nat) (w : BitVec 2) (kind : Nat),
    ((kind = 0 ∧ ∃ d sign len, LoadForm i s d ea code sign w len) ∨ (kind = 1 ∧ ∃ data len, StoreForm i s data ea code w len) ∨
     (kind = 2 ∧ ∃ d fn rm data nt, AtomicForm i s d ea code fn rm data w nt)) →
    (s.cur.countsZero (waitMask w) = false → Waits i s) ∧
    ∀ c det, s.cur.countsZero (waitMask w) = true → s.memCheck s.curTile kind ea (2 ^ code) code = .trap c det → s.cur.flk = 0 →
      Traps i s c ea det

/-- R158 and R159 for the integer functions, and R291: an atomic counts as no landing. -/
def Obligations.AtomicsAtTheirController : Prop :=
  ∀ (s : State) (r : Req) (key part kind idx off : Nat), r.acc = .atomic → (r.size = 4 ∨ r.size = 8) → r.fn ≤ 9 →
    poisonIn s.poison key r.size = none →
    let w := 8 * r.size
    let old := readMem s.mem key r.size
    let x := r.data % 2 ^ w
    let t := (s.perform r key false part kind idx off).1
    let a := (s.perform r key false part kind idx off).2
    readMem t.mem key r.size =
      (match r.fn with
       | 0 => (old + x) % 2 ^ w
       | 1 => old &&& x
       | 2 => old ||| x
       | 3 => old ^^^ x
       | 4 => if (BitVec.ofNat w x).toInt < (BitVec.ofNat w old).toInt then x else old
       | 5 => if (BitVec.ofNat w old).toInt < (BitVec.ofNat w x).toInt then x else old
       | 6 => min old x
       | 7 => max old x
       | 8 => x
       | _ => if old = r.k1.toNat % 2 ^ w then x else old) ∧
    a.status = 0 ∧ BitVec.ofNat 64 a.value = (BitVec.ofNat w old).signExtend 64 ∧
    (∀ k, k < key ∨ key + r.size ≤ k → readByte t.mem k = readByte s.mem k) ∧ t.counters = s.counters

/-- R155, R156 and R157. -/
def Obligations.WaitWalkWhere : Prop :=
  ∀ (s : State) (f : BitVec 3) (d a : Reg),
    (∀ i len, ((i = .waitc f ∧ len = 4) ∨ (i = .waitcC f ∧ len = 2)) →
      (s.cur.countsZero f.toNat = true → MovesPc i s (s.cur.pc + BitVec.ofNat 64 len) true) ∧
      (s.cur.countsZero f.toNat = false → Waits i s)) ∧
    (s.cur.flk = 0 → s.walkWin s.curTile (s.xr a) = none → Traps (.walk a) s .window (s.xr a) 0) ∧
    (∀ w, s.walkWin s.curTile (s.xr a) = some w → s.walkTo s.curTile w = none → Answers (exec (.walk a) s) fun t =>
      t.cur.status = putField s.cur.status 14 2 0 ∧ (∀ r, t.xr r = s.xr r) ∧ s.cur.At t.cur (s.cur.pc + 4) true ∧ SameElsewhere s t) ∧
    (∀ w r c, s.walkWin s.curTile (s.xr a) = some w → s.walkTo s.curTile w = some (r, c) → s.cur.flk ≠ 1 →
      (s.launch s.curT.lid).inRect r c = true → Answers (exec (.walk a) s) fun t =>
      t.cur.st = .block ∧ t.cur.wait = .walk (s.copyTile s.curTile (tDie s.curTile) r c) true (s.xr a) 0 ∧ t.cur.flk = 0 ∧ t.cur.pc = s.cur.pc ∧
      (∀ r, t.xr r = s.xr r) ∧ SameElsewhere s t) ∧
    (∃ v : Word, WritesX (.whereOp d a) s d v 4 ∧
      (decodeWin (s.xr a) = none → v = BitVec.ofNat 64 (2 ^ 26)) ∧
      (∀ off, decodeWin (s.xr a) = some (.loc off) → off + 1 ≤ (s.launch s.curT.lid).parkBase →
        v.toNat = tRow (s.seenTile s.curTile) + tCol (s.seenTile s.curTile) * 2 ^ 8 + s.ownDie s.curTile % 8 * 2 ^ 16 + 2 ^ 24 + 2 ^ 25))

/-- R57 and R135 to R142: what ends every scalar floating-point word that can raise a flag. -/
def Obligations.FloatingArithmeticWords : Prop :=
  ∀ (s : State) (d a b : Reg) (y : BitVec 1) (r p q : BitVec 2) (ty : BitVec 3),
    let f := precFmt p
    let rm := if y = 1 then s.cur.rmode.toNat else r.toNat
    let low (g : Fmt) (x : Reg) : Nat := (s.xr x).toNat % 2 ^ g.width
    let A := unpack f (low f a)
    let B := unpack f (low f b)
    let D := unpack f (low f d)
    let ends (i : Instr) (v : Nat × Fl) : Prop := FpEnds i s d (BitVec.ofNat 64 v.1) v.2
    let tells (i : Instr) (c : Nat) : Prop := FpEnds i s d (if (fpCmp c A B).1 then 1 else 0) (fpCmp c A B).2
    ends (.fadd d a b y r p) (fpAddV f rm A B) ∧ ends (.fsub d a b y r p) (fpAddV f rm A B.neg) ∧
    ends (.fmul d a b y r p) (fpMul f rm A B) ∧ ends (.fdiv d a b y r p) (fpDiv f rm A B) ∧
    ends (.fma d a b y r p) (fpFma f rm false A B D) ∧ ends (.fms d a b y r p) (fpFma f rm false A B D.neg) ∧
    ends (.fnma d a b y r p) (fpFma f rm true A B D) ∧ ends (.fsqrt d a y r p) (fpSqrt f rm A) ∧
    ends (.frcp d a y r p) (fpRcp f rm A) ∧ ends (.frsq d a y r p) (fpRsq f rm A) ∧
    ends (.frcpn d a b y r p) (fpRcpN f rm (low f a) (low f b)) ∧ ends (.frsqn d a b y r p) (fpRsqN f rm (low f a) (low f b)) ∧
    ends (.fmin d a b p) (fpMinMax f false (low f a) (low f b)) ∧ ends (.fmax d a b p) (fpMinMax f true (low f a) (low f b)) ∧
    ends (.fcvt d q a y r p) (fpCvt (precFmt q) f rm (low (precFmt q) a)) ∧
    ends (.icvtf d a y r p ty) (intToFp f rm
      (if ty.toNat < 4 then (BitVec.ofNat (8 * 2 ^ (ty.toNat % 4)) (s.xr a).toNat).toInt
       else (((s.xr a).toNat % 2 ^ (8 * 2 ^ (ty.toNat % 4)) : Nat) : Int))) ∧
    FpEnds (.fcvti d a y r p ty) s d (BitVec.ofInt 64 (fpToInt ty.toNat rm A).1) (fpToInt ty.toNat rm A).2 ∧
    tells (.fcmpEq d a b p) 0 ∧ tells (.fcmpNe d a b p) 1 ∧ tells (.fcmpLt d a b p) 2 ∧ tells (.fcmpLe d a b p) 3 ∧ tells (.fcmpUn d a b p) 4

/-- R137, R139 and R51. -/
def Obligations.FloatingSignAndClass : Prop :=
  ∀ (s : State) (d a b : Reg) (p : BitVec 2),
    let f := precFmt p
    let w := f.width
    let x := s.xr a
    let bits (i : Instr) (top : Bool) : Prop := ∃ v : Word, WritesX i s d v 4 ∧
      ∀ j < 64, v.getLsbD j = (if j + 1 < w then x.getLsbD j else decide (j + 1 = w) && top)
    let neg := x.getLsbD (w - 1)
    let e := x.toNat / 2 ^ f.fb % 2 ^ f.eb
    let m := x.toNat % 2 ^ f.fb
    bits (.fabs d a p) false ∧ bits (.fneg d a p) (!neg) ∧ bits (.fsgnj d a b p) ((s.xr b).getLsbD (w - 1)) ∧
    WritesX (.fclass d a p) s d
      (if e = 2 ^ f.eb - 1 then
         (if m = 0 then (if neg then 0x001 else 0x080) else if m / 2 ^ (f.fb - 1) = 0 then 0x100 else 0x200)
       else if e = 0 then (if m = 0 then (if neg then 0x008 else 0x010) else (if neg then 0x004 else 0x020))
       else (if neg then 0x002 else 0x040)) 4

/-- R53's four modes, on exact magnitudes. -/
def Obligations.RoundingModes : Prop :=
  ∀ (s : Bool) (m k : Nat) (q : Int) (rm : Nat), rm < 4 → 0 < k →
    let z := (roundAt rm s m (q - k) q).1
    let u := 2 ^ k
    ((roundAt rm s m (q - k) q).2 = true ↔ u ∣ m) ∧
    (rm = 0 → 2 * (z * u) ≤ 2 * m + u ∧ 2 * m ≤ 2 * (z * u) + u ∧
      ((2 * (z * u) = 2 * m + u ∨ 2 * m = 2 * (z * u) + u) → z % 2 = 0)) ∧
    ((rm = 1 ∨ (rm = 2 ∧ s = true) ∨ (rm = 3 ∧ s = false)) → z * u ≤ m ∧ m < z * u + u) ∧
    (((rm = 2 ∧ s = false) ∨ (rm = 3 ∧ s = true)) → m ≤ z * u ∧ z * u < m + u)

/-- R51, R52, R54, R56 and R62 for the operations that produce them. -/
def Obligations.FloatingSpecialResults : Prop :=
  ∀ (p : BitVec 2) (rm : Nat) (a b : FpVal) (s : Bool) (m n : Nat) (e g : Int), rm < 4 → 0 < m →
    let f := precFmt p
    let nan (iv : Bool) : Nat × Fl := (qnan f, if iv then 16 else 0)
    ((a.isNan ∨ b.isNan) → fpAddV f rm a b = nan (a.isSnan || b.isSnan) ∧ fpMul f rm a b = nan (a.isSnan || b.isSnan) ∧
      fpDiv f rm a b = nan (a.isSnan || b.isSnan)) ∧
    fpAddV f rm (.inf s) (.inf !s) = nan true ∧ fpMul f rm (.fin s 0 e) (.inf s) = nan true ∧
    fpDiv f rm (.fin s 0 e) (.fin s 0 g) = nan true ∧ fpDiv f rm (.inf s) (.inf s) = nan true ∧ fpSqrt f rm (.fin true m e) = nan true ∧
    fpDiv f rm (.fin s m e) (.fin false 0 g) = (infBits f s, 8) ∧
    fpAddV f rm (.fin s n e) (.fin (!s) n e) = (zeroBits f (decide (rm = 3)), 0) ∧
    overflowBits f rm s = (if rm = 0 ∨ (rm = 2 ∧ s = false) ∨ (rm = 3 ∧ s = true) then infBits f s else maxBits f s) ∧
    fpRcp f rm (.fin s 0 e) = (infBits f s, 8) ∧ fpRcp f rm (.inf s) = (zeroBits f s, 0) ∧
    fpRsq f rm (.fin s 0 e) = (infBits f s, 8) ∧ fpRsq f rm (.inf false) = (zeroBits f false, 0) ∧ fpRsq f rm (.inf true) = nan true ∧
    fpRsq f rm (.fin true m e) = nan true

/-- R169 to R171 and R176: the checks of a vector word at issue, and the entry it makes. -/
def Obligations.VectorWordsIssue : Prop :=
  (∀ (d a b : BitVec 4) (r : BitVec 2) (t : BitVec 4),
    [vecOf (.vadd d a b r t), vecOf (.vsub d a b r t), vecOf (.vmul d a b r t), vecOf (.vfma d a b r t), vecOf (.vmin d a b t),
     vecOf (.vmax d a b t), vecOf (.vabs d a r t), vecOf (.vneg d a r t), vecOf (.vdiv d a b r t), vecOf (.vsqrt d a r t),
     vecOf (.vrcp d a r t), vecOf (.vrsq d a r t), vecOf (.vrcpn d a b r t), vecOf (.vrsqn d a b r t), vecOf (.vexp2 d a r t),
     vecOf (.vlog2 d a r t), vecOf (.vand d a b t), vecOf (.vor d a b t), vecOf (.vxor d a b t), vecOf (.vshl d a b t),
     vecOf (.vshr d a b t), vecOf (.vcmpEq d a b t), vecOf (.vcmpNe d a b t), vecOf (.vcmpLt d a b t), vecOf (.vcmpLe d a b t),
     vecOf (.vcmpUn d a b t), vecOf (.vsel d a b t), vecOf (.vcopy d a t), vecOf (.vcvt d a r t), vecOf (.vreds d a r t),
     vecOf (.vredmMin d a t), vecOf (.vredmMax d a t), vecOf (.vscan d a r t), vecOf (.vdot d a b t), vecOf (.vfold d a t),
     vecOf (.vunf d a r t), vecOf (.viota d r t), vecOf (.vgath d a b t), vecOf (.vscat d a b t), vecOf (.vperm d a b t),
     vecOf (.vxchg d a t), vecOf (.vfill d a t)] =
    [vw .add d a b r t, vw .sub d a b r t, vw .mul d a b r t, vw .fma d a b r t, vw .min d a b 0 t,
     vw .max d a b 0 t, vw .abs d a 0 r t, vw .neg d a 0 r t, vw .div d a b r t, vw .sqrt d a 0 r t,
     vw .rcp d a 0 r t, vw .rsq d a 0 r t, vw .rcpn d a b r t, vw .rsqn d a b r t, vw .exp2 d a 0 r t,
     vw .log2 d a 0 r t, vw .and d a b 0 t, vw .or d a b 0 t, vw .xor d a b 0 t, vw .shl d a b 0 t,
     vw .shr d a b 0 t, vw (.cmp 0) d a b 0 t, vw (.cmp 1) d a b 0 t, vw (.cmp 2) d a b 0 t, vw (.cmp 3) d a b 0 t,
     vw (.cmp 4) d a b 0 t, vw .sel d a b 0 t, vw .copy d a 0 0 t, vw .cvt d a 0 r t, vw .reds d a 0 r t,
     vw (.redm false) d a 0 0 t, vw (.redm true) d a 0 0 t, vw .scan d a 0 r t, vw .dot d a b 0 t, vw .fold d a 0 0 t,
     vw .unf d a 0 r t, vw .iota d 0 0 r t, vw .gath d a b 0 t, vw .scat d a b 0 t, vw .perm d a b 0 t,
     vw .xchg d a 0 0 t, vw .fill d a 0 0 t]) ∧
  ∀ (s : State) (i : Instr) (w : VW), vecOf i = some w → (∀ d a t, i = .vfill d a t → d.toNat < 8) →
    let o : VOps := { w := w, rd := s.curT.hrec w.d, ra := s.curT.hrec w.a, rb := s.curT.hrec w.b }
    let val : Word := if w.fn = .xchg then s.cur.kr 1 else if w.fn = .fill then s.xr (BitVec.ofNat 4 w.a) else 0
    let who := if w.fn = .xchg then s.xchgMembers s.curTile (val.toNat % 256) else some ([], 0)
    let bounds := shapeTrap (s.launch s.curT.lid).parkBase o.shaped
    let enters (t : State) (tl : Tile) (P : SeqEntry → Prop) : Prop :=
      (∃ e, t.curT.seq = tl.seq ++ [e] ∧ e.num = s.curT.seqNext ∧ P e ∧ t.cur.repeatSet = e.num :: s.cur.repeatSet) ∧
      t.curT.seqNext = s.curT.seqNext + 1 ∧ WordDone s t 4 ∧ s.cur.SameButX { t.cur with repeatSet := s.cur.repeatSet } ∧
      { t.curT with slots := s.curT.slots, seq := s.curT.seq, seqNext := s.curT.seqNext } = s.curT ∧ OnlyTile s t s.curTile
    let captured (e : SeqEntry) : Prop := e.instr = i ∧ e.pc = s.cur.pc ∧ e.slot = s.curSlot ∧ e.lid = s.cur.lid ∧ e.recD = o.rd ∧
      e.recA = o.ra ∧ e.recB = o.rb ∧ e.val = val ∧ e.chain = s.curT.chain ∧ e.st = .wait
    (∀ e, s.cur.wait = .entry e →
      (s.curT.seqRoom = none → Answers (exec i s) fun t => t.cur.st = .block ∧ t.cur.wait = .entry e ∧ t.cur.pc = s.cur.pc ∧ SameElsewhere s t) ∧
      ∀ tl, s.curT.seqRoom = some tl → Answers (exec i s) fun t => enters t tl fun x => x = { e with num := s.curT.seqNext }) ∧
    ((∀ e, s.cur.wait ≠ .entry e) →
    (o.typesOk = false → s.cur.flk = 0 → Traps i s .ill (wordOf i) 0) ∧
    (o.typesOk = true → who = none → s.cur.flk = 0 → Traps i s .window 0 0) ∧
    ∀ ms j, o.typesOk = true → who = some (ms, j) →
      (o.countsOk ms.length = false → s.cur.flk = 0 → Traps i s .ill (wordOf i) 0) ∧
      (o.countsOk ms.length = true → o.chainOk s s.curTile s.curT.chain = false → s.cur.flk = 0 → Traps i s .window 0 0) ∧
      (o.countsOk ms.length = true → o.chainOk s s.curTile s.curT.chain = true →
        (∀ c x, bounds = some (c, x) → s.cur.flk = 0 → Traps i s c (BitVec.ofNat 64 x) 0) ∧
        (bounds = none → s.curT.seqRoom = none → Answers (exec i s) fun t => t.cur.st = .block ∧ t.cur.pc = s.cur.pc ∧ SameElsewhere s t ∧
          ∃ e, t.cur.wait = .entry e ∧ captured e) ∧
        ∀ tl, bounds = none → s.curT.seqRoom = some tl → Answers (exec i s) fun t => enters t tl captured))

/-- R165, R171, R172 and R180. -/
def Obligations.SequencerWords : Prop :=
  ∀ (s : State) (d3 : BitVec 3) (a n d4 ty : BitVec 4),
    ArgTraps (.vshape d3 a) s (s.xr a) 32 32 ∧
    (∀ off, s.localAt (s.xr a) 32 off →
      (off % 32 = 0 → s.curT.unusable = false → poisonIn s.poison (s.sliceKey s.curTile off) 32 = none →
        let r : Rec := BitVec.ofNat 256 (readMem s.mem (s.sliceKey s.curTile off) 32)
        (r.valid = false → s.cur.flk = 0 → Traps (.vshape d3 a) s .ill (wordOf (.vshape d3 a)) 0) ∧
        (r.valid = true → Answers (exec (.vshape d3 a) s) fun t =>
          (∀ k, t.curT.hrec k = if k = d3.toNat then r else s.curT.hrec k) ∧ WordDone s t 4 ∧ s.cur.SameButX t.cur ∧
          { t.curT with slots := s.curT.slots, h := s.curT.h } = s.curT ∧ OnlyTile s t s.curTile))) ∧
    (let c := (s.xr a).toNat % 65536
     let held := s.cur.repeatSet.filter fun i => s.curT.seq.any fun e => e.num == i
     let set := (held.take (n.toNat + 1)).reverse
     (c = 0 → MovesPc (.vloop a n) s (s.cur.pc + 4) true) ∧
     (c ≠ 0 → held.length < n.toNat + 1 → s.cur.flk = 0 → Traps (.vloop a n) s .ill (wordOf (.vloop a n)) 0) ∧
     (c ≠ 0 → n.toNat + 1 ≤ held.length → ((s.curT.seq.filter fun e => set.contains e.num).all fun e =>
        e.repeatFits (s.launch s.curT.lid).parkBase c) = true →
      ((s.curT.seq.any fun e => e.isRepeat && e.slot == s.curSlot) = true → Waits (.vloop a n) s) ∧
      ((s.curT.seq.any fun e => e.isRepeat && e.slot == s.curSlot) = false → Answers (exec (.vloop a n) s) fun t =>
        (∃ e, t.curT.seq = s.curT.seq ++ [e] ∧ e.set = set ∧ e.count = c ∧ e.instr = .vloop a n ∧ e.st = .wait) ∧
        t.cur.repeatSet = [] ∧ WordDone s t 4 ∧ OnlyTile s t s.curTile))) ∧
    (∀ i len, ((i = .vsync ∧ len = 4) ∨ (i = .vsyncC ∧ len = 2)) →
      ((∃ e ∈ s.curT.seq, e.slot = s.curSlot ∧ e.st ≠ .done) → Waits i s) ∧
      ((∀ e ∈ s.curT.seq, e.slot = s.curSlot → e.st = .done) → MovesPc i s (s.cur.pc + BitVec.ofNat 64 len) true)) ∧
    (8 ≤ d4.toNat →
      (8 ≤ (s.curT.queue (d4.toNat - 8)).length → Waits (.vfill d4 a ty) s) ∧
      ((s.curT.queue (d4.toNat - 8)).length < 8 → Answers (exec (.vfill d4 a ty) s) fun t =>
        (∀ k, t.curT.queue k = if k = d4.toNat - 8 then s.curT.queue k ++ [BitVec.ofNat 128 (s.xr a).toNat] else s.curT.queue k) ∧
        (∀ r, t.xr r = s.xr r) ∧ s.cur.At t.cur (s.cur.pc + 4) true ∧ OnlyTile s t s.curTile))

/-- R189, R191 and R196: what each matrix word does at issue. -/
def Obligations.MatrixWords : Prop :=
  ∀ (s : State) (i : Instr) (d3 a3 : BitVec 3) (x r : BitVec 2) (tr : BitVec 1) (w d a : BitVec 4),
    (∀ D A : Option Rec,
      ((i = .mldb a3 x tr ∧ D = none ∧ A = some (s.curT.hrec a3.toNat)) ∨
       (i = .mma d3 a3 ∧ D = some (s.curT.hrec d3.toNat) ∧ A = some (s.curT.hrec a3.toNat)) ∨
       (i = .mmap d3 a3 ∧ D = some (s.curT.hrec d3.toNat) ∧ A = some (s.curT.hrec a3.toNat)) ∨
       (i = .mzro d3 ∧ D = some (s.curT.hrec d3.toNat) ∧ A = none) ∨
       (i = .mrnd d3 a3 r ∧ D = some (s.curT.hrec d3.toNat) ∧ A = some (s.curT.hrec a3.toNat))) →
      let chainBad := (∃ v, A = some v ∧ v.kind = 3) ∧ s.chainUp s.curTile s.curT.chain = none
      let bounds := shapeTrap (s.launch s.curT.lid).parkBase (D.toList ++ A.toList)
      let enters := fun (e : MCmd) =>
        (8 ≤ s.curT.mq.length → exec i s = .next (s.block (.command e))) ∧
        (s.curT.mq.length < 8 → Answers (exec i s) fun t =>
            t.curT.mq = s.curT.mq ++ [{ e with ticket := s.curT.mI }] ∧
            t.curT.mI = (s.curT.mI + 1) % 65536 ∧ t.cur.lastTicket = s.curT.mI ∧ WordDone s t 4 ∧
            s.cur.SameButX { t.cur with lastTicket := s.cur.lastTicket } ∧
            { t.curT with slots := s.curT.slots, mq := s.curT.mq, mI := s.curT.mI, mC := s.curT.mC } = s.curT ∧
            OnlyTile s t s.curTile)
      (∀ e, s.cur.wait = .command e → enters e) ∧
      ((∀ e, s.cur.wait ≠ .command e) →
      (mIll i (D.getD 0) (A.getD 0) = true → s.cur.flk = 0 → Traps i s .ill (wordOf i) 0) ∧
      (mIll i (D.getD 0) (A.getD 0) = false →
        (chainBad → s.cur.flk = 0 → Traps i s .window 0 0) ∧
        (¬ chainBad → (∀ c y, bounds = some (c, y) → s.cur.flk = 0 → Traps i s c (BitVec.ofNat 64 y) 0) ∧
          (bounds = none → ∃ e : MCmd, e.instr = i ∧ e.pc = s.cur.pc ∧ e.slot = s.curSlot ∧
              e.lid = s.cur.lid ∧ e.recD = D.getD 0 ∧ e.recA = A.getD 0 ∧ e.chain = s.curT.chain ∧ e.steps = 0 ∧ enters e))))) ∧
    Answers (exec (.mwgt w) s) (fun t => t.curT.mWgt = w.toNat ∧ WordDone s t 4 ∧ s.cur.SameButX t.cur ∧
      { t.curT with slots := s.curT.slots, mWgt := s.curT.mWgt } = s.curT ∧ OnlyTile s t s.curTile) ∧
    WritesX (.mstat d) s d (BitVec.ofNat 64 ((match s.curT.bslot with
      | none => 0
      | some b => b.kk + b.nn * 2 ^ 11 + b.cls * 2 ^ 27 + b.xch * 2 ^ 30 + (if b.tr then 2 ^ 32 else 0)) + s.curT.mWgt * 2 ^ 36)) 4 ∧
    WritesX (.mpoll d) s d (BitVec.ofNat 64 (s.cur.lastTicket + s.curT.mC * 2 ^ 16 + s.curT.mI * 2 ^ 32 + s.curT.mq.length * 2 ^ 48 +
      (if ∃ c ∈ s.curT.mq, c.slot = s.curSlot then 2 ^ 52 else 0))) 4 ∧
    (let busy := if (s.xr a).getLsbD 63 then ∃ c ∈ s.curT.mq, c.slot = s.curSlot
       else ((s.xr a).toNat % 65536 + 65536 - s.curT.mC) % 65536 < (s.curT.mI + 65536 - s.curT.mC) % 65536
     (busy → Waits (.mwait a) s) ∧ (¬ busy → MovesPc (.mwait a) s (s.cur.pc + 4) true))

/-- R200 to R209: the drover words at issue. -/
def Obligations.DroverWords : Prop :=
  ∀ (s : State) (d a b n : BitVec 4) (d3 : BitVec 3),
    let t0 := s.curTile
    let p := penKey t0
    let sl := s.cur
    let x := (s.xr a).toNat % 65536
    Answers (exec (.dset a n) s) (fun t => t.cur.shadow = sl.shadow.set n.toNat (s.xr a) n.isLt ∧ (∀ r, t.xr r = s.xr r) ∧
      sl.At t.cur (sl.pc + 4) true ∧ sl.SameButX { t.cur with shadow := sl.shadow } ∧ SameElsewhere s t) ∧
    (s.paired t0 = false → ∀ i st j,
      ((i = .dgo d ∧ st = s.dgoStatus t0 sl (s.curT.hrec ((sl.sh 3).toNat % 8)) ∧
        j = s.dgoJob t0 s.curSlot sl (s.curT.hrec ((sl.sh 3).toNat % 8))) ∨
       (i = .dmcst d a b ∧ (st, j) = s.dmcst t0 s.curSlot sl (s.xr a) (s.xr b))) →
      (st ≠ 0 → WritesX i s d (BitVec.ofNat 64 (st * 2 ^ 16)) 4) ∧
      (st = 0 → 32 ≤ ((s.keptJobs p).filter Job.outstanding).length → WritesX i s d (BitVec.ofNat 64 (2 ^ 16)) 4) ∧
      (st = 0 → ((s.keptJobs p).filter Job.outstanding).length < 32 → Answers (exec i s) fun t =>
        ∃ k, (t.pen p).jobs = s.keptJobs p ++ [{ j with xid := k }] ∧ j.st = .queued ∧ j.arg = sl.sh 4 ∧
          (i = .dgo d → j.src = sl.sh 0 ∧ j.dst = sl.sh 1) ∧ (i = .dmcst d a b → j.src = s.xr a ∧ j.dst = s.xr b ∧ j.bytes = 256) ∧ WordWrote s t d (BitVec.ofNat 64 k) 4 ∧
          (∀ q, q ≠ p → t.pen q = s.pen q) ∧ { t with tiles := s.tiles, pens := s.pens } = s)) ∧
    (s.paired t0 = false → ∀ j, (s.pen p).job x = some j → j.tile = t0 →
      WritesX (.dpoll d a) s d (BitVec.ofNat 64 (match j.st with
        | .kept => 0
        | .queued => 1 + j.landed % 2 ^ 32 * 2 ^ 32
        | .running => 2 + j.landed % 2 ^ 32 * 2 ^ 32
        | .placing => 3 + j.status * 2 ^ 8 + j.landed % 2 ^ 32 * 2 ^ 32)) 4 ∧
      (j.st ≠ .kept → Waits (.dwait a) s) ∧ (j.st = .kept → MovesPc (.dwait a) s (sl.pc + 4) true) ∧
      Answers (exec (.dkill d a) s) (fun t => WordWrote s t d (BitVec.ofNat 64 (j.st.code)) 4 ∧
        (t.pen p).jobs = (s.pen p).jobs.map (fun k => if k.xid = x then k.kill else k) ∧ (∀ q, q ≠ p → t.pen q = s.pen q) ∧
        { t with tiles := s.tiles, pens := s.pens } = s) ∧
      (j.strm = true → j.st ≠ .kept → Answers (exec (.sbind d3 a) s) fun t =>
        (∀ k, tget? t.curT.sreg k = if k = d3.toNat then some { pen := p, xid := x, pos := 0 } else tget? s.curT.sreg k) ∧
        WordDone s t 4 ∧ sl.SameButX t.cur ∧ { t.curT with slots := s.curT.slots, sreg := s.curT.sreg } = s.curT ∧ OnlyTile s t t0) ∧
      (j.strm = false → sl.flk = 0 → Traps (.sbind d3 a) s .ill (wordOf (.sbind d3 a)) 0)) ∧
    (s.paired t0 = false → (s.pen p).job x = none → WritesX (.dpoll d a) s d 0 4 ∧ MovesPc (.dwait a) s (sl.pc + 4) true ∧
      WritesX (.dkill d a) s d 0 4 ∧ (sl.flk = 0 → Traps (.sbind d3 a) s .ill (wordOf (.sbind d3 a)) 0)) ∧
    Answers (exec (.sunb d3) s) (fun t =>
      (∀ k, tget? t.curT.sreg k = if k = d3.toNat then none else tget? s.curT.sreg k) ∧ WordDone s t 4 ∧ sl.SameButX t.cur ∧
      { t.curT with slots := s.curT.slots, sreg := s.curT.sreg } = s.curT ∧ OnlyTile s t t0)

/-- R211, R213, R214 and R215. -/
def Obligations.CounterWords : Prop :=
  ∀ (s : State) (d a b : Reg), s.paired s.curTile = false →
    let req (fn arg : Nat) : Msg := .ctr ⟨fn, s.curTile, s.curSlot, d, (s.xr a).toNat % 65536, arg, 0, none⟩
    ArgTraps (.acarm d a b) s (s.xr b) 32 32 ∧
    (∀ off, s.localAt (s.xr b) 32 off → off % 32 = 0 → s.curT.unusable = false → poisonIn s.poison (s.sliceKey s.curTile off) 32 = none →
      Asks (.acarm d a b) s (req 0 (readMem s.mem (s.sliceKey s.curTile off) 32))) ∧
    Asks (.acrd d a) s (req 1 0) ∧ Asks (.acdis d a) s (req 2 0) ∧ Asks (.acchn d a b) s (req 3 ((s.xr b).toNat % 2 ^ 48))

/-- R216 to R218. -/
def Obligations.HurdleArrivals : Prop :=
  ∀ (s : State) (i : Instr) (a b : Reg) (m : BitVec 1) (l : BitVec 2) (op : Option Nat) (val : Word) (abort : Nat) (drop : Bool),
    s.paired s.curTile = false →
    ((val = s.xr a ∧ abort = (s.xr b).toNat % 256 ∧ drop = false ∧
      ((i = .harvAdd a b m l ∧ op = some 0) ∨ (i = .harvAnd a b m l ∧ op = some 1) ∨ (i = .harvOr a b m l ∧ op = some 2) ∨
       (i = .harvXor a b m l ∧ op = some 3) ∨ (i = .harvMin a b m l ∧ op = some 4) ∨ (i = .harvMax a b m l ∧ op = some 5) ∨
       (i = .harvMinu a b m l ∧ op = some 6) ∨ (i = .harvMaxu a b m l ∧ op = some 7))) ∨
     (op = none ∧ val = 0 ∧ abort = 0 ∧ ((i = .harn m l ∧ drop = false) ∨ (i = .hdrop m l ∧ drop = true)))) →
    (s.hurDom m l.toNat = none → s.cur.flk = 0 → Traps i s .window 0 0) ∧
    ∀ key dom, s.hurDom m l.toNat = some (key, dom) →
      (s.drained s.curTile s.curSlot = false → Answers (exec i s) fun t =>
        t.cur.st = .block ∧ t.cur.wait = .arrive dom drop op val abort ∧ t.cur.pc = s.cur.pc ∧ (∀ r, t.xr r = s.xr r) ∧ SameElsewhere s t) ∧
      (s.drained s.curTile s.curSlot = true →
        ((s.curT.hurd key).arr = true ∨ (s.curT.hurd key).drop = true → s.cur.flk = 0 → Traps i s .hover 0 (domDetail dom)) ∧
        ((s.curT.hurd key).arr = false → (s.curT.hurd key).drop = false → Answers (exec i s) fun t =>
          Sent s t (.hurArrive dom { tile := some (s.seenTile s.curTile), far := none, counter := none, op := op, val := val, abort := abort, drop := drop }) ∧
          (∀ k, t.curT.hurd k = if k = key then { s.curT.hurd k with arr := true, drop := drop } else s.curT.hurd k) ∧
          WordDone s t 4 ∧ s.cur.SameButX t.cur ∧
          { t.curT with slots := s.curT.slots, hur := s.curT.hur, twinRun := s.curT.twinRun } = s.curT ∧
          { t with tiles := s.tiles, flight := s.flight, next := s.next, ctr := s.ctr } = s ∧ ∀ j, j ≠ s.curTile → t.tile j = s.tile j))

/-- R217 and R221 to R225. -/
def Obligations.HurdleQueries : Prop :=
  ∀ (s : State) (d a : Reg) (m l1 : BitVec 1) (l : BitVec 2),
    (s.hurDom m l.toNat = none → s.cur.flk = 0 → Traps (.hwt d m l) s .window 0 0 ∧ Traps (.hqry d m l) s .window 0 0) ∧
    (∀ key dom, s.hurDom m l.toNat = some (key, dom) →
      let h := s.curT.hurd key
      (∀ n, s.cur.wait = .release n → (h.rels = n → Waits (.hwt d m l) s) ∧ (h.rels ≠ n → WritesX (.hwt d m l) s d h.value 4)) ∧
      ((∀ n, s.cur.wait ≠ .release n) →
        (h.arr = true → Answers (exec (.hwt d m l) s) fun t => t.cur.st = .block ∧ t.cur.wait = .release h.rels ∧ t.cur.pc = s.cur.pc ∧
          (∀ r, t.xr r = s.xr r) ∧ SameElsewhere s t) ∧
        (h.arr = false → WritesX (.hwt d m l) s d h.value 4)) ∧
      WritesX (.hqry d m l) s d (BitVec.ofNat 64 (h.abort.toNat + (if h.arr then 2 ^ 8 else 0) + (if h.drop then 2 ^ 9 else 0) +
        (if h.mix then 2 ^ 10 else 0) + (if h.none_ then 2 ^ 11 else 0) + h.op % 16 * 2 ^ 12 + h.rels % 2 ^ 32 * 2 ^ 16)) 4) ∧
    Answers (exec (.hxend l1) s) (fun t => (∀ n < 4, t.curT.phaseBit n = (s.curT.phaseBit n && decide (n ≠ 2 + l1.toNat))) ∧ WordDone s t 4 ∧
      s.cur.SameButX t.cur ∧ { t.curT with slots := s.curT.slots, phase := s.curT.phase } = s.curT ∧ OnlyTile s t s.curTile) ∧
    (let x := (s.xr a).toNat % 256
     let held := x = 255 ∨ ∃ e ∈ (s.launch s.curT.lid).tts, e.1 / (128 * 160) = l1.toNat * 256 + x
     (held → Answers (exec (.ttgo a l1) s) fun t => (t.curT.tts l1.toNat).sel = x ∧
       (∀ n, t.curT.tts n = if n = l1.toNat then { s.curT.tts n with sel := x } else s.curT.tts n) ∧ WordDone s t 4 ∧ s.cur.SameButX t.cur ∧
       { t.curT with slots := s.curT.slots, tt := s.curT.tt } = s.curT ∧ OnlyTile s t s.curTile) ∧
     (¬ held → s.cur.flk = 0 → Traps (.ttgo a l1) s .window 0 0)) ∧
    WritesX (.ttsts d l1) s d (BitVec.ofNat 64 ((s.curT.tts l1.toNat).sel % 256 + (s.curT.tts l1.toNat).cur % 256 * 2 ^ 8 +
      (if (s.curT.tts l1.toNat).run then 2 ^ 16 else 0) + (if (s.curT.tts l1.toNat).slot then 2 ^ 17 else 0) +
      min 65535 (s.now - (s.curT.tts l1.toNat).t0) * 2 ^ 32)) 4

/-- R20 and R226 to R231. -/
def Obligations.MessageWords : Prop :=
  ∀ (s : State) (d a b : Reg),
    let t0 := s.curTile
    let rs := (s.xr a).toNat % 32
    ArgTraps (.sendm d a b) s (s.xr b) 24 8 ∧ ArgTraps (.inbox d a) s (s.xr a) 32 32 ∧
    (∀ off, s.paired t0 = false → s.localAt (s.xr b) 24 off → off % 8 = 0 → s.curT.unusable = false → poisonIn s.poison (s.sliceKey t0 off) 24 = none →
      (s.sendDest t0 (s.xr a) = none → ∃ q : SendReq, Asks (.sendm d a b) s (.sendmAns q) ∧ q.status = 2 ∧ (q.tile, q.slot, q.d) = (t0, s.curSlot, d)) ∧
      (∀ dest, s.sendDest t0 (s.xr a) = some (none, false, dest) → tDie dest = tDie t0 →
        ∃ q : SendReq, Asks (.sendm d a b) s (.sendm q) ∧ q.dest = dest ∧ q.byOwner = false ∧ (q.tile, q.slot, q.d) = (t0, s.curSlot, d) ∧
          q.entry = BitVec.ofNat 256 (1 + tRow (s.seenTile t0) * 2 ^ 16 + tCol (s.seenTile t0) * 2 ^ 24 + s.ownDie t0 % 8 * 2 ^ 32 +
            ((s.xr a).toNat / 2 ^ 20 % 32 + (if (s.xr a).getLsbD 25 then 128 else 0)) * 2 ^ 40 + s.pkg % 4096 * 2 ^ 48 +
            readMem s.mem (s.sliceKey t0 off) 24 * 2 ^ 64))) ∧
    (∀ off, s.localAt (s.xr a) 32 off → off % 32 = 0 →
      (s.curT.inbox = [] → WritesX (.inbox d a) s d 0 4) ∧
      (∀ e rest, s.curT.inbox = e :: rest → s.curT.unusable = false → Answers (exec (.inbox d a) s) fun t =>
        readMem t.mem (s.sliceKey t0 off) 32 = e.toNat ∧
        (∀ k, k < s.sliceKey t0 off ∨ s.sliceKey t0 off + 32 ≤ k → readByte t.mem k = readByte s.mem k) ∧
        t.curT.inbox = rest ∧ (∀ r, t.xr r = if r = d ∧ d ≠ 0 then e.setWidth 64 else s.xr r) ∧ s.cur.At t.cur (s.cur.pc + 4) true ∧
        s.cur.SameButX t.cur ∧ { t.curT with slots := s.curT.slots, inbox := s.curT.inbox } = s.curT ∧
        (∀ j, j ≠ t0 → t.tile j = s.tile j) ∧
        { t with tiles := s.tiles, mem := s.mem, poison := s.poison, counters := s.counters, launches := s.launches } = s)) ∧
    WritesX (.inbq d) s d (BitVec.ofNat 64 (s.curT.inbox.length + (s.curT.inbox.headD 0).toNat % 2 ^ 16 * 2 ^ 16)) 4 ∧
    (∀ i h, ((i = .rhold a ∧ h = true) ∨ (i = .rrel a ∧ h = false)) → Answers (exec i s) fun t =>
      (∀ k, t.curT.routine k = if k = rs ∧ (s.curT.routine rs).vld then
          { s.curT.routine k with hld := h, from_ := if (s.curT.routine rs).hld ∧ !h then s.now + 1 else (s.curT.routine rs).from_ }
        else s.curT.routine k) ∧
      WordDone s t 4 ∧ s.cur.SameButX t.cur ∧ { t.curT with slots := s.curT.slots, routines := s.curT.routines } = s.curT ∧
      OnlyTile s t t0) ∧
    ((s.curT.routine rs).vld = true → Answers (exec (.rrdy a b) s) fun t =>
      (let r := s.curT.routine rs
       let r' := t.curT.routine rs
       r'.rdy = true ∧ r'.mrg = (r.mrg || r.rdy) ∧ (r.lastAt ≠ s.now ∨ r.lastBy = 0 → r'.rarg = s.xr b) ∧
       { r' with rdy := r.rdy, mrg := r.mrg, rarg := r.rarg, from_ := r.from_, lastAt := r.lastAt, lastBy := r.lastBy } = r) ∧
      (∀ k, k ≠ rs → t.curT.routine k = s.curT.routine k) ∧
      (∀ r, t.xr r = s.xr r) ∧ s.cur.At t.cur (s.cur.pc + 4) true ∧ OnlyTile s t t0)

/-- R232, R235, R237 and R238. -/
def Obligations.LaunchWords : Prop :=
  ∀ (s : State) (d a b : Reg), s.paired s.curTile = false →
    let t0 := s.curTile
    let me := s.launch s.curT.lid
    let grp (set_ : Bool) : Msg := .grp ⟨s.next, set_, t0, s.curSlot, d, s.xr a, s.xr b, 0, false, none⟩
    ArgTraps (.lnch d a) s (s.xr a) 64 64 ∧
    (∀ off, s.localAt (s.xr a) 64 off → off % 64 = 0 →
      (s.drained t0 s.curSlot = false → Waits (.lnch d a) s) ∧
      (s.drained t0 s.curSlot = true → s.curT.unusable = false → poisonIn s.poison (s.sliceKey t0 off) 64 = none →
        let c := s.childLaunch t0 (BitVec.ofNat 512 (readMem s.mem (s.sliceKey t0 off) 64))
        let ok := c.packetValid c.twin && c.childValid
        (ok = false → WritesX (.lnch d a) s d (BitVec.ofNat 64 (3 * 2 ^ 16)) 4) ∧
        (ok = true → 8 ≤ me.depth → WritesX (.lnch d a) s d (BitVec.ofNat 64 (2 * 2 ^ 16)) 4) ∧
        (ok = true → me.depth < 8 → (4096 ≤ (s.die (tDie t0)).pool.length ∨ s.draining (tDie t0) = true) →
          WritesX (.lnch d a) s d (BitVec.ofNat 64 (2 ^ 16)) 4) ∧
        (ok = true → me.depth < 8 → (s.die (tDie t0)).pool.length < 4096 → s.draining (tDie t0) = false →
          Answers (exec (.lnch d a) s) fun t => ∃ id, WordWrote s t d (BitVec.ofNat 64 id) 4 ∧
            (∀ k, t.launch k = if k = id then c else s.launch k) ∧ c.depth = me.depth + 1 ∧ c.prio = min c.packPrio me.prio ∧ c.st = .pending ∧
            (t.die (tDie t0)).pool = (s.die (tDie t0)).pool ++ [id] ∧ (∀ k, k ≠ tDie t0 → t.die k = s.die k) ∧
            { t with tiles := s.tiles, launches := s.launches, dies := s.dies, nextLid := s.nextLid } = s))) ∧
    (∃ st dep, WritesX (.lstat d a) s d (BitVec.ofNat 64 (st + dep * 2 ^ 8 + (s.die (tDie t0)).pool.length * 2 ^ 16)) 4 ∧ st ≤ 3 ∧
      ((s.xr a).toNat % 65536 = 0xFFFF → st = 2 ∧ dep = me.depth)) ∧
    AsksWith (.table s.next) (.grpq d a b) s (grp false) ∧ AsksWith (.table s.next) (.grpset d a b) s (grp true)

/-- R38 for the registers of a program and a part of R243's. -/
def Obligations.ControlRegisterReads : Prop :=
  ∀ (s : State) (d : Reg) (n : BitVec 12),
    let t0 := s.curTile
    let tl := s.curT
    let sl := s.cur
    let l := s.launch tl.lid
    (2048 ≤ n.toNat → sl.priv = false → sl.flk = 0 → Traps (.mfc d n) s .priv (wordOf (.mfc d n)) 0) ∧
    ((18 ≤ n.toNat ∧ n.toNat < 256) ∨ (352 ≤ n.toNat ∧ n.toNat < 2048) → sl.flk = 0 → Traps (.mfc d n) s .ill (wordOf (.mfc d n)) 0) ∧
    ((2048 ≤ n.toNat ∧ n.toNat < 2112) ∨ 2211 ≤ n.toNat → sl.priv = true → sl.flk = 0 →
      Traps (.mfc d n) s .ill (wordOf (.mfc d n)) 0) ∧
    (∀ v : Word,
      ((n = 0x000#12 ∧ v = sl.status) ∨ (n = 0x001#12 ∧ v = sl.evt.setWidth 64) ∨
       (n = 0x002#12 ∧ v = BitVec.ofNat 64 (sl.cntN % 65536 + sl.cntP % 65536 * 2 ^ 16 + sl.cntF % 65536 * 2 ^ 32)) ∨
       (n = 0x003#12 ∧ v = BitVec.ofNat 64 (tRow (s.seenTile t0) + tCol (s.seenTile t0) * 2 ^ 8 + s.ownDie t0 % 8 * 2 ^ 16 +
         tDie t0 / 4 * 2 ^ 19 + s.pkg % 4096 * 2 ^ 20 + s.pod % 256 * 2 ^ 32)) ∨
       (n = 0x004#12 ∧ v = BitVec.ofNat 64 (s.curSlot + (match sl.home with | some h => h.2 * 2 ^ 8 | none => 2 ^ 15))) ∨
       (n = 0x005#12 ∧ v = BitVec.ofNat 64 (tl.lid + l.prio * 2 ^ 16 + (if l.twin then 2 ^ 19 else 0))) ∨
       (n = 0x006#12 ∧ v = BitVec.ofNat 64 (s.now - tl.cycle0)) ∨ (n = 0x007#12 ∧ v = BitVec.ofNat 64 (sl.tmrEnd - s.now)) ∨
       (8 ≤ n.toNat ∧ n.toNat < 12 ∧ v = BitVec.ofNat 64 (tl.stepCount (n.toNat - 8))) ∨ (n = 0x00C#12 ∧ v = tl.phase.setWidth 64) ∨
       (n = 0x00D#12 ∧ v = tl.chain.setWidth 64) ∨ (n = 0x00E#12 ∧ v = BitVec.ofNat 64 (tl.parkCap + tl.parkq.length * 2 ^ 8)) ∨
       (∃ r, r < 32 ∧ ((n.toNat = 0x100 + r ∧ v = (tl.routine r).rent) ∨ (n.toNat = 0x120 + r ∧ v = (tl.routine r).rarg) ∨
         (n.toNat = 0x140 + r ∧ v = BitVec.ofNat 64 ((if (tl.routine r).rdy then 1 else 0) + (if (tl.routine r).hld then 2 else 0) +
           (if (tl.routine r).run then 4 else 0) + (if (tl.routine r).mrg then 8 else 0) + (if (tl.routine r).vld then 16 else 0))))) ∨
       (sl.priv = true ∧
        ((n = 0x861#12 ∧ v = BitVec.ofNat 64 (s.die (tDie t0)).dthr) ∨ (n = 0x870#12 ∧ v = BitVec.ofNat 64 (s.die (tDie t0)).wdog) ∨
         (n = 0x842#12 ∧ v = BitVec.ofNat 64 tl.sel.rmsel) ∨ (n = 0x862#12 ∧ v = BitVec.ofNat 64 tl.sel.qsel) ∨
         (n = 0x884#12 ∧ v = BitVec.ofNat 64 tl.sel.fbsel) ∨ (n = 0x88C#12 ∧ v = BitVec.ofNat 64 tl.sel.pksel) ∨
         (n = 0x88A#12 ∧ v = BitVec.ofNat 64 s.fbSvc) ∨ (n = 0x898#12 ∧ v = if (s.part l.part).rlpol then 1 else 0) ∨
         ((n = 0x840#12 ∨ n = 0x867#12 ∨ n = 0x889#12 ∨ n = 0x88B#12 ∨ n = 0x895#12) ∧ v = 0)))) →
      WritesX (.mfc d n) s d v 4) ∧
    (n = 0x00F#12 → Answers (exec (.mfc d n) s) fun t =>
      (∀ r, t.xr r = if r = d ∧ d ≠ 0 then BitVec.ofNat 64 tl.wref else s.xr r) ∧ sl.At t.cur (sl.pc + 4) true ∧ t.curT.wref = 0 ∧
      { t.curT with slots := tl.slots, wref := tl.wref } = tl ∧ OnlyTile s t t0) ∧
    (n = 0x011#12 → Answers (exec (.mfc d n) s) fun t =>
      (∀ r, t.xr r = if r = d ∧ d ≠ 0 then BitVec.ofNat 64 tl.rmrg else s.xr r) ∧ sl.At t.cur (sl.pc + 4) true ∧ t.curT.rmrg = 0 ∧
      { t.curT with slots := tl.slots, rmrg := tl.rmrg } = tl ∧ OnlyTile s t t0) ∧
    (n = 0x010#12 → Answers (exec (.mfc d n) s) fun t => WordWrote s t d (BitVec.ofNat 64 (s.pen (penKey t0)).bkcf) 4 ∧
      (∀ p, t.pen p = if p = penKey t0 then { s.pen p with bkcf := 0 } else s.pen p) ∧
      { t with tiles := s.tiles, pens := s.pens } = s)

/-- R38, R14, R243, R324, R342 and R355. -/
def Obligations.ControlRegisterWrites : Prop :=
  ∀ (s : State) (n : BitVec 12) (a : Reg),
    let t0 := s.curTile
    let sl := s.cur
    let v := s.xr a
    let priv (i : Instr) : Prop := sl.flk = 0 → Traps i s .priv (wordOf i) 0
    let die (f : Die) : Prop := Answers (exec (.mtc n a) s) fun t => WordDone s t 4 ∧ sl.SameButX t.cur ∧
      (∀ k, t.die k = if k = tDie t0 then f else s.die k) ∧ { t with tiles := s.tiles, dies := s.dies } = s ∧ (∀ k, (s.tile k).Same (t.tile k))
    (2048 ≤ n.toNat → sl.priv = false → priv (.mtc n a)) ∧
    ((1 ≤ n.toNat ∧ n.toNat ≤ 6) ∨ (8 ≤ n.toNat ∧ n.toNat ≤ 12) ∨ (14 ≤ n.toNat ∧ n.toNat ≤ 17) ∨
      (256 ≤ n.toNat ∧ n.toNat < 320) → priv (.mtc n a)) ∧
    (sl.priv = true → (n = 0x841#12 ∨ n = 0x843#12 ∨ n = 0x844#12 ∨ n = 0x850#12 ∨ n = 0x860#12 ∨ n = 0x866#12 ∨ n = 0x868#12 ∨
      n = 0x871#12 ∨ n = 0x883#12 ∨ (0x885 ≤ n.toNat ∧ n.toNat ≤ 0x888) ∨ n = 0x88E#12 ∨ n = 0x897#12 ∨ n = 0x899#12) → priv (.mtc n a)) ∧
    ((18 ≤ n.toNat ∧ n.toNat < 256) ∨ (352 ≤ n.toNat ∧ n.toNat < 2048) ∨
      (sl.priv = true ∧ ((2048 ≤ n.toNat ∧ n.toNat < 2112) ∨ 2211 ≤ n.toNat)) → sl.flk = 0 → Traps (.mtc n a) s .ill (wordOf (.mtc n a)) 0) ∧
    (n = 0x000#12 → Answers (exec (.mtc n a) s) fun t =>
      (∀ j < 64, t.cur.status.getLsbD j = if j < 12 then v.getLsbD j else if j = 13 then sl.status.getLsbD j && !v.getLsbD j
        else sl.status.getLsbD j) ∧
      (∀ r, t.xr r = s.xr r) ∧ sl.At t.cur (sl.pc + 4) true ∧ sl.SameButX { t.cur with status := sl.status } ∧ SameElsewhere s t) ∧
    (n = 0x007#12 → Answers (exec (.mtc n a) s) fun t => t.cur.tmrEnd = (if v = 0 then 0 else s.now + v.toNat) ∧
      (∀ r, t.xr r = s.xr r) ∧ sl.At t.cur (sl.pc + 4) true ∧ sl.SameButX { t.cur with tmrEnd := sl.tmrEnd } ∧ SameElsewhere s t) ∧
    (n = 0x00D#12 → Answers (exec (.mtc n a) s) fun t => t.curT.chain = v.setWidth 4 ∧ WordDone s t 4 ∧ sl.SameButX t.cur ∧
      { t.curT with slots := s.curT.slots, chain := s.curT.chain } = s.curT ∧ OnlyTile s t t0) ∧
    (∀ r, r < 32 → n.toNat = 0x140 + r → Answers (exec (.mtc n a) s) fun t =>
      (∀ k, t.curT.routine k = if k = r ∧ v.getLsbD 3 = true then { s.curT.routine k with mrg := false } else s.curT.routine k) ∧
      WordDone s t 4 ∧ sl.SameButX t.cur ∧ { t.curT with slots := s.curT.slots, routines := s.curT.routines } = s.curT ∧
      OnlyTile s t t0) ∧
    (sl.priv = true → n = 0x861#12 → die { s.die (tDie t0) with
      dthr := if v.toNat % 128 = 0 ∨ 64 < v.toNat % 128 then 64 else v.toNat % 128 }) ∧
    (sl.priv = true → n = 0x870#12 → die { s.die (tDie t0) with wdog := v.toNat % 2 ^ 32 }) ∧
    (sl.priv = true → (n = 0x881#12 ∧ s.xinvBusy = true) ∨ (n = 0x869#12 ∧ s.lendActive = true) → Waits (.mtc n a) s)

/-- R244, R367 and R369. -/
def Obligations.SaveAndRestoreWords : Prop :=
  ∀ (s : State) (a b : Reg),
    let lid := (s.xr a).toNat % 65536
    let l := s.launch lid
    let d := tDie s.curTile
    let p := (s.launch s.curT.lid).part
    (s.cur.priv = false → s.cur.flk = 0 → Traps (.xsave a b) s .priv (wordOf (.xsave a b)) 0 ∧
      Traps (.xload a b) s .priv (wordOf (.xload a b)) 0) ∧
    (s.cur.priv = true → s.cur.flk = 0 → ∀ i, (i = .xsave a b ∨ i = .xload a b) →
      ((∀ off, decodeWin (s.xr b) ≠ some (.package off)) → Traps i s .window (s.xr b) 0) ∧
      (∀ off, decodeWin (s.xr b) = some (.package off) → off % 65536 ≠ 0 → Traps i s .align (s.xr b) 0) ∧
      (∀ off, decodeWin (s.xr b) = some (.package off) → off % 65536 = 0 →
        (i = .xsave a b ∧ l.holdsOn d = false) ∨ (i = .xload a b ∧ l.savedDies = []) → Traps i s .window (s.xr b) 0)) ∧
    ∀ off, s.cur.priv = true → decodeWin (s.xr b) = some (.package off) → off % 65536 = 0 →
      (l.holdsOn d = true → Answers (exec (.xsave a b) s) fun t => t.cur.st = .block ∧
        t.cur.wait = .xsave lid (BitVec.ofNat 64 off) ∧ t.cur.pc = s.cur.pc ∧ (∀ r, t.xr r = s.xr r) ∧
        (∀ k, t.launch k = if k = lid then { l with marked := true } else s.launch k) ∧
        { t with tiles := s.tiles, launches := s.launches } = s ∧ OnlySlot { s with launches := t.launches } t s.curTile s.curSlot) ∧
      ∀ h, s.readPkg p off 256 = some h → saveHeaderOk h lid = true → imgNum h 8 1 ∈ l.savedDies →
        (((l.tilesAt d).all s.tileFree && s.rangesFree l d) = false → Waits (.xload a b) s) ∧
        (((l.tilesAt d).all s.tileFree && s.rangesFree l d) = true → ∀ area, s.readArea p off (areaTotal l) = some area →
          let bad := s.areaPoison p off ((s.areaKeys l d).map Prod.fst)
          (s.loadDie lid (imgNum h 8 1) d area bad = none → Waits (.xload a b) s) ∧
          ∀ u, s.loadDie lid (imgNum h 8 1) d area bad = some u → Answers (exec (.xload a b) s) fun t =>
            imgNum h 8 1 ∉ (t.launch lid).savedDies ∧ imgNum h 8 1 ∈ (t.launch lid).restored ∧
            u.cur.At t.cur (u.cur.pc + 4) true ∧ OnlySlot u t u.curTile u.curSlot)

/-- R16, R17, R12, R153 and R360. -/
def Obligations.WalkSteps : Prop :=
  ∀ (s : State),
    let t0 := s.ev.num
    let u0 := s.ev.a
    let sl := s.slot t0 u0
    (∀ dest e, s.walkWaiting t0 u0 = some (dest, e) → s.drained t0 u0 = false → exec .walkDepart s = .next s) ∧
    (∀ dest e, s.walkWaiting t0 u0 = some (dest, e) → s.drained t0 u0 = true → sl.flk = 0 → sl.back = none → Answers (exec .walkDepart s) fun t =>
      ∃ c, Sent s t (.walk c) ∧ (c.dest, c.origin, c.origSlot, c.explicit, c.resume) = (dest, t0, u0, e, false) ∧
        (c.addr, c.code) = s.walkAddr t0 u0 ∧
        (c.x, c.lid, c.home) = (sl.x, sl.lid, sl.home) ∧ c.status = putField sl.status 16 2 0 ∧
        (c.pc, c.loops) = (if e then loopAdvanceAux true sl.loops false (sl.pc + 4) else (sl.pc, sl.loops)) ∧
        (t.slot t0 u0).st = .out ∧ (t.slot t0 u0).xr = sl.xr ∧ (t.slot t0 u0).pc = sl.pc ∧
        { t with tiles := s.tiles, flight := s.flight, next := s.next, ctr := s.ctr } = s ∧
        ∀ k u, k ≠ t0 ∨ u ≠ u0 → t.slot k u = s.slot k u) ∧
    (∀ c, s.arrived = some (.walk c) →
      let dt := s.tile c.dest
      (∀ cause, s.walkRefusal c = some cause → Answers (exec .walkArrival s) fun t =>
        Sent s.taken t (.walkRefused c (some cause)) ∧ t.tiles = s.tiles ∧ t.mem = s.mem) ∧
      (s.walkRefusal c = none → dt.freeSlot = none → dt.parkCap ≤ dt.parkq.length → Answers (exec .walkArrival s) fun t =>
        Sent s.taken t (.walkRefused c none) ∧ t.tiles = s.tiles ∧ t.mem = s.mem) ∧
      (s.walkRefusal c = none → c.dest ≠ c.origin → (s.tile c.origin).parkq = [] →
        (∀ v, dt.freeSlot = some v → Answers (exec .walkArrival s) fun t =>
          let w := t.slot c.dest v
          w.st = .run ∧ w.x = c.x ∧ (w.pc, w.loops, w.lid, w.home) = (c.pc, c.loops, c.lid, c.home) ∧
          w.status = putField (putField c.status 14 2 0) 16 2 0 ∧ (∀ k, w.kr k = 0) ∧ (w.cntN, w.cntP, w.cntF) = (0, 0, 0) ∧
          (t.slot c.origin c.origSlot).st = .free ∧ t.flight = s.taken.flight ∧ t.mem = s.mem ∧
          ∀ k u, (k ≠ c.dest ∨ u ≠ v) → (k ≠ c.origin ∨ u ≠ c.origSlot) → t.slot k u = s.slot k u) ∧
        (dt.freeSlot = none → dt.parkq.length < dt.parkCap → Answers (exec .walkArrival s) fun t =>
          let key := s.parkKey c.dest dt.parkq.length
          (t.tile c.dest).parkq = dt.parkq ++ [{ c with status := putField c.status 14 2 0, resume := false }] ∧
          readMem t.mem (key + 8) 8 = c.pc.toNat ∧ readMem t.mem (key + 16) 8 = (putField c.status 14 2 0).toNat ∧
          (∀ r : Reg, r ≠ 0 → readMem t.mem (key + 16 + 8 * r.toNat) 8 = (c.x[r.toNat]'r.isLt).toNat) ∧
          (∀ b, b < key ∨ key + 160 ≤ b → readByte t.mem b = readByte s.mem b) ∧
          (t.slot c.origin c.origSlot).st = .free ∧ t.flight = s.taken.flight ∧
          ∀ k u, (k ≠ c.origin ∨ u ≠ c.origSlot) → t.slot k u = s.slot k u)) ∧
      (s.walkRefusal c = none → c.dest ≠ c.origin → (s.tile c.origin).parkq = [] → ∀ v, dt.freeSlot = some v →
        c.desc.getLsbD 8 = false → wf c.desc 4 3 ≠ 4 → Answers (exec .resumeMove s) fun t =>
          let d := BitVec.ofNat 4 (wf c.desc 0 4)
          let w := t.slot c.dest v
          w.st = .run ∧ (w.pc, w.loops, w.lid, w.home) = (c.pc, c.loops, c.lid, c.home) ∧
          (∀ r : Reg, w.xr r = if r = 0 then 0 else if r = d then extendLoad (wf c.desc 4 3) (c.desc.getLsbD 7) c.answer
            else c.x[r.toNat]'r.isLt) ∧
          (t.slot c.origin c.origSlot).st = .free ∧ t.flight = s.taken.flight ∧ t.mem = s.mem)) ∧
    (∀ c cause, s.arrived = some (.walkRefused c cause) → c.resume = false → (s.slot c.origin c.origSlot).st = .out →
      s.fenced c.origin = false →
      let o := s.slot c.origin c.origSlot
      (cause = none → Answers (exec .walkRefusalReturn s) fun t =>
        let w := t.slot c.origin c.origSlot
        (t.tile c.origin).wref = (s.tile c.origin).wref + 1 ∧ w.xr = o.xr ∧ w.st = .run ∧ w.status = putField o.status 14 2 1 ∧
        (if c.explicit then w.wait = .none ∧ (w.pc, w.loops) = loopAdvanceAux true o.loops false (o.pc + 4)
         else w.wait = .reissue (s.now + 64) ∧ w.pc = o.pc ∧ w.loops = o.loops) ∧
        t.flight = s.taken.flight ∧ t.mem = s.mem ∧ ∀ k u, (k ≠ c.origin ∨ u ≠ c.origSlot) → t.slot k u = s.slot k u) ∧
      (∀ x, cause = some x → o.flk = 0 → o.priv = false → Answers (exec .walkRefusalReturn s) fun t =>
        let w := t.slot c.origin c.origSlot
        w.st = .park ∧ w.cause = x.code ∧ w.pc = o.pc ∧ w.xr = o.xr ∧ w.tag = (o.tag + 1) % 65536 ∧ t.flight = s.taken.flight ∧
        (∃ e, w.trapMsg = some e ∧ ef e 2 1 = x.code ∧ ef e 16 8 = c.addr.toNat ∧ ef e 28 4 = c.code % 2 ^ 32) ∧
        t.mem = s.mem ∧ ∀ k u, (k ≠ c.origin ∨ u ≠ c.origSlot) → t.slot k u = s.slot k u)) ∧
    (∀ n, sl.wait = .reissue n → Answers (exec .walkReissue s) fun t =>
      (t.slot t0 u0).wait = (if n ≤ s.now then .none else .reissue n) ∧ { t.slot t0 u0 with wait := sl.wait } = sl ∧ OnlySlot s t t0 u0)

/-- R134, R19, R21, R154, R174, R58 and R101. -/
def Obligations.ThreadStartAndEnd : Prop :=
  ∀ (s : State),
    let t0 := s.ev.num
    let u0 := s.ev.a
    let sl := s.slot t0 u0
    let tl := s.tile t0
    (sl.wait ≠ .exit ∨ s.drained t0 u0 = false → exec .exitSlotFree s = .next s) ∧
    (sl.wait = .exit → s.drained t0 u0 = true → tl.parkq = [] → Answers (exec .exitSlotFree s) fun t =>
      (t.slot t0 u0).st = .free ∧ (t.slot t0 u0).tag = sl.tag ∧ (∀ h i, sl.home = some (h, i) → ((t.tile h).routine i).run = false) ∧
      (∀ k i, sl.home ≠ some (k, i) → (t.tile k).routine i = (s.tile k).routine i) ∧
      { t with tiles := s.tiles } = s ∧ ∀ k u, k ≠ t0 ∨ u ≠ u0 → t.slot k u = s.slot k u) ∧
    (∀ i u, tl.startable s.now = some i → tl.freeSlot = some u → tl.parkq = [] → tl.held = false → Answers (exec .routineStart s) fun t =>
      let w := t.slot t0 u
      w.st = .run ∧ w.pc = (tl.routine i).rent ∧ w.lid = tl.lid ∧ w.home = some (t0, i) ∧
      (∀ r, w.xr r = if r = 1 then (tl.routine i).rarg else if r = 2 then BitVec.ofNat 64 i else 0) ∧
      w.status = (if (s.launch tl.lid).supervisor then BitVec.ofNat 64 (2 ^ 12) else 0) ∧
      (∀ j, (t.tile t0).routine j = if j = i then { tl.routine i with rdy := false, run := true } else tl.routine j) ∧
      OnlyTile s t t0 ∧ ∀ v, v ≠ u → t.slot t0 v = s.slot t0 v) ∧
    (s.cur.flk = 0 →
      (∀ r rest, s.cur.refusals = r :: rest → r.cause ≠ .poison → Answers (exec .refusalTrap s) fun t =>
        t.cur.st = .park ∧ t.cur.cause = r.cause.code ∧ t.cur.pc = s.cur.pc ∧ t.cur.refusals = rest ∧ (∀ x, t.xr x = s.xr x) ∧
        t.cur.tag = (s.cur.tag + 1) % 65536 ∧ (s.cur.priv = false → ∃ e, t.cur.trapMsg = some e ∧ ef e 16 8 = r.addr.toNat ∧
          ef e 8 8 = s.cur.pc.toNat ∧ ef e 2 1 = r.cause.code ∧ ef e 3 1 = 2 + (if r.overflow then 4 else 0)) ∧
        (∀ k u, k ≠ s.curTile ∨ u ≠ s.curSlot → t.slot k u = s.slot k u) ∧ t.mem = s.mem) ∧
      (∀ pc fl en, s.cur.fpx = some (pc, fl, en) → Answers (exec .deferredFpxTrap s) fun t =>
        t.cur.st = .park ∧ t.cur.cause = 15 ∧ t.cur.pc = s.cur.pc ∧ t.cur.fpx = none ∧ (∀ x, t.xr x = s.xr x) ∧
        (s.cur.priv = false → ∃ e, t.cur.trapMsg = some e ∧ ef e 8 8 = pc.toNat ∧ ef e 28 4 = fl.toNat ∧ ef e 2 1 = 15) ∧
        (∀ k u, k ≠ s.curTile ∨ u ≠ s.curSlot → t.slot k u = s.slot k u) ∧ t.mem = s.mem) ∧
      (∀ e0, s.cur.engErrs = [e0] → Answers (exec .engineTrap s) fun t =>
        t.cur.st = .park ∧ t.cur.cause = e0.cause.code ∧ t.cur.pc = s.cur.pc ∧ t.cur.engErrs = [] ∧ (∀ x, t.xr x = s.xr x) ∧
        (s.cur.priv = false → ∃ e, t.cur.trapMsg = some e ∧ ef e 8 8 = e0.pc.toNat ∧ ef e 16 8 = e0.addr.toNat ∧ ef e 3 1 = 8) ∧
        (∀ k u, k ≠ s.curTile ∨ u ≠ s.curSlot → t.slot k u = s.slot k u) ∧ t.mem = s.mem) ∧
      ∀ c w, s.fetchDecode s.curTile s.curSlot = .trap c w → Answers (exec .decodeTrap s) fun t => Trapped s t c s.cur.pc w 0)

/-- R143, R146, R150, R151, R153, R154, R158 and R159 for the requests of threads. -/
def Obligations.RequestsAndAnswers : Prop :=
  ∀ (s : State),
    (∀ r k u, s.arrived = some (.req r) → r.who = .thread k u →
      let row : Instr := match r.acc with
        | .store => .postedStoreLand
        | .read => .remoteReadServe
        | .atomic => .atomicPerform
      let answered (t : State) (st v : Nat) (fl : BitVec 5) : Prop := Sent s.taken t (.ans { req := r, status := st, value := v, flags := fl }) ∧
        { t with mem := s.mem, poison := s.poison, counters := s.counters, flight := s.flight, next := s.next, ctr := s.ctr } = s
      (s.reqReady r = false → exec row s = .next s) ∧
      ∀ p, s.reqReady r = true → s.reqPlace r = some p →
        (∀ c, s.refuses r p = some c → Answers (exec row s) fun t => answered t c.code 0 0 ∧ t.mem = s.mem) ∧
        ∀ key, s.refuses r p = none → s.placeKey p = some key →
          (s.placeDead p = true ∨ (if r.acc = .store then partialPoison s.poison key r.size else poisonIn s.poison key r.size) ≠ none →
            Answers (exec row s) fun t => answered t 9 0 0 ∧ t.mem = s.mem) ∧
          (s.placeDead p = false → r.acc = .store → partialPoison s.poison key r.size = none → Answers (exec row s) fun t =>
            answered t 0 0 0 ∧ readMem t.mem key r.size = r.data % 256 ^ r.size ∧
            ∀ x, x < key ∨ key + r.size ≤ x → readByte t.mem x = readByte s.mem x) ∧
          (s.placeDead p = false → r.acc = .read → poisonIn s.poison key r.size = none → Answers (exec row s) fun t =>
            answered t 0 (readMem s.mem key r.size) 0 ∧ t.mem = s.mem) ∧
          (s.placeDead p = false → r.acc = .atomic → poisonIn s.poison key r.size = none → Answers (exec row s) fun t =>
            let n := atomicNew r.fn (8 * r.size) (readMem s.mem key r.size) r.data r.k1.toNat r.rm.toNat
            answered t 0 (atomicOld r.fn (8 * r.size) (readMem s.mem key r.size)) n.2 ∧ readMem t.mem key r.size = n.1 % 256 ^ r.size ∧
            ∀ x, x < key ∨ key + r.size ≤ x → readByte t.mem x = readByte s.mem x)) ∧
    ∀ a k u, s.ev.a ≠ 1 → s.arrived = some (.ans a) → a.req.who = .thread k u → a.req.peer = none →
      let r := a.req
      let sl := s.slot k u
      let row : Instr := match r.acc with
        | .store => .storeAnswer
        | .read => .readAnswer
        | .atomic => .atomicAnswer
      (r.acc = .store → Answers (exec row s) fun t =>
        let w := t.slot k u
        (w.cntN, w.cntP, w.cntF) = (if r.cls = 1 then sl.cntN - 1 else sl.cntN, if r.cls = 2 then sl.cntP - 1 else sl.cntP,
          if r.cls = 3 then sl.cntF - 1 else sl.cntF) ∧
        (a.status = 0 → w.refusals = sl.refusals) ∧
        (a.status ≠ 0 → sl.refusals.length < 4 → w.refusals = sl.refusals ++ [⟨r.addr, r.size, Cause.ofCode a.status, false⟩]) ∧
        { w with cntN := sl.cntN, cntP := sl.cntP, cntF := sl.cntF, refusals := sl.refusals } = sl ∧
        OnlySlot s.taken t k u) ∧
      (r.acc ≠ .store → s.heldPark k u r.lid = false → sl.wait ≠ .answer ∨ sl.lid ≠ r.lid → exec row s = .next s.taken) ∧
      (r.acc ≠ .store → s.heldPark k u r.lid = false → sl.wait = .answer → sl.lid = r.lid → sl.parkReq = false → sl.pend = none →
        (r.acc = .read → a.status = 0 → r.code ≠ 4 → Answers (exec row s) fun t =>
          (∀ x, (t.slot k u).xr x = if x = r.d ∧ r.d ≠ 0 then extendLoad r.code r.sign a.value else sl.xr x) ∧
          sl.At (t.slot k u) (sl.pc + BitVec.ofNat 64 r.len) true ∧ sl.SameButX (t.slot k u) ∧ OnlySlot s.taken t k u) ∧
        (r.acc = .atomic → a.status = 0 → Answers (exec row s) fun t =>
          let w := t.slot k u
          (∀ x, w.xr x = if x = r.d ∧ r.d ≠ 0 then BitVec.ofNat 64 a.value else sl.xr x) ∧
          sl.At w (sl.pc + BitVec.ofNat 64 r.len) true ∧ w.status = putField sl.status 0 5 (sl.flags ||| a.flags).toNat ∧
          w.fpx = (if a.flags &&& sl.enable = 0 then sl.fpx else some (sl.pc, a.flags, false)) ∧
          sl.SameButX { w with status := sl.status, fpx := sl.fpx } ∧ OnlySlot s.taken t k u) ∧
        (a.status ≠ 0 → r.nt = false → sl.flk = 0 → Answers (exec row s) fun t =>
          let w := t.slot k u
          w.st = .park ∧ w.cause = (Cause.ofCode a.status).code ∧ w.pc = sl.pc ∧ w.xr = sl.xr ∧ w.tag = (sl.tag + 1) % 65536 ∧
          t.mem = s.mem ∧ t.flight = s.taken.flight ∧ ∀ j v, j ≠ k ∨ v ≠ u → t.slot j v = s.slot j v))

/-- R286, R352, R354 to R357, R359 and R405 for the requests of threads. -/
def Obligations.TranslationSteps : Prop :=
  ∀ (s : State),
    let took (t : State) : Prop := t.mem = s.mem ∧ t.tiles = s.tiles ∧ t.poison = s.poison
    (∀ r k u, s.arrived = some (.req r) → r.who = .thread k u →
      (s.pkgReady r = false → exec .packageRequest s = .next s) ∧
      (∀ key, s.pkgReady r = true → r.phys = some key →
        (r.acc = .read → s.heldPark k u r.lid = false → r.peer = none → poisonIn s.poison key r.size = none →
          Answers (exec .packageRequest s) fun t =>
            Sent s.taken t (.ans { req := r, status := 0, value := readMem s.mem key r.size, flags := 0 }) ∧ took t) ∧
        (r.acc = .store → partialPoison s.poison key r.size = none → Answers (exec .packageRequest s) fun t =>
          Sent s.taken t (.ans { req := r, status := 0, value := 0, flags := 0 }) ∧ t.tiles = s.tiles ∧
          readMem t.mem key r.size = r.data % 256 ^ r.size ∧ ∀ x, x < key ∨ key + r.size ≤ x → readByte t.mem x = readByte s.mem x)) ∧
      (s.pkgReady r = true → r.phys = none → s.heldBefore r = false →
        let r' := { r with grant := none, gen := s.fbGen }
        (wf r.addr 56 8 = 4 → (s.part r.part).ptEn = true → s.cached r' = none → Answers (exec .packageRequest s) fun t =>
          Sent s.taken t (.table { r' with lvl := 3, tbl := (s.part r.part).ptAddr }) ∧ took t) ∧
        (wf r.addr 56 8 = 4 → (s.part r.part).ptEn = false → r.acc = .store → s.faults.length < 1024 →
          Answers (exec .packageRequest s) fun t => t.held = s.held ++ [r'] ∧ took t ∧
            ∃ x, t.faults = s.faults ++ [x] ∧ x.1 = r.addr ∧ wf x.2.1 0 16 = s.fbGen % 65536 ∧ wf x.2.1 40 8 = 4) ∧
        (wf r.addr 56 8 ≠ 4 → r.grant = none → s.findGrant r = none → r.acc = .store → Answers (exec .packageRequest s) fun t =>
          Sent s.taken t (.ans { req := r, status := 13, value := 0, flags := 0 }) ∧ took t))) ∧
    (∀ r k u, s.arrived = some (.table r) → r.who = .thread k u →
      let at_ := r.tbl + 8 * pteIndex r.lvl r.va
      let e := readMem s.mem (hbmKey at_) 8
      let p := s.part r.root
      poisonIn s.poison (hbmKey at_) 8 = none →
      (pteV e = false → r.acc = .store → r.gen = s.fbGen → s.faults.length < 1024 → r.lvl < 4 → at_ < 2 ^ 64 → Answers (exec .tableRead s) fun t =>
        t.held = s.held ++ [r] ∧ took t ∧
        ∃ x, t.faults = s.faults ++ [x] ∧ x.1 = r.addr ∧ wf x.2.1 40 8 = 0 ∧ wf x.2.1 48 8 = r.lvl ∧ x.2.2.2.toNat = at_) ∧
      (pteV e = true → pteBad p.hbase p.hlen e r.lvl = false →
        (pteLeaf e = false → Answers (exec .tableRead s) fun t =>
          Sent s.taken t (.table { r with lvl := r.lvl - 1, tbl := pteAddr e }) ∧ took t) ∧
        (pteLeaf e = true → pteOwner e = p.owner → (r.acc ≠ .read → pteW e = true) →
          s.mgmt.quiesced.contains (hbmChan (pteAddr e + r.va % pageBytes r.lvl)) = false → Answers (exec .tableRead s) fun t =>
          Sent s.taken t (.req { r with phys := some (hbmKey (pteAddr e + r.va % pageBytes r.lvl)) }) ∧ took t ∧
          (r.agent, r.root, r.lvl, r.va / pageBytes r.lvl, e) ∈ t.tlb) ∧
        (pteLeaf e = true → pteOwner e ≠ p.owner → r.acc = .store → Answers (exec .tableRead s) fun t =>
          Sent s.taken t (.ans { req := r, status := 7, value := 0, flags := 0 }) ∧ took t))) ∧
    (s.ev.a % 65536 ≠ s.fbGen → exec .faultFlush s = .next s) ∧
    (s.ev.a % 65536 = s.fbGen →
      let g := (s.fbGen + 1) % 65536
      (Answers (exec .faultFlush s) fun t => t.fbGen = g) ∧
      (s.held = [] → Answers (exec .faultFlush s) fun t =>
        t.faults = [] ∧ t.fbOvf = false ∧ { t with fbGen := s.fbGen, faults := s.faults, fbOvf := s.fbOvf } = s) ∧
      ∀ r k u, s.held = [r] → r.who = .thread k u → r.acc = .store → wf r.addr 56 8 = 4 →
        let r' := { r with phys := none, gen := g, grant := none }
        ((s.part r.part).ptEn = false → Answers (exec .faultFlush s) fun t => t.held = [r'] ∧ took t ∧ t.flight = s.flight ∧
          ∃ x, t.faults = [x] ∧ x.1 = r.addr ∧ wf x.2.1 0 16 = g ∧ wf x.2.1 40 8 = 4) ∧
        ∀ lvl e, (s.part r.part).ptEn = true → s.cached r' = some (lvl, e) →
          (pteOwner e ≠ (s.part r.part).owner ∨ pteW e = false → Answers (exec .faultFlush s) fun t =>
            Sent s t (.ans { req := r', status := 7, value := 0, flags := 0 }) ∧ t.held = [] ∧ t.faults = [] ∧ took t) ∧
          (let pa := pteAddr e + r.va % pageBytes lvl
           pteOwner e = (s.part r.part).owner → pteW e = true → s.mgmt.quiesced.contains (hbmChan pa) = false →
            s.flight.all (fun f => match f.msg with
              | .req _ => false
              | .table _ => false
              | _ => true) = true → partialPoison s.poison (hbmKey pa) r.size = none → Answers (exec .faultFlush s) fun t =>
            Sent s t (.ans { req := { r' with phys := some (hbmKey pa) }, status := 0, value := 0, flags := 0 }) ∧ t.held = [] ∧ t.faults = [] ∧
            readMem t.mem (hbmKey pa) r.size = r.data % 256 ^ r.size ∧
            ∀ x, x < hbmKey pa ∨ hbmKey pa + r.size ≤ x → readByte t.mem x = readByte s.mem x)) ∧
    (let va := s.ev.a % 2 ^ 32 * 65536
     Answers (exec .xinvPage s) fun t => t.xinvBusy = true ∧ Sent s t (.xinvDone s.ev.num (s.ev.a % 2 ^ 32) false) ∧ took t ∧
       ∀ c, c ∈ t.tlb ↔ c ∈ s.tlb ∧ ¬ (c.2.1 = s.ev.num ∧ c.2.2.2.1 = va / pageBytes c.2.2.1)) ∧
    (Answers (exec .xinvAll s) fun t => t.xinvBusy = true ∧ Sent s t (.xinvDone s.ev.num 0 true) ∧ took t ∧ ∀ c, c ∈ t.tlb ↔ c ∈ s.tlb ∧ c.2.1 ≠ s.ev.num) ∧
    (∀ p vpn all, s.arrived = some (.xinvDone p vpn all) →
      (s.translatedDone = false → exec .xinvDone s = .next s) ∧
      (s.translatedDone = true → Answers (exec .xinvDone s) fun t =>
        t.xinvBusy = false ∧ { t with flight := s.flight, xinvBusy := s.xinvBusy, tlb := s.tlb } = s ∧ t.flight = s.taken.flight ∧
        ∀ c, c ∈ t.tlb ↔ c ∈ s.tlb ∧ ¬ (c.2.1 = p ∧ (all = true ∨ c.2.2.2.1 = vpn * 65536 / pageBytes c.2.2.1))))

/-- R170, R174, R185, R189, R190 and R197. -/
def Obligations.EngineSteps : Prop :=
  ∀ (s : State),
    let t0 := s.ev.num
    let tl := s.tile t0
    let merged (t : State) (u lid : Nat) (fl : BitVec 5) : Prop := (s.slot t0 u).st ≠ .free → (s.slot t0 u).lid = lid →
      if (s.slot t0 u).wait = .exit then (t.slot t0 u).flags = (s.slot t0 u).flags
      else (t.slot t0 u).flags = (s.slot t0 u).flags ||| fl
    (∀ e x, tl.seqHead = some e → e.isRepeat = false → e.err = none → e.ready = 0 → e.prog = Progress.fresh → e.st = .wait →
      e.vx 0 = some x → (x.fn = .add ∨ x.fn = .sub ∨ x.fn = .mul ∨ x.fn = .min ∨ x.fn = .max ∨ x.fn = .and ∨ x.fn = .or ∨ x.fn = .xor) →
      x.o.w.t < 8 → x.o.w.d < 8 → x.o.w.a < 8 → x.o.w.b < 8 → x.o.rd.kind = 0 → x.o.ra.kind = 0 → x.o.rb.kind = 0 → x.n = 1 →
      tl.unusable = false →
      let ka := s.sliceKey t0 (x.o.ra.addr 0 0).toNat
      let kb := s.sliceKey t0 (x.o.rb.addr 0 0).toNat
      let kd := s.sliceKey t0 (x.o.rd.addr 0 0).toNat
      poisonIn s.poison ka x.o.ra.size = none → poisonIn s.poison kb x.o.rb.size = none → partialPoison s.poison kd x.o.rd.size = none →
      Answers (exec .seqEntryStart s) fun t =>
        readMem t.mem kd x.o.rd.size =
          vInt x.fn x.o.w.t x.o.w.r (readMem s.mem ka x.o.ra.size) (readMem s.mem kb x.o.rb.size % 2 ^ (8 * x.o.z)) 0 % 256 ^ x.o.rd.size ∧
        (∀ k, k < kd ∨ kd + x.o.rd.size ≤ k → readByte t.mem k = readByte s.mem k) ∧ (∀ k u, t.slot k u = s.slot k u) ∧
        ∃ e', (t.tile t0).seqHead = some e' ∧ e'.num = e.num ∧ e'.st = .run ∧ e'.err = none ∧ e'.ready = s.now + 1) ∧
    (s.seqFinished t0 = false → exec .seqEntryComplete s = .next s) ∧
    (∀ e, s.seqFinished t0 = true → tl.seqHead = some e → e.isRepeat = false → Answers (exec .seqEntryComplete s) fun t =>
      merged t e.slot e.lid e.prog.flags ∧ (∀ x ∈ (t.tile t0).seq, x.num = e.num → x.st = .done) ∧
      (∀ x ∈ tl.seq, x.num ≠ e.num → x ∈ (t.tile t0).seq) ∧ OnlyTile s t t0 ∧ ∀ u, u ≠ e.slot → t.slot t0 u = s.slot t0 u) ∧
    (∀ e c g, tl.seqHead = some e → e.isRepeat = false → e.err = some (c, g) → (s.slot t0 e.slot).st ≠ .free →
      (s.slot t0 e.slot).lid = e.lid → tl.unpushed = none → Answers (exec .seqEntryStop s) fun t =>
      merged t e.slot e.lid e.prog.flags ∧
      (t.slot t0 e.slot).engErrs = (s.slot t0 e.slot).engErrs ++ [⟨false, c, e.pc, if c = .poison then BitVec.ofNat 64 g else 0⟩] ∧
      (∀ x ∈ (t.tile t0).seq, x.slot = e.slot → x.st ≠ .wait) ∧
      (∀ x ∈ tl.seq, x.slot ≠ e.slot → x.num ≠ e.num → x ∈ (t.tile t0).seq) ∧ OnlyTile s t t0 ∧
      ∀ u, u ≠ e.slot → t.slot t0 u = s.slot t0 u) ∧
    (∀ e c g q v, tl.seqHead = some e → e.isRepeat = false → e.err = some (c, g) → tl.unpushed = some (2, q, v) → (tl.queue q).length < 8 →
      Answers (exec .seqEntryStop s) fun t => (t.tile t0).queue q = tl.queue q ++ [BitVec.ofNat 128 v] ∧
        ∀ x ∈ (t.tile t0).seq, x.num = e.num → x.st = .done) ∧
    (∀ k dom pos len size data bad, s.ev.a ≠ 1 → s.arrived = some (.slice k dom pos len size data bad) →
      ((s.tile k).seqHead = none → exec .vxchgSliceArrival s = .next s.taken) ∧
      ∀ e x ms j, (s.tile k).seqHead = some e → e.isRepeat = false → e.vx 0 = some x → x.fn = .xchg → e.st = .run →
        entryDom (s.launch e.lid).part (wf x.val 0 8) = dom → s.xchgMembers k (wf x.val 0 8) = some (ms, j) →
        (len ≠ x.n / ms.length ∨ size ≠ x.o.z → Answers (exec .vxchgSliceArrival s) fun t => t.mem = s.mem ∧
          ∃ e', (t.tile k).seqHead = some e' ∧ e'.xcBad = true ∧ e'.xcGot = e.xcGot + 1) ∧
        (len = 1 → x.n / ms.length = 1 → size = x.o.z → (s.tile k).unusable = false →
          let kd := s.sliceKey k (x.o.rd.addr 0 pos).toNat
          partialPoison s.poison kd x.o.z = none → Answers (exec .vxchgSliceArrival s) fun t =>
            readMem t.mem kd x.o.z = data.headD 0 % 256 ^ x.o.z ∧
            (∀ b, b < kd ∨ kd + x.o.z ≤ b → readByte t.mem b = readByte s.mem b) ∧
            ∃ e', (t.tile k).seqHead = some e' ∧ e'.xcBad = e.xcBad ∧ e'.xcGot = e.xcGot + 1)) ∧
    (s.mPick t0 = none → exec .matrixGrant s = .next s) ∧
    (∀ q c a rest, s.mPick t0 = some q →
      let k := penTile t0 q
      (s.tile k).mWgt = 1 → (s.tile k).mq = c :: rest → c.instr = .mzro a → c.steps = 0 → c.finished = false → c.err = none → c.rd.count = 1 →
      (s.tile k).unusable = false →
      let kd := s.sliceKey k (c.rd.addr 0 0).toNat
      partialPoison s.poison kd c.rd.size = none → Answers (exec .matrixGrant s) fun t =>
        readMem t.mem kd c.rd.size = 0 ∧ (∀ b, b < kd ∨ kd + c.rd.size ≤ b → readByte t.mem b = readByte s.mem b) ∧
        (t.pen t0).arb = (q + 1) % 8 ∧ (∃ c', (t.tile k).mq = c' :: rest ∧ c'.ticket = c.ticket ∧ c'.finished = true) ∧
        ∀ j u, t.slot j u = s.slot j u) ∧
    (s.mFinished t0 = false → exec .matrixCommandComplete s = .next s) ∧
    (∀ c rest, s.mFinished t0 = true → tl.mq = c :: rest → Answers (exec .matrixCommandComplete s) fun t =>
      (t.tile t0).mq = rest ∧ (t.tile t0).mC = (match rest with | [] => tl.mI | x :: _ => x.ticket) ∧ merged t c.slot c.lid c.flags ∧
      (∀ u, (s.slot t0 u).st ≠ .free → (s.slot t0 u).st ≠ .out → (t.slot t0 u).evt.getLsbD 3 = true) ∧ OnlyTile s t t0) ∧
    (∀ c rest k g, tl.mq = c :: rest → c.err = some (k, g) → (s.slot t0 c.slot).st ≠ .free → (s.slot t0 c.slot).lid = c.lid →
      Answers (exec .matrixCommandStop s) fun t =>
      (t.tile t0).mq = rest.filter (fun x => x.slot != c.slot) ∧ merged t c.slot c.lid c.flags ∧
      (t.slot t0 c.slot).engErrs = (s.slot t0 c.slot).engErrs ++ [⟨true, k, c.pc, if k = .poison then BitVec.ofNat 64 g else 0⟩] ∧
      OnlyTile s t t0 ∧ ∀ u, u ≠ c.slot → t.slot t0 u = s.slot t0 u)

/-- R200, R202, R205 and R206. -/
def Obligations.JobSteps : Prop :=
  ∀ (s : State),
    let p := s.ev.num
    let jobs := (s.pen p).jobs
    (s.droverPick p = none → exec .droverJobStart s = .next s) ∧
    (∀ j off pl, s.droverPick p = some j → (s.pen p).job j.xid = some j → j.st = .queued → j.mcast = [] → j.lside = 0 → j.killed = false →
      j.poisoned = false → j.next = 0 → 1 ≤ j.bytes → j.bytes ≤ 16 - j.dst.toNat % 16 → decodeWin j.src = some (.loc off) →
      (decodeWin j.dst).bind (s.place j.tile) = some pl → (∀ i o, decodeWin j.dst ≠ some (.pod i o)) →
      (∀ q i o, decodeWin j.dst ≠ some (.system q i o)) → (s.tile j.tile).unusable = false →
      poisonIn s.poison (s.sliceKey j.tile off) j.bytes = none → Answers (exec .droverJobStart s) fun t =>
        (∃ r, Sent s t (.req r) ∧ r.acc = .store ∧ r.who = .job p j.xid ∧ r.addr = j.dst ∧ r.size = j.bytes ∧
          r.data = readMem s.mem (s.sliceKey j.tile off) j.bytes) ∧
        (∃ j', (t.pen p).job j.xid = some j' ∧ j'.st = .running ∧ j'.next = 1 ∧ j'.open_ = j.open_ + 1) ∧
        (∀ q, q ≠ p → t.pen q = s.pen q) ∧ { t with pens := s.pens, flight := s.flight, next := s.next, ctr := s.ctr } = s) ∧
    (jobs.find? Job.finished = none → exec .droverJobComplete s = .next s) ∧
    (∀ j, jobs.find? Job.finished = some j → Answers (exec .droverJobComplete s) fun t =>
      (t.pen p).jobs = jobs.map (fun k => if k.xid = j.xid then { k with st := .placing } else k) ∧
      (∀ q, q ≠ p → t.pen q = s.pen q) ∧ { t with pens := s.pens } = s) ∧
    (jobs.find? s.placeable = none → exec .droverCompletionPlace s = .next s) ∧
    ∀ j, jobs.find? s.placeable = some j → s.copies j.tile = [j.tile] → j.strm = false → j.xid < 65536 → j.hslot < 32 →
      Answers (exec .droverCompletionPlace s) fun t =>
        (∃ e, (t.tile j.tile).inbox = (s.tile j.tile).inbox ++ [e] ∧ ef e 0 2 = 2 ∧ ef e 2 2 = j.xid ∧ ef e 4 1 = j.status ∧
          ef e 8 8 = j.landed % 2 ^ 64 ∧ ef e 24 8 = j.arg.toNat) ∧
        (j.hval = true → ((s.tile j.tile).routine j.hslot).vld = true → ((s.tile j.tile).routine j.hslot).lastAt ≠ s.now →
          ((t.tile j.tile).routine j.hslot).rdy = true ∧ ((t.tile j.tile).routine j.hslot).rarg = j.arg) ∧
        (t.pen p).jobs = jobs.filter (fun k => k.xid != j.xid) ∧ (∀ q, q ≠ p → t.pen q = s.pen q) ∧
        { t with tiles := s.tiles, pens := s.pens } = s ∧ ∀ k, k ≠ j.tile → t.tile k = s.tile k

/-- R211, R213, R214, R293, R294, R297, R298 and R323. -/
def Obligations.CounterSteps : Prop :=
  ∀ (s : State),
    (∀ c, s.arrived = some (.ctr c) →
      let l := s.launch (s.tile c.tile).lid
      let back (t : State) (v : Nat) : Prop := Sent s.taken t (.ctrAns { c with result := BitVec.ofNat 64 v })
      (c.fn = 1 → Answers (exec .counterRequest s) fun t => t.counters = s.counters ∧ t.tiles = s.tiles ∧ t.mem = s.mem ∧
        back t (if l.cnt ≤ c.index then 2 ^ 64 - 1 else match tget? l.ctrs c.index with | some k => (s.counter k).word | none => 0)) ∧
      (∀ k, c.fn = 2 → c.index < l.cnt → tget? l.ctrs c.index = some k → (s.counter k).act ≠ 0 → Answers (exec .counterRequest s) fun t =>
        back t (s.counter k).word ∧ (t.counter k).st = 0 ∧ (t.counter k).count = 0 ∧ (∀ q, q ≠ k → t.counter q = s.counter q) ∧
        t.tiles = s.tiles ∧ t.mem = s.mem) ∧
      (c.fn = 0 → l.cnt ≤ c.index → Answers (exec .counterRequest s) fun t => back t 2 ∧ t.counters = s.counters) ∧
      (∀ k, c.fn = 0 → c.index < l.cnt → tget? l.ctrs c.index = some k → (s.counter k).st = 1 → Answers (exec .counterRequest s) fun t =>
        back t 1 ∧ t.counters = s.counters) ∧
      (∀ k q, c.fn = 0 → c.index < l.cnt → tget? l.ctrs c.index = none → l.armFieldBad c.index c.arg = false → s.ctrFits c.tile c.arg = true →
        s.ctrAt c.tile (arBase c.arg) = some q → s.ctrFree q.1 q.2 = some k → arAct c.arg ≠ 0 → Answers (exec .counterRequest s) fun t =>
        back t 0 ∧ (t.counter k).st = 1 ∧ (t.counter k).count = 0 ∧ (t.counter k).base = arBase c.arg ∧ (t.counter k).len = arLen c.arg ∧
        (t.counter k).total = arTotal c.arg ∧ (t.counter k).act = arAct c.arg ∧ (∀ x, x ≠ k → t.counter x = s.counter x) ∧
        tget? (t.launch (s.tile c.tile).lid).ctrs c.index = some k)) ∧
    (∀ c, s.arrived = some (.ctrAns c) → c.peer = none → (s.slot c.tile c.slot).wait = .answer →
      (s.slot c.tile c.slot).parkReq = false → (s.slot c.tile c.slot).pend = none →
      let sl := s.slot c.tile c.slot
      Answers (exec .counterAnswer s) fun t => (∀ r, (t.slot c.tile c.slot).xr r = if r = c.d ∧ c.d ≠ 0 then c.result else sl.xr r) ∧
        sl.At (t.slot c.tile c.slot) (sl.pc + 4) true ∧ sl.SameButX (t.slot c.tile c.slot) ∧ OnlySlot s.taken t c.tile c.slot) ∧
    (s.counters.filter (fun p => p.2.due) = [] → exec .counterFire s = .next { s with firedAt := s.now }) ∧
    (∀ k c, s.counters.filter (fun p => p.2.due) = [(k, c)] → s.counter k = c → c.pend < 255 → Answers (exec .counterFire s) fun t =>
      t.counter k = { c with st := if c.mode = 0 then 2 else 1, count := if c.mode = 0 then c.count else c.count - c.total,
                             ovr := c.ovr || decide (c.total < c.count), fires := (c.fires + 1) % 2 ^ 32,
                             hop := if c.mode = 1 ∧ c.total ≤ c.count - c.total then c.hop else 0, pend := c.pend + 1 } ∧
      (∃ f, t.firings = s.firings ++ [f] ∧ f.key = k ∧ f.act = c.act ∧ f.tgt = c.tgt ∧ f.arg = c.arg ∧ f.count = c.count ∧
        f.fires = (c.fires + 1) % 2 ^ 32 ∧ f.hop = c.hop + 1 ∧ f.at_ = s.now) ∧ (∀ q, q ≠ k → t.counter q = s.counter q) ∧
      { t with counters := s.counters, firings := s.firings, firedAt := s.firedAt } = s) ∧
    (∀ f, s.firings[s.ev.num]? = some f →
      let c := s.counter f.key
      let k := s.firingTile c.lid f.tgt
      ((s.firingFirst f && s.firingRoom f) = false → f.act ≠ 0 → exec .firingDelivery s = .next s) ∧
      ((s.firingFirst f && s.firingRoom f) = true →
        (f.act = 2 → s.copies k = [k] → s.fenced k = false → Answers (exec .firingDelivery s) fun t =>
          (∃ e, (t.tile k).inbox = (s.tile k).inbox ++ [e] ∧ ef e 0 2 = 4 ∧ ef e 2 2 = c.index % 65536 ∧ ef e 8 8 = f.arg.toNat ∧
            ef e 16 8 = f.count % 2 ^ 64) ∧
          t.firings = s.firings.eraseIdx s.ev.num ∧ (t.counter f.key).pend = c.pend - 1) ∧
        (∀ q, f.act = 3 → f.hop < 9 → tget? (s.launch c.lid).ctrs (nf f.tgt 0 16) = some q → Answers (exec .firingDelivery s) fun t =>
          (∃ x, t.flight = s.flight ++ [x] ∧ x.msg = .ctrAdd q c.lid (wf f.arg 0 32) f.hop ∧
            if ctrKind q = ctrKind f.key ∧ ctrIdx q = ctrIdx f.key then x.due = f.at_ + 1 else s.now + 3 ≤ x.due) ∧ t.firings = s.firings.eraseIdx s.ev.num ∧ (t.counter f.key).pend = c.pend - 1))) ∧
    (∀ k lid n hop, s.arrived = some (.ctrAdd k lid n hop) →
      (tget? s.counters k = none ∨ (s.counter k).lid ≠ lid → exec .counterAddition s = .next s.taken) ∧
      (∀ c, tget? s.counters k = some c → c.lid = lid → c.st = 1 → n ≠ 0 → Answers (exec .counterAddition s) fun t =>
        t.counter k = { c with count := min (c.count + n) (2 ^ 32 - 1), hop := max c.hop hop } ∧
        (∀ q, q ≠ k → t.counter q = s.counter q) ∧ { t with counters := s.counters, flight := s.flight } = s)) ∧
    ∀ b k, (s.group s.ev.num).banks = [(b, [k])] → b < 8 → (s.tile s.ev.a).eligible k = true →
      ((s.tile s.ev.a).routine k.slot).vld = true → ((s.tile s.ev.a).routine k.slot).lastBy ≤ 3 → Answers (exec .poolPop s) fun t =>
        (t.group s.ev.num).banks = [(b, [])] ∧ (t.group s.ev.num).rot = (groupPos s.ev.a + 1) % 64 ∧
        ((t.tile s.ev.a).routine k.slot).rdy = true ∧ ((t.tile s.ev.a).routine k.slot).rarg = k.arg ∧
        ∀ j, j ≠ s.ev.a → t.tile j = s.tile j

/-- R218 to R220, R333, R336, R338, R346 to R348 and R350. -/
def Obligations.HurdleAndTreeSteps : Prop :=
  (∀ cs : List Contrib, cs ≠ [] → (∀ c ∈ cs, c.op = some 0) → (mkRelease cs).value = (cs.map Contrib.val).foldl (· + ·) 0 ∧
    (mkRelease cs).mix = false ∧ (mkRelease cs).none_ = false ∧ (mkRelease cs).op = 0) ∧
  ∀ (s : State),
    let t0 := s.ev.num
    let u0 := s.ev.a
    let sl := s.slot t0 u0
    let tl := s.tile t0
    (∀ dom drop op val abort, sl.wait = .arrive dom drop op val abort → s.paired t0 = false → sl.pend = none →
      let h := tl.hurd (domKey dom)
      (s.drained t0 u0 = false → exec .hurdleArrive s = .next s) ∧
      (s.drained t0 u0 = true → h.arr = false → h.drop = false → Answers (exec .hurdleArrive s) fun t =>
        Sent s t (.hurArrive dom ⟨some (s.seenTile t0), none, none, op, val, abort, drop⟩) ∧
        ((t.tile t0).hurd (domKey dom)).arr = true ∧ ((t.tile t0).hurd (domKey dom)).drop = drop ∧
        sl.At (t.slot t0 u0) (sl.pc + 4) true ∧ (t.slot t0 u0).xr = sl.xr ∧ t.mem = s.mem ∧
        ∀ k u, k ≠ t0 ∨ u ≠ u0 → t.slot k u = s.slot k u) ∧
      (s.drained t0 u0 = true → h.arr = true ∨ h.drop = true → sl.flk = 0 → Answers (exec .hurdleArrive s) fun t =>
        (t.slot t0 u0).st = .park ∧ (t.slot t0 u0).cause = 11 ∧ (t.slot t0 u0).pc = sl.pc ∧ t.flight = s.flight ∧ t.mem = s.mem)) ∧
    (∀ d c, s.ev.a = 0 → s.arrived = some (.hurArrive d c) → c.counter = none → Answers (exec .hurdleRootCount s) fun t =>
      (t.root d).arrived = (s.root d).arrived ++
        [if domIsEntry d = false ∧ 2 ≤ domLevel d ∧ s.isReady (29 + domLevel d) = false then { c with abort := 0xFF } else c] ∧
      (∀ x, x ≠ d → t.root x = s.root x) ∧ { t with roots := s.roots, flight := s.flight } = s ∧ t.flight = s.taken.flight) ∧
    (s.ev.a = 3 → Answers (exec .hurdleRootCount s) fun t => (s.ev.b, s.ev.c) ∈ (t.root t0).elsewhere ∧
      (∀ x, x ≠ t0 → t.root x = s.root x) ∧ { t with roots := s.roots } = s) ∧
    (s.ev.a = 2 → s.phaseFull t0 = false → exec .hurdleRootCount s = .next s) ∧
    (s.ev.a = 2 → s.phaseFull t0 = true → (∀ x, s.holdsRelease t0 x = false) → domIsEntry t0 = false → domLevel t0 ≤ 1 →
      (s.root t0).err = false →
      Answers (exec .hurdleRootCount s) fun t =>
        (t.root t0).arrived = [] ∧ (t.root t0).phase = (s.root t0).phase + 1 ∧ (∀ x, x ≠ t0 → t.root x = s.root x) ∧
        (∀ c ∈ (s.root t0).arrived, ∀ x, c.tile = some x → ∀ y ∈ s.copies x, ∃ f ∈ t.flight, f.due = s.now + (if domLevel t0 = 0 then 6 else 48) ∧
          f.msg = .hurRelease t0 y (mkRelease (s.root t0).arrived)) ∧
        t.tiles = s.tiles ∧ t.mem = s.mem) ∧
    (∀ d x r, s.arrived = some (.hurRelease d x r) →
      ((s.domLaunches d).any (s.holdsLaunch x) = false → exec .hurdleRelease s = .next s.taken) ∧
      ((s.domLaunches d).any (s.holdsLaunch x) = true → Answers (exec .hurdleRelease s) fun t =>
        let h := (s.tile x).hurd (domKey d)
        (t.tile x).hurd (domKey d) = ⟨false, h.drop, (h.rels + 1) % 2 ^ 32, r.value, BitVec.ofNat 8 r.abort, r.op, r.mix, r.none_⟩ ∧
        (domIsEntry d = false → (∀ n < 4, (t.tile x).phaseBit n = ((s.tile x).phaseBit n || decide (n = domLevel d))) ∧
          (t.tile x).stepCount (domLevel d) = ((s.tile x).stepCount (domLevel d) + 1) % 2 ^ 64) ∧
        (domIsEntry d = true → (t.tile x).phase = (s.tile x).phase) ∧
        (∀ u, (s.slot x u).st ≠ .free → (s.slot x u).st ≠ .out → (t.slot x u).evt.getLsbD 2 = true) ∧
        (∀ k, k ≠ x → t.tile k = s.tile k) ∧ t.mem = s.mem ∧ t.flight = s.taken.flight)) ∧
    (s.ttDue t0 u0 = false → exec .timetableEnd s = .next s) ∧
    (s.ttDue t0 u0 = true → Answers (exec .timetableEnd s) fun t => (∀ n, (t.tile t0).phaseBit n = (tl.phaseBit n && decide (n ≠ u0))) ∧
      ((t.tile t0).tts u0).run = false ∧ (t.tile t0).slots = tl.slots ∧ OnlyTile s t t0) ∧
    (∀ e, s.sendsNow t0 u0 = [e] → tl.unusable = false →
      let w := (s.launch tl.lid).beatWidth
      let key := s.sliceKey t0 (e.ofs + w * (s.now - (tl.tts u0).t0 - e.start))
      let dst := s.copyTile t0 (tDie t0) (e.dest / 256) (e.dest % 256)
      poisonIn s.poison key w = none → Answers (exec .beatSend s) fun t =>
        (∃ f, t.flight = s.flight ++ [f] ∧ f.due = s.now + hops t0 dst + 2 ∧ f.msg = .beat u0 t0 dst w (readMem s.mem key w) s.now false) ∧
        ((t.tile t0).tts u0).sent = s.now - (tl.tts u0).t0 + 1 ∧ t.mem = s.mem ∧ ∀ k u, t.slot k u = s.slot k u) ∧
    (∀ lvl src dst w data x bad, s.arrived = some (.beat lvl src dst w data x bad) → (s.tile dst).unusable = false →
      let tt := (s.tile dst).tts lvl
      let o := s.now - tt.t0
      let pick := (s.timetable dst lvl (if tt.run then tt.cur else 255)).find? fun e => !e.send && decide (e.start ≤ o ∧ o ≤ e.stop)
      (pick = none → Answers (exec .beatReceive s) fun t => (t.tile dst).sel.sldr = min ((s.tile dst).sel.sldr + 1) (2 ^ 32 - 1) ∧
        t.mem = s.mem ∧ ∀ k u, t.slot k u = s.slot k u) ∧
      (∀ e, pick = some e →
        let key := s.sliceKey dst (e.ofs + w * (o - e.start))
        (bad = true ∨ partialPoison s.poison key w = none) → Answers (exec .beatReceive s) fun t => readMem t.mem key w = data % 256 ^ w ∧
          (∀ b, b < key ∨ key + w ≤ b → readByte t.mem b = readByte s.mem b) ∧ t.tiles = s.tiles ∧
          (bad = true → 0 < w → (poisonIn t.poison key w).isSome = true))) ∧
    (let v := BitVec.ofNat 64 s.ev.a
     let d := BitVec.ofNat 64 s.ev.b
     let member := if tdDom d then s.entryHas t0 (tdEntry d) else nb (s.launch tl.lid).levels (tdLevel d)
     s.paired t0 = false → member = true → treeIll d = false →
      (tdKey d ∈ tl.busy → exec .treeInject s = .next s) ∧
      (tdKey d ∉ tl.busy → Answers (exec .treeInject s) fun t =>
        Sent s t (.treeTerm (if tdDom d then entryDom (s.launch tl.lid).part (tdEntry d) else s.domOf t0 (tdLevel d)) (s.seenTile t0) v d) ∧
        (∀ n, n ∈ (t.tile t0).busy ↔ n ∈ tl.busy ∨ n = tdKey d) ∧ t.mem = s.mem ∧
        ∀ k u, t.slot k u = s.slot k u)) ∧
    (∀ d x v desc, s.ev.a = 0 → s.arrived = some (.treeTerm d x v desc) → Answers (exec .treeRoundComplete s) fun t =>
      (t.round d).terms = (s.round d).terms ++ [(x + 1, v, desc)] ∧ (t.round d).lost = ((s.round d).lost || !s.isReady 33) ∧ (∀ y, y ≠ d → t.round y = s.round y) ∧
      { t with rounds := s.rounds, flight := s.flight } = s ∧ t.flight = s.taken.flight) ∧
    (2 ≤ s.ev.a → s.roundFull t0 = false → exec .treeRoundComplete s = .next s) ∧
    (2 ≤ s.ev.a → s.roundFull t0 = true → Answers (exec .treeRoundComplete s) fun t =>
      let n := ((s.round t0).num + 1) % 2 ^ 32
      let q := roundResult (s.round t0)
      (t.round t0).terms = [] ∧ (t.round t0).num = n ∧
      (∀ x ∈ s.treeMembers t0, ∀ y ∈ s.copies x, ∃ f ∈ t.flight, f.msg = .treeResult t0 y q.1 (BitVec.ofNat 64 (q.2 + n * 2 ^ 32))) ∧
      t.tiles = s.tiles ∧ t.mem = s.mem) ∧
    (∀ d x v st, s.arrived = some (.treeResult d x v st) →
      ((s.domLaunches d).any (s.holdsLaunch x) = false → exec .treeResultPlace s = .next s.taken) ∧
      ((s.domLaunches d).any (s.holdsLaunch x) = true → Answers (exec .treeResultPlace s) fun t => (t.tile x).xq = (s.tile x).xq ++ [(v, st)] ∧
        (t.tile x).slots = (s.tile x).slots ∧ OnlyTile s.taken t x)) ∧
    (tl.xq = [] → exec .treeExtract s = .next s) ∧
    (∀ v st rest, tl.xq = (v, st) :: rest → Answers (exec .treeExtract s) fun t => (t.tile t0).xq = rest ∧
      (∀ n, n ∈ (t.tile t0).busy ↔ n ∈ tl.busy ∧ n ≠ tdKey st) ∧ (t.tile t0).slots = tl.slots ∧
      OnlyTile s t t0) ∧
    (s.ev.a = 2 → s.tileStalls t0 tl = false → exec .watchdogStall s = .next s) ∧
    (s.ev.a = 2 → s.tileStalls t0 tl = true → (s.die s.ev.b).trq.length < 64 → Answers (exec .watchdogStall s) fun t =>
      (t.tile t0).stallTold = true ∧ t.mem = s.mem ∧ (∀ k u, t.slot k u = s.slot k u) ∧
      ∃ e, (t.die s.ev.b).trq = (s.die s.ev.b).trq ++ [(s.next, 16 + (s.launch tl.lid).part, e)] ∧ ef e 2 1 = 14 ∧ ef e 4 1 = tRow t0 ∧
        ef e 5 1 = tCol t0 ∧ ef e 28 4 = 2 ^ 11) ∧
    (s.ev.a = 0 → s.stallPhase t0 = some s.ev.b → (s.die s.ev.b).trq.length < 64 → Answers (exec .watchdogStall s) fun t =>
      s.ev.b ∈ (t.root t0).told ∧ t.mem = s.mem ∧ t.tiles = s.tiles ∧
      ∃ q e, (t.die s.ev.b).trq = (s.die s.ev.b).trq ++ [q] ∧ q.2.2 = e ∧ ef e 2 1 = 14 ∧ ef e 16 8 = ((s.root t0).phase + 1) % 2 ^ 64)

/-- R228, R230, R363, R38, R364, R365, R237, R238, R125, R127 and R128. -/
def Obligations.MessageSteps : Prop :=
  ∀ (s : State),
    let t0 := s.ev.num
    let u0 := s.ev.a
    let sl := s.slot t0 u0
    let tl := s.tile t0
    let gets (t : State) (k u : Nat) (d : Reg) (v : Word) : Prop :=
      (∀ r, (t.slot k u).xr r = if r = d ∧ d ≠ 0 then v else (s.slot k u).xr r) ∧
      (s.slot k u).At (t.slot k u) ((s.slot k u).pc + 4) true ∧ (s.slot k u).SameButX (t.slot k u)
    (tl.inbox = [] → exec .inboxCtrlRemove s = .next s) ∧
    (∀ e rest, tl.inbox = e :: rest → Answers (exec .inboxCtrlRemove s) fun t => (t.tile t0).inbox = rest ∧
      (ef e 0 2 = 3 → (t.launch (ef e 2 2)).ended = false) ∧ (t.tile t0).slots = tl.slots ∧ { t with tiles := s.tiles, launches := s.launches } = s ∧
      ∀ k, k ≠ t0 → t.tile k = s.tile k) ∧
    (∀ m, s.arrived = some (.sendm m) → m.slot < 8 →
      let dt := s.tile m.dest
      let back (t : State) (st : Nat) : Prop := Sent s.taken t (.sendmAns { m with status := st }) ∧ t.mem = s.mem
      let reach := s.draining (tDie m.dest) = false ∨ s.usesStack m.lid (s.stackOf (tDie m.dest)) = true
      let open_ := s.fenced m.dest = false ∧ reach ∧ s.dieExists (tDie m.dest) = true
      let holds := if m.byOwner then s.holdsOwner m.dest m.owner else s.holdsLaunch m.dest m.lid
      let alone := s.paired m.dest = false ∨ (m.byOwner = false ∧ tDie m.tile = tDie m.dest)
      let here := m.pgrp = s.physGroup (tDie m.dest) (tGroup m.dest)
      (s.fenced m.dest = true ∨ ¬ reach ∨ s.dieExists (tDie m.dest) = false → Answers (exec .messageArrival s) fun t => back t 3 ∧ t.tiles = s.tiles) ∧
      (open_ → ¬ here → Answers (exec .messageArrival s) fun t => back t 4 ∧ t.tiles = s.tiles) ∧
      (open_ → here → holds = false → Answers (exec .messageArrival s) fun t => back t 3 ∧ t.tiles = s.tiles) ∧
      (open_ → here → holds = true → alone →
        (32 ≤ dt.inbox.length → Answers (exec .messageArrival s) fun t => back t 1 ∧ t.tiles = s.tiles) ∧
        (dt.inbox.length < 32 → Answers (exec .messageArrival s) fun t => back t 0 ∧ (t.tile m.dest).inbox = dt.inbox ++ [m.entry] ∧
          (∀ u, (s.slot m.dest u).st ≠ .free → (s.slot m.dest u).st ≠ .out → (t.slot m.dest u).evt.getLsbD 1 = true) ∧
          ∀ k, k ≠ m.dest → t.tile k = s.tile k))) ∧
    (∀ m, s.ev.a ≠ 1 → s.arrived = some (.sendmAns m) → m.peer = none → (s.slot m.tile m.slot).wait = .answer →
      (s.slot m.tile m.slot).parkReq = false → (s.slot m.tile m.slot).pend = none → Answers (exec .sendmAnswer s) fun t => gets t m.tile m.slot m.d (BitVec.ofNat 64 m.status) ∧
        OnlySlot s.taken t m.tile m.slot) ∧
    (∀ k u e, s.trapFirst t0 = some (.slot k u) → (s.slot k u).trapMsg = some e →
      let p := (s.launch (s.slot k u).lid).part
      let sup := s.supTile p t0
      (s.hasSup p t0 = false → Answers (exec .trapMessageDelivery s) fun t => (t.slot k u).trapMsg = none ∧ t.toMgmt = e :: s.toMgmt ∧
        ∀ j v, j ≠ k ∨ v ≠ u → t.slot j v = s.slot j v) ∧
      (s.hasSup p t0 = true → 32 ≤ (s.tile sup).inbox.length → exec .trapMessageDelivery s = .next s) ∧
      (s.hasSup p t0 = true → (s.tile sup).inbox.length < 32 → Answers (exec .trapMessageDelivery s) fun t => (t.slot k u).trapMsg = none ∧
        (t.tile sup).inbox = (s.tile sup).inbox ++ [e] ∧ t.toMgmt = s.toMgmt ∧ t.mem = s.mem)) ∧
    (Answers (exec .tmrWrite s) fun t => (t.slot t0 u0).tmrEnd = (if s.ev.b % 2 ^ 64 = 0 then 0 else s.now + s.ev.b % 2 ^ 64) ∧
      { t.slot t0 u0 with tmrEnd := sl.tmrEnd } = sl ∧ OnlySlot s t t0 u0) ∧
    (sl.tmrDue s.now = false → exec .tmrExpire s = .next s) ∧
    (sl.tmrDue s.now = true → Answers (exec .tmrExpire s) fun t => (t.slot t0 u0).tmrEnd = 0 ∧
      (sl.st ≠ .free → sl.st ≠ .out → (t.slot t0 u0).evt.getLsbD 6 = true) ∧ (t.slot t0 u0).xr = sl.xr ∧ (t.slot t0 u0).pc = sl.pc ∧
      OnlySlot s t t0 u0) ∧
    (∀ k u, s.pkSlot t0 = some (k, u) → s.copies k = [k] →
      let r := nf tl.sel.pksel 19 5
      let w := s.slot k u
      let v := BitVec.ofNat 64 s.ev.a
      (w.st ≠ .park → exec .pkdatWrite s = .next s) ∧
      (w.st = .park → Answers (exec .pkdatWrite s) fun t =>
        (∀ x : Reg, (t.slot k u).xr x = if 0 < r ∧ r < 16 ∧ x.toNat = r then v else w.xr x) ∧
        (t.slot k u).pc = (if r = 0 ∧ v.getLsbD 0 = false then v else w.pc) ∧
        (∀ x : BitVec 3, (t.slot k u).kr x = if 17 ≤ r ∧ x.toNat + 17 = r then v else w.kr x) ∧
        (r ≠ 16 → (t.slot k u).status = w.status) ∧ (t.slot k u).st = .park ∧ OnlySlot s t k u)) ∧
    (let l := s.launch (nf s.ev.a 16 16)
     (l.holdsOn t0 = false → exec .cregSetNx s = .next s ∧ exec .cregClearNx s = .next s) ∧
     (l.holdsOn t0 = true →
      (Answers (exec .cregSetNx s) fun t => let l' := t.launch (nf s.ev.a 16 16)
        (∀ r, l'.regions[nf s.ev.a 0 8]? = some r → t0 ∈ r.nx) ∧ (∀ j, j ≠ nf s.ev.a 0 8 → l'.regions[j]? = l.regions[j]?) ∧
        { l' with regions := l.regions } = l ∧ { t with launches := s.launches } = s) ∧
      (Answers (exec .cregClearNx s) fun t => let l' := t.launch (nf s.ev.a 16 16)
        (∀ r, l'.regions[nf s.ev.a 0 8]? = some r → t0 ∉ r.nx) ∧ (∀ j, j ≠ nf s.ev.a 0 8 → l'.regions[j]? = l.regions[j]?) ∧
        { l' with regions := l.regions } = l ∧ { t with launches := s.launches } = s))) ∧
    (∀ g, s.arrived = some (.grp g) → g.peer = none → (s.slot g.tile g.slot).wait = .table g.num → (s.slot g.tile g.slot).parkReq = false →
      (s.slot g.tile g.slot).pend = none →
      (g.set_ = false → Answers (exec .groupTableAnswer s) fun t =>
        gets t g.tile g.slot g.d (BitVec.ofNat 64 (s.grpQuery g.tile g.a g.b)) ∧ OnlySlot s.taken t g.tile g.slot) ∧
      (g.set_ = true → grpField g.a g.b = true → Answers (exec .groupTableAnswer s) fun t => gets t g.tile g.slot g.d 5 ∧
        OnlySlot s.taken t g.tile g.slot)) ∧
    (∀ rows cols deadline d, sl.wait = .gang rows cols deadline d →
      (s.now < deadline → exec .gangTimeout s = .next s) ∧
      (deadline ≤ s.now → s.formFlock t0 u0 rows cols d = none → Answers (exec .gangTimeout s) fun t => gets t t0 u0 d 4 ∧ OnlySlot s t t0 u0)) ∧
    (∀ w rest, sl.stream = w :: rest → sl.flock ≠ some (t0, u0) → Answers (exec .forwardedWord s) fun t => (t.slot t0 u0).pc = w.pc ∧ (t.slot t0 u0).fwd = some w ∧
      { t.slot t0 u0 with pc := sl.pc, fwd := sl.fwd, stream := sl.stream } = sl ∧ (t.slot t0 u0).stream = rest ∧
      ((∀ b, sl.flock = some b → (s.slot b.1 b.2).pend = none) → OnlySlot s t t0 u0)) ∧
    ∀ bt bu k u addr, s.arrived = some (.notice bt bu k u addr) →
      let w := s.slot k u
      (w.flock ≠ some (bt, bu) ∨ w.flk ≠ 3 → Answers (exec .rejoinNotice s) fun t => t.slot k u = w ∧ OnlySlot s.taken t k u) ∧
      (∀ len, w.flock = some (bt, bu) → w.flk = 3 → w.wait = .rejoin len → w.pc = addr → Answers (exec .rejoinNotice s) fun t =>
        (t.slot k u).flk = 2 ∧ w.At (t.slot k u) (w.pc + BitVec.ofNat 64 len) true ∧ (t.slot k u).xr = w.xr ∧ OnlySlot s.taken t k u) ∧
      (w.flock = some (bt, bu) → w.flk = 3 → (∀ len, w.wait ≠ .rejoin len) → Answers (exec .rejoinNotice s) fun t =>
        (t.slot k u).notices.head?.map Prod.fst = some addr ∧ (t.slot k u).notices.length ≤ 8 ∧ { t.slot k u with notices := w.notices } = w ∧
        OnlySlot s.taken t k u)

/-- R306, R307, R312, R317, R27, R234, R326 to R328, R366, R367 and R369. -/
def Obligations.LaunchSteps : Prop :=
  ∀ (s : State),
    let lid := s.ev.num
    let l := s.launch lid
    (s.pick = none → exec .dispatchDistribute s = .next s) ∧
    (∀ q, s.pick = some (.queue q, .err) → Answers (exec .dispatchDistribute s) fun t =>
      (∀ k, t.queue k = if k = q then { s.queue k with err := true, en := false } else s.queue k) ∧ { t with queues := s.queues } = s) ∧
    (∀ d x ds, s.pick = some (.pool d x, .go ds) → Answers (exec .dispatchDistribute s) fun t =>
      (t.die d).pool = (s.die d).pool.filter (· != x) ∧ Sent s t (.placed x) ∧
      (t.launch x).st = .placing ∧ (t.launch x).dies = ds.map s.logDie ∧ (t.launch x).cur = ds ∧ (t.launch x).t0 = s.now ∧ t.distAt = s.now ∧
      (s.imageOf { s.launch x with st := .placing, dies := ds.map s.logDie, cur := ds, t0 := s.now } = none →
        t.launch x = { s.launch x with st := .placing, dies := ds.map s.logDie, cur := ds, t0 := s.now }) ∧
      t.tiles = s.tiles ∧ t.mem = s.mem) ∧
    (∀ d x, s.pick = some (.pool d x, .bad) → Answers (exec .dispatchDistribute s) fun t =>
      (t.die d).pool = (s.die d).pool.filter (· != x) ∧ (t.launch x).st = .done ∧ (t.launch x).endSt = 1 ∧ (t.launch x).cycles = 0 ∧
      t.tiles = s.tiles ∧ t.mem = s.mem) ∧
    (∀ x, s.arrived = some (.placed x) →
      ((s.launch x).st ≠ .placing → exec .launchPlaced s = .next s.taken) ∧
      ((s.launch x).st = .placing → s.imageOf (s.launch x) = none → Answers (exec .launchPlaced s) fun t =>
        (t.launch x).st = .done ∧ (t.launch x).endSt = 1 ∧ t.tiles = s.tiles ∧ t.mem = s.mem) ∧
      (∀ img ss, (s.launch x).st = .placing → s.imageOf (s.launch x) = some (img, ss) → (s.launch x).twin = false →
        (s.launch x).allTiles.any s.fenced = false → Answers (exec .launchPlaced s) fun t => (t.launch x).st = .running ∧
        ∀ k ∈ (s.launch x).tiles, (t.tile k).lid = x ∧ (t.tile k).phase = BitVec.ofNat 4 (s.launch x).levels ∧ (t.tile k).inbox = [] ∧
          (t.tile k).parkCap = (s.launch x).parkCap ∧ ∀ u, (t.slot k u).st = .free)) ∧
    (s.launchDone lid = false → exec .launchComplete s = .next s) ∧
    (s.launchDone lid = true → lid ≠ 0 → Answers (exec .launchComplete s) fun t => (t.launch lid).st = .done ∧
      (t.launch lid).endSt = (if l.damaged then 1 else 0) ∧ (t.launch lid).cycles = s.now - l.t0 ∧ (∀ k, (t.tile k).lid ≠ lid) ∧
      (∀ c ∈ t.counters, c.2.lid ≠ lid) ∧ t.mem = s.mem) ∧
    (s.childNext = none → exec .childCompletionPlace s = .next s) ∧
    (∀ x k, s.childNext = some x → s.childTiles (s.launch x) = [k] → s.lendBusy ≠ x → x < 65536 → (s.launch x).endSt < 256 →
      Answers (exec .childCompletionPlace s) fun t => (t.launch x).told = true ∧ t.mem = s.mem ∧
        ∃ e, (t.tile k).inbox = (s.tile k).inbox ++ [e] ∧ ef e 0 2 = 3 ∧ ef e 2 2 = x ∧ ef e 4 1 = (s.launch x).endSt ∧
          ef e 16 8 = (s.launch x).cycles % 2 ^ 64) ∧
    (let d := s.queue lid
     let tail := s.ev.a % 2 ^ 32
     let far := 2 ^ d.lsize < (tail + 2 ^ 32 - d.head) % 2 ^ 32
     Answers (exec .queueTailWrite s) fun t => (¬ far → t.queue lid = { d with tail := tail }) ∧
       (far → t.queue lid = { d with tail := tail, err := true, en := false }) ∧ (∀ k, k ≠ lid → t.queue k = s.queue k) ∧
       { t with queues := s.queues } = s) ∧
    (s.preemptPick = none → exec .preemptRequest s = .next s) ∧
    (∀ v d, s.preemptPick = some v → (s.launch v).cur.filter (s.hasSup (s.launch v).part) = [d] → Answers (exec .preemptRequest s) fun t =>
      t.preempt = v ∧ (t.launch v).marked = true ∧ t.mem = s.mem ∧
      (((s.tile (s.supTile (s.launch v).part d)).routine 31).vld = true → ((s.tile (s.supTile (s.launch v).part d)).routine 31).lastBy ≤ 1 →
        ((t.tile (s.supTile (s.launch v).part d)).routine 31).rdy = true ∧
        ((t.tile (s.supTile (s.launch v).part d)).routine 31).rarg = BitVec.ofNat 64 v)) ∧
    (s.quiescent lid s.ev.a = false → exec .preemptionPoint s = .next s) ∧
    (s.quiescent lid s.ev.a = true → Answers (exec .preemptionPoint s) fun t => (t.launch lid).atPoint = l.dieOwn s.ev.a :: l.atPoint ∧
      (∀ k ∈ l.tilesAt s.ev.a, ∀ u, (t.slot k u).flk = 0) ∧ t.mem = s.mem) ∧
    (let w := s.noteWaits
     w.starvSeen = s.starvSeen ||| ((if ∃ c ∈ s.cands, s.candFit c = .wait then 1 else 0) + (if s.preempt = 0 then 0 else 2)) ∧
     { w with starvSeen := s.starvSeen } = s) ∧
    (Answers (exec .starvInterval s) fun t => t.starvAt = s.now ∧ t.starvSeen = 0 ∧
      { t with starv := s.starv, starvAt := s.starvAt, starvSeen := s.starvSeen } = s ∧
      (s.starvSeen = 1 → t.starv = min (s.starv + 1) (2 ^ 32 - 1)) ∧ (s.starvSeen ≠ 1 → t.starv = s.starv)) ∧
    (let x := s.ev.a % 65536
     (s.endable s.ev.num x = false → exec .launchEnd s = .next { s with lendStat := 3 }) ∧
     (s.endable s.ev.num x = true → (s.launch x).st = .running → (∀ p ∈ s.launches, p.2.st ≠ .pending) →
       Answers (exec .launchEnd s) fun t => (t.launch x).st = .ending ∧ t.lendBusy = x ∧ t.lendStat = 1 ∧ t.mem = s.mem ∧
         ∀ k, (s.tile k).lid = x → (t.tile k).held = true ∧ (t.tile k).seq = [] ∧ (t.tile k).mq = [] ∧
           ∀ u, (s.slot k u).st ≠ .free → (t.slot k u).stopped = true)) ∧
    (s.endDrained lid = false → exec .launchEndDone s = .next s) ∧
    (s.endDrained lid = true → lid ≠ 0 → l.parent = 0 → Answers (exec .launchEndDone s) fun t => (t.launch lid).st = .done ∧
      (t.launch lid).endSt = 1 ∧ (∀ k, (t.tile k).lid ≠ lid) ∧ (s.lendBusy = lid → t.lendBusy = 0 ∧ t.lendStat = if s.lendStat = 1 then 2 else s.lendStat) ∧ t.mem = s.mem) ∧
    (∀ x area, (s.slot s.ev.num s.ev.a).wait = .xsave x area →
      let sl := s.slot s.ev.num s.ev.a
      let m := s.launch x
      let p := (s.launch sl.lid).part
      let d := tDie s.ev.num
      (∀ k, m.st = .done ∨ m.damaged = true → s.xlate p area.toNat true = some k → Answers (exec .xsaveWrite s) fun t =>
        readMem t.mem k 8 = 0 ∧ (∀ b, b < k ∨ k + 8 ≤ b → readByte t.mem b = readByte s.mem b) ∧
        sl.At (t.slot s.ev.num s.ev.a) (sl.pc + 4) true ∧ t.launches = s.launches) ∧
      (m.st ≠ .done → m.damaged = false → (m.holdsOn d = false ∨ m.dieOwn d ∉ m.atPoint ∨ s.swapsOf m d = true) → exec .xsaveWrite s = .next s) ∧
      (∀ s1, m.st ≠ .done → m.damaged = false → m.holdsOn d = true → m.dieOwn d ∈ m.atPoint → s.swapsOf m d = false →
        ((s.writeMemory p area.toNat (s.areaKeys m d)).bind fun y => y.writeArea p area.toNat (s.saveImage x d)) = some s1 → Answers (exec .xsaveWrite s) fun t =>
        m.dieOwn d ∈ (t.launch x).savedDies ∧ (∃ v ∈ t.saved, v.lid = x ∧ v.die = m.dieOwn d) ∧
        (t.slot s.ev.num s.ev.a).st = .run ∧ (t.slot s.ev.num s.ev.a).wait = .none ∧ t.mem = s1.mem)) ∧
    (l.restoredAll = false → exec .xloadResume s = .next s) ∧
    (l.restoredAll = true → (∀ r ∈ s.roots, r.2.heldOut = false) → Answers (exec .xloadResume s) fun t => (t.launch lid).st = .running ∧
      (t.launch lid).marked = false ∧ (t.launch lid).restored = [] ∧ t.mem = s.mem ∧
      ∀ k u, (s.tile k).lid = lid → (t.tile k).held = false ∧ (t.slot k u).stopped = false)

/-- R318 to R320, R330, R331 and R383. -/
def Obligations.MapAndTwinSteps : Prop :=
  ∀ (s : State),
    let t0 := s.ev.num
    let d0 := tDie t0
    let st := s.moveStatus d0 s.ev.a
    (Answers (exec .tileMapMove s) fun t => (t.tile t0).sel.tmres = st ∧ (t.tile t0).sel.tmtag = nf s.ev.a 19 8 ∧
      (∀ k, k ≠ t0 → t.tile k = s.tile k) ∧ (t.tile t0).slots = (s.tile t0).slots ∧ t.mem = s.mem ∧
      (st ≠ 1 → t.flight = s.flight ∧ t.dies = s.dies) ∧
      (st = 1 → SentBy s t 50000 (.mapDone d0) ∧ (∀ d g, t.physGroup d g = s.physGroup d g) ∧
        ∃ m, (t.die d0).move = some m ∧ m.grp = nf s.ev.a 0 9 ∧ m.phys = nf s.ev.a 9 9 ∧ m.force = nb s.ev.a 18 ∧ m.tile = t0)) ∧
    (∀ d, s.arrived = some (.mapDone d) →
      ((s.die d).move = none → exec .tileMapMoveDone s = .next s.taken) ∧
      (∀ m, (s.die d).move = some m →
        (s.moveQuiet d m = false → exec .tileMapMoveDone s = .next s) ∧
        (s.moveQuiet d m = true → s.physGroup d (s.logOf d m.phys) = m.phys → Answers (exec .tileMapMoveDone s) fun t =>
          (t.die d).move = none ∧ t.physGroup d m.grp = m.phys ∧ t.physGroup d (s.logOf d m.phys) = s.physGroup d m.grp ∧
          (∀ g, g ≠ m.grp → g ≠ s.logOf d m.phys → t.physGroup d g = s.physGroup d g) ∧
          (t.tile m.tile).sel.tmres = 2 ∧ (t.tile m.tile).sel.tmtag = m.tag ∧ ∀ k u, t.slot k u = s.slot k u))) ∧
    (let d := s.ev.num
     let a := s.ev.a
     let b := s.ev.b
     let may := a < 320 ∧ b < 320 ∧ a ≠ b ∧ s.dieExists d = true ∧ s.groupHeld d a = false ∧ s.groupHeld d b = false ∧ (s.die d).move = none
     (¬ may → exec .groupMapExchange s = .next s) ∧
     (may → Answers (exec .groupMapExchange s) fun t => t.physGroup d a = s.physGroup d b ∧ t.physGroup d b = s.physGroup d a ∧
       (∀ e g, e ≠ d ∨ (g ≠ a ∧ g ≠ b) → t.physGroup e g = s.physGroup e g) ∧ t.mem = s.mem ∧ ∀ k u, t.slot k u = s.slot k u)) ∧
    (s.pairPick = none → exec .twinPairCompare s = .next s) ∧
    (∀ q r, s.pairPick = some (q, r) →
      (∀ c, q.hash = r.hash → q.msg = some (.ctr c) → Answers (exec .twinPairCompare s) fun t =>
        Sent s t (.ctr { c with peer := r.msg.bind Msg.asker }) ∧ t.pairs = (s.pairs.erase q).erase r ∧ t.tiles = s.tiles ∧ t.mem = s.mem) ∧
      (q.hash ≠ r.hash → Answers (exec .twinPairCompare s) fun t => t.pairs = s.pairs ∧ t.flight = s.flight ∧ t.tiles = s.tiles ∧
        t.mem = s.mem ∧ (t.die (tDie q.tile)).twins = (s.die (tDie q.tile)).twins ++ [(q.tile, q.seq)] ∧
        ∃ e, t.toMgmt = e :: s.toMgmt ∧ ef e 2 1 = 0x26 ∧ ef e 4 1 = tRow q.tile % 256 ∧ ef e 5 1 = tCol q.tile % 256)) ∧
    exec .twinNoAction s = .next s ∧
    (let p := tileKey s.ev.num (nf s.ev.a 0 8) (nf s.ev.a 8 8)
     let lid := (s.tile p).lid
     let w := p + (s.launch lid).twinOff
     let kept (t : State) (live dead : Nat) : Prop :=
       (∀ u, (t.slot dead u).x = (s.slot live u).x ∧ (t.slot dead u).pc = (s.slot live u).pc ∧ (t.slot dead u).st = (s.slot live u).st) ∧
       (∀ i, i < 65536 → readByte t.mem (s.sliceKey dead 0 + i) = readByte s.mem (s.sliceKey live 0 + i)) ∧
       (∀ x ∈ (t.die (tDie p)).twins, x.1 ≠ p) ∧ (∀ q ∈ t.pairs, q.tile ≠ p) ∧ (t.tile dead).margin.st ≠ 0
     (s.mismatched p = false → exec .twinKeepPrimary s = .next s ∧ exec .twinKeepTwin s = .next s ∧ exec .twinEndLaunch s = .next s) ∧
     (s.mismatched p = true → memWf s.mem = true → (s.launch lid).twinOff ≠ 0 →
       Answers (exec .twinKeepPrimary s) (fun t => kept t p w ∧ (t.tile p).slots = (s.tile p).slots) ∧
       Answers (exec .twinKeepTwin s) (fun t => kept t w p ∧ (t.tile w).slots = (s.tile w).slots)) ∧
     (s.mismatched p = true → (s.launch lid).st = .running → (∀ l ∈ s.launches, l.2.st ≠ .pending) →
       Answers (exec .twinEndLaunch s) fun t => (t.launch lid).st = .ending ∧ t.mem = s.mem))

/-- R277 to R283, R385 and R415. -/
def Obligations.SwapAndRoleSteps : Prop :=
  ∀ (s : State),
    let t0 := s.ev.num
    let k := s.ev.num
    (∀ (i : Instr) (v : Nat), (i = .swapExchange ∧ v = nput s.ev.a 39 1 0) ∨ (i = .swapMove ∧ v = nput s.ev.a 39 1 1) →
      let st := s.swapStatus t0 v
      Answers (exec i s) fun t => (t.tile t0).sel.swres = st ∧ (t.tile t0).sel.swtag = nf v 40 8 ∧
        (t.tile t0).sel.swdone = (s.tile t0).sel.swdone % 65536 ∧ (t.tile t0).slots = (s.tile t0).slots ∧
        (∀ j, j ≠ t0 → t.tile j = s.tile j) ∧ { t with tiles := s.tiles, stks := s.stks } = s ∧ (st ≠ 1 → t.stks = s.stks) ∧
        (st = 1 → ∃ w, (t.stack (tDie t0 / 4)).swaps = (s.stack (tDie t0 / 4)).swaps ++ [w] ∧ w.pgA = nf v 0 16 ∧ w.idB = nf v 20 16 ∧
          w.move = nb v 39 ∧ w.tag = nf v 40 8 ∧ w.tile = t0 ∧ s.realDie (nf v 16 3) = some w.dieA ∧
          (if nb v 39 then w.selB = nf v 36 3 else s.realDie (nf v 36 3) = some w.selB))) ∧
    (s.swapPick k = none → exec .swapStart s = .next s) ∧
    (∀ w, s.swapPick k = some w → Answers (exec .swapStart s) fun t => (t.remapEntry w.dieA w.pgA).busy = true ∧
      (w.move = false → (t.remapEntry w.selB w.idB).busy = true) ∧ (t.stack k).swapping = true ∧ SentBy s t (if w.move then 300 else 560) (.swapDone k) ∧ t.mem = s.mem ∧
      t.tiles = s.tiles ∧ ∀ d p, (t.remapEntry d p).frame = (s.remapEntry d p).frame ∧ (t.remapEntry d p).layer = (s.remapEntry d p).layer) ∧
    (∀ k, s.arrived = some (.swapDone k) →
      ((s.stack k).swaps = [] → exec .swapDone s = .next s.taken) ∧
      (∀ w rest, (s.stack k).swaps = w :: rest → memWf s.mem = true →
        let a := s.remapEntry w.dieA w.pgA
        let b := s.remapEntry w.selB w.idB
        let at_ (l f i : Nat) : Nat := lirekKey k l f i
        let ends (t : State) : Prop := (t.stack k).swaps = rest ∧ (t.stack k).swapping = false ∧ (t.tile w.tile).sel.swres = 2 ∧
          (t.tile w.tile).sel.swtag = w.tag ∧ (t.tile w.tile).sel.swdone = ((s.tile w.tile).sel.swdone + 1) % 65536
        let now (t : State) (d p l f : Nat) : Prop := (t.remapEntry d p).layer = l ∧ (t.remapEntry d p).frame = f ∧ (t.remapEntry d p).busy = false
        (w.move = true → Answers (exec .swapDone s) fun t => ends t ∧ now t w.dieA w.pgA w.selB w.idB ∧
          (∀ i, i < 65536 → readByte t.mem (at_ w.selB w.idB i) = readByte s.mem (at_ a.layer a.frame i)) ∧
          ∀ x, x < at_ w.selB w.idB 0 ∨ at_ w.selB w.idB 65536 ≤ x → readByte t.mem x = readByte s.mem x) ∧
        (w.move = false → remapKey w.dieA w.pgA ≠ remapKey w.selB w.idB → Answers (exec .swapDone s) fun t => ends t ∧
          now t w.dieA w.pgA b.layer b.frame ∧ now t w.selB w.idB a.layer a.frame ∧
          (∀ i, i < 65536 → readByte t.mem (at_ b.layer b.frame i) = readByte s.mem (at_ a.layer a.frame i)) ∧
          ∀ i, i < 65536 → readByte t.mem (at_ a.layer a.frame i) = readByte s.mem (at_ b.layer b.frame i)))) ∧
    (let k := s.ev.num % 2
     let l := s.ev.a % 8
     let used := (s.stack k).spareUsed.any fun c => c % 2000 % 8 == l
     let tl := tileKey (s.dieOfLayer k l) (s.ev.c / 160 % 128) (s.ev.c % 160)
     (s.ev.b = 0 → s.isCompute k l = true → Answers (exec .storageLoss s) fun t =>
       (∀ i, i < 65536 → readByte t.mem (s.sliceKey tl 0 + i) = 0 ∧ (poisonIn t.poison (s.sliceKey tl 0 + i) 1).isSome = true) ∧
       (∀ x, x < s.sliceKey tl 0 ∨ s.sliceKey tl 65536 ≤ x → readByte t.mem x = readByte s.mem x) ∧
       (t.stack k).spareUsed = l :: (s.stack k).spareUsed ∧ (t.tile tl).unusable = ((s.tile tl).unusable || used) ∧
       ∃ e, t.toMgmt = e :: s.toMgmt ∧ ef e 2 1 = if used then 0x28 else 0x27) ∧
     (s.ev.b = 4 → Answers (exec .storageLoss s) fun t => t.mem = s.mem ∧ t.poison = s.poison ∧ t.stks = s.stks ∧ t.tiles = s.tiles ∧
       ∃ e, t.toMgmt = e :: s.toMgmt ∧ ef e 2 1 = 0x27) ∧
     (s.ev.b ≤ 1 → s.isCompute k l = false → exec .storageLoss s = .next s) ∧
     (s.ev.b = 2 ∨ s.ev.b = 3 → s.isCompute k l = false → Answers (exec .storageLoss s) fun t =>
       (∀ q ∈ s.pagesAbove k l (s.ev.c % 160), (t.remapEntry q.1 q.2).busy = true) ∧ Sent s t (.spareDone k l (s.ev.c % 160) used) ∧
       t.mem = s.mem ∧ t.poison = s.poison ∧ t.tiles = s.tiles) ∧
     (s.isCompute k l = true → Answers (exec .layerLoss s) fun t => t.mem = s.mem ∧
       (∀ j, tDie j = s.dieOfLayer k l → (s.tile j).lid ≠ 0 → (t.tile j).held = true ∧ ∀ u, (s.slot j u).st ≠ .free → (t.slot j u).stopped = true) ∧
       (∀ j, tDie j ≠ s.dieOfLayer k l → t.tile j = s.tile j) ∧
       (s.dieExists (s.dieOfLayer k l) = true → t.mgmt.ready.getLsbD (34 + s.logDie (s.dieOfLayer k l)) = false) ∧
       ∃ e, t.toMgmt = e :: s.toMgmt ∧ ef e 2 1 = 0x29) ∧
     (s.isCompute k l = false → Answers (exec .layerLoss s) fun t => l ∈ (t.stack k).lostLayers ∧ t.tiles = s.tiles ∧
       ∃ e, t.toMgmt = e :: s.toMgmt ∧ ef e 2 1 = 0x29)) ∧
    (let m := BitVec.ofNat 8 (nf s.ev.a 0 8)
     let j := nf s.ev.a 8 1
     let keep := nf s.ev.a 19 33 * 64
     let lim := if nf s.ev.a 9 10 = 0 then 10 else min (nf s.ev.a 9 10) 1000
     let busy := (s.stack 0).chg = true ∨ (s.stack 1).chg = true
     let good := mapValid m s.mgmt.cooling = true ∧ s.keepOk keep = true
     (s.mgmtUp s.ev.num = false → exec .roleMapRequest s = .next (s.answerHost s.ev.num 1 0)) ∧
     (s.mgmtUp s.ev.num = true →
      (busy → exec .roleMapRequest s = .next ({ s with mgmt := { s.mgmt with roleStat := 4 } }.answerHost s.ev.num 0 0)) ∧
      (¬ busy → ¬ good → exec .roleMapRequest s = .next ({ s with mgmt := { s.mgmt with roleStat := 3 } }.answerHost s.ev.num 0 0)) ∧
      (¬ busy → good → Answers (exec .roleMapRequest s) fun t => t.mgmt.roleStat = 1 ∧ (t.stack j).chg = true ∧
        (t.stack j).reroll = some (m, s.now + lim * 1250000, keep, 0) ∧ t.mgmt.ready.getLsbD (3 + j) = false ∧
        (t.stack j).role = (s.stack j).role ∧ (t.stack (1 - j)) = s.stack (1 - j) ∧ t.tiles = s.tiles ∧ t.launches = s.launches ∧
        t.mem = s.mem ∧ t.cpl = (s.ev.num * 16, 0) :: s.cpl))) ∧
    (s.drainPick k = [] → exec .drainLimit s = .next s) ∧
    (∀ x, s.drainPick k = [x] → (s.launch x).st = .running → (∀ l ∈ s.launches, l.2.st ≠ .pending) →
      Answers (exec .drainLimit s) fun t => (t.launch x).st = .ending ∧ t.mem = s.mem) ∧
    (s.flushReady k = false → exec .roleFlush s = .next s) ∧
    (∀ m lim keep, s.flushReady k = true → (s.stack k).reroll = some (m, lim, keep, 0) → Answers (exec .roleFlush s) fun t =>
      (t.stack k).reroll = some (m, lim, keep, 1) ∧ (t.stack k).remap = [] ∧ (t.stack k).swaps = [] ∧ (t.stack k).swapping = false ∧
      (∀ c ∈ t.counters, ctrOnStack k c.1 = false) ∧ (∃ f ∈ t.flight, f.msg = .reenum k) ∧ (∀ f ∈ t.flight, f.msg ≠ .swapDone k) ∧
      (keep = 0 → t.mem = s.mem)) ∧
    (∀ k, s.arrived = some (.reenum k) → ((s.stack k).reroll = none → exec .roleReenumerate s = .next s.taken) ∧
      (∀ m lim keep g, (s.stack k).reroll = some (m, lim, keep, g) → Answers (exec .roleReenumerate s) fun t => (t.stack k).chg = false ∧
        (t.stack k).reroll = none ∧ (t.stack k).remap = [] ∧
        ((t.stack k).role = m ∨ (t.stack k).role = (s.stack k).role ∨ mapValid (t.stack k).role s.mgmt.cooling = true) ∧
        (s.mgmt.booted.getLsbD (3 + k) = true → (∀ l < 8, m.getLsbD l = true → (s.stack k).role.getLsbD l = true) →
          (t.stack k).role = m ∧ t.mgmt.roleStat = 2)))

/-- R371, R372, R374 to R376, R379, R381, R386 and R387. -/
def Obligations.ErrorAndPaddockSteps : Prop :=
  ∀ (s : State),
    let n := s.ev.num
    let o := s.ev.b / 16 * 16
    let head (t : State) (c : Nat) : Prop := ∃ e, t.toMgmt = e :: s.toMgmt ∧ ef e 2 1 = c
    let lost (t : State) (k len : Nat) : Prop := ∀ i, i < len → (poisonIn t.poison (k + i) 1).isSome = true
    (let d := if s.ev.a = 3 then 0 else (s.realDie n).getD 0
     let rank := s.ev.c % 2 ^ 11
     let ps := (s.ev.data.filter (· < 18)).eraseDups
     let beyond := s.ev.a = 3 ∧ s.beyondCode rank ps = true
     let counted (m m' : Margin) : Prop := m' = { m with errs := (s.now :: m.errs).take 8 }
     (beyond → Answers (exec .eccCorrected s) fun t => lost t (hbmKey o) 1 ∧ t.mem = s.mem ∧ t.tiles = s.tiles ∧ t.dies = s.dies ∧ head t 0x21) ∧
     (¬ beyond → Answers (exec .eccCorrected s) fun t => (t.die d).cecnt = min ((s.die d).cecnt + 1) (2 ^ 32 - 1) ∧
       (s.ev.a = 3 → tget 0 t.mgmt.rankCe rank = min (tget 0 s.mgmt.rankCe rank + 1) 65535) ∧ (s.ev.a ≠ 3 → t.mgmt = s.mgmt) ∧
       (s.ev.a = 4 → counted (s.tile s.ev.c).margin (t.tile s.ev.c).margin) ∧
       (s.ev.a = 5 → counted (s.pen (penKey s.ev.c)).margin (t.pen (penKey s.ev.c)).margin) ∧
       (s.ev.a ≠ 4 → t.tiles = s.tiles) ∧ (s.ev.a ≠ 5 → t.pens = s.pens) ∧ (∀ k u, t.slot k u = s.slot k u) ∧
       (∀ e, e ≠ d → t.die e = s.die e) ∧
       { t with dies := s.dies, mgmt := s.mgmt, tiles := s.tiles, pens := s.pens } = s)) ∧
    (s.corrDue = [] → exec .corrInterval s = .next s) ∧
    (∀ d kind addr at_, s.corrDue = [d] → (s.die d).ceFirst = some (kind, addr, at_) → Answers (exec .corrInterval s) fun t =>
      head t 0x20 ∧ (t.die d).ceFirst = none ∧ (t.die d).ceInterval = 0 ∧ (t.die d).cecnt = (s.die d).cecnt ∧ t.mem = s.mem ∧ t.tiles = s.tiles) ∧
    (∀ k, (s.ev.a = 0 ∧ k = s.sliceKey n o) ∨ (s.ev.a = 1 ∧ k = s.groupByteKey n o) ∨ (s.ev.a = 2 ∧ k = s.dieByteKey n o) ∨
      (s.ev.a = 3 ∧ k = hbmKey o) → Answers (exec .uncorrectableData s) fun t => lost t k 1 ∧ t.mem = s.mem ∧ t.tiles = s.tiles ∧
        head t 0x21 ∧ ∀ x, (poisonIn s.poison x 1).isSome = true → (poisonIn t.poison x 1).isSome = true) ∧
    (s.ev.a = 5 → Answers (exec .uncorrectableData s) fun t => (t.tile n).bslot = none ∧ (t.tile n).slots = (s.tile n).slots ∧ OnlyTile s t n) ∧
    (s.ev.a = 8 → (∀ f ∈ s.flight, ∀ x r, f.msg ≠ .hurRelease n x r) → Answers (exec .uncorrectableData s) fun t =>
      t.root n = { s.root n with err := true } ∧ (∀ d, d ≠ n → t.root d = s.root d) ∧ { t with roots := s.roots } = s) ∧
    (s.ev.a = 8 → (∃ f ∈ s.flight, ∃ x r, f.msg = .hurRelease n x r) → Answers (exec .uncorrectableData s) fun t =>
      t.flight.length = s.flight.length ∧ (∀ f ∈ t.flight, ∀ x r, f.msg = .hurRelease n x r → 0xFE ≤ r.abort) ∧ { t with flight := s.flight } = s) ∧
    (s.ev.a = 9 → Answers (exec .uncorrectableData s) fun t => (t.round n).lost = true ∧ { t with rounds := s.rounds } = s) ∧
    (∀ a, s.ev.a = 10 → (s.flight.find? fun f => f.num == n).map Flight.msg = some (.ans a) → a.req.acc ≠ .store →
      Answers (exec .uncorrectableData s) fun t => t.flight.length = s.flight.length ∧ { t with flight := s.flight } = s ∧
        (t.flight.find? fun f => f.num == n).map Flight.msg = some (.ans { a with status := Cause.poison.code })) ∧
    (∀ r, s.ev.a = 10 → (s.flight.find? fun f => f.num == n).map Flight.msg = some (.req r) →
      Answers (exec .uncorrectableData s) fun t => t.flight.length = s.flight.length ∧ { t with flight := s.flight } = s ∧
        (t.flight.find? fun f => f.num == n).map Flight.msg = some (.req { r with bad := true })) ∧
    (let d := tDie n
     let i := s.padOf n
     (s.ev.b = 0 → s.ev.a ≠ 5 → s.padSt d i ≠ 0 → exec .paddockKill s = .next s) ∧
     (∀ c, s.ev.b ≠ 0 → s.ev.a ≠ 5 → s.padSt d i ≠ 0 → (s.flight.find? fun f => f.num == s.ev.b - 1).map Flight.msg = some (.walk c) →
       (s.slot c.origin c.origSlot).st = .out → (s.tile c.origin).parkq = [] → Answers (exec .paddockKill s) fun t =>
         (t.slot c.origin c.origSlot).st = .free ∧ (∀ f, f ∈ t.flight ↔ f ∈ s.flight ∧ f.num ≠ s.ev.b - 1) ∧ t.mem = s.mem) ∧
     (s.ev.b = 0 → s.ev.a ≠ 5 → s.padSt d i = 0 → Answers (exec .paddockKill s) fun t => t.padSt d i = 1 ∧ t.mem = s.mem ∧
       (∃ e rest, t.toMgmt = e :: rest ∧ ef e 2 1 = 0x22 ∧ ef e 4 1 = tRow n ∧ ef e 5 1 = tCol n) ∧
       (∃ f ∈ t.flight, f.msg = .padReset d i ∧ s.now < f.due ∧ f.due ≤ s.now + 2500) ∧
       ∀ x ∈ s.padTiles d i, (s.tile x).lid ≠ 0 → (t.launch (s.tile x).lid).damaged = true) ∧
     (s.ev.b = 0 → s.ev.a = 5 → (∀ p, p < 8 → s.padSt (tDie (penTile (penKey n) p)) (s.padOf (penTile (penKey n) p)) ≠ 0) →
       exec .paddockKill s = .next s)) ∧
    (∀ d i, s.arrived = some (.padReset d i) → Answers (exec .paddockResetStart s) fun t => t.padSt d i = 2 ∧ SentBy s.taken t 22500 (.padEnd d i) ∧
      t.tiles = s.tiles ∧ t.mem = s.mem) ∧
    (∀ d i, s.arrived = some (.padEnd d i) → Answers (exec .paddockResetEnd s) fun t => t.padSt d i = 3 ∧ head t 0x23 ∧
      (∀ x ∈ s.padTiles d i, (∀ u, (t.slot x u).st = .free) ∧ (t.tile x).inbox = [] ∧ (t.tile x).lid = (s.tile x).lid ∧
        (∀ r, (t.tile x).routine r = Routine.fresh) ∧ lost t (s.sliceKey x 0) 65536 ∧
        lost t (s.groupByteKey (tGroupKey x) (256 * groupPos x)) 65536 ∧
        ∀ b, b < 65536 → readByte t.mem (s.sliceKey x b) = 0) ∧
      (∀ x, x ∉ s.padTiles d i → t.tile x = s.tile x) ∧ ∀ c ∈ t.counters, s.killsCounter (s.padTiles d i) c.1 = false) ∧
    (∀ (ins : Instr) (v : Nat), (ins = .paddockDefine ∧ v = nput s.ev.b 36 1 0) ∨ (ins = .paddockReadmit ∧ v = nput s.ev.b 36 1 1) →
      let d := s.ev.num
      let i := s.ev.a % 64
      let old := tget Paddock.fresh (s.die d).paddocks i
      let new : Paddock :=
        { row0 := nf v 0 8, col0 := nf v 8 8, rows := nf v 16 8, cols := nf v 24 8, v := nb v 32, st := 0, err := false }
      let test := nb v 36 = true ∧ old.v = true ∧ old.st = 3 ∧ nf v 38 26 = 0
      let bad := nf v 38 26 ≠ 0 ∨ 128 < new.row0 + new.rows ∨ 160 < new.col0 + new.cols ∨ new.rows = 0 ∨ new.cols = 0 ∨
        (∃ p ∈ (s.die d).paddocks, p.1 ≠ i ∧ p.2.v = true ∧ p.2.meets new = true) ∨ (∃ x ∈ new.rect d, s.fenced x = true) ∨
        (old.v = true ∧ ∃ x ∈ old.rect d, s.fenced x = true)
      let is (t : State) (p : Paddock) : Prop := tget Paddock.fresh (t.die d).paddocks i = p ∧
        (∀ j, j ≠ i → tget Paddock.fresh (t.die d).paddocks j = tget Paddock.fresh (s.die d).paddocks j) ∧ t.tiles = s.tiles ∧ t.mem = s.mem
      (test → Answers (exec ins s) fun t => is t { old with st := 4, err := false } ∧ SentBy s t 625000 (.padTest d i)) ∧
      (¬ test → bad → Answers (exec ins s) fun t => is t { old with err := true } ∧ t.flight = s.flight) ∧
      (¬ test → ¬ bad → Answers (exec ins s) fun t => is t new ∧ t.flight = s.flight)) ∧
    (∀ d i, s.arrived = some (.padTest d i) → Answers (exec .paddockTestEnd s) fun t => t.padSt d i = 0 ∧ t.mem = s.mem ∧
      (∀ x ∈ s.padTiles d i, (t.tile x).slots = (s.tile x).slots ∧
        (t.tile x = s.tile x ∨ ((t.tile x).unusable = true ∧ (t.tile x).margin.st = 3))) ∧
      ∀ x, x ∉ s.padTiles d i → t.tile x = s.tile x)

/-- R381, R382, R387 and R388. -/
def Obligations.MarginAndRepairSteps : Prop :=
  ∀ (s : State),
    let head (t : State) (c : Nat) : Prop := ∃ e, t.toMgmt = e :: s.toMgmt ∧ ef e 2 1 = c
    let quiet (t : State) : Prop := t.mem = s.mem ∧ t.poison = s.poison ∧ ∀ k u, t.slot k u = s.slot k u
    let flagged (t : State) (k : Nat) (x : Bool) : Prop :=
      let m := s.unitMargin k x
      quiet t ∧ (m.st = 0 → t.unitMargin k x = { m with mev := min (m.mev + 1) 255, st := 1, errs := [] } ∧ head t 0x24) ∧
      (m.st ≠ 0 → t.unitMargin k x = { m with mev := min (m.mev + 1) 255, errs := [] } ∧ t.toMgmt = s.toMgmt)
    Answers (exec .marginFlag s) (fun t => flagged t s.ev.num (s.ev.a == 1)) ∧
    (s.mgUnit s.ev.num = none → exec .marginWdr s = .next s) ∧
    (∀ k x, s.mgUnit s.ev.num = some (k, x) → Answers (exec .marginWdr s) fun t => flagged t k x) ∧
    (s.retestPick = none → exec .marginRetestStart s = .next s) ∧
    (∀ k x, s.retestPick = some (k, x) → Answers (exec .marginRetestStart s) fun t => quiet t ∧ SentBy s t (if x then 1250000 else 625000) (.retest k x) ∧
      t.unitMargin k x = { s.unitMargin k x with bin := min ((s.unitMargin k x).bin + 1) 3, st := 2, tests := min ((s.unitMargin k x).tests + 1) 255 }) ∧
    (∀ k x, s.arrived = some (.retest k x) → Answers (exec .marginRetestEnd s) fun t =>
      let m := s.unitMargin k x
      quiet t ∧ ((t.unitMargin k x = { m with st := 0 } ∧ head t 0x25 ∧ (t.tile k).unusable = (s.tile k).unusable) ∨
        (m.bin < 3 ∧ t.unitMargin k x = { m with st := 1 } ∧ t.toMgmt = s.toMgmt ∧ (t.tile k).unusable = (s.tile k).unusable) ∨
        (3 ≤ m.bin ∧ t.unitMargin k x = { m with st := 3 } ∧ head t 0x25 ∧
          (t.tile k).unusable = (if x then (s.tile k).unusable else true)))) ∧
    (let rank := s.ev.num % 2 ^ 11
     let ms := tget [] s.mgmt.marks rank
     let no := 2 ≤ ms.length ∨ s.ev.a ∈ ms ∨ 18 ≤ s.ev.a
     let bank := rank + s.ev.b * 2 ^ 11
     let ch := s.ev.num % 8 * 32 + s.ev.num / 8 % 32
     (no → exec .symbolMark s = .next s) ∧
     (¬ no → Answers (exec .symbolMark s) fun t => quiet t ∧ tget [] t.mgmt.marks rank = ms ++ [s.ev.a] ∧ t.tiles = s.tiles ∧
       (∀ r, r ≠ rank → tget [] t.mgmt.marks r = tget [] s.mgmt.marks r) ∧
       ∃ a b, t.toMgmt = b :: a :: s.toMgmt ∧ ef a 2 1 = 0x2A ∧ ef b 2 1 = 0x2C) ∧
     (bank ∈ s.mgmt.softUsed → Answers (exec .softRepairStart s) fun t => quiet t ∧ head t 0x2C ∧ t.mgmt.quiesced = s.mgmt.quiesced ∧
       t.flight = s.flight) ∧
     (bank ∉ s.mgmt.softUsed → s.mayPause = true → Answers (exec .softRepairStart s) fun t => quiet t ∧ head t 0x2C ∧
       t.mgmt.quiesced = ch :: s.mgmt.quiesced ∧ bank ∈ t.mgmt.softUsed ∧ SentBy s t 250000 (.repairEnd (rank + s.ev.a * 2 ^ 11))) ∧
     (bank ∉ s.mgmt.softUsed → s.mayPause = false → Answers (exec .softRepairStart s) fun t => quiet t ∧ t.mgmt.quiesced = s.mgmt.quiesced ∧
       t.flight = s.flight ∧ ∃ a b, t.toMgmt = b :: a :: s.toMgmt ∧ ef a 2 1 = 0x2B ∧ ef b 2 1 = 0x2C)) ∧
    (∀ v, s.arrived = some (.repairEnd v) → Answers (exec .softRepairEnd s) fun t => quiet t ∧ head t 0x2B ∧ t.tiles = s.tiles ∧
      t.mgmt.quiesced = s.mgmt.quiesced.erase (v % 8 * 32 + v / 8 % 32) ∧ ∀ f ∈ t.flight, f ∈ s.flight)

/-- R396 to R403, R407 and R409. -/
def Obligations.FjoicSteps : Prop :=
  ∀ (s : State),
    let n := s.ev.num
    let quiet (t : State) : Prop := t.mem = s.mem ∧ t.poison = s.poison ∧ t.tiles = s.tiles
    let head (t : State) (c : Nat) : Prop := ∃ e, t.toMgmt = e :: s.toMgmt ∧ ef e 2 1 = 0x2D ∧ ef e 28 4 % 16 = c
    (let link := n % 16
     let em := s.ev.a % 4096
     let key := tget Earmark.fresh s.mgmt.earmarks em
     let here := tget? s.mgmt.earmarks em = some key ∧ key.mask.getLsbD link = true
     let up := s.mgmt.fjDown.getLsbD link = false ∧ s.isReady (13 + link) = true
     let k := link * 2 + s.ev.b % 2
     let num := tget 0 key.frames k
     let good := 1 ≤ s.ev.data.length ∧ s.ev.data.length ≤ 16 ∧
       s.ev.c = (frameTag key.key (frameBytes link (s.ev.b % 2) num s.ev.data)).toNat
     let now (t : State) : Earmark := tget Earmark.fresh t.mgmt.earmarks em
     (¬ up → exec .frameReceive s = .next s) ∧
     (up → ¬ here → Answers (exec .frameReceive s) fun t => quiet t ∧ head t 1 ∧ t.mgmt.fjDrops = s.mgmt.fjDrops + 1 ∧ t.inputs = s.inputs) ∧
     (up → here → key.blocked.getLsbD link = true → exec .frameReceive s = .next s) ∧
     (up → here → key.blocked.getLsbD link = false →
      (good → Answers (exec .frameReceive s) fun t => quiet t ∧ tget 0 (now t).frames k = num + 1 ∧ tget 0 (now t).fails link = 0 ∧
        (now t).key = key.key ∧ t.toMgmt = s.toMgmt) ∧
      (¬ good → tget 0 key.fails link < 2 → Answers (exec .frameReceive s) fun t => quiet t ∧ t.inputs = s.inputs ∧ t.toMgmt = s.toMgmt ∧
        tget 0 (now t).fails link = tget 0 key.fails link + 1 ∧ (now t).frames = key.frames ∧ (now t).blocked = key.blocked) ∧
      (¬ good → 2 ≤ tget 0 key.fails link → Answers (exec .frameReceive s) fun t => quiet t ∧ t.inputs = s.inputs ∧ head t 0 ∧
        (now t).blocked.getLsbD link = true ∧ (now t).frames = key.frames))) ∧
    (let own := s.ev.a
     let data := s.ev.data.headD 0
     let no := fhBudget n = 0 ∨ (fhSpod n ≠ s.pod ∧ fhType n ≠ 0 ∧ fhType n ≠ 3) ∨ s.isReady (13 + s.ev.b % 16) = false
     let nak (t : State) : Prop := quiet t ∧ t.flight = s.flight ∧ ∃ p, t.fjOut = (s.next, p) :: s.fjOut
     let taken (t : State) (m : Msg) : Prop := quiet t ∧ Sent s t m ∧ ∃ q, tget? t.fj s.next = some q ∧ q.incoming = true ∧ q.header = n
     (4 < fhType n → exec .fjoicAdmit s = .next s) ∧
     (fhType n ≤ 4 → no → Answers (exec .fjoicAdmit s) nak) ∧
     (fhType n ≤ 4 → ¬ no → fhType n ≠ 3 → Answers (exec .fjoicAdmit s) fun t => taken t (.req (s.fjReqOf s.next own n data))) ∧
     (fhType n = 3 → ¬ no →
      (s.fjMsgOf s.next own n data = none → Answers (exec .fjoicAdmit s) nak) ∧
      ∀ m, s.fjMsgOf s.next own n data = some m → Answers (exec .fjoicAdmit s) fun t => taken t (.sendm { m with pgrp := s.next }))) ∧
    (∀ q, tget? s.fj n = some q → q.incoming = false → (∀ r, q.msg = .req r → r.acc = .store ∨ s.ev.b % 2 = 0) →
      Answers (exec .holdNotice s) fun t => tget? t.fj n = some { q with hold := true } ∧
        { t with fj := s.fj } = s ∧ ∀ k, k ≠ n → tget? t.fj k = tget? s.fj k) ∧
    (∀ q r k u, tget? s.fj n = some q → q.incoming = false → q.msg = .req r → r.acc ≠ .store → s.ev.b % 2 = 1 → r.askers = [(k, u)] →
      s.waits k u r.lid = true → (s.slot k u).flk = 0 → Answers (exec .holdNotice s) fun t => tget? t.fj n = some { q with hold := true } ∧
        (t.slot k u).st = .park ∧ (t.slot k u).cause = Cause.page.code ∧ (t.slot k u).pc = (s.slot k u).pc ∧ (t.slot k u).x = (s.slot k u).x ∧
        t.mem = s.mem ∧ ∀ j v, j ≠ k ∨ v ≠ u → t.slot j v = s.slot j v) ∧
    ((∀ q, tget? s.fj n = some q → q.incoming = true) → exec .holdNotice s = .next s) ∧
    (s.fjLate = none → exec .fjoicSourceTimeout s = .next s) ∧
    (∀ k q, s.fjLate = some (k, q) →
      Answers (exec .fjoicSourceTimeout s) (fun t => ∃ e rest, t.toMgmt = e :: rest ∧ ef e 2 1 = 0x2D ∧ ef e 28 4 % 16 = 4 ∧ ef e 16 8 = (fjAddr q).toNat) ∧
      ∀ m, q.msg = .sendm m → m.peer = none → (s.slot m.tile m.slot).wait = .answer → (s.slot m.tile m.slot).parkReq = false →
        (s.slot m.tile m.slot).pend = none → Answers (exec .fjoicSourceTimeout s) fun t => tget? t.fj k = none ∧ t.mem = s.mem ∧ (t.slot m.tile m.slot).st = .run ∧
          ∀ r, (t.slot m.tile m.slot).xr r = if r = m.d ∧ m.d ≠ 0 then 3 else (s.slot m.tile m.slot).xr r) ∧
    (tget? s.mcasts n = none → exec .multicastReplicate s = .next s ∧ exec .multicastAnswer s = .next s) ∧
    (∀ m, tget? s.mcasts n = some m →
      (m.branches ≠ [] ∨ m.told = true → exec .multicastReplicate s = .next s) ∧
      (m.branches = [] → m.told = false → Answers (exec .multicastReplicate s) fun t => quiet t ∧
        tget? t.mcasts n = some { m with branches := (List.range s.ev.data.length).zip s.ev.data, told := true } ∧
        ∀ b, b < s.ev.data.length → ∃ f ∈ t.flight, f.msg = .branchTimer n b ∧ f.due = s.now + 22500)) ∧
    (let ends (t : State) (k : Nat) : Prop := t.mem = s.mem ∧ t.tiles = s.tiles ∧ tget? t.mcasts k = none ∧ tget? t.fj k = none
     let settled (i : Instr) (k b mask : Nat) (s0 : State) : Prop :=
       ∀ m, tget? s.mcasts k = some m →
         ((∀ x ∈ m.branches, x.1 ≠ b) → exec i s = .next s0) ∧
         ((∃ x ∈ m.branches, x.1 = b) → (∀ x ∈ m.branches, x.1 = b) → Answers (exec i s) fun t => ends t k) ∧
         ((∃ x ∈ m.branches, x.1 = b) → (∃ x ∈ m.branches, x.1 ≠ b) → Answers (exec i s) fun t => quiet t ∧ t.pens = s.pens ∧
           tget? t.mcasts k = some { m with branches := m.branches.filter fun x => x.1 != b, mask := m.mask ||| mask })
     (∀ m, tget? s.mcasts n = some m → m.told = true → settled .multicastAnswer n s.ev.a (s.ev.data.headD 0) s) ∧
     (∀ m, tget? s.mcasts n = some m → m.told = false → Answers (exec .multicastAnswer s) fun t => ends t n) ∧
     (∀ k b, s.arrived = some (.branchTimer k b) →
       (tget? s.mcasts k = none → exec .multicastBranchTimeout s = .next s.taken) ∧
       ∀ m, tget? s.mcasts k = some m →
         settled .multicastBranchTimeout k b (((m.branches.find? fun y => y.1 == b).map Prod.snd).getD 0) s.taken)) ∧
    (s.ev.a = 0 → Answers (exec .fjoicPortDown s) fun t => quiet t ∧ head t 2 ∧ t.mgmt = s.mgmt) ∧
    (s.ev.a ≠ 0 → Answers (exec .fjoicPortDown s) fun t => quiet t ∧ head t 3 ∧ t.mgmt.ready.getLsbD (13 + n % 16) = false ∧
      t.mgmt.fjDown = s.mgmt.fjDown ||| BitVec.ofNat 16 (2 ^ (n % 16)) ∧ (t.mgmt.fjDown ≠ BitVec.allOnes 16 → t.roots = s.roots ∧ t.rounds = s.rounds))

/-- R390 to R393, R404, R406, R407 and R409. -/
def Obligations.HostSteps : Prop :=
  ∀ (s : State),
    let port := s.ev.num
    let cpl (t : State) (st : Nat) : Prop := t.cpl = (port * 16 + st, 0) :: s.cpl
    let answered (t : State) (st v : Nat) : Prop := t = s.answerHost port st v
    (let n := s.ev.c
     let va := nw s.ev.b
     let badR := n = 0 ∨ 256 < n
     let badW := badR ∨ s.ev.data.length ≠ n
     (badW → Answers (exec .stoxisWrite s) fun t => answered t 5 0) ∧
     (badR → Answers (exec .stoxisRead s) fun t => answered t 5 0) ∧
     (∀ st, ¬ badW → s.hostAt port s.ev.a va n true = .no st → Answers (exec .stoxisWrite s) fun t => answered t st 0) ∧
     (∀ st, ¬ badR → s.hostAt port s.ev.a va n false = .no st → Answers (exec .stoxisRead s) fun t => answered t st 0) ∧
     (¬ badW → s.hostAt port s.ev.a va n true = .wait → Answers (exec .stoxisWrite s) fun t =>
       t.inputs = (s.now + 1, .stoxisWrite, s.ev) :: s.inputs ∧ { t with inputs := s.inputs } = s) ∧
     (¬ badR → s.hostAt port s.ev.a va n false = .wait → Answers (exec .stoxisRead s) fun t =>
       t.inputs = (s.now + 1, .stoxisRead, s.ev) :: s.inputs ∧ { t with inputs := s.inputs } = s) ∧
     (∀ k kind idx off, ¬ badW → s.hostAt port s.ev.a va n true = .at_ [(k, n, 0)] kind idx off → s.hostDead kind idx off n = false →
       partialPoison s.poison k n = none → Answers (exec .stoxisWrite s) fun t => cpl t 0 ∧ t.tiles = s.tiles ∧
         (∀ b, b < n → readByte t.mem (k + b) = BitVec.ofNat 8 (s.ev.data[b]?.getD 0)) ∧
         ∀ b, b < k ∨ k + n ≤ b → readByte t.mem b = readByte s.mem b) ∧
     (∀ k kind idx off, ¬ badR → s.hostAt port s.ev.a va n false = .at_ [(k, n, 0)] kind idx off → s.hostDead kind idx off n = false →
       poisonIn s.poison k n = none → Answers (exec .stoxisRead s) fun t => answered t 0 (readMem s.mem k n)) ∧
     (∀ k kind idx off, ¬ badR → s.hostAt port s.ev.a va n false = .at_ [(k, n, 0)] kind idx off → (poisonIn s.poison k n).isSome = true →
       Answers (exec .stoxisRead s) fun t => answered t 3 0)) ∧
    (let v := s.sem (s.ev.a % 32)
     let others (t : State) : Prop := (∀ j, j ≠ s.ev.a % 32 → t.sem j = s.sem j) ∧ t.mem = s.mem ∧ t.tiles = s.tiles
     (s.mgmtUp port = false → Answers (exec .semaphoreAcquire s) (fun t => answered t 1 0) ∧
       Answers (exec .semaphoreRelease s) fun t => answered t 1 0) ∧
     (s.mgmtUp port = true →
      (v.1 = 0 → Answers (exec .semaphoreAcquire s) fun t => others t ∧ t.sem (s.ev.a % 32) = (port + 1, (v.2.1 + 1) % 65536, v.2.2) ∧
        t.cpl = (port * 16, semWord (t.sem (s.ev.a % 32)) true) :: s.cpl) ∧
      (v.1 ≠ 0 → Answers (exec .semaphoreAcquire s) fun t => answered t 0 (semWord v false)) ∧
      (v.1 = port + 1 → Answers (exec .semaphoreRelease s) fun t => others t ∧ t.sem (s.ev.a % 32) = (0, v.2) ∧ cpl t 0) ∧
      (v.1 ≠ port + 1 → Answers (exec .semaphoreRelease s) fun t => others t ∧ cpl t 0 ∧
        t.sem (s.ev.a % 32) = (v.1, v.2.1, min (v.2.2 + 1) 65535)))) ∧
    (Answers (exec .stoxisPortDown s) fun t => t.mgmt.ready.getLsbD (port % 2) = false ∧ t.mem = s.mem ∧ t.tiles = s.tiles ∧
      (∀ n, (s.sem n).1 = port % 2 + 1 → t.sem n = (0, (s.sem n).2)) ∧ (∀ n, (s.sem n).1 ≠ port % 2 + 1 → t.sem n = s.sem n) ∧
      ∃ e, t.toMgmt = e :: s.toMgmt ∧ ef e 2 1 = 0x2D ∧ ef e 28 4 % 16 = 6) ∧
    (s.portUp port = false → Answers (exec .mgmtRead s) (fun t => answered t 1 0) ∧ Answers (exec .mgmtWrite s) (fun t => answered t 1 0) ∧
      Answers (exec .debugRead s) fun t => answered t 1 0) ∧
    (s.portUp port = true →
      (s.ev.a % 8 ≠ 0 → Answers (exec .mgmtRead s) (fun t => answered t 5 0) ∧ Answers (exec .mgmtWrite s) fun t => answered t 5 0) ∧
      (s.ev.a = 0 → Answers (exec .mgmtRead s) (fun t => answered t 0 s.mgmt.ready.toNat) ∧ Answers (exec .mgmtWrite s) fun t => answered t 0 0) ∧
      (s.isReady 2 = true → s.ev.a = 0x208 → Answers (exec .mgmtRead s) fun t => answered t 0 s.mgmt.roleStat) ∧
      (s.isReady 2 = true → s.ev.a = 0x810 → Answers (exec .mgmtWrite s) fun t => tget 0 t.mgmt.dbgAddr port = s.ev.b % 2 ^ 64 ∧ cpl t 0 ∧
        t.mem = s.mem ∧ t.tiles = s.tiles) ∧
      (s.isReady 2 = false ∨ s.mgmt.agent = none → Answers (exec .debugRead s) fun t => answered t 1 0) ∧
      (s.isReady 2 = true → s.mgmt.agent ≠ none → s.dbgRead port = .wait → Answers (exec .debugRead s) fun t =>
        t.inputs = (s.now + 1, .debugRead, s.ev) :: s.inputs ∧ { t with inputs := s.inputs } = s) ∧
      ∀ st v woke, s.isReady 2 = true → s.mgmt.agent ≠ none → s.dbgRead port = .ok st v woke → Answers (exec .debugRead s) fun t =>
        t.mgmt.dbgStat = st ∧ t.mgmt.wakes = s.mgmt.wakes + (if woke then 1 else 0) ∧ t.cpl = (port * 16, v) :: s.cpl ∧ t.mem = s.mem ∧
        t.tiles = s.tiles) ∧
    (let p := s.ev.num
     let i := s.ev.b % 64
     let g := (s.part p).grant i
     let only (t : State) : Prop := { t with parts := s.parts, flight := s.flight, next := s.next } = s ∧
       (∀ j, j ≠ i → (t.part p).grant j = (s.part p).grant j) ∧ ∀ q, q ≠ p → t.part q = s.part q
     let refused (t : State) : Prop := only t ∧ (t.part p).grant i = { g with err := true } ∧ t.flight = s.flight
     let revoked (t : State) : Prop := only t ∧ (t.part p).grant i = { g with st := 2, err := false } ∧
       ∃ f, t.flight = s.flight ++ [f] ∧ f.msg = .grantFree (p * 64 + i) ∧ f.due = s.now + 1
     let base := (s.part p).wgdat0
     let pages := nf s.ev.a 0 32
     let st := nf s.ev.a 48 2
     s.ev.a < 2 ^ 51 →
     (g.st = 2 → Answers (exec .grant s) refused ∧ Answers (exec .revoke s) refused) ∧
     (g.st = 1 → Answers (exec .revoke s) revoked ∧ (st = 0 → Answers (exec .grant s) revoked) ∧ (st ≠ 0 → Answers (exec .grant s) refused)) ∧
     (g.st = 0 →
      (2 ≤ st → Answers (exec .grant s) refused) ∧
      (st = 1 → (2 ^ 36 < base * 65536 + pages * 65536 ∨ pages = 0 ∨ s.grantClash p base pages (nf s.ev.a 32 12) = true) →
        Answers (exec .grant s) refused) ∧
      (st = 0 ∨ (st = 1 ∧ base * 65536 + pages * 65536 ≤ 2 ^ 36 ∧ pages ≠ 0 ∧ s.grantClash p base pages (nf s.ev.a 32 12) = false) →
        Answers (exec .grant s) fun t => only t ∧ t.flight = s.flight ∧ let g' := (t.part p).grant i
          g'.base = base ∧ g'.pages = pages ∧ g'.grantee = nf s.ev.a 32 12 ∧ g'.rights = BitVec.ofNat 4 (nf s.ev.a 44 4) ∧ g'.st = st ∧
          g'.err = false))) ∧
    (∀ k, s.arrived = some (.grantFree k) → (s.grantBusy k = true → exec .grantDrained s = .next s) ∧
      (s.grantBusy k = false → Answers (exec .grantDrained s) fun t => { t with parts := s.parts } = s.taken ∧
        let g := (s.part (k / 64)).grant (k % 64)
        (t.part (k / 64)).grant (k % 64) = { g with st := if g.st = 2 then 0 else g.st }))

/-- R393, R401, R408 to R412, R414 and R419. That the NONCE status is decided before FIELD and FULL is the model's order (log 31). -/
def Obligations.BringUpSteps : Prop :=
  ∀ (s : State),
    let port := s.ev.num
    let nak (i : Instr) : Prop := exec i s = .next (s.answerHost port 1 0)
    let acked (t : State) : Prop := t.cpl = (port * 16, 0) :: s.cpl
    let keeps (t : State) : Prop := t.mem = s.mem ∧ t.poison = s.poison ∧ t.tiles = s.tiles
    let empty (t : State) : Prop := (∀ k u, t.slot k u = Slot.fresh) ∧ (∀ k, readByte t.mem k = 0) ∧ t.poison = [] ∧ t.launches = [] ∧
      t.queues = [] ∧ t.parts = [] ∧ t.flight = [] ∧ t.mgmt.earmarks = [] ∧ t.mgmt.ready = 0 ∧ t.mgmt.repairs = [] ∧ t.now = s.now
    let up := s.portUp port = true
    let mc := s.mgmtUp port = true
    (¬ up → nak .resetCold ∧ nak .resetPackage ∧ nak .resetPort ∧ nak .bootImageCheck) ∧
    (¬ mc → nak .attestRequest ∧ nak .keyLoad ∧ nak .keyRemove) ∧
    (up → Answers (exec .resetCold s) (fun t => empty t ∧ acked t ∧ t.mgmt.marks = [] ∧ t.mgmt.fwDigest = 0) ∧
      Answers (exec .resetPackage s) (fun t => empty t ∧ acked t ∧ t.mgmt.marks = s.mgmt.marks ∧ t.mgmt.rankCe = s.mgmt.rankCe ∧
        t.mgmt.fwDigest = s.mgmt.fwDigest ∧ ((s.tiles.map Prod.fst).Nodup → ∀ k, (t.tile k).margin = (s.tile k).margin)) ∧
      Answers (exec .resetPort s) fun t => keeps t ∧ acked t ∧ t.mgmt.ready.getLsbD port = false ∧ t.launches = s.launches ∧
        (∀ j, j ≠ port → t.mgmt.ready.getLsbD j = s.mgmt.ready.getLsbD j) ∧ (∀ n, (s.sem n).1 = port + 1 → (t.sem n).1 = 0) ∧
        ∃ e, t.toMgmt = e :: s.toMgmt ∧ ef e 2 1 = 0x2D ∧ ef e 28 4 % 16 = 6) ∧
    Answers (exec .powerOn s) (fun t => empty t ∧ t.mgmt.bootPort = port % 2 ∧ t.mgmt.cooling = s.ev.a % 3) ∧
    (let b := s.ev.num
     let next := s.bootNext = some b
     let was := s.mgmt.booted.getLsbD b = true
     (¬ next → ¬ was → exec .functionReady s = .next s) ∧
     (b < 42 → (next ∧ b ≠ 3 ∧ b ≠ 4) ∨ (¬ next ∧ was) → Answers (exec .functionReady s) fun t => keeps t ∧ t.mgmt.ready.getLsbD b = true ∧
       t.mgmt.booted.getLsbD b = true ∧ ∀ j, j ≠ b → t.mgmt.ready.getLsbD j = s.mgmt.ready.getLsbD j) ∧
     (next → b = 3 ∨ b = 4 → Answers (exec .functionReady s) fun t => t.mgmt.ready.getLsbD b = true ∧ t.mgmt.booted.getLsbD b = true ∧
       (t.stack (b - 3)).chg = false ∧ (t.stack (b - 3)).remap = [] ∧ t.mgmt.roleStat = 0) ∧
     Answers (exec .functionLost s) fun t => keeps t ∧ t.mgmt.ready.getLsbD (b % 42) = false ∧
       ∀ j, j ≠ b % 42 → t.mgmt.ready.getLsbD j = s.mgmt.ready.getLsbD j) ∧
    (up →
      (s.isReady 2 = true ∨ port ≠ s.mgmt.bootPort → exec .bootImageCheck s = .next (s.answerHost port 0 0)) ∧
      (s.isReady 2 = false → port = s.mgmt.bootPort →
        (∀ c, s.bootFails s.ev.a = some c → Answers (exec .bootImageCheck s) fun t => keeps t ∧ acked t ∧ t.mgmt.ready = s.mgmt.ready ∧
          t.mgmt.boot = s.mgmt.boot ∧ ∃ e, t.events = e :: s.events ∧ ef e 2 1 = 0x2E ∧ ef e 28 2 = c) ∧
        (s.bootFails s.ev.a = none → Answers (exec .bootImageCheck s) fun t => keeps t ∧ acked t ∧ t.mgmt.ready.getLsbD 2 = true ∧
          t.mgmt.fwDigest = s.bootDigest s.ev.a ∧ t.mgmt.boot = [] ∧ t.events = s.events))) ∧
    (mc → Answers (exec .attestRequest s) fun t => keeps t ∧ acked t ∧ t.mgmt.attDone = false ∧ tget? t.mgmt.reportNonce port = none ∧
      (∃ f ∈ t.flight, f.msg = .report port (tget 0 s.mgmt.nonce port) ∧ s.now < f.due ∧ f.due ≤ s.now + 6250000) ∧
      ∀ f ∈ t.flight, ∀ p x, f.msg = .report p x → p = port ∧ x = tget 0 s.mgmt.nonce port) ∧
    (∀ p nonce, s.arrived = some (.report p nonce) → Answers (exec .attestReportDone s) fun t => keeps t ∧ t.mgmt.attDone = true ∧
      tget? t.mgmt.reportNonce p = some nonce ∧ t.mgmt.report % 2 ^ 256 = nonce % 2 ^ 256 ∧ t.mgmt.ready = s.mgmt.ready) ∧
    (mc → ∀ (i : Instr) (w : Nat), (i = .keyLoad ∧ w = tget 0 s.mgmt.keyWord port) ∨
      (i = .keyRemove ∧ w = nput (tget 0 s.mgmt.keyWord port) 28 1 1) →
      let em := nf w 0 12
      let stat (n : Nat) : Prop := Answers (exec i s) fun t => keeps t ∧ acked t ∧ tget 0 t.mgmt.keyStat port = n ∧ t.mgmt.earmarks = s.mgmt.earmarks
      let others (t : State) : Prop := ∀ e, e ≠ em → tget? t.mgmt.earmarks e = tget? s.mgmt.earmarks e
      let quoted := tget? s.mgmt.reportNonce port = some (tget 0 s.mgmt.keyNonce port)
      let field := em = 0
      let full := tget? s.mgmt.earmarks em = none ∧ 256 ≤ s.mgmt.earmarks.length
      (¬ quoted → stat 2) ∧ (quoted → field → stat 4) ∧ (quoted → ¬ field → nb w 28 = false → full → stat 3) ∧
      (quoted → ¬ field → nb w 28 = true → Answers (exec i s) fun t => keeps t ∧ acked t ∧ tget 0 t.mgmt.keyStat port = 1 ∧
        tget? t.mgmt.earmarks em = none ∧ others t) ∧
      (quoted → ¬ field → nb w 28 = false → ¬ full → Answers (exec i s) fun t => keeps t ∧ acked t ∧ tget 0 t.mgmt.keyStat port = 1 ∧ others t ∧
        ∃ e, tget? t.mgmt.earmarks em = some e ∧ e.mask = BitVec.ofNat 16 (nf w 12 16) ∧ e.key = tget 0 s.mgmt.keyVal port ∧
          e.blocked = 0 ∧ ∀ k, tget 0 e.frames k = 0))

/-- R328, R406, R416 to R418, R420 and R421. -/
def Obligations.TenancySteps : Prop :=
  ∀ (s : State),
    let port := s.ev.num
    let nak (i : Instr) : Prop := exec i s = .next (s.answerHost port 1 0)
    let acked (t : State) : Prop := t.cpl = (port * 16, 0) :: s.cpl
    let mc := s.mgmtUp port = true
    (¬ mc → nak .layerRetain ∧ nak .partitionCreate ∧ nak .partitionClose ∧ nak .debugAttach ∧ nak .tileHalt ∧ nak .tileResume) ∧
    (mc → Answers (exec .layerRetain s) fun t => acked t ∧ t.mem = s.mem ∧ t.tiles = s.tiles ∧ t.mgmt = s.mgmt ∧
      ∀ k l, k < 2 → l < 8 → (t.stack k).retain.getLsbD l = (nb s.ev.a (8 * k + l) && s.retainable k l)) ∧
    (let m := s.mgmt
     let lim := powerLimit m.cooling
     let hot := lim < s.ev.a
     let since (c : Prop) (o : Option Nat) (n : Nat) : Prop := c ∧ ∃ t, o = some t ∧ t + n ≤ s.now
     let reset := since (hot ∧ m.duty = 4) m.overSince 125000000
     let rise := since (s.ev.a * 10 < lim * 9 ∧ m.duty ≠ 0) m.lowSince 1250000
     (reset → Answers (exec .powerSample s) fun t => t.mgmt.ready = 0 ∧ t.launches = [] ∧ (∀ k u, t.slot k u = Slot.fresh) ∧
       ∀ k, readByte t.mem k = 0) ∧
     (¬ reset → Answers (exec .powerSample s) fun t => { t with mgmt := s.mgmt } = s ∧ t.mgmt.ready = m.ready ∧
       t.mgmt.duty = (if hot then min (m.duty + 1) 4 else if rise then m.duty - 1 else m.duty))) ∧
    (mc → let p := s.ev.a % 16
      let q := s.part p
      let v := nput s.ev.b 0 1 1
      let q' := { q with ports := BitVec.ofNat 2 (nf v 3 2), owner := if q.st = 0 then nf v 16 12 else q.owner }
      let only (t : State) : Prop := acked t ∧ (∀ r, r ≠ p → t.part r = s.part r) ∧ t.mem = s.mem ∧ t.tiles = s.tiles ∧ t.launches = s.launches
      (q.st = 3 ∨ (q.st = 0 ∧ s.partRefused p q' v = true) → Answers (exec .partitionCreate s) fun t => only t ∧
        t.part p = { q with err := true } ∧ t.flight = s.flight) ∧
      (q.st = 0 → s.partRefused p q' v = false → Answers (exec .partitionCreate s) fun t => only t ∧ Sent s t (.opened p) ∧
        (t.part p).valid = true ∧ (t.part p).st = 1 ∧ (t.part p).owner = nf v 16 12 ∧ (t.part p).ports = BitVec.ofNat 2 (nf v 3 2) ∧
        (t.part p).ptEn = false ∧ (t.part p).err = false ∧ (t.part p).dies = q.dies ∧ (t.part p).hbase = q.hbase) ∧
      (q.st = 1 ∨ q.st = 2 → Answers (exec .partitionCreate s) fun t => only t ∧ t.part p = { q' with err := false } ∧ t.flight = s.flight)) ∧
    (∀ p, s.arrived = some (.opened p) → ((s.part p).st ≠ 1 → exec .partitionOpened s = .next s.taken) ∧
      ((s.part p).st = 1 → Answers (exec .partitionOpened s) fun t => (t.part p).st = 2 ∧ (t.part p).owner = (s.part p).owner ∧
        t.flight = s.taken.flight)) ∧
    (mc → let p := s.ev.a % 16
      let q := s.part p
      (q.st = 1 ∨ q.st = 2 → Answers (exec .partitionClose s) fun t => acked t ∧ (t.part p).st = 3 ∧ t.mem = s.mem ∧
        (∀ i, i < 64 → q.queues.getLsbD i = true → (t.queue i).en = false) ∧
        ((s.launches.map Prod.fst).Nodup → ∀ l, (s.launch l).part = p → (s.launch l).st = .running → (s.launch l).supervisor = false →
          (t.launch l).st = .ending) ∧ (t.part p).grants = q.grants) ∧
      (q.st = 0 ∨ q.st = 3 → Answers (exec .partitionClose s) fun t => acked t ∧ (t.part p).st = q.st ∧ (t.part p).err = false ∧
        t.launches = s.launches ∧ t.queues = s.queues ∧ t.mem = s.mem)) ∧
    (let p := s.ev.num
     let q := s.part p
     (s.freePick ≠ some p → exec .partitionFreed s = .next s) ∧
     (s.freePick = some p → q.granting = true → Answers (exec .partitionFreed s) fun t => (t.part p).valid = true ∧ (t.part p).st = 3 ∧
       (∀ i, (q.grant i).st = 1 → ((t.part p).grant i).st = 2) ∧ t.mem = s.mem ∧ t.launches = s.launches) ∧
     (s.freePick = some p → q.granting = false → Answers (exec .partitionFreed s) fun t => (t.part p).valid = false ∧ (t.part p).st = 0 ∧ (t.part p).gtab = [] ∧
       (∀ i, i < q.hlen → readByte t.mem (hbmKey q.hbase + i) = 0) ∧
       (∀ k, k < hbmKey q.hbase ∨ hbmKey q.hbase + q.hlen ≤ k → readByte t.mem k = readByte s.mem k) ∧
       ∀ l ∈ t.launches, l.2.part = p → l.2.supervisor = false)) ∧
    (mc → Answers (exec .debugAttach s) fun t => acked t ∧ t.tiles = s.tiles ∧ t.mem = s.mem ∧
      t.mgmt.agent = (if (tget? s.mgmt.reportNonce port).isSome then some port else s.mgmt.agent)) ∧
    (mc → ∀ (i : Instr) (v : Nat) (stop : Bool), (i = .tileHalt ∧ v = nput s.ev.a 19 2 1 ∧ stop = true) ∨
      (i = .tileResume ∧ v = nput s.ev.a 19 2 2 ∧ stop = false) →
      (s.mgmt.agent = none ∨ 128 ≤ nf v 0 8 ∨ 160 ≤ nf v 8 8 ∨ s.realDie (nf v 16 3) = none → exec i s = .next (s.answerHost port 0 0)) ∧
      (∀ d, s.mgmt.agent ≠ none → nf v 0 8 < 128 → nf v 8 8 < 160 → s.realDie (nf v 16 3) = some d → Answers (exec i s) fun t => acked t ∧
        let k := tileKey d (nf v 0 8) (nf v 8 8)
        (t.tile k).halted = stop ∧ (t.tile k).slots = (s.tile k).slots ∧ (∀ j, j ≠ k → t.tile j = s.tile j) ∧ t.mem = s.mem ∧
          t.toMgmt = s.toMgmt))

/-- The words of the spec's encoding examples (03 to 08, 10, 14, 18 to 20), under R76, R79, R99, R101 and R110. -/
def Obligations.WordsDecode : Prop :=
  decodeTableWord 32 0x00010981 = some (.add 3 1 2) ∧ decodeTableWord 32 0x008A1901 = some (.sltu 2 3 4) ∧
  decodeTableWord 32 0xA543B281 = some (.csel 5 9 6 7 2) ∧ decodeTableWord 32 0x04818203 = some (.addi 4 0 0x903) ∧
  decodeTableWord 32 0x00100093 = some (.movk 1 0x20) ∧ decodeTableWord 32 0x04082015 = some (.acomp 0 4 0 1) ∧
  decodeTableWord 32 0x09E82317 = some (.bfxu 6 4 15 16) ∧ decodeTableWord 32 0x0000001F = some .nop ∧
  decodeTableWord 32 0xFFF82621 = some (.bne 4 0 0x1FFFC) ∧ decodeTableWord 32 0x20019C21 = some (.loopi 4 8) ∧
  decodeTableWord 32 0x035812AD = some (.ld 5 2 0 3 1) ∧ decodeTableWord 32 0xFE919331 = some (.sw 6 2 3 0xFE 2) ∧
  decodeTableWord 32 0x01206A31 = some (.sdp 2 13 0 1 0) ∧ decodeTableWord 32 0x30000033 = some (.waitc 3) ∧
  decodeTableWord 32 0x144D24B5 = some (.amocas 9 1 4 10 1 0) ∧ decodeTableWord 32 0x408439B5 = some (.amofadd 3 0 7 8 1 0 0) ∧
  decodeTableWord 32 0x04C32A41 = some (.fma 4 5 6 0 0 1) ∧ decodeTableWord 32 0x105013C3 = some (.fcvti 7 2 0 1 0 2) ∧
  decodeTableWord 32 0x4CB02B43 = some (.icvtf 6 5 1 0 3 6) ∧ decodeTableWord 32 0x08040051 = some (.vadd 0 0 8 0 2) ∧
  decodeTableWord 32 0x28219253 = some (.vdot 4 2 3 10) ∧ decodeTableWord 32 0x28201055 = some (.vfill 0 2 10) ∧
  decodeTableWord 32 0x00081857 = some (.vloop 3 0) ∧ decodeTableWord 32 0x50001869 = some (.mldb 3 2 1) ∧
  decodeTableWord 32 0x00080969 = some (.mma 2 1) ∧ decodeTableWord 32 0x002994F1 = some (.dmcst 9 2 3) ∧
  decodeTableWord 32 0x00121973 = some (.acarm 2 3 4) ∧ decodeTableWord 32 0x1002A079 = some (.harvAdd 4 5 0 1) ∧
  decodeTableWord 32 0x00801879 = some (.ttgo 3 0) ∧ decodeTableWord 32 0x000194FB = some (.sendm 9 2 3) ∧
  decodeTableWord 32 0x00000CFD = some (.lnch 9 1) ∧ decodeTableWord 32 0x001A4BFD = some (.grpset 7 9 4) ∧
  decodeTableWord 32 0x0001507F = some (.trap 0x2A) ∧ decodeTableWord 32 0x0039087F = some (.xsave 1 2) ∧
  decodeTableWord 32 0x801A02FF = some (.mtc 0x840 5) ∧ decodeTableWord 32 0x80120B7F = some (.mfc 6 0x841) ∧
  decodeTableWord 16 0x08C2 = some (.addC 3 2) ∧ decodeTableWord 16 0x5D8A = some (.ldC 6 1 7) ∧
  decodeTableWord 16 0x0952 = some (.beqzC 5 2) ∧ decodeTableWord 16 0xC058 = some (.jalrC 1) ∧ decodeTableWord 16 0x0018 = some .nopC ∧
  decodeTableWord 32 0x00000037 = none ∧ decodeTableWord 32 0x00600079 = none

/-- R32, R41, R76 and R101. -/
def Obligations.StepRunsTheDecodedWord : Prop :=
  ∀ (s : State) (k u off : Nat) (i : Instr) (rest : List Byte),
    let sl := s.slot k u
    let at_ (n : Nat) : Byte := readByte s.mem (s.sliceKey k off + n)
    let line := s.readLine k (lineBase sl.pc)
    let a : Act := { tile := k, slot := u, instr := i, line := some line, pend := none, issues := true }
    s.inputDue = none → s.hwNext = none → s.threadNext = s.actOf k u true →
    sl.refusals = [] → sl.engErrs = [] → sl.fpx = none → sl.fwd = none → sl.flk = 0 → sl.line = none →
    decodeWin sl.pc = some (.loc off) → off % 2 = 0 → off % 64 ≤ 60 → off + 4 ≤ (s.launch (s.tile k).lid).slice → line.poison = [] →
    decode [at_ 0, at_ 1, at_ 2, at_ 3] = .ok (i, rest) → (privileged i = true → sl.priv = true) →
    step s = finishWord a (exec i (s.prepare a))

/-- R306, R312, R318, R324, R342, R408 and R410; what the spec gives no reset value is the model's choice (log 5) and is not stated. -/
def Obligations.ResetState : Prop :=
  let s := State.reset
  memWf s.mem = true ∧ s.mem = [] ∧ (∀ k, readByte s.mem k = 0) ∧ s.poison = [] ∧ s.flight = [] ∧ s.launches = [] ∧
  s.mgmt.ready = 0 ∧ s.mgmt.earmarks = [] ∧ (∀ k u, (s.slot k u).st = .free) ∧ (∀ p, (s.part p).valid = false ∧ (s.part p).st = 0) ∧
  (∀ q, (s.queue q).en = false ∧ (s.queue q).lsize = 4 ∧ (s.queue q).plvl = 7 ∧ (s.queue q).tail = 0) ∧
  (∀ d, (s.die d).wdog = 0x4C4B ∧ (s.die d).dthr = 64) ∧ (∀ d g, s.physGroup d g = g) ∧ ∀ k, (s.stack k).chg = false

/-- R76, R79 to R99 and R101. -/
def Obligations.DecodeOfEncode : Prop :=
  ∀ (i : Instr) (rest : List Byte), hasWord i = true → wellFormed i = true →
    decode (encode i ++ rest) = .ok (i, rest) ∧ (encode i).length = wordBytes i ∧ (wordBytes i = 2 ∨ wordBytes i = 4)

/-- An invariant of the model's memory; that no step stops follows from the meanings of all rows of the opcode table. -/
def Obligations.EveryStepKeepsMemory : Prop :=
  ∀ s : State, memWf s.mem = true → Completes (step s) ∧ ∀ t, step s = .next t → memWf t.mem = true
end

