-- ==== Sys2Proof/Laws/Exec.lean ====
section
/-! SUPPORT. Laws of exec: every meaning answers a next state, in every state and with every operand. -/

namespace Sys2Proof.Machine

/-- No instruction and no hardware step ends in a fault or a refusal. -/
theorem exec_completes (i : Instr) (s : State) : Completes (exec i s) := by
  cases i <;> first
    | exact ⟨_, rfl⟩
    | (simp only [exec, execVfill]; split <;> exact ⟨_, rfl⟩)

end Sys2Proof.Machine
end

