-- ==== Sys2Proof/Laws/Tables.lean ====
section
/-! SUPPORT. Laws of the sparse tables: reading after writing and erasing, and the rising order of keys. -/

namespace Sys2Proof.Machine

variable {α : Type}

@[simp] theorem tget_tset_same (d : α) (t : Tbl α) (k : Nat) (v : α) : tget d (tset t k v) k = v := by
  induction t with
  | nil => simp [tset, tget]
  | cons p r ih =>
    obtain ⟨j, w⟩ := p
    simp only [tset]
    split
    · simp [tget]
    · split <;> simp_all [tget]

theorem tget_tset_ne (d : α) (t : Tbl α) {k j : Nat} (v : α) (h : j ≠ k) : tget d (tset t k v) j = tget d t j := by
  induction t with
  | nil => simp [tset, tget, h.symm]
  | cons p r ih =>
    obtain ⟨i, w⟩ := p
    simp only [tset]
    split
    · rename_i hik; subst hik; simp [tget, h.symm]
    · split
      · simp [tget, h.symm]
      · by_cases hij : i = j <;> simp_all [tget]

theorem tget_tset (d : α) (t : Tbl α) (k j : Nat) (v : α) : tget d (tset t k v) j = if j = k then v else tget d t j := by
  split
  · rename_i h; subst h; simp
  · rename_i h; exact tget_tset_ne d t v h

@[simp] theorem tget_terase_same (d : α) (t : Tbl α) (k : Nat) : tget d (terase t k) k = d := by
  induction t with
  | nil => rfl
  | cons p r ih =>
    obtain ⟨j, w⟩ := p
    by_cases h : j = k <;> simp_all [terase, tget]

theorem tget_terase_ne (d : α) (t : Tbl α) {k j : Nat} (h : j ≠ k) : tget d (terase t k) j = tget d t j := by
  induction t with
  | nil => rfl
  | cons p r ih =>
    obtain ⟨i, w⟩ := p
    by_cases hik : i = k
    · have : i ≠ j := fun e => h (e.symm.trans hik)
      simp_all [terase, tget]
    · by_cases hij : i = j <;> simp_all [terase, tget]

/-- The keys rise strictly. -/
def Rising : List (Nat × α) → Prop
  | [] => True
  | (a, _) :: r => (∀ p ∈ r, a < p.1) ∧ Rising r

theorem Rising.terase {t : Tbl α} (h : Rising t) (k : Nat) : Rising (terase t k) := by
  induction t with
  | nil => trivial
  | cons p r ih =>
    obtain ⟨a, v⟩ := p
    by_cases hk : a = k
    · simpa [Machine.terase, hk] using ih h.2
    · have hh : (a != k) = true := by simp [hk]
      simp only [Machine.terase, List.filter, hh]
      exact ⟨fun q hq => h.1 q (List.mem_of_mem_filter hq), ih h.2⟩

theorem mem_tset {t : Tbl α} {k : Nat} {v : α} {p : Nat × α} (h : p ∈ tset t k v) : p = (k, v) ∨ p ∈ t := by
  induction t with
  | nil => simp_all [tset]
  | cons q r ih =>
    obtain ⟨j, w⟩ := q
    simp only [tset] at h
    split at h
    · simp_all
      tauto
    · split at h
      · simp_all
      · rcases List.mem_cons.1 h with h | h
        · simp [h]
        · rcases ih h with h | h <;> simp [h]

theorem Rising.tset {t : Tbl α} (h : Rising t) (k : Nat) (v : α) : Rising (tset t k v) := by
  induction t with
  | nil => exact ⟨by simp, trivial⟩
  | cons p r ih =>
    obtain ⟨j, w⟩ := p
    simp only [Machine.tset]
    split
    · rename_i e; subst e; exact h
    · split
      · rename_i hlt
        refine ⟨fun q hq => ?_, h⟩
        rcases List.mem_cons.1 hq with rfl | hq
        · exact hlt
        · exact hlt.trans (h.1 q hq)
      · rename_i hne hnl
        refine ⟨fun q hq => ?_, ih h.2⟩
        rcases mem_tset hq with rfl | hq
        · show j < k; omega
        · exact h.1 q hq

end Sys2Proof.Machine
end

