-- ==== Sys2Proof/Laws/Memory.lean ====
section
/-! SUPPORT. Laws of storage: a byte read after a write, wide writes outside their range, and the canonical form, which every memory
operation keeps. -/

namespace Sys2Proof.Machine

theorem readByte_writeByte (m : List Host.Cell) (k j : Nat) (b : Byte) :
    readByte (writeByte m k b) j = if j = k then b else readByte m j := by
  unfold readByte writeByte
  by_cases hb : b = 0
  · simp only [hb, if_true]
    by_cases h : j = k
    · subst h; simp
    · simp [h, tget_terase_ne]
  · simp only [hb, if_false]
    by_cases h : j = k
    · subst h; simp
    · simp [h, tget_tset_ne, tget_terase_ne]

theorem readByte_writeMem_out (m : List Host.Cell) (k j n v : Nat) (h : j < k ∨ k + n ≤ j) :
    readByte (writeMem m k n v) j = readByte m j := by
  induction n generalizing m k v with
  | zero => rfl
  | succ n ih =>
    rw [writeMem, ih _ _ _ (by omega), readByte_writeByte, if_neg (by omega)]

theorem readByte_writeMem_in (m : List Host.Cell) (k n v i : Nat) (h : i < n) :
    readByte (writeMem m k n v) (k + i) = BitVec.ofNat 8 (v / 256 ^ i) := by
  induction n generalizing m k v i with
  | zero => omega
  | succ n ih =>
    rw [writeMem]
    cases i with
    | zero => rw [readByte_writeMem_out _ _ _ _ _ (by omega), readByte_writeByte]; simp
    | succ i =>
      have := ih (writeByte m k (BitVec.ofNat 8 v)) (k + 1) (v / 256) i (by omega)
      rw [show k + (i + 1) = k + 1 + i by omega, this, Nat.div_div_eq_div_mul, pow_succ']

theorem readMem_congr {m m' : List Host.Cell} {k n : Nat} (h : ∀ j, k ≤ j → j < k + n → readByte m j = readByte m' j) :
    readMem m k n = readMem m' k n := by
  induction n generalizing k with
  | zero => rfl
  | succ n ih =>
    rw [readMem, readMem, h k (by omega) (by omega), ih fun j h1 h2 => h j (by omega) (by omega)]

/-- A read after a write to the same place gives the value written, cut to its bytes. -/
theorem readMem_writeMem (m : List Host.Cell) (k n v : Nat) : readMem (writeMem m k n v) k n = v % 256 ^ n := by
  induction n generalizing m k v with
  | zero => simp [readMem, Nat.mod_one]
  | succ n ih =>
    rw [readMem, writeMem, readByte_writeMem_out _ _ _ _ _ (by omega), readByte_writeByte, if_pos rfl, ih, pow_succ', Nat.mod_mul]
    simp

/-- The canonical form: keys rising, no byte equal to what an unlisted one reads as. -/
theorem memWf_iff (m : List Host.Cell) : memWf m = true ↔ Rising m ∧ ∀ p ∈ m, p.2 ≠ 0 := by
  induction m with
  | nil => simp [memWf, Rising]
  | cons p r ih =>
    obtain ⟨a, b⟩ := p
    cases r with
    | nil => simp [memWf, Rising]
    | cons q r =>
      obtain ⟨c, e⟩ := q
      simp only [memWf, Bool.and_eq_true, ih, decide_eq_true_eq, bne_iff_ne, ne_eq]
      simp only [Rising, List.mem_cons, forall_eq_or_imp]
      constructor
      · rintro ⟨⟨h1, h2⟩, ⟨h3, h4⟩, h5, h6⟩
        exact ⟨⟨⟨h2, fun p hp => h2.trans (h3 p hp)⟩, h3, h4⟩, h1, h5, h6⟩
      · rintro ⟨⟨⟨h2, _⟩, h3, h4⟩, h1, h5, h6⟩
        exact ⟨⟨h1, h2⟩, ⟨h3, h4⟩, h5, h6⟩

theorem memWf_writeByte {m : List Host.Cell} (h : memWf m = true) (k : Nat) (b : Byte) : memWf (writeByte m k b) = true := by
  rw [memWf_iff] at h ⊢
  unfold writeByte
  split
  · exact ⟨h.1.terase k, fun p hp => h.2 p (List.mem_of_mem_filter hp)⟩
  · rename_i hb
    refine ⟨(h.1.terase k).tset k b, fun p hp => ?_⟩
    rcases mem_tset hp with rfl | hp
    · exact hb
    · exact h.2 p (List.mem_of_mem_filter hp)

theorem memWf_writeMem {m : List Host.Cell} (h : memWf m = true) (k n v : Nat) : memWf (writeMem m k n v) = true := by
  induction n generalizing m k v with
  | zero => exact h
  | succ n ih => exact ih (memWf_writeByte h k _) _ _

theorem Rising.filter {m : List Host.Cell} (h : Rising m) (f : Host.Cell → Bool) : Rising (m.filter f) := by
  induction m with
  | nil => trivial
  | cons p r ih =>
    obtain ⟨a, b⟩ := p
    by_cases hf : f (a, b) = true
    · rw [List.filter_cons_of_pos hf]
      exact ⟨fun q hq => h.1 q (List.mem_of_mem_filter hq), ih h.2⟩
    · rw [List.filter_cons_of_neg hf]; exact ih h.2

theorem memWf_filter {m : List Host.Cell} (h : memWf m = true) (f : Host.Cell → Bool) : memWf (m.filter f) = true := by
  rw [memWf_iff] at h ⊢
  exact ⟨h.1.filter f, fun p hp => h.2 p (List.mem_of_mem_filter hp)⟩

theorem memWf_store {s : State} (h : memWf s.mem = true) (k n v : Nat) : memWf (s.store k n v).mem = true := memWf_writeMem h k n v

theorem memWf_zeroRange {s : State} (h : memWf s.mem = true) (k n : Nat) : memWf (s.zeroRange k n).mem = true := memWf_filter h _

/-- Every listed byte is what reading it gives, and an unlisted one reads as 0: equal memories in canonical form read alike. -/
theorem readByte_unlisted {m : List Host.Cell} {k : Nat} (h : ∀ p ∈ m, p.1 ≠ k) : readByte m k = 0 := by
  induction m with
  | nil => rfl
  | cons p r ih =>
    obtain ⟨a, b⟩ := p
    have h1 : a ≠ k := h (a, b) (by simp)
    have := ih fun q hq => h q (List.mem_cons_of_mem _ hq)
    simpa [readByte, tget, h1] using this

end Sys2Proof.Machine
end

