-- ==== Sys2Proof/Laws/State.lean ====
section
/-! SUPPORT. Laws of State: what each update leaves of each field, one lemma for each field and update, so that no proof unfolds a record
update. -/

namespace Sys2Proof.Machine

variable (s : State)

@[simp] theorem State.updTile_now (t : Nat) (f : Tile → Tile) : (s.updTile t f).now = s.now := rfl
@[simp] theorem State.updTile_next (t : Nat) (f : Tile → Tile) : (s.updTile t f).next = s.next := rfl
@[simp] theorem State.updTile_ctr (t : Nat) (f : Tile → Tile) : (s.updTile t f).ctr = s.ctr := rfl
@[simp] theorem State.updTile_curTile (t : Nat) (f : Tile → Tile) : (s.updTile t f).curTile = s.curTile := rfl
@[simp] theorem State.updTile_curSlot (t : Nat) (f : Tile → Tile) : (s.updTile t f).curSlot = s.curSlot := rfl
@[simp] theorem State.updTile_ev (t : Nat) (f : Tile → Tile) : (s.updTile t f).ev = s.ev := rfl
@[simp] theorem State.updTile_inputs (t : Nat) (f : Tile → Tile) : (s.updTile t f).inputs = s.inputs := rfl
@[simp] theorem State.updTile_pens (t : Nat) (f : Tile → Tile) : (s.updTile t f).pens = s.pens := rfl
@[simp] theorem State.updTile_groups (t : Nat) (f : Tile → Tile) : (s.updTile t f).groups = s.groups := rfl
@[simp] theorem State.updTile_dies (t : Nat) (f : Tile → Tile) : (s.updTile t f).dies = s.dies := rfl
@[simp] theorem State.updTile_stks (t : Nat) (f : Tile → Tile) : (s.updTile t f).stks = s.stks := rfl
@[simp] theorem State.updTile_mem (t : Nat) (f : Tile → Tile) : (s.updTile t f).mem = s.mem := rfl
@[simp] theorem State.updTile_poison (t : Nat) (f : Tile → Tile) : (s.updTile t f).poison = s.poison := rfl
@[simp] theorem State.updTile_flight (t : Nat) (f : Tile → Tile) : (s.updTile t f).flight = s.flight := rfl
@[simp] theorem State.updTile_pairs (t : Nat) (f : Tile → Tile) : (s.updTile t f).pairs = s.pairs := rfl
@[simp] theorem State.updTile_held (t : Nat) (f : Tile → Tile) : (s.updTile t f).held = s.held := rfl
@[simp] theorem State.updTile_faults (t : Nat) (f : Tile → Tile) : (s.updTile t f).faults = s.faults := rfl
@[simp] theorem State.updTile_fbGen (t : Nat) (f : Tile → Tile) : (s.updTile t f).fbGen = s.fbGen := rfl
@[simp] theorem State.updTile_fbOvf (t : Nat) (f : Tile → Tile) : (s.updTile t f).fbOvf = s.fbOvf := rfl
@[simp] theorem State.updTile_fbSvc (t : Nat) (f : Tile → Tile) : (s.updTile t f).fbSvc = s.fbSvc := rfl
@[simp] theorem State.updTile_tlb (t : Nat) (f : Tile → Tile) : (s.updTile t f).tlb = s.tlb := rfl
@[simp] theorem State.updTile_xinvBusy (t : Nat) (f : Tile → Tile) : (s.updTile t f).xinvBusy = s.xinvBusy := rfl
@[simp] theorem State.updTile_launches (t : Nat) (f : Tile → Tile) : (s.updTile t f).launches = s.launches := rfl
@[simp] theorem State.updTile_nextLid (t : Nat) (f : Tile → Tile) : (s.updTile t f).nextLid = s.nextLid := rfl
@[simp] theorem State.updTile_queues (t : Nat) (f : Tile → Tile) : (s.updTile t f).queues = s.queues := rfl
@[simp] theorem State.updTile_rr (t : Nat) (f : Tile → Tile) : (s.updTile t f).rr = s.rr := rfl
@[simp] theorem State.updTile_parts (t : Nat) (f : Tile → Tile) : (s.updTile t f).parts = s.parts := rfl
@[simp] theorem State.updTile_roots (t : Nat) (f : Tile → Tile) : (s.updTile t f).roots = s.roots := rfl
@[simp] theorem State.updTile_rounds (t : Nat) (f : Tile → Tile) : (s.updTile t f).rounds = s.rounds := rfl
@[simp] theorem State.updTile_counters (t : Nat) (f : Tile → Tile) : (s.updTile t f).counters = s.counters := rfl
@[simp] theorem State.updTile_firings (t : Nat) (f : Tile → Tile) : (s.updTile t f).firings = s.firings := rfl
@[simp] theorem State.updTile_firedAt (t : Nat) (f : Tile → Tile) : (s.updTile t f).firedAt = s.firedAt := rfl
@[simp] theorem State.updTile_saved (t : Nat) (f : Tile → Tile) : (s.updTile t f).saved = s.saved := rfl
@[simp] theorem State.updTile_aclost (t : Nat) (f : Tile → Tile) : (s.updTile t f).aclost = s.aclost := rfl
@[simp] theorem State.updTile_starv (t : Nat) (f : Tile → Tile) : (s.updTile t f).starv = s.starv := rfl
@[simp] theorem State.updTile_starvAt (t : Nat) (f : Tile → Tile) : (s.updTile t f).starvAt = s.starvAt := rfl
@[simp] theorem State.updTile_starvSeen (t : Nat) (f : Tile → Tile) : (s.updTile t f).starvSeen = s.starvSeen := rfl
@[simp] theorem State.updTile_lendStat (t : Nat) (f : Tile → Tile) : (s.updTile t f).lendStat = s.lendStat := rfl
@[simp] theorem State.updTile_lendBusy (t : Nat) (f : Tile → Tile) : (s.updTile t f).lendBusy = s.lendBusy := rfl
@[simp] theorem State.updTile_preempt (t : Nat) (f : Tile → Tile) : (s.updTile t f).preempt = s.preempt := rfl
@[simp] theorem State.updTile_distAt (t : Nat) (f : Tile → Tile) : (s.updTile t f).distAt = s.distAt := rfl
@[simp] theorem State.updTile_fj (t : Nat) (f : Tile → Tile) : (s.updTile t f).fj = s.fj := rfl
@[simp] theorem State.updTile_mcasts (t : Nat) (f : Tile → Tile) : (s.updTile t f).mcasts = s.mcasts := rfl
@[simp] theorem State.updTile_mgmt (t : Nat) (f : Tile → Tile) : (s.updTile t f).mgmt = s.mgmt := rfl
@[simp] theorem State.updTile_pkg (t : Nat) (f : Tile → Tile) : (s.updTile t f).pkg = s.pkg := rfl
@[simp] theorem State.updTile_pod (t : Nat) (f : Tile → Tile) : (s.updTile t f).pod = s.pod := rfl
@[simp] theorem State.updTile_toMgmt (t : Nat) (f : Tile → Tile) : (s.updTile t f).toMgmt = s.toMgmt := rfl
@[simp] theorem State.updTile_events (t : Nat) (f : Tile → Tile) : (s.updTile t f).events = s.events := rfl
@[simp] theorem State.updTile_cpl (t : Nat) (f : Tile → Tile) : (s.updTile t f).cpl = s.cpl := rfl
@[simp] theorem State.updTile_fjOut (t : Nat) (f : Tile → Tile) : (s.updTile t f).fjOut = s.fjOut := rfl

@[simp] theorem State.updSlot_now (t u : Nat) (f : Slot → Slot) : (s.updSlot t u f).now = s.now := rfl
@[simp] theorem State.updSlot_next (t u : Nat) (f : Slot → Slot) : (s.updSlot t u f).next = s.next := rfl
@[simp] theorem State.updSlot_ctr (t u : Nat) (f : Slot → Slot) : (s.updSlot t u f).ctr = s.ctr := rfl
@[simp] theorem State.updSlot_curTile (t u : Nat) (f : Slot → Slot) : (s.updSlot t u f).curTile = s.curTile := rfl
@[simp] theorem State.updSlot_curSlot (t u : Nat) (f : Slot → Slot) : (s.updSlot t u f).curSlot = s.curSlot := rfl
@[simp] theorem State.updSlot_ev (t u : Nat) (f : Slot → Slot) : (s.updSlot t u f).ev = s.ev := rfl
@[simp] theorem State.updSlot_inputs (t u : Nat) (f : Slot → Slot) : (s.updSlot t u f).inputs = s.inputs := rfl
@[simp] theorem State.updSlot_pens (t u : Nat) (f : Slot → Slot) : (s.updSlot t u f).pens = s.pens := rfl
@[simp] theorem State.updSlot_groups (t u : Nat) (f : Slot → Slot) : (s.updSlot t u f).groups = s.groups := rfl
@[simp] theorem State.updSlot_dies (t u : Nat) (f : Slot → Slot) : (s.updSlot t u f).dies = s.dies := rfl
@[simp] theorem State.updSlot_stks (t u : Nat) (f : Slot → Slot) : (s.updSlot t u f).stks = s.stks := rfl
@[simp] theorem State.updSlot_mem (t u : Nat) (f : Slot → Slot) : (s.updSlot t u f).mem = s.mem := rfl
@[simp] theorem State.updSlot_poison (t u : Nat) (f : Slot → Slot) : (s.updSlot t u f).poison = s.poison := rfl
@[simp] theorem State.updSlot_flight (t u : Nat) (f : Slot → Slot) : (s.updSlot t u f).flight = s.flight := rfl
@[simp] theorem State.updSlot_pairs (t u : Nat) (f : Slot → Slot) : (s.updSlot t u f).pairs = s.pairs := rfl
@[simp] theorem State.updSlot_held (t u : Nat) (f : Slot → Slot) : (s.updSlot t u f).held = s.held := rfl
@[simp] theorem State.updSlot_faults (t u : Nat) (f : Slot → Slot) : (s.updSlot t u f).faults = s.faults := rfl
@[simp] theorem State.updSlot_fbGen (t u : Nat) (f : Slot → Slot) : (s.updSlot t u f).fbGen = s.fbGen := rfl
@[simp] theorem State.updSlot_fbOvf (t u : Nat) (f : Slot → Slot) : (s.updSlot t u f).fbOvf = s.fbOvf := rfl
@[simp] theorem State.updSlot_fbSvc (t u : Nat) (f : Slot → Slot) : (s.updSlot t u f).fbSvc = s.fbSvc := rfl
@[simp] theorem State.updSlot_tlb (t u : Nat) (f : Slot → Slot) : (s.updSlot t u f).tlb = s.tlb := rfl
@[simp] theorem State.updSlot_xinvBusy (t u : Nat) (f : Slot → Slot) : (s.updSlot t u f).xinvBusy = s.xinvBusy := rfl
@[simp] theorem State.updSlot_launches (t u : Nat) (f : Slot → Slot) : (s.updSlot t u f).launches = s.launches := rfl
@[simp] theorem State.updSlot_nextLid (t u : Nat) (f : Slot → Slot) : (s.updSlot t u f).nextLid = s.nextLid := rfl
@[simp] theorem State.updSlot_queues (t u : Nat) (f : Slot → Slot) : (s.updSlot t u f).queues = s.queues := rfl
@[simp] theorem State.updSlot_rr (t u : Nat) (f : Slot → Slot) : (s.updSlot t u f).rr = s.rr := rfl
@[simp] theorem State.updSlot_parts (t u : Nat) (f : Slot → Slot) : (s.updSlot t u f).parts = s.parts := rfl
@[simp] theorem State.updSlot_roots (t u : Nat) (f : Slot → Slot) : (s.updSlot t u f).roots = s.roots := rfl
@[simp] theorem State.updSlot_rounds (t u : Nat) (f : Slot → Slot) : (s.updSlot t u f).rounds = s.rounds := rfl
@[simp] theorem State.updSlot_counters (t u : Nat) (f : Slot → Slot) : (s.updSlot t u f).counters = s.counters := rfl
@[simp] theorem State.updSlot_firings (t u : Nat) (f : Slot → Slot) : (s.updSlot t u f).firings = s.firings := rfl
@[simp] theorem State.updSlot_firedAt (t u : Nat) (f : Slot → Slot) : (s.updSlot t u f).firedAt = s.firedAt := rfl
@[simp] theorem State.updSlot_saved (t u : Nat) (f : Slot → Slot) : (s.updSlot t u f).saved = s.saved := rfl
@[simp] theorem State.updSlot_aclost (t u : Nat) (f : Slot → Slot) : (s.updSlot t u f).aclost = s.aclost := rfl
@[simp] theorem State.updSlot_starv (t u : Nat) (f : Slot → Slot) : (s.updSlot t u f).starv = s.starv := rfl
@[simp] theorem State.updSlot_starvAt (t u : Nat) (f : Slot → Slot) : (s.updSlot t u f).starvAt = s.starvAt := rfl
@[simp] theorem State.updSlot_starvSeen (t u : Nat) (f : Slot → Slot) : (s.updSlot t u f).starvSeen = s.starvSeen := rfl
@[simp] theorem State.updSlot_lendStat (t u : Nat) (f : Slot → Slot) : (s.updSlot t u f).lendStat = s.lendStat := rfl
@[simp] theorem State.updSlot_lendBusy (t u : Nat) (f : Slot → Slot) : (s.updSlot t u f).lendBusy = s.lendBusy := rfl
@[simp] theorem State.updSlot_preempt (t u : Nat) (f : Slot → Slot) : (s.updSlot t u f).preempt = s.preempt := rfl
@[simp] theorem State.updSlot_distAt (t u : Nat) (f : Slot → Slot) : (s.updSlot t u f).distAt = s.distAt := rfl
@[simp] theorem State.updSlot_fj (t u : Nat) (f : Slot → Slot) : (s.updSlot t u f).fj = s.fj := rfl
@[simp] theorem State.updSlot_mcasts (t u : Nat) (f : Slot → Slot) : (s.updSlot t u f).mcasts = s.mcasts := rfl
@[simp] theorem State.updSlot_mgmt (t u : Nat) (f : Slot → Slot) : (s.updSlot t u f).mgmt = s.mgmt := rfl
@[simp] theorem State.updSlot_pkg (t u : Nat) (f : Slot → Slot) : (s.updSlot t u f).pkg = s.pkg := rfl
@[simp] theorem State.updSlot_pod (t u : Nat) (f : Slot → Slot) : (s.updSlot t u f).pod = s.pod := rfl
@[simp] theorem State.updSlot_toMgmt (t u : Nat) (f : Slot → Slot) : (s.updSlot t u f).toMgmt = s.toMgmt := rfl
@[simp] theorem State.updSlot_events (t u : Nat) (f : Slot → Slot) : (s.updSlot t u f).events = s.events := rfl
@[simp] theorem State.updSlot_cpl (t u : Nat) (f : Slot → Slot) : (s.updSlot t u f).cpl = s.cpl := rfl
@[simp] theorem State.updSlot_fjOut (t u : Nat) (f : Slot → Slot) : (s.updSlot t u f).fjOut = s.fjOut := rfl

@[simp] theorem State.updPen_now (p : Nat) (f : Pen → Pen) : (s.updPen p f).now = s.now := rfl
@[simp] theorem State.updPen_next (p : Nat) (f : Pen → Pen) : (s.updPen p f).next = s.next := rfl
@[simp] theorem State.updPen_ctr (p : Nat) (f : Pen → Pen) : (s.updPen p f).ctr = s.ctr := rfl
@[simp] theorem State.updPen_curTile (p : Nat) (f : Pen → Pen) : (s.updPen p f).curTile = s.curTile := rfl
@[simp] theorem State.updPen_curSlot (p : Nat) (f : Pen → Pen) : (s.updPen p f).curSlot = s.curSlot := rfl
@[simp] theorem State.updPen_ev (p : Nat) (f : Pen → Pen) : (s.updPen p f).ev = s.ev := rfl
@[simp] theorem State.updPen_inputs (p : Nat) (f : Pen → Pen) : (s.updPen p f).inputs = s.inputs := rfl
@[simp] theorem State.updPen_tiles (p : Nat) (f : Pen → Pen) : (s.updPen p f).tiles = s.tiles := rfl
@[simp] theorem State.updPen_groups (p : Nat) (f : Pen → Pen) : (s.updPen p f).groups = s.groups := rfl
@[simp] theorem State.updPen_dies (p : Nat) (f : Pen → Pen) : (s.updPen p f).dies = s.dies := rfl
@[simp] theorem State.updPen_stks (p : Nat) (f : Pen → Pen) : (s.updPen p f).stks = s.stks := rfl
@[simp] theorem State.updPen_mem (p : Nat) (f : Pen → Pen) : (s.updPen p f).mem = s.mem := rfl
@[simp] theorem State.updPen_poison (p : Nat) (f : Pen → Pen) : (s.updPen p f).poison = s.poison := rfl
@[simp] theorem State.updPen_flight (p : Nat) (f : Pen → Pen) : (s.updPen p f).flight = s.flight := rfl
@[simp] theorem State.updPen_pairs (p : Nat) (f : Pen → Pen) : (s.updPen p f).pairs = s.pairs := rfl
@[simp] theorem State.updPen_held (p : Nat) (f : Pen → Pen) : (s.updPen p f).held = s.held := rfl
@[simp] theorem State.updPen_faults (p : Nat) (f : Pen → Pen) : (s.updPen p f).faults = s.faults := rfl
@[simp] theorem State.updPen_fbGen (p : Nat) (f : Pen → Pen) : (s.updPen p f).fbGen = s.fbGen := rfl
@[simp] theorem State.updPen_fbOvf (p : Nat) (f : Pen → Pen) : (s.updPen p f).fbOvf = s.fbOvf := rfl
@[simp] theorem State.updPen_fbSvc (p : Nat) (f : Pen → Pen) : (s.updPen p f).fbSvc = s.fbSvc := rfl
@[simp] theorem State.updPen_tlb (p : Nat) (f : Pen → Pen) : (s.updPen p f).tlb = s.tlb := rfl
@[simp] theorem State.updPen_xinvBusy (p : Nat) (f : Pen → Pen) : (s.updPen p f).xinvBusy = s.xinvBusy := rfl
@[simp] theorem State.updPen_launches (p : Nat) (f : Pen → Pen) : (s.updPen p f).launches = s.launches := rfl
@[simp] theorem State.updPen_nextLid (p : Nat) (f : Pen → Pen) : (s.updPen p f).nextLid = s.nextLid := rfl
@[simp] theorem State.updPen_queues (p : Nat) (f : Pen → Pen) : (s.updPen p f).queues = s.queues := rfl
@[simp] theorem State.updPen_rr (p : Nat) (f : Pen → Pen) : (s.updPen p f).rr = s.rr := rfl
@[simp] theorem State.updPen_parts (p : Nat) (f : Pen → Pen) : (s.updPen p f).parts = s.parts := rfl
@[simp] theorem State.updPen_roots (p : Nat) (f : Pen → Pen) : (s.updPen p f).roots = s.roots := rfl
@[simp] theorem State.updPen_rounds (p : Nat) (f : Pen → Pen) : (s.updPen p f).rounds = s.rounds := rfl
@[simp] theorem State.updPen_counters (p : Nat) (f : Pen → Pen) : (s.updPen p f).counters = s.counters := rfl
@[simp] theorem State.updPen_firings (p : Nat) (f : Pen → Pen) : (s.updPen p f).firings = s.firings := rfl
@[simp] theorem State.updPen_firedAt (p : Nat) (f : Pen → Pen) : (s.updPen p f).firedAt = s.firedAt := rfl
@[simp] theorem State.updPen_saved (p : Nat) (f : Pen → Pen) : (s.updPen p f).saved = s.saved := rfl
@[simp] theorem State.updPen_aclost (p : Nat) (f : Pen → Pen) : (s.updPen p f).aclost = s.aclost := rfl
@[simp] theorem State.updPen_starv (p : Nat) (f : Pen → Pen) : (s.updPen p f).starv = s.starv := rfl
@[simp] theorem State.updPen_starvAt (p : Nat) (f : Pen → Pen) : (s.updPen p f).starvAt = s.starvAt := rfl
@[simp] theorem State.updPen_starvSeen (p : Nat) (f : Pen → Pen) : (s.updPen p f).starvSeen = s.starvSeen := rfl
@[simp] theorem State.updPen_lendStat (p : Nat) (f : Pen → Pen) : (s.updPen p f).lendStat = s.lendStat := rfl
@[simp] theorem State.updPen_lendBusy (p : Nat) (f : Pen → Pen) : (s.updPen p f).lendBusy = s.lendBusy := rfl
@[simp] theorem State.updPen_preempt (p : Nat) (f : Pen → Pen) : (s.updPen p f).preempt = s.preempt := rfl
@[simp] theorem State.updPen_distAt (p : Nat) (f : Pen → Pen) : (s.updPen p f).distAt = s.distAt := rfl
@[simp] theorem State.updPen_fj (p : Nat) (f : Pen → Pen) : (s.updPen p f).fj = s.fj := rfl
@[simp] theorem State.updPen_mcasts (p : Nat) (f : Pen → Pen) : (s.updPen p f).mcasts = s.mcasts := rfl
@[simp] theorem State.updPen_mgmt (p : Nat) (f : Pen → Pen) : (s.updPen p f).mgmt = s.mgmt := rfl
@[simp] theorem State.updPen_pkg (p : Nat) (f : Pen → Pen) : (s.updPen p f).pkg = s.pkg := rfl
@[simp] theorem State.updPen_pod (p : Nat) (f : Pen → Pen) : (s.updPen p f).pod = s.pod := rfl
@[simp] theorem State.updPen_toMgmt (p : Nat) (f : Pen → Pen) : (s.updPen p f).toMgmt = s.toMgmt := rfl
@[simp] theorem State.updPen_events (p : Nat) (f : Pen → Pen) : (s.updPen p f).events = s.events := rfl
@[simp] theorem State.updPen_cpl (p : Nat) (f : Pen → Pen) : (s.updPen p f).cpl = s.cpl := rfl
@[simp] theorem State.updPen_fjOut (p : Nat) (f : Pen → Pen) : (s.updPen p f).fjOut = s.fjOut := rfl

@[simp] theorem State.updGroup_now (g : Nat) (f : Group → Group) : (s.updGroup g f).now = s.now := rfl
@[simp] theorem State.updGroup_next (g : Nat) (f : Group → Group) : (s.updGroup g f).next = s.next := rfl
@[simp] theorem State.updGroup_ctr (g : Nat) (f : Group → Group) : (s.updGroup g f).ctr = s.ctr := rfl
@[simp] theorem State.updGroup_curTile (g : Nat) (f : Group → Group) : (s.updGroup g f).curTile = s.curTile := rfl
@[simp] theorem State.updGroup_curSlot (g : Nat) (f : Group → Group) : (s.updGroup g f).curSlot = s.curSlot := rfl
@[simp] theorem State.updGroup_ev (g : Nat) (f : Group → Group) : (s.updGroup g f).ev = s.ev := rfl
@[simp] theorem State.updGroup_inputs (g : Nat) (f : Group → Group) : (s.updGroup g f).inputs = s.inputs := rfl
@[simp] theorem State.updGroup_tiles (g : Nat) (f : Group → Group) : (s.updGroup g f).tiles = s.tiles := rfl
@[simp] theorem State.updGroup_pens (g : Nat) (f : Group → Group) : (s.updGroup g f).pens = s.pens := rfl
@[simp] theorem State.updGroup_dies (g : Nat) (f : Group → Group) : (s.updGroup g f).dies = s.dies := rfl
@[simp] theorem State.updGroup_stks (g : Nat) (f : Group → Group) : (s.updGroup g f).stks = s.stks := rfl
@[simp] theorem State.updGroup_mem (g : Nat) (f : Group → Group) : (s.updGroup g f).mem = s.mem := rfl
@[simp] theorem State.updGroup_poison (g : Nat) (f : Group → Group) : (s.updGroup g f).poison = s.poison := rfl
@[simp] theorem State.updGroup_flight (g : Nat) (f : Group → Group) : (s.updGroup g f).flight = s.flight := rfl
@[simp] theorem State.updGroup_pairs (g : Nat) (f : Group → Group) : (s.updGroup g f).pairs = s.pairs := rfl
@[simp] theorem State.updGroup_held (g : Nat) (f : Group → Group) : (s.updGroup g f).held = s.held := rfl
@[simp] theorem State.updGroup_faults (g : Nat) (f : Group → Group) : (s.updGroup g f).faults = s.faults := rfl
@[simp] theorem State.updGroup_fbGen (g : Nat) (f : Group → Group) : (s.updGroup g f).fbGen = s.fbGen := rfl
@[simp] theorem State.updGroup_fbOvf (g : Nat) (f : Group → Group) : (s.updGroup g f).fbOvf = s.fbOvf := rfl
@[simp] theorem State.updGroup_fbSvc (g : Nat) (f : Group → Group) : (s.updGroup g f).fbSvc = s.fbSvc := rfl
@[simp] theorem State.updGroup_tlb (g : Nat) (f : Group → Group) : (s.updGroup g f).tlb = s.tlb := rfl
@[simp] theorem State.updGroup_xinvBusy (g : Nat) (f : Group → Group) : (s.updGroup g f).xinvBusy = s.xinvBusy := rfl
@[simp] theorem State.updGroup_launches (g : Nat) (f : Group → Group) : (s.updGroup g f).launches = s.launches := rfl
@[simp] theorem State.updGroup_nextLid (g : Nat) (f : Group → Group) : (s.updGroup g f).nextLid = s.nextLid := rfl
@[simp] theorem State.updGroup_queues (g : Nat) (f : Group → Group) : (s.updGroup g f).queues = s.queues := rfl
@[simp] theorem State.updGroup_rr (g : Nat) (f : Group → Group) : (s.updGroup g f).rr = s.rr := rfl
@[simp] theorem State.updGroup_parts (g : Nat) (f : Group → Group) : (s.updGroup g f).parts = s.parts := rfl
@[simp] theorem State.updGroup_roots (g : Nat) (f : Group → Group) : (s.updGroup g f).roots = s.roots := rfl
@[simp] theorem State.updGroup_rounds (g : Nat) (f : Group → Group) : (s.updGroup g f).rounds = s.rounds := rfl
@[simp] theorem State.updGroup_counters (g : Nat) (f : Group → Group) : (s.updGroup g f).counters = s.counters := rfl
@[simp] theorem State.updGroup_firings (g : Nat) (f : Group → Group) : (s.updGroup g f).firings = s.firings := rfl
@[simp] theorem State.updGroup_firedAt (g : Nat) (f : Group → Group) : (s.updGroup g f).firedAt = s.firedAt := rfl
@[simp] theorem State.updGroup_saved (g : Nat) (f : Group → Group) : (s.updGroup g f).saved = s.saved := rfl
@[simp] theorem State.updGroup_aclost (g : Nat) (f : Group → Group) : (s.updGroup g f).aclost = s.aclost := rfl
@[simp] theorem State.updGroup_starv (g : Nat) (f : Group → Group) : (s.updGroup g f).starv = s.starv := rfl
@[simp] theorem State.updGroup_starvAt (g : Nat) (f : Group → Group) : (s.updGroup g f).starvAt = s.starvAt := rfl
@[simp] theorem State.updGroup_starvSeen (g : Nat) (f : Group → Group) : (s.updGroup g f).starvSeen = s.starvSeen := rfl
@[simp] theorem State.updGroup_lendStat (g : Nat) (f : Group → Group) : (s.updGroup g f).lendStat = s.lendStat := rfl
@[simp] theorem State.updGroup_lendBusy (g : Nat) (f : Group → Group) : (s.updGroup g f).lendBusy = s.lendBusy := rfl
@[simp] theorem State.updGroup_preempt (g : Nat) (f : Group → Group) : (s.updGroup g f).preempt = s.preempt := rfl
@[simp] theorem State.updGroup_distAt (g : Nat) (f : Group → Group) : (s.updGroup g f).distAt = s.distAt := rfl
@[simp] theorem State.updGroup_fj (g : Nat) (f : Group → Group) : (s.updGroup g f).fj = s.fj := rfl
@[simp] theorem State.updGroup_mcasts (g : Nat) (f : Group → Group) : (s.updGroup g f).mcasts = s.mcasts := rfl
@[simp] theorem State.updGroup_mgmt (g : Nat) (f : Group → Group) : (s.updGroup g f).mgmt = s.mgmt := rfl
@[simp] theorem State.updGroup_pkg (g : Nat) (f : Group → Group) : (s.updGroup g f).pkg = s.pkg := rfl
@[simp] theorem State.updGroup_pod (g : Nat) (f : Group → Group) : (s.updGroup g f).pod = s.pod := rfl
@[simp] theorem State.updGroup_toMgmt (g : Nat) (f : Group → Group) : (s.updGroup g f).toMgmt = s.toMgmt := rfl
@[simp] theorem State.updGroup_events (g : Nat) (f : Group → Group) : (s.updGroup g f).events = s.events := rfl
@[simp] theorem State.updGroup_cpl (g : Nat) (f : Group → Group) : (s.updGroup g f).cpl = s.cpl := rfl
@[simp] theorem State.updGroup_fjOut (g : Nat) (f : Group → Group) : (s.updGroup g f).fjOut = s.fjOut := rfl

@[simp] theorem State.updDie_now (d : Nat) (f : Die → Die) : (s.updDie d f).now = s.now := rfl
@[simp] theorem State.updDie_next (d : Nat) (f : Die → Die) : (s.updDie d f).next = s.next := rfl
@[simp] theorem State.updDie_ctr (d : Nat) (f : Die → Die) : (s.updDie d f).ctr = s.ctr := rfl
@[simp] theorem State.updDie_curTile (d : Nat) (f : Die → Die) : (s.updDie d f).curTile = s.curTile := rfl
@[simp] theorem State.updDie_curSlot (d : Nat) (f : Die → Die) : (s.updDie d f).curSlot = s.curSlot := rfl
@[simp] theorem State.updDie_ev (d : Nat) (f : Die → Die) : (s.updDie d f).ev = s.ev := rfl
@[simp] theorem State.updDie_inputs (d : Nat) (f : Die → Die) : (s.updDie d f).inputs = s.inputs := rfl
@[simp] theorem State.updDie_tiles (d : Nat) (f : Die → Die) : (s.updDie d f).tiles = s.tiles := rfl
@[simp] theorem State.updDie_pens (d : Nat) (f : Die → Die) : (s.updDie d f).pens = s.pens := rfl
@[simp] theorem State.updDie_groups (d : Nat) (f : Die → Die) : (s.updDie d f).groups = s.groups := rfl
@[simp] theorem State.updDie_stks (d : Nat) (f : Die → Die) : (s.updDie d f).stks = s.stks := rfl
@[simp] theorem State.updDie_mem (d : Nat) (f : Die → Die) : (s.updDie d f).mem = s.mem := rfl
@[simp] theorem State.updDie_poison (d : Nat) (f : Die → Die) : (s.updDie d f).poison = s.poison := rfl
@[simp] theorem State.updDie_flight (d : Nat) (f : Die → Die) : (s.updDie d f).flight = s.flight := rfl
@[simp] theorem State.updDie_pairs (d : Nat) (f : Die → Die) : (s.updDie d f).pairs = s.pairs := rfl
@[simp] theorem State.updDie_held (d : Nat) (f : Die → Die) : (s.updDie d f).held = s.held := rfl
@[simp] theorem State.updDie_faults (d : Nat) (f : Die → Die) : (s.updDie d f).faults = s.faults := rfl
@[simp] theorem State.updDie_fbGen (d : Nat) (f : Die → Die) : (s.updDie d f).fbGen = s.fbGen := rfl
@[simp] theorem State.updDie_fbOvf (d : Nat) (f : Die → Die) : (s.updDie d f).fbOvf = s.fbOvf := rfl
@[simp] theorem State.updDie_fbSvc (d : Nat) (f : Die → Die) : (s.updDie d f).fbSvc = s.fbSvc := rfl
@[simp] theorem State.updDie_tlb (d : Nat) (f : Die → Die) : (s.updDie d f).tlb = s.tlb := rfl
@[simp] theorem State.updDie_xinvBusy (d : Nat) (f : Die → Die) : (s.updDie d f).xinvBusy = s.xinvBusy := rfl
@[simp] theorem State.updDie_launches (d : Nat) (f : Die → Die) : (s.updDie d f).launches = s.launches := rfl
@[simp] theorem State.updDie_nextLid (d : Nat) (f : Die → Die) : (s.updDie d f).nextLid = s.nextLid := rfl
@[simp] theorem State.updDie_queues (d : Nat) (f : Die → Die) : (s.updDie d f).queues = s.queues := rfl
@[simp] theorem State.updDie_rr (d : Nat) (f : Die → Die) : (s.updDie d f).rr = s.rr := rfl
@[simp] theorem State.updDie_parts (d : Nat) (f : Die → Die) : (s.updDie d f).parts = s.parts := rfl
@[simp] theorem State.updDie_roots (d : Nat) (f : Die → Die) : (s.updDie d f).roots = s.roots := rfl
@[simp] theorem State.updDie_rounds (d : Nat) (f : Die → Die) : (s.updDie d f).rounds = s.rounds := rfl
@[simp] theorem State.updDie_counters (d : Nat) (f : Die → Die) : (s.updDie d f).counters = s.counters := rfl
@[simp] theorem State.updDie_firings (d : Nat) (f : Die → Die) : (s.updDie d f).firings = s.firings := rfl
@[simp] theorem State.updDie_firedAt (d : Nat) (f : Die → Die) : (s.updDie d f).firedAt = s.firedAt := rfl
@[simp] theorem State.updDie_saved (d : Nat) (f : Die → Die) : (s.updDie d f).saved = s.saved := rfl
@[simp] theorem State.updDie_aclost (d : Nat) (f : Die → Die) : (s.updDie d f).aclost = s.aclost := rfl
@[simp] theorem State.updDie_starv (d : Nat) (f : Die → Die) : (s.updDie d f).starv = s.starv := rfl
@[simp] theorem State.updDie_starvAt (d : Nat) (f : Die → Die) : (s.updDie d f).starvAt = s.starvAt := rfl
@[simp] theorem State.updDie_starvSeen (d : Nat) (f : Die → Die) : (s.updDie d f).starvSeen = s.starvSeen := rfl
@[simp] theorem State.updDie_lendStat (d : Nat) (f : Die → Die) : (s.updDie d f).lendStat = s.lendStat := rfl
@[simp] theorem State.updDie_lendBusy (d : Nat) (f : Die → Die) : (s.updDie d f).lendBusy = s.lendBusy := rfl
@[simp] theorem State.updDie_preempt (d : Nat) (f : Die → Die) : (s.updDie d f).preempt = s.preempt := rfl
@[simp] theorem State.updDie_distAt (d : Nat) (f : Die → Die) : (s.updDie d f).distAt = s.distAt := rfl
@[simp] theorem State.updDie_fj (d : Nat) (f : Die → Die) : (s.updDie d f).fj = s.fj := rfl
@[simp] theorem State.updDie_mcasts (d : Nat) (f : Die → Die) : (s.updDie d f).mcasts = s.mcasts := rfl
@[simp] theorem State.updDie_mgmt (d : Nat) (f : Die → Die) : (s.updDie d f).mgmt = s.mgmt := rfl
@[simp] theorem State.updDie_pkg (d : Nat) (f : Die → Die) : (s.updDie d f).pkg = s.pkg := rfl
@[simp] theorem State.updDie_pod (d : Nat) (f : Die → Die) : (s.updDie d f).pod = s.pod := rfl
@[simp] theorem State.updDie_toMgmt (d : Nat) (f : Die → Die) : (s.updDie d f).toMgmt = s.toMgmt := rfl
@[simp] theorem State.updDie_events (d : Nat) (f : Die → Die) : (s.updDie d f).events = s.events := rfl
@[simp] theorem State.updDie_cpl (d : Nat) (f : Die → Die) : (s.updDie d f).cpl = s.cpl := rfl
@[simp] theorem State.updDie_fjOut (d : Nat) (f : Die → Die) : (s.updDie d f).fjOut = s.fjOut := rfl

@[simp] theorem State.updStack_now (k : Nat) (f : Stack → Stack) : (s.updStack k f).now = s.now := rfl
@[simp] theorem State.updStack_next (k : Nat) (f : Stack → Stack) : (s.updStack k f).next = s.next := rfl
@[simp] theorem State.updStack_ctr (k : Nat) (f : Stack → Stack) : (s.updStack k f).ctr = s.ctr := rfl
@[simp] theorem State.updStack_curTile (k : Nat) (f : Stack → Stack) : (s.updStack k f).curTile = s.curTile := rfl
@[simp] theorem State.updStack_curSlot (k : Nat) (f : Stack → Stack) : (s.updStack k f).curSlot = s.curSlot := rfl
@[simp] theorem State.updStack_ev (k : Nat) (f : Stack → Stack) : (s.updStack k f).ev = s.ev := rfl
@[simp] theorem State.updStack_inputs (k : Nat) (f : Stack → Stack) : (s.updStack k f).inputs = s.inputs := rfl
@[simp] theorem State.updStack_tiles (k : Nat) (f : Stack → Stack) : (s.updStack k f).tiles = s.tiles := rfl
@[simp] theorem State.updStack_pens (k : Nat) (f : Stack → Stack) : (s.updStack k f).pens = s.pens := rfl
@[simp] theorem State.updStack_groups (k : Nat) (f : Stack → Stack) : (s.updStack k f).groups = s.groups := rfl
@[simp] theorem State.updStack_dies (k : Nat) (f : Stack → Stack) : (s.updStack k f).dies = s.dies := rfl
@[simp] theorem State.updStack_mem (k : Nat) (f : Stack → Stack) : (s.updStack k f).mem = s.mem := rfl
@[simp] theorem State.updStack_poison (k : Nat) (f : Stack → Stack) : (s.updStack k f).poison = s.poison := rfl
@[simp] theorem State.updStack_flight (k : Nat) (f : Stack → Stack) : (s.updStack k f).flight = s.flight := rfl
@[simp] theorem State.updStack_pairs (k : Nat) (f : Stack → Stack) : (s.updStack k f).pairs = s.pairs := rfl
@[simp] theorem State.updStack_held (k : Nat) (f : Stack → Stack) : (s.updStack k f).held = s.held := rfl
@[simp] theorem State.updStack_faults (k : Nat) (f : Stack → Stack) : (s.updStack k f).faults = s.faults := rfl
@[simp] theorem State.updStack_fbGen (k : Nat) (f : Stack → Stack) : (s.updStack k f).fbGen = s.fbGen := rfl
@[simp] theorem State.updStack_fbOvf (k : Nat) (f : Stack → Stack) : (s.updStack k f).fbOvf = s.fbOvf := rfl
@[simp] theorem State.updStack_fbSvc (k : Nat) (f : Stack → Stack) : (s.updStack k f).fbSvc = s.fbSvc := rfl
@[simp] theorem State.updStack_tlb (k : Nat) (f : Stack → Stack) : (s.updStack k f).tlb = s.tlb := rfl
@[simp] theorem State.updStack_xinvBusy (k : Nat) (f : Stack → Stack) : (s.updStack k f).xinvBusy = s.xinvBusy := rfl
@[simp] theorem State.updStack_launches (k : Nat) (f : Stack → Stack) : (s.updStack k f).launches = s.launches := rfl
@[simp] theorem State.updStack_nextLid (k : Nat) (f : Stack → Stack) : (s.updStack k f).nextLid = s.nextLid := rfl
@[simp] theorem State.updStack_queues (k : Nat) (f : Stack → Stack) : (s.updStack k f).queues = s.queues := rfl
@[simp] theorem State.updStack_rr (k : Nat) (f : Stack → Stack) : (s.updStack k f).rr = s.rr := rfl
@[simp] theorem State.updStack_parts (k : Nat) (f : Stack → Stack) : (s.updStack k f).parts = s.parts := rfl
@[simp] theorem State.updStack_roots (k : Nat) (f : Stack → Stack) : (s.updStack k f).roots = s.roots := rfl
@[simp] theorem State.updStack_rounds (k : Nat) (f : Stack → Stack) : (s.updStack k f).rounds = s.rounds := rfl
@[simp] theorem State.updStack_counters (k : Nat) (f : Stack → Stack) : (s.updStack k f).counters = s.counters := rfl
@[simp] theorem State.updStack_firings (k : Nat) (f : Stack → Stack) : (s.updStack k f).firings = s.firings := rfl
@[simp] theorem State.updStack_firedAt (k : Nat) (f : Stack → Stack) : (s.updStack k f).firedAt = s.firedAt := rfl
@[simp] theorem State.updStack_saved (k : Nat) (f : Stack → Stack) : (s.updStack k f).saved = s.saved := rfl
@[simp] theorem State.updStack_aclost (k : Nat) (f : Stack → Stack) : (s.updStack k f).aclost = s.aclost := rfl
@[simp] theorem State.updStack_starv (k : Nat) (f : Stack → Stack) : (s.updStack k f).starv = s.starv := rfl
@[simp] theorem State.updStack_starvAt (k : Nat) (f : Stack → Stack) : (s.updStack k f).starvAt = s.starvAt := rfl
@[simp] theorem State.updStack_starvSeen (k : Nat) (f : Stack → Stack) : (s.updStack k f).starvSeen = s.starvSeen := rfl
@[simp] theorem State.updStack_lendStat (k : Nat) (f : Stack → Stack) : (s.updStack k f).lendStat = s.lendStat := rfl
@[simp] theorem State.updStack_lendBusy (k : Nat) (f : Stack → Stack) : (s.updStack k f).lendBusy = s.lendBusy := rfl
@[simp] theorem State.updStack_preempt (k : Nat) (f : Stack → Stack) : (s.updStack k f).preempt = s.preempt := rfl
@[simp] theorem State.updStack_distAt (k : Nat) (f : Stack → Stack) : (s.updStack k f).distAt = s.distAt := rfl
@[simp] theorem State.updStack_fj (k : Nat) (f : Stack → Stack) : (s.updStack k f).fj = s.fj := rfl
@[simp] theorem State.updStack_mcasts (k : Nat) (f : Stack → Stack) : (s.updStack k f).mcasts = s.mcasts := rfl
@[simp] theorem State.updStack_mgmt (k : Nat) (f : Stack → Stack) : (s.updStack k f).mgmt = s.mgmt := rfl
@[simp] theorem State.updStack_pkg (k : Nat) (f : Stack → Stack) : (s.updStack k f).pkg = s.pkg := rfl
@[simp] theorem State.updStack_pod (k : Nat) (f : Stack → Stack) : (s.updStack k f).pod = s.pod := rfl
@[simp] theorem State.updStack_toMgmt (k : Nat) (f : Stack → Stack) : (s.updStack k f).toMgmt = s.toMgmt := rfl
@[simp] theorem State.updStack_events (k : Nat) (f : Stack → Stack) : (s.updStack k f).events = s.events := rfl
@[simp] theorem State.updStack_cpl (k : Nat) (f : Stack → Stack) : (s.updStack k f).cpl = s.cpl := rfl
@[simp] theorem State.updStack_fjOut (k : Nat) (f : Stack → Stack) : (s.updStack k f).fjOut = s.fjOut := rfl

@[simp] theorem State.updLaunch_now (l : Nat) (f : Launch → Launch) : (s.updLaunch l f).now = s.now := rfl
@[simp] theorem State.updLaunch_next (l : Nat) (f : Launch → Launch) : (s.updLaunch l f).next = s.next := rfl
@[simp] theorem State.updLaunch_ctr (l : Nat) (f : Launch → Launch) : (s.updLaunch l f).ctr = s.ctr := rfl
@[simp] theorem State.updLaunch_curTile (l : Nat) (f : Launch → Launch) : (s.updLaunch l f).curTile = s.curTile := rfl
@[simp] theorem State.updLaunch_curSlot (l : Nat) (f : Launch → Launch) : (s.updLaunch l f).curSlot = s.curSlot := rfl
@[simp] theorem State.updLaunch_ev (l : Nat) (f : Launch → Launch) : (s.updLaunch l f).ev = s.ev := rfl
@[simp] theorem State.updLaunch_inputs (l : Nat) (f : Launch → Launch) : (s.updLaunch l f).inputs = s.inputs := rfl
@[simp] theorem State.updLaunch_tiles (l : Nat) (f : Launch → Launch) : (s.updLaunch l f).tiles = s.tiles := rfl
@[simp] theorem State.updLaunch_pens (l : Nat) (f : Launch → Launch) : (s.updLaunch l f).pens = s.pens := rfl
@[simp] theorem State.updLaunch_groups (l : Nat) (f : Launch → Launch) : (s.updLaunch l f).groups = s.groups := rfl
@[simp] theorem State.updLaunch_dies (l : Nat) (f : Launch → Launch) : (s.updLaunch l f).dies = s.dies := rfl
@[simp] theorem State.updLaunch_stks (l : Nat) (f : Launch → Launch) : (s.updLaunch l f).stks = s.stks := rfl
@[simp] theorem State.updLaunch_mem (l : Nat) (f : Launch → Launch) : (s.updLaunch l f).mem = s.mem := rfl
@[simp] theorem State.updLaunch_poison (l : Nat) (f : Launch → Launch) : (s.updLaunch l f).poison = s.poison := rfl
@[simp] theorem State.updLaunch_flight (l : Nat) (f : Launch → Launch) : (s.updLaunch l f).flight = s.flight := rfl
@[simp] theorem State.updLaunch_pairs (l : Nat) (f : Launch → Launch) : (s.updLaunch l f).pairs = s.pairs := rfl
@[simp] theorem State.updLaunch_held (l : Nat) (f : Launch → Launch) : (s.updLaunch l f).held = s.held := rfl
@[simp] theorem State.updLaunch_faults (l : Nat) (f : Launch → Launch) : (s.updLaunch l f).faults = s.faults := rfl
@[simp] theorem State.updLaunch_fbGen (l : Nat) (f : Launch → Launch) : (s.updLaunch l f).fbGen = s.fbGen := rfl
@[simp] theorem State.updLaunch_fbOvf (l : Nat) (f : Launch → Launch) : (s.updLaunch l f).fbOvf = s.fbOvf := rfl
@[simp] theorem State.updLaunch_fbSvc (l : Nat) (f : Launch → Launch) : (s.updLaunch l f).fbSvc = s.fbSvc := rfl
@[simp] theorem State.updLaunch_tlb (l : Nat) (f : Launch → Launch) : (s.updLaunch l f).tlb = s.tlb := rfl
@[simp] theorem State.updLaunch_xinvBusy (l : Nat) (f : Launch → Launch) : (s.updLaunch l f).xinvBusy = s.xinvBusy := rfl
@[simp] theorem State.updLaunch_nextLid (l : Nat) (f : Launch → Launch) : (s.updLaunch l f).nextLid = s.nextLid := rfl
@[simp] theorem State.updLaunch_queues (l : Nat) (f : Launch → Launch) : (s.updLaunch l f).queues = s.queues := rfl
@[simp] theorem State.updLaunch_rr (l : Nat) (f : Launch → Launch) : (s.updLaunch l f).rr = s.rr := rfl
@[simp] theorem State.updLaunch_parts (l : Nat) (f : Launch → Launch) : (s.updLaunch l f).parts = s.parts := rfl
@[simp] theorem State.updLaunch_roots (l : Nat) (f : Launch → Launch) : (s.updLaunch l f).roots = s.roots := rfl
@[simp] theorem State.updLaunch_rounds (l : Nat) (f : Launch → Launch) : (s.updLaunch l f).rounds = s.rounds := rfl
@[simp] theorem State.updLaunch_counters (l : Nat) (f : Launch → Launch) : (s.updLaunch l f).counters = s.counters := rfl
@[simp] theorem State.updLaunch_firings (l : Nat) (f : Launch → Launch) : (s.updLaunch l f).firings = s.firings := rfl
@[simp] theorem State.updLaunch_firedAt (l : Nat) (f : Launch → Launch) : (s.updLaunch l f).firedAt = s.firedAt := rfl
@[simp] theorem State.updLaunch_saved (l : Nat) (f : Launch → Launch) : (s.updLaunch l f).saved = s.saved := rfl
@[simp] theorem State.updLaunch_aclost (l : Nat) (f : Launch → Launch) : (s.updLaunch l f).aclost = s.aclost := rfl
@[simp] theorem State.updLaunch_starv (l : Nat) (f : Launch → Launch) : (s.updLaunch l f).starv = s.starv := rfl
@[simp] theorem State.updLaunch_starvAt (l : Nat) (f : Launch → Launch) : (s.updLaunch l f).starvAt = s.starvAt := rfl
@[simp] theorem State.updLaunch_starvSeen (l : Nat) (f : Launch → Launch) : (s.updLaunch l f).starvSeen = s.starvSeen := rfl
@[simp] theorem State.updLaunch_lendStat (l : Nat) (f : Launch → Launch) : (s.updLaunch l f).lendStat = s.lendStat := rfl
@[simp] theorem State.updLaunch_lendBusy (l : Nat) (f : Launch → Launch) : (s.updLaunch l f).lendBusy = s.lendBusy := rfl
@[simp] theorem State.updLaunch_preempt (l : Nat) (f : Launch → Launch) : (s.updLaunch l f).preempt = s.preempt := rfl
@[simp] theorem State.updLaunch_distAt (l : Nat) (f : Launch → Launch) : (s.updLaunch l f).distAt = s.distAt := rfl
@[simp] theorem State.updLaunch_fj (l : Nat) (f : Launch → Launch) : (s.updLaunch l f).fj = s.fj := rfl
@[simp] theorem State.updLaunch_mcasts (l : Nat) (f : Launch → Launch) : (s.updLaunch l f).mcasts = s.mcasts := rfl
@[simp] theorem State.updLaunch_mgmt (l : Nat) (f : Launch → Launch) : (s.updLaunch l f).mgmt = s.mgmt := rfl
@[simp] theorem State.updLaunch_pkg (l : Nat) (f : Launch → Launch) : (s.updLaunch l f).pkg = s.pkg := rfl
@[simp] theorem State.updLaunch_pod (l : Nat) (f : Launch → Launch) : (s.updLaunch l f).pod = s.pod := rfl
@[simp] theorem State.updLaunch_toMgmt (l : Nat) (f : Launch → Launch) : (s.updLaunch l f).toMgmt = s.toMgmt := rfl
@[simp] theorem State.updLaunch_events (l : Nat) (f : Launch → Launch) : (s.updLaunch l f).events = s.events := rfl
@[simp] theorem State.updLaunch_cpl (l : Nat) (f : Launch → Launch) : (s.updLaunch l f).cpl = s.cpl := rfl
@[simp] theorem State.updLaunch_fjOut (l : Nat) (f : Launch → Launch) : (s.updLaunch l f).fjOut = s.fjOut := rfl

@[simp] theorem State.updQueue_now (q : Nat) (f : Queue → Queue) : (s.updQueue q f).now = s.now := rfl
@[simp] theorem State.updQueue_next (q : Nat) (f : Queue → Queue) : (s.updQueue q f).next = s.next := rfl
@[simp] theorem State.updQueue_ctr (q : Nat) (f : Queue → Queue) : (s.updQueue q f).ctr = s.ctr := rfl
@[simp] theorem State.updQueue_curTile (q : Nat) (f : Queue → Queue) : (s.updQueue q f).curTile = s.curTile := rfl
@[simp] theorem State.updQueue_curSlot (q : Nat) (f : Queue → Queue) : (s.updQueue q f).curSlot = s.curSlot := rfl
@[simp] theorem State.updQueue_ev (q : Nat) (f : Queue → Queue) : (s.updQueue q f).ev = s.ev := rfl
@[simp] theorem State.updQueue_inputs (q : Nat) (f : Queue → Queue) : (s.updQueue q f).inputs = s.inputs := rfl
@[simp] theorem State.updQueue_tiles (q : Nat) (f : Queue → Queue) : (s.updQueue q f).tiles = s.tiles := rfl
@[simp] theorem State.updQueue_pens (q : Nat) (f : Queue → Queue) : (s.updQueue q f).pens = s.pens := rfl
@[simp] theorem State.updQueue_groups (q : Nat) (f : Queue → Queue) : (s.updQueue q f).groups = s.groups := rfl
@[simp] theorem State.updQueue_dies (q : Nat) (f : Queue → Queue) : (s.updQueue q f).dies = s.dies := rfl
@[simp] theorem State.updQueue_stks (q : Nat) (f : Queue → Queue) : (s.updQueue q f).stks = s.stks := rfl
@[simp] theorem State.updQueue_mem (q : Nat) (f : Queue → Queue) : (s.updQueue q f).mem = s.mem := rfl
@[simp] theorem State.updQueue_poison (q : Nat) (f : Queue → Queue) : (s.updQueue q f).poison = s.poison := rfl
@[simp] theorem State.updQueue_flight (q : Nat) (f : Queue → Queue) : (s.updQueue q f).flight = s.flight := rfl
@[simp] theorem State.updQueue_pairs (q : Nat) (f : Queue → Queue) : (s.updQueue q f).pairs = s.pairs := rfl
@[simp] theorem State.updQueue_held (q : Nat) (f : Queue → Queue) : (s.updQueue q f).held = s.held := rfl
@[simp] theorem State.updQueue_faults (q : Nat) (f : Queue → Queue) : (s.updQueue q f).faults = s.faults := rfl
@[simp] theorem State.updQueue_fbGen (q : Nat) (f : Queue → Queue) : (s.updQueue q f).fbGen = s.fbGen := rfl
@[simp] theorem State.updQueue_fbOvf (q : Nat) (f : Queue → Queue) : (s.updQueue q f).fbOvf = s.fbOvf := rfl
@[simp] theorem State.updQueue_fbSvc (q : Nat) (f : Queue → Queue) : (s.updQueue q f).fbSvc = s.fbSvc := rfl
@[simp] theorem State.updQueue_tlb (q : Nat) (f : Queue → Queue) : (s.updQueue q f).tlb = s.tlb := rfl
@[simp] theorem State.updQueue_xinvBusy (q : Nat) (f : Queue → Queue) : (s.updQueue q f).xinvBusy = s.xinvBusy := rfl
@[simp] theorem State.updQueue_launches (q : Nat) (f : Queue → Queue) : (s.updQueue q f).launches = s.launches := rfl
@[simp] theorem State.updQueue_nextLid (q : Nat) (f : Queue → Queue) : (s.updQueue q f).nextLid = s.nextLid := rfl
@[simp] theorem State.updQueue_rr (q : Nat) (f : Queue → Queue) : (s.updQueue q f).rr = s.rr := rfl
@[simp] theorem State.updQueue_parts (q : Nat) (f : Queue → Queue) : (s.updQueue q f).parts = s.parts := rfl
@[simp] theorem State.updQueue_roots (q : Nat) (f : Queue → Queue) : (s.updQueue q f).roots = s.roots := rfl
@[simp] theorem State.updQueue_rounds (q : Nat) (f : Queue → Queue) : (s.updQueue q f).rounds = s.rounds := rfl
@[simp] theorem State.updQueue_counters (q : Nat) (f : Queue → Queue) : (s.updQueue q f).counters = s.counters := rfl
@[simp] theorem State.updQueue_firings (q : Nat) (f : Queue → Queue) : (s.updQueue q f).firings = s.firings := rfl
@[simp] theorem State.updQueue_firedAt (q : Nat) (f : Queue → Queue) : (s.updQueue q f).firedAt = s.firedAt := rfl
@[simp] theorem State.updQueue_saved (q : Nat) (f : Queue → Queue) : (s.updQueue q f).saved = s.saved := rfl
@[simp] theorem State.updQueue_aclost (q : Nat) (f : Queue → Queue) : (s.updQueue q f).aclost = s.aclost := rfl
@[simp] theorem State.updQueue_starv (q : Nat) (f : Queue → Queue) : (s.updQueue q f).starv = s.starv := rfl
@[simp] theorem State.updQueue_starvAt (q : Nat) (f : Queue → Queue) : (s.updQueue q f).starvAt = s.starvAt := rfl
@[simp] theorem State.updQueue_starvSeen (q : Nat) (f : Queue → Queue) : (s.updQueue q f).starvSeen = s.starvSeen := rfl
@[simp] theorem State.updQueue_lendStat (q : Nat) (f : Queue → Queue) : (s.updQueue q f).lendStat = s.lendStat := rfl
@[simp] theorem State.updQueue_lendBusy (q : Nat) (f : Queue → Queue) : (s.updQueue q f).lendBusy = s.lendBusy := rfl
@[simp] theorem State.updQueue_preempt (q : Nat) (f : Queue → Queue) : (s.updQueue q f).preempt = s.preempt := rfl
@[simp] theorem State.updQueue_distAt (q : Nat) (f : Queue → Queue) : (s.updQueue q f).distAt = s.distAt := rfl
@[simp] theorem State.updQueue_fj (q : Nat) (f : Queue → Queue) : (s.updQueue q f).fj = s.fj := rfl
@[simp] theorem State.updQueue_mcasts (q : Nat) (f : Queue → Queue) : (s.updQueue q f).mcasts = s.mcasts := rfl
@[simp] theorem State.updQueue_mgmt (q : Nat) (f : Queue → Queue) : (s.updQueue q f).mgmt = s.mgmt := rfl
@[simp] theorem State.updQueue_pkg (q : Nat) (f : Queue → Queue) : (s.updQueue q f).pkg = s.pkg := rfl
@[simp] theorem State.updQueue_pod (q : Nat) (f : Queue → Queue) : (s.updQueue q f).pod = s.pod := rfl
@[simp] theorem State.updQueue_toMgmt (q : Nat) (f : Queue → Queue) : (s.updQueue q f).toMgmt = s.toMgmt := rfl
@[simp] theorem State.updQueue_events (q : Nat) (f : Queue → Queue) : (s.updQueue q f).events = s.events := rfl
@[simp] theorem State.updQueue_cpl (q : Nat) (f : Queue → Queue) : (s.updQueue q f).cpl = s.cpl := rfl
@[simp] theorem State.updQueue_fjOut (q : Nat) (f : Queue → Queue) : (s.updQueue q f).fjOut = s.fjOut := rfl

@[simp] theorem State.updPart_now (p : Nat) (f : Part → Part) : (s.updPart p f).now = s.now := rfl
@[simp] theorem State.updPart_next (p : Nat) (f : Part → Part) : (s.updPart p f).next = s.next := rfl
@[simp] theorem State.updPart_ctr (p : Nat) (f : Part → Part) : (s.updPart p f).ctr = s.ctr := rfl
@[simp] theorem State.updPart_curTile (p : Nat) (f : Part → Part) : (s.updPart p f).curTile = s.curTile := rfl
@[simp] theorem State.updPart_curSlot (p : Nat) (f : Part → Part) : (s.updPart p f).curSlot = s.curSlot := rfl
@[simp] theorem State.updPart_ev (p : Nat) (f : Part → Part) : (s.updPart p f).ev = s.ev := rfl
@[simp] theorem State.updPart_inputs (p : Nat) (f : Part → Part) : (s.updPart p f).inputs = s.inputs := rfl
@[simp] theorem State.updPart_tiles (p : Nat) (f : Part → Part) : (s.updPart p f).tiles = s.tiles := rfl
@[simp] theorem State.updPart_pens (p : Nat) (f : Part → Part) : (s.updPart p f).pens = s.pens := rfl
@[simp] theorem State.updPart_groups (p : Nat) (f : Part → Part) : (s.updPart p f).groups = s.groups := rfl
@[simp] theorem State.updPart_dies (p : Nat) (f : Part → Part) : (s.updPart p f).dies = s.dies := rfl
@[simp] theorem State.updPart_stks (p : Nat) (f : Part → Part) : (s.updPart p f).stks = s.stks := rfl
@[simp] theorem State.updPart_mem (p : Nat) (f : Part → Part) : (s.updPart p f).mem = s.mem := rfl
@[simp] theorem State.updPart_poison (p : Nat) (f : Part → Part) : (s.updPart p f).poison = s.poison := rfl
@[simp] theorem State.updPart_flight (p : Nat) (f : Part → Part) : (s.updPart p f).flight = s.flight := rfl
@[simp] theorem State.updPart_pairs (p : Nat) (f : Part → Part) : (s.updPart p f).pairs = s.pairs := rfl
@[simp] theorem State.updPart_held (p : Nat) (f : Part → Part) : (s.updPart p f).held = s.held := rfl
@[simp] theorem State.updPart_faults (p : Nat) (f : Part → Part) : (s.updPart p f).faults = s.faults := rfl
@[simp] theorem State.updPart_fbGen (p : Nat) (f : Part → Part) : (s.updPart p f).fbGen = s.fbGen := rfl
@[simp] theorem State.updPart_fbOvf (p : Nat) (f : Part → Part) : (s.updPart p f).fbOvf = s.fbOvf := rfl
@[simp] theorem State.updPart_fbSvc (p : Nat) (f : Part → Part) : (s.updPart p f).fbSvc = s.fbSvc := rfl
@[simp] theorem State.updPart_tlb (p : Nat) (f : Part → Part) : (s.updPart p f).tlb = s.tlb := rfl
@[simp] theorem State.updPart_xinvBusy (p : Nat) (f : Part → Part) : (s.updPart p f).xinvBusy = s.xinvBusy := rfl
@[simp] theorem State.updPart_launches (p : Nat) (f : Part → Part) : (s.updPart p f).launches = s.launches := rfl
@[simp] theorem State.updPart_nextLid (p : Nat) (f : Part → Part) : (s.updPart p f).nextLid = s.nextLid := rfl
@[simp] theorem State.updPart_queues (p : Nat) (f : Part → Part) : (s.updPart p f).queues = s.queues := rfl
@[simp] theorem State.updPart_rr (p : Nat) (f : Part → Part) : (s.updPart p f).rr = s.rr := rfl
@[simp] theorem State.updPart_roots (p : Nat) (f : Part → Part) : (s.updPart p f).roots = s.roots := rfl
@[simp] theorem State.updPart_rounds (p : Nat) (f : Part → Part) : (s.updPart p f).rounds = s.rounds := rfl
@[simp] theorem State.updPart_counters (p : Nat) (f : Part → Part) : (s.updPart p f).counters = s.counters := rfl
@[simp] theorem State.updPart_firings (p : Nat) (f : Part → Part) : (s.updPart p f).firings = s.firings := rfl
@[simp] theorem State.updPart_firedAt (p : Nat) (f : Part → Part) : (s.updPart p f).firedAt = s.firedAt := rfl
@[simp] theorem State.updPart_saved (p : Nat) (f : Part → Part) : (s.updPart p f).saved = s.saved := rfl
@[simp] theorem State.updPart_aclost (p : Nat) (f : Part → Part) : (s.updPart p f).aclost = s.aclost := rfl
@[simp] theorem State.updPart_starv (p : Nat) (f : Part → Part) : (s.updPart p f).starv = s.starv := rfl
@[simp] theorem State.updPart_starvAt (p : Nat) (f : Part → Part) : (s.updPart p f).starvAt = s.starvAt := rfl
@[simp] theorem State.updPart_starvSeen (p : Nat) (f : Part → Part) : (s.updPart p f).starvSeen = s.starvSeen := rfl
@[simp] theorem State.updPart_lendStat (p : Nat) (f : Part → Part) : (s.updPart p f).lendStat = s.lendStat := rfl
@[simp] theorem State.updPart_lendBusy (p : Nat) (f : Part → Part) : (s.updPart p f).lendBusy = s.lendBusy := rfl
@[simp] theorem State.updPart_preempt (p : Nat) (f : Part → Part) : (s.updPart p f).preempt = s.preempt := rfl
@[simp] theorem State.updPart_distAt (p : Nat) (f : Part → Part) : (s.updPart p f).distAt = s.distAt := rfl
@[simp] theorem State.updPart_fj (p : Nat) (f : Part → Part) : (s.updPart p f).fj = s.fj := rfl
@[simp] theorem State.updPart_mcasts (p : Nat) (f : Part → Part) : (s.updPart p f).mcasts = s.mcasts := rfl
@[simp] theorem State.updPart_mgmt (p : Nat) (f : Part → Part) : (s.updPart p f).mgmt = s.mgmt := rfl
@[simp] theorem State.updPart_pkg (p : Nat) (f : Part → Part) : (s.updPart p f).pkg = s.pkg := rfl
@[simp] theorem State.updPart_pod (p : Nat) (f : Part → Part) : (s.updPart p f).pod = s.pod := rfl
@[simp] theorem State.updPart_toMgmt (p : Nat) (f : Part → Part) : (s.updPart p f).toMgmt = s.toMgmt := rfl
@[simp] theorem State.updPart_events (p : Nat) (f : Part → Part) : (s.updPart p f).events = s.events := rfl
@[simp] theorem State.updPart_cpl (p : Nat) (f : Part → Part) : (s.updPart p f).cpl = s.cpl := rfl
@[simp] theorem State.updPart_fjOut (p : Nat) (f : Part → Part) : (s.updPart p f).fjOut = s.fjOut := rfl

@[simp] theorem State.updRoot_now (d : Nat) (f : Root → Root) : (s.updRoot d f).now = s.now := rfl
@[simp] theorem State.updRoot_next (d : Nat) (f : Root → Root) : (s.updRoot d f).next = s.next := rfl
@[simp] theorem State.updRoot_ctr (d : Nat) (f : Root → Root) : (s.updRoot d f).ctr = s.ctr := rfl
@[simp] theorem State.updRoot_curTile (d : Nat) (f : Root → Root) : (s.updRoot d f).curTile = s.curTile := rfl
@[simp] theorem State.updRoot_curSlot (d : Nat) (f : Root → Root) : (s.updRoot d f).curSlot = s.curSlot := rfl
@[simp] theorem State.updRoot_ev (d : Nat) (f : Root → Root) : (s.updRoot d f).ev = s.ev := rfl
@[simp] theorem State.updRoot_inputs (d : Nat) (f : Root → Root) : (s.updRoot d f).inputs = s.inputs := rfl
@[simp] theorem State.updRoot_tiles (d : Nat) (f : Root → Root) : (s.updRoot d f).tiles = s.tiles := rfl
@[simp] theorem State.updRoot_pens (d : Nat) (f : Root → Root) : (s.updRoot d f).pens = s.pens := rfl
@[simp] theorem State.updRoot_groups (d : Nat) (f : Root → Root) : (s.updRoot d f).groups = s.groups := rfl
@[simp] theorem State.updRoot_dies (d : Nat) (f : Root → Root) : (s.updRoot d f).dies = s.dies := rfl
@[simp] theorem State.updRoot_stks (d : Nat) (f : Root → Root) : (s.updRoot d f).stks = s.stks := rfl
@[simp] theorem State.updRoot_mem (d : Nat) (f : Root → Root) : (s.updRoot d f).mem = s.mem := rfl
@[simp] theorem State.updRoot_poison (d : Nat) (f : Root → Root) : (s.updRoot d f).poison = s.poison := rfl
@[simp] theorem State.updRoot_flight (d : Nat) (f : Root → Root) : (s.updRoot d f).flight = s.flight := rfl
@[simp] theorem State.updRoot_pairs (d : Nat) (f : Root → Root) : (s.updRoot d f).pairs = s.pairs := rfl
@[simp] theorem State.updRoot_held (d : Nat) (f : Root → Root) : (s.updRoot d f).held = s.held := rfl
@[simp] theorem State.updRoot_faults (d : Nat) (f : Root → Root) : (s.updRoot d f).faults = s.faults := rfl
@[simp] theorem State.updRoot_fbGen (d : Nat) (f : Root → Root) : (s.updRoot d f).fbGen = s.fbGen := rfl
@[simp] theorem State.updRoot_fbOvf (d : Nat) (f : Root → Root) : (s.updRoot d f).fbOvf = s.fbOvf := rfl
@[simp] theorem State.updRoot_fbSvc (d : Nat) (f : Root → Root) : (s.updRoot d f).fbSvc = s.fbSvc := rfl
@[simp] theorem State.updRoot_tlb (d : Nat) (f : Root → Root) : (s.updRoot d f).tlb = s.tlb := rfl
@[simp] theorem State.updRoot_xinvBusy (d : Nat) (f : Root → Root) : (s.updRoot d f).xinvBusy = s.xinvBusy := rfl
@[simp] theorem State.updRoot_launches (d : Nat) (f : Root → Root) : (s.updRoot d f).launches = s.launches := rfl
@[simp] theorem State.updRoot_nextLid (d : Nat) (f : Root → Root) : (s.updRoot d f).nextLid = s.nextLid := rfl
@[simp] theorem State.updRoot_queues (d : Nat) (f : Root → Root) : (s.updRoot d f).queues = s.queues := rfl
@[simp] theorem State.updRoot_rr (d : Nat) (f : Root → Root) : (s.updRoot d f).rr = s.rr := rfl
@[simp] theorem State.updRoot_parts (d : Nat) (f : Root → Root) : (s.updRoot d f).parts = s.parts := rfl
@[simp] theorem State.updRoot_rounds (d : Nat) (f : Root → Root) : (s.updRoot d f).rounds = s.rounds := rfl
@[simp] theorem State.updRoot_counters (d : Nat) (f : Root → Root) : (s.updRoot d f).counters = s.counters := rfl
@[simp] theorem State.updRoot_firings (d : Nat) (f : Root → Root) : (s.updRoot d f).firings = s.firings := rfl
@[simp] theorem State.updRoot_firedAt (d : Nat) (f : Root → Root) : (s.updRoot d f).firedAt = s.firedAt := rfl
@[simp] theorem State.updRoot_saved (d : Nat) (f : Root → Root) : (s.updRoot d f).saved = s.saved := rfl
@[simp] theorem State.updRoot_aclost (d : Nat) (f : Root → Root) : (s.updRoot d f).aclost = s.aclost := rfl
@[simp] theorem State.updRoot_starv (d : Nat) (f : Root → Root) : (s.updRoot d f).starv = s.starv := rfl
@[simp] theorem State.updRoot_starvAt (d : Nat) (f : Root → Root) : (s.updRoot d f).starvAt = s.starvAt := rfl
@[simp] theorem State.updRoot_starvSeen (d : Nat) (f : Root → Root) : (s.updRoot d f).starvSeen = s.starvSeen := rfl
@[simp] theorem State.updRoot_lendStat (d : Nat) (f : Root → Root) : (s.updRoot d f).lendStat = s.lendStat := rfl
@[simp] theorem State.updRoot_lendBusy (d : Nat) (f : Root → Root) : (s.updRoot d f).lendBusy = s.lendBusy := rfl
@[simp] theorem State.updRoot_preempt (d : Nat) (f : Root → Root) : (s.updRoot d f).preempt = s.preempt := rfl
@[simp] theorem State.updRoot_distAt (d : Nat) (f : Root → Root) : (s.updRoot d f).distAt = s.distAt := rfl
@[simp] theorem State.updRoot_fj (d : Nat) (f : Root → Root) : (s.updRoot d f).fj = s.fj := rfl
@[simp] theorem State.updRoot_mcasts (d : Nat) (f : Root → Root) : (s.updRoot d f).mcasts = s.mcasts := rfl
@[simp] theorem State.updRoot_mgmt (d : Nat) (f : Root → Root) : (s.updRoot d f).mgmt = s.mgmt := rfl
@[simp] theorem State.updRoot_pkg (d : Nat) (f : Root → Root) : (s.updRoot d f).pkg = s.pkg := rfl
@[simp] theorem State.updRoot_pod (d : Nat) (f : Root → Root) : (s.updRoot d f).pod = s.pod := rfl
@[simp] theorem State.updRoot_toMgmt (d : Nat) (f : Root → Root) : (s.updRoot d f).toMgmt = s.toMgmt := rfl
@[simp] theorem State.updRoot_events (d : Nat) (f : Root → Root) : (s.updRoot d f).events = s.events := rfl
@[simp] theorem State.updRoot_cpl (d : Nat) (f : Root → Root) : (s.updRoot d f).cpl = s.cpl := rfl
@[simp] theorem State.updRoot_fjOut (d : Nat) (f : Root → Root) : (s.updRoot d f).fjOut = s.fjOut := rfl

@[simp] theorem State.updRound_now (d : Nat) (f : Round → Round) : (s.updRound d f).now = s.now := rfl
@[simp] theorem State.updRound_next (d : Nat) (f : Round → Round) : (s.updRound d f).next = s.next := rfl
@[simp] theorem State.updRound_ctr (d : Nat) (f : Round → Round) : (s.updRound d f).ctr = s.ctr := rfl
@[simp] theorem State.updRound_curTile (d : Nat) (f : Round → Round) : (s.updRound d f).curTile = s.curTile := rfl
@[simp] theorem State.updRound_curSlot (d : Nat) (f : Round → Round) : (s.updRound d f).curSlot = s.curSlot := rfl
@[simp] theorem State.updRound_ev (d : Nat) (f : Round → Round) : (s.updRound d f).ev = s.ev := rfl
@[simp] theorem State.updRound_inputs (d : Nat) (f : Round → Round) : (s.updRound d f).inputs = s.inputs := rfl
@[simp] theorem State.updRound_tiles (d : Nat) (f : Round → Round) : (s.updRound d f).tiles = s.tiles := rfl
@[simp] theorem State.updRound_pens (d : Nat) (f : Round → Round) : (s.updRound d f).pens = s.pens := rfl
@[simp] theorem State.updRound_groups (d : Nat) (f : Round → Round) : (s.updRound d f).groups = s.groups := rfl
@[simp] theorem State.updRound_dies (d : Nat) (f : Round → Round) : (s.updRound d f).dies = s.dies := rfl
@[simp] theorem State.updRound_stks (d : Nat) (f : Round → Round) : (s.updRound d f).stks = s.stks := rfl
@[simp] theorem State.updRound_mem (d : Nat) (f : Round → Round) : (s.updRound d f).mem = s.mem := rfl
@[simp] theorem State.updRound_poison (d : Nat) (f : Round → Round) : (s.updRound d f).poison = s.poison := rfl
@[simp] theorem State.updRound_flight (d : Nat) (f : Round → Round) : (s.updRound d f).flight = s.flight := rfl
@[simp] theorem State.updRound_pairs (d : Nat) (f : Round → Round) : (s.updRound d f).pairs = s.pairs := rfl
@[simp] theorem State.updRound_held (d : Nat) (f : Round → Round) : (s.updRound d f).held = s.held := rfl
@[simp] theorem State.updRound_faults (d : Nat) (f : Round → Round) : (s.updRound d f).faults = s.faults := rfl
@[simp] theorem State.updRound_fbGen (d : Nat) (f : Round → Round) : (s.updRound d f).fbGen = s.fbGen := rfl
@[simp] theorem State.updRound_fbOvf (d : Nat) (f : Round → Round) : (s.updRound d f).fbOvf = s.fbOvf := rfl
@[simp] theorem State.updRound_fbSvc (d : Nat) (f : Round → Round) : (s.updRound d f).fbSvc = s.fbSvc := rfl
@[simp] theorem State.updRound_tlb (d : Nat) (f : Round → Round) : (s.updRound d f).tlb = s.tlb := rfl
@[simp] theorem State.updRound_xinvBusy (d : Nat) (f : Round → Round) : (s.updRound d f).xinvBusy = s.xinvBusy := rfl
@[simp] theorem State.updRound_launches (d : Nat) (f : Round → Round) : (s.updRound d f).launches = s.launches := rfl
@[simp] theorem State.updRound_nextLid (d : Nat) (f : Round → Round) : (s.updRound d f).nextLid = s.nextLid := rfl
@[simp] theorem State.updRound_queues (d : Nat) (f : Round → Round) : (s.updRound d f).queues = s.queues := rfl
@[simp] theorem State.updRound_rr (d : Nat) (f : Round → Round) : (s.updRound d f).rr = s.rr := rfl
@[simp] theorem State.updRound_parts (d : Nat) (f : Round → Round) : (s.updRound d f).parts = s.parts := rfl
@[simp] theorem State.updRound_roots (d : Nat) (f : Round → Round) : (s.updRound d f).roots = s.roots := rfl
@[simp] theorem State.updRound_counters (d : Nat) (f : Round → Round) : (s.updRound d f).counters = s.counters := rfl
@[simp] theorem State.updRound_firings (d : Nat) (f : Round → Round) : (s.updRound d f).firings = s.firings := rfl
@[simp] theorem State.updRound_firedAt (d : Nat) (f : Round → Round) : (s.updRound d f).firedAt = s.firedAt := rfl
@[simp] theorem State.updRound_saved (d : Nat) (f : Round → Round) : (s.updRound d f).saved = s.saved := rfl
@[simp] theorem State.updRound_aclost (d : Nat) (f : Round → Round) : (s.updRound d f).aclost = s.aclost := rfl
@[simp] theorem State.updRound_starv (d : Nat) (f : Round → Round) : (s.updRound d f).starv = s.starv := rfl
@[simp] theorem State.updRound_starvAt (d : Nat) (f : Round → Round) : (s.updRound d f).starvAt = s.starvAt := rfl
@[simp] theorem State.updRound_starvSeen (d : Nat) (f : Round → Round) : (s.updRound d f).starvSeen = s.starvSeen := rfl
@[simp] theorem State.updRound_lendStat (d : Nat) (f : Round → Round) : (s.updRound d f).lendStat = s.lendStat := rfl
@[simp] theorem State.updRound_lendBusy (d : Nat) (f : Round → Round) : (s.updRound d f).lendBusy = s.lendBusy := rfl
@[simp] theorem State.updRound_preempt (d : Nat) (f : Round → Round) : (s.updRound d f).preempt = s.preempt := rfl
@[simp] theorem State.updRound_distAt (d : Nat) (f : Round → Round) : (s.updRound d f).distAt = s.distAt := rfl
@[simp] theorem State.updRound_fj (d : Nat) (f : Round → Round) : (s.updRound d f).fj = s.fj := rfl
@[simp] theorem State.updRound_mcasts (d : Nat) (f : Round → Round) : (s.updRound d f).mcasts = s.mcasts := rfl
@[simp] theorem State.updRound_mgmt (d : Nat) (f : Round → Round) : (s.updRound d f).mgmt = s.mgmt := rfl
@[simp] theorem State.updRound_pkg (d : Nat) (f : Round → Round) : (s.updRound d f).pkg = s.pkg := rfl
@[simp] theorem State.updRound_pod (d : Nat) (f : Round → Round) : (s.updRound d f).pod = s.pod := rfl
@[simp] theorem State.updRound_toMgmt (d : Nat) (f : Round → Round) : (s.updRound d f).toMgmt = s.toMgmt := rfl
@[simp] theorem State.updRound_events (d : Nat) (f : Round → Round) : (s.updRound d f).events = s.events := rfl
@[simp] theorem State.updRound_cpl (d : Nat) (f : Round → Round) : (s.updRound d f).cpl = s.cpl := rfl
@[simp] theorem State.updRound_fjOut (d : Nat) (f : Round → Round) : (s.updRound d f).fjOut = s.fjOut := rfl

@[simp] theorem State.updCounter_now (k : Nat) (f : Counter → Counter) : (s.updCounter k f).now = s.now := rfl
@[simp] theorem State.updCounter_next (k : Nat) (f : Counter → Counter) : (s.updCounter k f).next = s.next := rfl
@[simp] theorem State.updCounter_ctr (k : Nat) (f : Counter → Counter) : (s.updCounter k f).ctr = s.ctr := rfl
@[simp] theorem State.updCounter_curTile (k : Nat) (f : Counter → Counter) : (s.updCounter k f).curTile = s.curTile := rfl
@[simp] theorem State.updCounter_curSlot (k : Nat) (f : Counter → Counter) : (s.updCounter k f).curSlot = s.curSlot := rfl
@[simp] theorem State.updCounter_ev (k : Nat) (f : Counter → Counter) : (s.updCounter k f).ev = s.ev := rfl
@[simp] theorem State.updCounter_inputs (k : Nat) (f : Counter → Counter) : (s.updCounter k f).inputs = s.inputs := rfl
@[simp] theorem State.updCounter_tiles (k : Nat) (f : Counter → Counter) : (s.updCounter k f).tiles = s.tiles := rfl
@[simp] theorem State.updCounter_pens (k : Nat) (f : Counter → Counter) : (s.updCounter k f).pens = s.pens := rfl
@[simp] theorem State.updCounter_groups (k : Nat) (f : Counter → Counter) : (s.updCounter k f).groups = s.groups := rfl
@[simp] theorem State.updCounter_dies (k : Nat) (f : Counter → Counter) : (s.updCounter k f).dies = s.dies := rfl
@[simp] theorem State.updCounter_stks (k : Nat) (f : Counter → Counter) : (s.updCounter k f).stks = s.stks := rfl
@[simp] theorem State.updCounter_mem (k : Nat) (f : Counter → Counter) : (s.updCounter k f).mem = s.mem := rfl
@[simp] theorem State.updCounter_poison (k : Nat) (f : Counter → Counter) : (s.updCounter k f).poison = s.poison := rfl
@[simp] theorem State.updCounter_flight (k : Nat) (f : Counter → Counter) : (s.updCounter k f).flight = s.flight := rfl
@[simp] theorem State.updCounter_pairs (k : Nat) (f : Counter → Counter) : (s.updCounter k f).pairs = s.pairs := rfl
@[simp] theorem State.updCounter_held (k : Nat) (f : Counter → Counter) : (s.updCounter k f).held = s.held := rfl
@[simp] theorem State.updCounter_faults (k : Nat) (f : Counter → Counter) : (s.updCounter k f).faults = s.faults := rfl
@[simp] theorem State.updCounter_fbGen (k : Nat) (f : Counter → Counter) : (s.updCounter k f).fbGen = s.fbGen := rfl
@[simp] theorem State.updCounter_fbOvf (k : Nat) (f : Counter → Counter) : (s.updCounter k f).fbOvf = s.fbOvf := rfl
@[simp] theorem State.updCounter_fbSvc (k : Nat) (f : Counter → Counter) : (s.updCounter k f).fbSvc = s.fbSvc := rfl
@[simp] theorem State.updCounter_tlb (k : Nat) (f : Counter → Counter) : (s.updCounter k f).tlb = s.tlb := rfl
@[simp] theorem State.updCounter_xinvBusy (k : Nat) (f : Counter → Counter) : (s.updCounter k f).xinvBusy = s.xinvBusy := rfl
@[simp] theorem State.updCounter_launches (k : Nat) (f : Counter → Counter) : (s.updCounter k f).launches = s.launches := rfl
@[simp] theorem State.updCounter_nextLid (k : Nat) (f : Counter → Counter) : (s.updCounter k f).nextLid = s.nextLid := rfl
@[simp] theorem State.updCounter_queues (k : Nat) (f : Counter → Counter) : (s.updCounter k f).queues = s.queues := rfl
@[simp] theorem State.updCounter_rr (k : Nat) (f : Counter → Counter) : (s.updCounter k f).rr = s.rr := rfl
@[simp] theorem State.updCounter_parts (k : Nat) (f : Counter → Counter) : (s.updCounter k f).parts = s.parts := rfl
@[simp] theorem State.updCounter_roots (k : Nat) (f : Counter → Counter) : (s.updCounter k f).roots = s.roots := rfl
@[simp] theorem State.updCounter_rounds (k : Nat) (f : Counter → Counter) : (s.updCounter k f).rounds = s.rounds := rfl
@[simp] theorem State.updCounter_firings (k : Nat) (f : Counter → Counter) : (s.updCounter k f).firings = s.firings := rfl
@[simp] theorem State.updCounter_firedAt (k : Nat) (f : Counter → Counter) : (s.updCounter k f).firedAt = s.firedAt := rfl
@[simp] theorem State.updCounter_saved (k : Nat) (f : Counter → Counter) : (s.updCounter k f).saved = s.saved := rfl
@[simp] theorem State.updCounter_aclost (k : Nat) (f : Counter → Counter) : (s.updCounter k f).aclost = s.aclost := rfl
@[simp] theorem State.updCounter_starv (k : Nat) (f : Counter → Counter) : (s.updCounter k f).starv = s.starv := rfl
@[simp] theorem State.updCounter_starvAt (k : Nat) (f : Counter → Counter) : (s.updCounter k f).starvAt = s.starvAt := rfl
@[simp] theorem State.updCounter_starvSeen (k : Nat) (f : Counter → Counter) : (s.updCounter k f).starvSeen = s.starvSeen := rfl
@[simp] theorem State.updCounter_lendStat (k : Nat) (f : Counter → Counter) : (s.updCounter k f).lendStat = s.lendStat := rfl
@[simp] theorem State.updCounter_lendBusy (k : Nat) (f : Counter → Counter) : (s.updCounter k f).lendBusy = s.lendBusy := rfl
@[simp] theorem State.updCounter_preempt (k : Nat) (f : Counter → Counter) : (s.updCounter k f).preempt = s.preempt := rfl
@[simp] theorem State.updCounter_distAt (k : Nat) (f : Counter → Counter) : (s.updCounter k f).distAt = s.distAt := rfl
@[simp] theorem State.updCounter_fj (k : Nat) (f : Counter → Counter) : (s.updCounter k f).fj = s.fj := rfl
@[simp] theorem State.updCounter_mcasts (k : Nat) (f : Counter → Counter) : (s.updCounter k f).mcasts = s.mcasts := rfl
@[simp] theorem State.updCounter_mgmt (k : Nat) (f : Counter → Counter) : (s.updCounter k f).mgmt = s.mgmt := rfl
@[simp] theorem State.updCounter_pkg (k : Nat) (f : Counter → Counter) : (s.updCounter k f).pkg = s.pkg := rfl
@[simp] theorem State.updCounter_pod (k : Nat) (f : Counter → Counter) : (s.updCounter k f).pod = s.pod := rfl
@[simp] theorem State.updCounter_toMgmt (k : Nat) (f : Counter → Counter) : (s.updCounter k f).toMgmt = s.toMgmt := rfl
@[simp] theorem State.updCounter_events (k : Nat) (f : Counter → Counter) : (s.updCounter k f).events = s.events := rfl
@[simp] theorem State.updCounter_cpl (k : Nat) (f : Counter → Counter) : (s.updCounter k f).cpl = s.cpl := rfl
@[simp] theorem State.updCounter_fjOut (k : Nat) (f : Counter → Counter) : (s.updCounter k f).fjOut = s.fjOut := rfl

@[simp] theorem State.updMgmt_now (f : Mgmt → Mgmt) : (s.updMgmt f).now = s.now := rfl
@[simp] theorem State.updMgmt_next (f : Mgmt → Mgmt) : (s.updMgmt f).next = s.next := rfl
@[simp] theorem State.updMgmt_ctr (f : Mgmt → Mgmt) : (s.updMgmt f).ctr = s.ctr := rfl
@[simp] theorem State.updMgmt_curTile (f : Mgmt → Mgmt) : (s.updMgmt f).curTile = s.curTile := rfl
@[simp] theorem State.updMgmt_curSlot (f : Mgmt → Mgmt) : (s.updMgmt f).curSlot = s.curSlot := rfl
@[simp] theorem State.updMgmt_ev (f : Mgmt → Mgmt) : (s.updMgmt f).ev = s.ev := rfl
@[simp] theorem State.updMgmt_inputs (f : Mgmt → Mgmt) : (s.updMgmt f).inputs = s.inputs := rfl
@[simp] theorem State.updMgmt_tiles (f : Mgmt → Mgmt) : (s.updMgmt f).tiles = s.tiles := rfl
@[simp] theorem State.updMgmt_pens (f : Mgmt → Mgmt) : (s.updMgmt f).pens = s.pens := rfl
@[simp] theorem State.updMgmt_groups (f : Mgmt → Mgmt) : (s.updMgmt f).groups = s.groups := rfl
@[simp] theorem State.updMgmt_dies (f : Mgmt → Mgmt) : (s.updMgmt f).dies = s.dies := rfl
@[simp] theorem State.updMgmt_stks (f : Mgmt → Mgmt) : (s.updMgmt f).stks = s.stks := rfl
@[simp] theorem State.updMgmt_mem (f : Mgmt → Mgmt) : (s.updMgmt f).mem = s.mem := rfl
@[simp] theorem State.updMgmt_poison (f : Mgmt → Mgmt) : (s.updMgmt f).poison = s.poison := rfl
@[simp] theorem State.updMgmt_flight (f : Mgmt → Mgmt) : (s.updMgmt f).flight = s.flight := rfl
@[simp] theorem State.updMgmt_pairs (f : Mgmt → Mgmt) : (s.updMgmt f).pairs = s.pairs := rfl
@[simp] theorem State.updMgmt_held (f : Mgmt → Mgmt) : (s.updMgmt f).held = s.held := rfl
@[simp] theorem State.updMgmt_faults (f : Mgmt → Mgmt) : (s.updMgmt f).faults = s.faults := rfl
@[simp] theorem State.updMgmt_fbGen (f : Mgmt → Mgmt) : (s.updMgmt f).fbGen = s.fbGen := rfl
@[simp] theorem State.updMgmt_fbOvf (f : Mgmt → Mgmt) : (s.updMgmt f).fbOvf = s.fbOvf := rfl
@[simp] theorem State.updMgmt_fbSvc (f : Mgmt → Mgmt) : (s.updMgmt f).fbSvc = s.fbSvc := rfl
@[simp] theorem State.updMgmt_tlb (f : Mgmt → Mgmt) : (s.updMgmt f).tlb = s.tlb := rfl
@[simp] theorem State.updMgmt_xinvBusy (f : Mgmt → Mgmt) : (s.updMgmt f).xinvBusy = s.xinvBusy := rfl
@[simp] theorem State.updMgmt_launches (f : Mgmt → Mgmt) : (s.updMgmt f).launches = s.launches := rfl
@[simp] theorem State.updMgmt_nextLid (f : Mgmt → Mgmt) : (s.updMgmt f).nextLid = s.nextLid := rfl
@[simp] theorem State.updMgmt_queues (f : Mgmt → Mgmt) : (s.updMgmt f).queues = s.queues := rfl
@[simp] theorem State.updMgmt_rr (f : Mgmt → Mgmt) : (s.updMgmt f).rr = s.rr := rfl
@[simp] theorem State.updMgmt_parts (f : Mgmt → Mgmt) : (s.updMgmt f).parts = s.parts := rfl
@[simp] theorem State.updMgmt_roots (f : Mgmt → Mgmt) : (s.updMgmt f).roots = s.roots := rfl
@[simp] theorem State.updMgmt_rounds (f : Mgmt → Mgmt) : (s.updMgmt f).rounds = s.rounds := rfl
@[simp] theorem State.updMgmt_counters (f : Mgmt → Mgmt) : (s.updMgmt f).counters = s.counters := rfl
@[simp] theorem State.updMgmt_firings (f : Mgmt → Mgmt) : (s.updMgmt f).firings = s.firings := rfl
@[simp] theorem State.updMgmt_firedAt (f : Mgmt → Mgmt) : (s.updMgmt f).firedAt = s.firedAt := rfl
@[simp] theorem State.updMgmt_saved (f : Mgmt → Mgmt) : (s.updMgmt f).saved = s.saved := rfl
@[simp] theorem State.updMgmt_aclost (f : Mgmt → Mgmt) : (s.updMgmt f).aclost = s.aclost := rfl
@[simp] theorem State.updMgmt_starv (f : Mgmt → Mgmt) : (s.updMgmt f).starv = s.starv := rfl
@[simp] theorem State.updMgmt_starvAt (f : Mgmt → Mgmt) : (s.updMgmt f).starvAt = s.starvAt := rfl
@[simp] theorem State.updMgmt_starvSeen (f : Mgmt → Mgmt) : (s.updMgmt f).starvSeen = s.starvSeen := rfl
@[simp] theorem State.updMgmt_lendStat (f : Mgmt → Mgmt) : (s.updMgmt f).lendStat = s.lendStat := rfl
@[simp] theorem State.updMgmt_lendBusy (f : Mgmt → Mgmt) : (s.updMgmt f).lendBusy = s.lendBusy := rfl
@[simp] theorem State.updMgmt_preempt (f : Mgmt → Mgmt) : (s.updMgmt f).preempt = s.preempt := rfl
@[simp] theorem State.updMgmt_distAt (f : Mgmt → Mgmt) : (s.updMgmt f).distAt = s.distAt := rfl
@[simp] theorem State.updMgmt_fj (f : Mgmt → Mgmt) : (s.updMgmt f).fj = s.fj := rfl
@[simp] theorem State.updMgmt_mcasts (f : Mgmt → Mgmt) : (s.updMgmt f).mcasts = s.mcasts := rfl
@[simp] theorem State.updMgmt_pkg (f : Mgmt → Mgmt) : (s.updMgmt f).pkg = s.pkg := rfl
@[simp] theorem State.updMgmt_pod (f : Mgmt → Mgmt) : (s.updMgmt f).pod = s.pod := rfl
@[simp] theorem State.updMgmt_toMgmt (f : Mgmt → Mgmt) : (s.updMgmt f).toMgmt = s.toMgmt := rfl
@[simp] theorem State.updMgmt_events (f : Mgmt → Mgmt) : (s.updMgmt f).events = s.events := rfl
@[simp] theorem State.updMgmt_cpl (f : Mgmt → Mgmt) : (s.updMgmt f).cpl = s.cpl := rfl
@[simp] theorem State.updMgmt_fjOut (f : Mgmt → Mgmt) : (s.updMgmt f).fjOut = s.fjOut := rfl

@[simp] theorem State.updCur_now (f : Slot → Slot) : (s.updCur f).now = s.now := rfl
@[simp] theorem State.updCur_next (f : Slot → Slot) : (s.updCur f).next = s.next := rfl
@[simp] theorem State.updCur_ctr (f : Slot → Slot) : (s.updCur f).ctr = s.ctr := rfl
@[simp] theorem State.updCur_curTile (f : Slot → Slot) : (s.updCur f).curTile = s.curTile := rfl
@[simp] theorem State.updCur_curSlot (f : Slot → Slot) : (s.updCur f).curSlot = s.curSlot := rfl
@[simp] theorem State.updCur_ev (f : Slot → Slot) : (s.updCur f).ev = s.ev := rfl
@[simp] theorem State.updCur_inputs (f : Slot → Slot) : (s.updCur f).inputs = s.inputs := rfl
@[simp] theorem State.updCur_pens (f : Slot → Slot) : (s.updCur f).pens = s.pens := rfl
@[simp] theorem State.updCur_groups (f : Slot → Slot) : (s.updCur f).groups = s.groups := rfl
@[simp] theorem State.updCur_dies (f : Slot → Slot) : (s.updCur f).dies = s.dies := rfl
@[simp] theorem State.updCur_stks (f : Slot → Slot) : (s.updCur f).stks = s.stks := rfl
@[simp] theorem State.updCur_mem (f : Slot → Slot) : (s.updCur f).mem = s.mem := rfl
@[simp] theorem State.updCur_poison (f : Slot → Slot) : (s.updCur f).poison = s.poison := rfl
@[simp] theorem State.updCur_flight (f : Slot → Slot) : (s.updCur f).flight = s.flight := rfl
@[simp] theorem State.updCur_pairs (f : Slot → Slot) : (s.updCur f).pairs = s.pairs := rfl
@[simp] theorem State.updCur_held (f : Slot → Slot) : (s.updCur f).held = s.held := rfl
@[simp] theorem State.updCur_faults (f : Slot → Slot) : (s.updCur f).faults = s.faults := rfl
@[simp] theorem State.updCur_fbGen (f : Slot → Slot) : (s.updCur f).fbGen = s.fbGen := rfl
@[simp] theorem State.updCur_fbOvf (f : Slot → Slot) : (s.updCur f).fbOvf = s.fbOvf := rfl
@[simp] theorem State.updCur_fbSvc (f : Slot → Slot) : (s.updCur f).fbSvc = s.fbSvc := rfl
@[simp] theorem State.updCur_tlb (f : Slot → Slot) : (s.updCur f).tlb = s.tlb := rfl
@[simp] theorem State.updCur_xinvBusy (f : Slot → Slot) : (s.updCur f).xinvBusy = s.xinvBusy := rfl
@[simp] theorem State.updCur_launches (f : Slot → Slot) : (s.updCur f).launches = s.launches := rfl
@[simp] theorem State.updCur_nextLid (f : Slot → Slot) : (s.updCur f).nextLid = s.nextLid := rfl
@[simp] theorem State.updCur_queues (f : Slot → Slot) : (s.updCur f).queues = s.queues := rfl
@[simp] theorem State.updCur_rr (f : Slot → Slot) : (s.updCur f).rr = s.rr := rfl
@[simp] theorem State.updCur_parts (f : Slot → Slot) : (s.updCur f).parts = s.parts := rfl
@[simp] theorem State.updCur_roots (f : Slot → Slot) : (s.updCur f).roots = s.roots := rfl
@[simp] theorem State.updCur_rounds (f : Slot → Slot) : (s.updCur f).rounds = s.rounds := rfl
@[simp] theorem State.updCur_counters (f : Slot → Slot) : (s.updCur f).counters = s.counters := rfl
@[simp] theorem State.updCur_firings (f : Slot → Slot) : (s.updCur f).firings = s.firings := rfl
@[simp] theorem State.updCur_firedAt (f : Slot → Slot) : (s.updCur f).firedAt = s.firedAt := rfl
@[simp] theorem State.updCur_saved (f : Slot → Slot) : (s.updCur f).saved = s.saved := rfl
@[simp] theorem State.updCur_aclost (f : Slot → Slot) : (s.updCur f).aclost = s.aclost := rfl
@[simp] theorem State.updCur_starv (f : Slot → Slot) : (s.updCur f).starv = s.starv := rfl
@[simp] theorem State.updCur_starvAt (f : Slot → Slot) : (s.updCur f).starvAt = s.starvAt := rfl
@[simp] theorem State.updCur_starvSeen (f : Slot → Slot) : (s.updCur f).starvSeen = s.starvSeen := rfl
@[simp] theorem State.updCur_lendStat (f : Slot → Slot) : (s.updCur f).lendStat = s.lendStat := rfl
@[simp] theorem State.updCur_lendBusy (f : Slot → Slot) : (s.updCur f).lendBusy = s.lendBusy := rfl
@[simp] theorem State.updCur_preempt (f : Slot → Slot) : (s.updCur f).preempt = s.preempt := rfl
@[simp] theorem State.updCur_distAt (f : Slot → Slot) : (s.updCur f).distAt = s.distAt := rfl
@[simp] theorem State.updCur_fj (f : Slot → Slot) : (s.updCur f).fj = s.fj := rfl
@[simp] theorem State.updCur_mcasts (f : Slot → Slot) : (s.updCur f).mcasts = s.mcasts := rfl
@[simp] theorem State.updCur_mgmt (f : Slot → Slot) : (s.updCur f).mgmt = s.mgmt := rfl
@[simp] theorem State.updCur_pkg (f : Slot → Slot) : (s.updCur f).pkg = s.pkg := rfl
@[simp] theorem State.updCur_pod (f : Slot → Slot) : (s.updCur f).pod = s.pod := rfl
@[simp] theorem State.updCur_toMgmt (f : Slot → Slot) : (s.updCur f).toMgmt = s.toMgmt := rfl
@[simp] theorem State.updCur_events (f : Slot → Slot) : (s.updCur f).events = s.events := rfl
@[simp] theorem State.updCur_cpl (f : Slot → Slot) : (s.updCur f).cpl = s.cpl := rfl
@[simp] theorem State.updCur_fjOut (f : Slot → Slot) : (s.updCur f).fjOut = s.fjOut := rfl

@[simp] theorem State.wr_now (d : Reg) (v : Word) (len : Nat) : (s.wr d v len).now = s.now := rfl
@[simp] theorem State.wr_next (d : Reg) (v : Word) (len : Nat) : (s.wr d v len).next = s.next := rfl
@[simp] theorem State.wr_ctr (d : Reg) (v : Word) (len : Nat) : (s.wr d v len).ctr = s.ctr := rfl
@[simp] theorem State.wr_curTile (d : Reg) (v : Word) (len : Nat) : (s.wr d v len).curTile = s.curTile := rfl
@[simp] theorem State.wr_curSlot (d : Reg) (v : Word) (len : Nat) : (s.wr d v len).curSlot = s.curSlot := rfl
@[simp] theorem State.wr_ev (d : Reg) (v : Word) (len : Nat) : (s.wr d v len).ev = s.ev := rfl
@[simp] theorem State.wr_inputs (d : Reg) (v : Word) (len : Nat) : (s.wr d v len).inputs = s.inputs := rfl
@[simp] theorem State.wr_pens (d : Reg) (v : Word) (len : Nat) : (s.wr d v len).pens = s.pens := rfl
@[simp] theorem State.wr_groups (d : Reg) (v : Word) (len : Nat) : (s.wr d v len).groups = s.groups := rfl
@[simp] theorem State.wr_dies (d : Reg) (v : Word) (len : Nat) : (s.wr d v len).dies = s.dies := rfl
@[simp] theorem State.wr_stks (d : Reg) (v : Word) (len : Nat) : (s.wr d v len).stks = s.stks := rfl
@[simp] theorem State.wr_mem (d : Reg) (v : Word) (len : Nat) : (s.wr d v len).mem = s.mem := rfl
@[simp] theorem State.wr_poison (d : Reg) (v : Word) (len : Nat) : (s.wr d v len).poison = s.poison := rfl
@[simp] theorem State.wr_flight (d : Reg) (v : Word) (len : Nat) : (s.wr d v len).flight = s.flight := rfl
@[simp] theorem State.wr_pairs (d : Reg) (v : Word) (len : Nat) : (s.wr d v len).pairs = s.pairs := rfl
@[simp] theorem State.wr_held (d : Reg) (v : Word) (len : Nat) : (s.wr d v len).held = s.held := rfl
@[simp] theorem State.wr_faults (d : Reg) (v : Word) (len : Nat) : (s.wr d v len).faults = s.faults := rfl
@[simp] theorem State.wr_fbGen (d : Reg) (v : Word) (len : Nat) : (s.wr d v len).fbGen = s.fbGen := rfl
@[simp] theorem State.wr_fbOvf (d : Reg) (v : Word) (len : Nat) : (s.wr d v len).fbOvf = s.fbOvf := rfl
@[simp] theorem State.wr_fbSvc (d : Reg) (v : Word) (len : Nat) : (s.wr d v len).fbSvc = s.fbSvc := rfl
@[simp] theorem State.wr_tlb (d : Reg) (v : Word) (len : Nat) : (s.wr d v len).tlb = s.tlb := rfl
@[simp] theorem State.wr_xinvBusy (d : Reg) (v : Word) (len : Nat) : (s.wr d v len).xinvBusy = s.xinvBusy := rfl
@[simp] theorem State.wr_launches (d : Reg) (v : Word) (len : Nat) : (s.wr d v len).launches = s.launches := rfl
@[simp] theorem State.wr_nextLid (d : Reg) (v : Word) (len : Nat) : (s.wr d v len).nextLid = s.nextLid := rfl
@[simp] theorem State.wr_queues (d : Reg) (v : Word) (len : Nat) : (s.wr d v len).queues = s.queues := rfl
@[simp] theorem State.wr_rr (d : Reg) (v : Word) (len : Nat) : (s.wr d v len).rr = s.rr := rfl
@[simp] theorem State.wr_parts (d : Reg) (v : Word) (len : Nat) : (s.wr d v len).parts = s.parts := rfl
@[simp] theorem State.wr_roots (d : Reg) (v : Word) (len : Nat) : (s.wr d v len).roots = s.roots := rfl
@[simp] theorem State.wr_rounds (d : Reg) (v : Word) (len : Nat) : (s.wr d v len).rounds = s.rounds := rfl
@[simp] theorem State.wr_counters (d : Reg) (v : Word) (len : Nat) : (s.wr d v len).counters = s.counters := rfl
@[simp] theorem State.wr_firings (d : Reg) (v : Word) (len : Nat) : (s.wr d v len).firings = s.firings := rfl
@[simp] theorem State.wr_firedAt (d : Reg) (v : Word) (len : Nat) : (s.wr d v len).firedAt = s.firedAt := rfl
@[simp] theorem State.wr_saved (d : Reg) (v : Word) (len : Nat) : (s.wr d v len).saved = s.saved := rfl
@[simp] theorem State.wr_aclost (d : Reg) (v : Word) (len : Nat) : (s.wr d v len).aclost = s.aclost := rfl
@[simp] theorem State.wr_starv (d : Reg) (v : Word) (len : Nat) : (s.wr d v len).starv = s.starv := rfl
@[simp] theorem State.wr_starvAt (d : Reg) (v : Word) (len : Nat) : (s.wr d v len).starvAt = s.starvAt := rfl
@[simp] theorem State.wr_starvSeen (d : Reg) (v : Word) (len : Nat) : (s.wr d v len).starvSeen = s.starvSeen := rfl
@[simp] theorem State.wr_lendStat (d : Reg) (v : Word) (len : Nat) : (s.wr d v len).lendStat = s.lendStat := rfl
@[simp] theorem State.wr_lendBusy (d : Reg) (v : Word) (len : Nat) : (s.wr d v len).lendBusy = s.lendBusy := rfl
@[simp] theorem State.wr_preempt (d : Reg) (v : Word) (len : Nat) : (s.wr d v len).preempt = s.preempt := rfl
@[simp] theorem State.wr_distAt (d : Reg) (v : Word) (len : Nat) : (s.wr d v len).distAt = s.distAt := rfl
@[simp] theorem State.wr_fj (d : Reg) (v : Word) (len : Nat) : (s.wr d v len).fj = s.fj := rfl
@[simp] theorem State.wr_mcasts (d : Reg) (v : Word) (len : Nat) : (s.wr d v len).mcasts = s.mcasts := rfl
@[simp] theorem State.wr_mgmt (d : Reg) (v : Word) (len : Nat) : (s.wr d v len).mgmt = s.mgmt := rfl
@[simp] theorem State.wr_pkg (d : Reg) (v : Word) (len : Nat) : (s.wr d v len).pkg = s.pkg := rfl
@[simp] theorem State.wr_pod (d : Reg) (v : Word) (len : Nat) : (s.wr d v len).pod = s.pod := rfl
@[simp] theorem State.wr_toMgmt (d : Reg) (v : Word) (len : Nat) : (s.wr d v len).toMgmt = s.toMgmt := rfl
@[simp] theorem State.wr_events (d : Reg) (v : Word) (len : Nat) : (s.wr d v len).events = s.events := rfl
@[simp] theorem State.wr_cpl (d : Reg) (v : Word) (len : Nat) : (s.wr d v len).cpl = s.cpl := rfl
@[simp] theorem State.wr_fjOut (d : Reg) (v : Word) (len : Nat) : (s.wr d v len).fjOut = s.fjOut := rfl

@[simp] theorem State.setX_now (r : Reg) (v : Word) : (s.setX r v).now = s.now := rfl
@[simp] theorem State.setX_next (r : Reg) (v : Word) : (s.setX r v).next = s.next := rfl
@[simp] theorem State.setX_ctr (r : Reg) (v : Word) : (s.setX r v).ctr = s.ctr := rfl
@[simp] theorem State.setX_curTile (r : Reg) (v : Word) : (s.setX r v).curTile = s.curTile := rfl
@[simp] theorem State.setX_curSlot (r : Reg) (v : Word) : (s.setX r v).curSlot = s.curSlot := rfl
@[simp] theorem State.setX_ev (r : Reg) (v : Word) : (s.setX r v).ev = s.ev := rfl
@[simp] theorem State.setX_inputs (r : Reg) (v : Word) : (s.setX r v).inputs = s.inputs := rfl
@[simp] theorem State.setX_pens (r : Reg) (v : Word) : (s.setX r v).pens = s.pens := rfl
@[simp] theorem State.setX_groups (r : Reg) (v : Word) : (s.setX r v).groups = s.groups := rfl
@[simp] theorem State.setX_dies (r : Reg) (v : Word) : (s.setX r v).dies = s.dies := rfl
@[simp] theorem State.setX_stks (r : Reg) (v : Word) : (s.setX r v).stks = s.stks := rfl
@[simp] theorem State.setX_mem (r : Reg) (v : Word) : (s.setX r v).mem = s.mem := rfl
@[simp] theorem State.setX_poison (r : Reg) (v : Word) : (s.setX r v).poison = s.poison := rfl
@[simp] theorem State.setX_flight (r : Reg) (v : Word) : (s.setX r v).flight = s.flight := rfl
@[simp] theorem State.setX_pairs (r : Reg) (v : Word) : (s.setX r v).pairs = s.pairs := rfl
@[simp] theorem State.setX_held (r : Reg) (v : Word) : (s.setX r v).held = s.held := rfl
@[simp] theorem State.setX_faults (r : Reg) (v : Word) : (s.setX r v).faults = s.faults := rfl
@[simp] theorem State.setX_fbGen (r : Reg) (v : Word) : (s.setX r v).fbGen = s.fbGen := rfl
@[simp] theorem State.setX_fbOvf (r : Reg) (v : Word) : (s.setX r v).fbOvf = s.fbOvf := rfl
@[simp] theorem State.setX_fbSvc (r : Reg) (v : Word) : (s.setX r v).fbSvc = s.fbSvc := rfl
@[simp] theorem State.setX_tlb (r : Reg) (v : Word) : (s.setX r v).tlb = s.tlb := rfl
@[simp] theorem State.setX_xinvBusy (r : Reg) (v : Word) : (s.setX r v).xinvBusy = s.xinvBusy := rfl
@[simp] theorem State.setX_launches (r : Reg) (v : Word) : (s.setX r v).launches = s.launches := rfl
@[simp] theorem State.setX_nextLid (r : Reg) (v : Word) : (s.setX r v).nextLid = s.nextLid := rfl
@[simp] theorem State.setX_queues (r : Reg) (v : Word) : (s.setX r v).queues = s.queues := rfl
@[simp] theorem State.setX_rr (r : Reg) (v : Word) : (s.setX r v).rr = s.rr := rfl
@[simp] theorem State.setX_parts (r : Reg) (v : Word) : (s.setX r v).parts = s.parts := rfl
@[simp] theorem State.setX_roots (r : Reg) (v : Word) : (s.setX r v).roots = s.roots := rfl
@[simp] theorem State.setX_rounds (r : Reg) (v : Word) : (s.setX r v).rounds = s.rounds := rfl
@[simp] theorem State.setX_counters (r : Reg) (v : Word) : (s.setX r v).counters = s.counters := rfl
@[simp] theorem State.setX_firings (r : Reg) (v : Word) : (s.setX r v).firings = s.firings := rfl
@[simp] theorem State.setX_firedAt (r : Reg) (v : Word) : (s.setX r v).firedAt = s.firedAt := rfl
@[simp] theorem State.setX_saved (r : Reg) (v : Word) : (s.setX r v).saved = s.saved := rfl
@[simp] theorem State.setX_aclost (r : Reg) (v : Word) : (s.setX r v).aclost = s.aclost := rfl
@[simp] theorem State.setX_starv (r : Reg) (v : Word) : (s.setX r v).starv = s.starv := rfl
@[simp] theorem State.setX_starvAt (r : Reg) (v : Word) : (s.setX r v).starvAt = s.starvAt := rfl
@[simp] theorem State.setX_starvSeen (r : Reg) (v : Word) : (s.setX r v).starvSeen = s.starvSeen := rfl
@[simp] theorem State.setX_lendStat (r : Reg) (v : Word) : (s.setX r v).lendStat = s.lendStat := rfl
@[simp] theorem State.setX_lendBusy (r : Reg) (v : Word) : (s.setX r v).lendBusy = s.lendBusy := rfl
@[simp] theorem State.setX_preempt (r : Reg) (v : Word) : (s.setX r v).preempt = s.preempt := rfl
@[simp] theorem State.setX_distAt (r : Reg) (v : Word) : (s.setX r v).distAt = s.distAt := rfl
@[simp] theorem State.setX_fj (r : Reg) (v : Word) : (s.setX r v).fj = s.fj := rfl
@[simp] theorem State.setX_mcasts (r : Reg) (v : Word) : (s.setX r v).mcasts = s.mcasts := rfl
@[simp] theorem State.setX_mgmt (r : Reg) (v : Word) : (s.setX r v).mgmt = s.mgmt := rfl
@[simp] theorem State.setX_pkg (r : Reg) (v : Word) : (s.setX r v).pkg = s.pkg := rfl
@[simp] theorem State.setX_pod (r : Reg) (v : Word) : (s.setX r v).pod = s.pod := rfl
@[simp] theorem State.setX_toMgmt (r : Reg) (v : Word) : (s.setX r v).toMgmt = s.toMgmt := rfl
@[simp] theorem State.setX_events (r : Reg) (v : Word) : (s.setX r v).events = s.events := rfl
@[simp] theorem State.setX_cpl (r : Reg) (v : Word) : (s.setX r v).cpl = s.cpl := rfl
@[simp] theorem State.setX_fjOut (r : Reg) (v : Word) : (s.setX r v).fjOut = s.fjOut := rfl

@[simp] theorem State.done_now (len : Nat) : (s.done len).now = s.now := rfl
@[simp] theorem State.done_next (len : Nat) : (s.done len).next = s.next := rfl
@[simp] theorem State.done_ctr (len : Nat) : (s.done len).ctr = s.ctr := rfl
@[simp] theorem State.done_curTile (len : Nat) : (s.done len).curTile = s.curTile := rfl
@[simp] theorem State.done_curSlot (len : Nat) : (s.done len).curSlot = s.curSlot := rfl
@[simp] theorem State.done_ev (len : Nat) : (s.done len).ev = s.ev := rfl
@[simp] theorem State.done_inputs (len : Nat) : (s.done len).inputs = s.inputs := rfl
@[simp] theorem State.done_pens (len : Nat) : (s.done len).pens = s.pens := rfl
@[simp] theorem State.done_groups (len : Nat) : (s.done len).groups = s.groups := rfl
@[simp] theorem State.done_dies (len : Nat) : (s.done len).dies = s.dies := rfl
@[simp] theorem State.done_stks (len : Nat) : (s.done len).stks = s.stks := rfl
@[simp] theorem State.done_mem (len : Nat) : (s.done len).mem = s.mem := rfl
@[simp] theorem State.done_poison (len : Nat) : (s.done len).poison = s.poison := rfl
@[simp] theorem State.done_flight (len : Nat) : (s.done len).flight = s.flight := rfl
@[simp] theorem State.done_pairs (len : Nat) : (s.done len).pairs = s.pairs := rfl
@[simp] theorem State.done_held (len : Nat) : (s.done len).held = s.held := rfl
@[simp] theorem State.done_faults (len : Nat) : (s.done len).faults = s.faults := rfl
@[simp] theorem State.done_fbGen (len : Nat) : (s.done len).fbGen = s.fbGen := rfl
@[simp] theorem State.done_fbOvf (len : Nat) : (s.done len).fbOvf = s.fbOvf := rfl
@[simp] theorem State.done_fbSvc (len : Nat) : (s.done len).fbSvc = s.fbSvc := rfl
@[simp] theorem State.done_tlb (len : Nat) : (s.done len).tlb = s.tlb := rfl
@[simp] theorem State.done_xinvBusy (len : Nat) : (s.done len).xinvBusy = s.xinvBusy := rfl
@[simp] theorem State.done_launches (len : Nat) : (s.done len).launches = s.launches := rfl
@[simp] theorem State.done_nextLid (len : Nat) : (s.done len).nextLid = s.nextLid := rfl
@[simp] theorem State.done_queues (len : Nat) : (s.done len).queues = s.queues := rfl
@[simp] theorem State.done_rr (len : Nat) : (s.done len).rr = s.rr := rfl
@[simp] theorem State.done_parts (len : Nat) : (s.done len).parts = s.parts := rfl
@[simp] theorem State.done_roots (len : Nat) : (s.done len).roots = s.roots := rfl
@[simp] theorem State.done_rounds (len : Nat) : (s.done len).rounds = s.rounds := rfl
@[simp] theorem State.done_counters (len : Nat) : (s.done len).counters = s.counters := rfl
@[simp] theorem State.done_firings (len : Nat) : (s.done len).firings = s.firings := rfl
@[simp] theorem State.done_firedAt (len : Nat) : (s.done len).firedAt = s.firedAt := rfl
@[simp] theorem State.done_saved (len : Nat) : (s.done len).saved = s.saved := rfl
@[simp] theorem State.done_aclost (len : Nat) : (s.done len).aclost = s.aclost := rfl
@[simp] theorem State.done_starv (len : Nat) : (s.done len).starv = s.starv := rfl
@[simp] theorem State.done_starvAt (len : Nat) : (s.done len).starvAt = s.starvAt := rfl
@[simp] theorem State.done_starvSeen (len : Nat) : (s.done len).starvSeen = s.starvSeen := rfl
@[simp] theorem State.done_lendStat (len : Nat) : (s.done len).lendStat = s.lendStat := rfl
@[simp] theorem State.done_lendBusy (len : Nat) : (s.done len).lendBusy = s.lendBusy := rfl
@[simp] theorem State.done_preempt (len : Nat) : (s.done len).preempt = s.preempt := rfl
@[simp] theorem State.done_distAt (len : Nat) : (s.done len).distAt = s.distAt := rfl
@[simp] theorem State.done_fj (len : Nat) : (s.done len).fj = s.fj := rfl
@[simp] theorem State.done_mcasts (len : Nat) : (s.done len).mcasts = s.mcasts := rfl
@[simp] theorem State.done_mgmt (len : Nat) : (s.done len).mgmt = s.mgmt := rfl
@[simp] theorem State.done_pkg (len : Nat) : (s.done len).pkg = s.pkg := rfl
@[simp] theorem State.done_pod (len : Nat) : (s.done len).pod = s.pod := rfl
@[simp] theorem State.done_toMgmt (len : Nat) : (s.done len).toMgmt = s.toMgmt := rfl
@[simp] theorem State.done_events (len : Nat) : (s.done len).events = s.events := rfl
@[simp] theorem State.done_cpl (len : Nat) : (s.done len).cpl = s.cpl := rfl
@[simp] theorem State.done_fjOut (len : Nat) : (s.done len).fjOut = s.fjOut := rfl

@[simp] theorem State.jump_now (w : Word) : (s.jump w).now = s.now := rfl
@[simp] theorem State.jump_next (w : Word) : (s.jump w).next = s.next := rfl
@[simp] theorem State.jump_ctr (w : Word) : (s.jump w).ctr = s.ctr := rfl
@[simp] theorem State.jump_curTile (w : Word) : (s.jump w).curTile = s.curTile := rfl
@[simp] theorem State.jump_curSlot (w : Word) : (s.jump w).curSlot = s.curSlot := rfl
@[simp] theorem State.jump_ev (w : Word) : (s.jump w).ev = s.ev := rfl
@[simp] theorem State.jump_inputs (w : Word) : (s.jump w).inputs = s.inputs := rfl
@[simp] theorem State.jump_pens (w : Word) : (s.jump w).pens = s.pens := rfl
@[simp] theorem State.jump_groups (w : Word) : (s.jump w).groups = s.groups := rfl
@[simp] theorem State.jump_dies (w : Word) : (s.jump w).dies = s.dies := rfl
@[simp] theorem State.jump_stks (w : Word) : (s.jump w).stks = s.stks := rfl
@[simp] theorem State.jump_mem (w : Word) : (s.jump w).mem = s.mem := rfl
@[simp] theorem State.jump_poison (w : Word) : (s.jump w).poison = s.poison := rfl
@[simp] theorem State.jump_flight (w : Word) : (s.jump w).flight = s.flight := rfl
@[simp] theorem State.jump_pairs (w : Word) : (s.jump w).pairs = s.pairs := rfl
@[simp] theorem State.jump_held (w : Word) : (s.jump w).held = s.held := rfl
@[simp] theorem State.jump_faults (w : Word) : (s.jump w).faults = s.faults := rfl
@[simp] theorem State.jump_fbGen (w : Word) : (s.jump w).fbGen = s.fbGen := rfl
@[simp] theorem State.jump_fbOvf (w : Word) : (s.jump w).fbOvf = s.fbOvf := rfl
@[simp] theorem State.jump_fbSvc (w : Word) : (s.jump w).fbSvc = s.fbSvc := rfl
@[simp] theorem State.jump_tlb (w : Word) : (s.jump w).tlb = s.tlb := rfl
@[simp] theorem State.jump_xinvBusy (w : Word) : (s.jump w).xinvBusy = s.xinvBusy := rfl
@[simp] theorem State.jump_launches (w : Word) : (s.jump w).launches = s.launches := rfl
@[simp] theorem State.jump_nextLid (w : Word) : (s.jump w).nextLid = s.nextLid := rfl
@[simp] theorem State.jump_queues (w : Word) : (s.jump w).queues = s.queues := rfl
@[simp] theorem State.jump_rr (w : Word) : (s.jump w).rr = s.rr := rfl
@[simp] theorem State.jump_parts (w : Word) : (s.jump w).parts = s.parts := rfl
@[simp] theorem State.jump_roots (w : Word) : (s.jump w).roots = s.roots := rfl
@[simp] theorem State.jump_rounds (w : Word) : (s.jump w).rounds = s.rounds := rfl
@[simp] theorem State.jump_counters (w : Word) : (s.jump w).counters = s.counters := rfl
@[simp] theorem State.jump_firings (w : Word) : (s.jump w).firings = s.firings := rfl
@[simp] theorem State.jump_firedAt (w : Word) : (s.jump w).firedAt = s.firedAt := rfl
@[simp] theorem State.jump_saved (w : Word) : (s.jump w).saved = s.saved := rfl
@[simp] theorem State.jump_aclost (w : Word) : (s.jump w).aclost = s.aclost := rfl
@[simp] theorem State.jump_starv (w : Word) : (s.jump w).starv = s.starv := rfl
@[simp] theorem State.jump_starvAt (w : Word) : (s.jump w).starvAt = s.starvAt := rfl
@[simp] theorem State.jump_starvSeen (w : Word) : (s.jump w).starvSeen = s.starvSeen := rfl
@[simp] theorem State.jump_lendStat (w : Word) : (s.jump w).lendStat = s.lendStat := rfl
@[simp] theorem State.jump_lendBusy (w : Word) : (s.jump w).lendBusy = s.lendBusy := rfl
@[simp] theorem State.jump_preempt (w : Word) : (s.jump w).preempt = s.preempt := rfl
@[simp] theorem State.jump_distAt (w : Word) : (s.jump w).distAt = s.distAt := rfl
@[simp] theorem State.jump_fj (w : Word) : (s.jump w).fj = s.fj := rfl
@[simp] theorem State.jump_mcasts (w : Word) : (s.jump w).mcasts = s.mcasts := rfl
@[simp] theorem State.jump_mgmt (w : Word) : (s.jump w).mgmt = s.mgmt := rfl
@[simp] theorem State.jump_pkg (w : Word) : (s.jump w).pkg = s.pkg := rfl
@[simp] theorem State.jump_pod (w : Word) : (s.jump w).pod = s.pod := rfl
@[simp] theorem State.jump_toMgmt (w : Word) : (s.jump w).toMgmt = s.toMgmt := rfl
@[simp] theorem State.jump_events (w : Word) : (s.jump w).events = s.events := rfl
@[simp] theorem State.jump_cpl (w : Word) : (s.jump w).cpl = s.cpl := rfl
@[simp] theorem State.jump_fjOut (w : Word) : (s.jump w).fjOut = s.fjOut := rfl

@[simp] theorem State.block_now (w : Wait) : (s.block w).now = s.now := rfl
@[simp] theorem State.block_next (w : Wait) : (s.block w).next = s.next := rfl
@[simp] theorem State.block_ctr (w : Wait) : (s.block w).ctr = s.ctr := rfl
@[simp] theorem State.block_curTile (w : Wait) : (s.block w).curTile = s.curTile := rfl
@[simp] theorem State.block_curSlot (w : Wait) : (s.block w).curSlot = s.curSlot := rfl
@[simp] theorem State.block_ev (w : Wait) : (s.block w).ev = s.ev := rfl
@[simp] theorem State.block_inputs (w : Wait) : (s.block w).inputs = s.inputs := rfl
@[simp] theorem State.block_pens (w : Wait) : (s.block w).pens = s.pens := rfl
@[simp] theorem State.block_groups (w : Wait) : (s.block w).groups = s.groups := rfl
@[simp] theorem State.block_dies (w : Wait) : (s.block w).dies = s.dies := rfl
@[simp] theorem State.block_stks (w : Wait) : (s.block w).stks = s.stks := rfl
@[simp] theorem State.block_mem (w : Wait) : (s.block w).mem = s.mem := rfl
@[simp] theorem State.block_poison (w : Wait) : (s.block w).poison = s.poison := rfl
@[simp] theorem State.block_flight (w : Wait) : (s.block w).flight = s.flight := rfl
@[simp] theorem State.block_pairs (w : Wait) : (s.block w).pairs = s.pairs := rfl
@[simp] theorem State.block_held (w : Wait) : (s.block w).held = s.held := rfl
@[simp] theorem State.block_faults (w : Wait) : (s.block w).faults = s.faults := rfl
@[simp] theorem State.block_fbGen (w : Wait) : (s.block w).fbGen = s.fbGen := rfl
@[simp] theorem State.block_fbOvf (w : Wait) : (s.block w).fbOvf = s.fbOvf := rfl
@[simp] theorem State.block_fbSvc (w : Wait) : (s.block w).fbSvc = s.fbSvc := rfl
@[simp] theorem State.block_tlb (w : Wait) : (s.block w).tlb = s.tlb := rfl
@[simp] theorem State.block_xinvBusy (w : Wait) : (s.block w).xinvBusy = s.xinvBusy := rfl
@[simp] theorem State.block_launches (w : Wait) : (s.block w).launches = s.launches := rfl
@[simp] theorem State.block_nextLid (w : Wait) : (s.block w).nextLid = s.nextLid := rfl
@[simp] theorem State.block_queues (w : Wait) : (s.block w).queues = s.queues := rfl
@[simp] theorem State.block_rr (w : Wait) : (s.block w).rr = s.rr := rfl
@[simp] theorem State.block_parts (w : Wait) : (s.block w).parts = s.parts := rfl
@[simp] theorem State.block_roots (w : Wait) : (s.block w).roots = s.roots := rfl
@[simp] theorem State.block_rounds (w : Wait) : (s.block w).rounds = s.rounds := rfl
@[simp] theorem State.block_counters (w : Wait) : (s.block w).counters = s.counters := rfl
@[simp] theorem State.block_firings (w : Wait) : (s.block w).firings = s.firings := rfl
@[simp] theorem State.block_firedAt (w : Wait) : (s.block w).firedAt = s.firedAt := rfl
@[simp] theorem State.block_saved (w : Wait) : (s.block w).saved = s.saved := rfl
@[simp] theorem State.block_aclost (w : Wait) : (s.block w).aclost = s.aclost := rfl
@[simp] theorem State.block_starv (w : Wait) : (s.block w).starv = s.starv := rfl
@[simp] theorem State.block_starvAt (w : Wait) : (s.block w).starvAt = s.starvAt := rfl
@[simp] theorem State.block_starvSeen (w : Wait) : (s.block w).starvSeen = s.starvSeen := rfl
@[simp] theorem State.block_lendStat (w : Wait) : (s.block w).lendStat = s.lendStat := rfl
@[simp] theorem State.block_lendBusy (w : Wait) : (s.block w).lendBusy = s.lendBusy := rfl
@[simp] theorem State.block_preempt (w : Wait) : (s.block w).preempt = s.preempt := rfl
@[simp] theorem State.block_distAt (w : Wait) : (s.block w).distAt = s.distAt := rfl
@[simp] theorem State.block_fj (w : Wait) : (s.block w).fj = s.fj := rfl
@[simp] theorem State.block_mcasts (w : Wait) : (s.block w).mcasts = s.mcasts := rfl
@[simp] theorem State.block_mgmt (w : Wait) : (s.block w).mgmt = s.mgmt := rfl
@[simp] theorem State.block_pkg (w : Wait) : (s.block w).pkg = s.pkg := rfl
@[simp] theorem State.block_pod (w : Wait) : (s.block w).pod = s.pod := rfl
@[simp] theorem State.block_toMgmt (w : Wait) : (s.block w).toMgmt = s.toMgmt := rfl
@[simp] theorem State.block_events (w : Wait) : (s.block w).events = s.events := rfl
@[simp] theorem State.block_cpl (w : Wait) : (s.block w).cpl = s.cpl := rfl
@[simp] theorem State.block_fjOut (w : Wait) : (s.block w).fjOut = s.fjOut := rfl

@[simp] theorem State.store_now (k n v : Nat) : (s.store k n v).now = s.now := rfl
@[simp] theorem State.store_next (k n v : Nat) : (s.store k n v).next = s.next := rfl
@[simp] theorem State.store_ctr (k n v : Nat) : (s.store k n v).ctr = s.ctr := rfl
@[simp] theorem State.store_curTile (k n v : Nat) : (s.store k n v).curTile = s.curTile := rfl
@[simp] theorem State.store_curSlot (k n v : Nat) : (s.store k n v).curSlot = s.curSlot := rfl
@[simp] theorem State.store_ev (k n v : Nat) : (s.store k n v).ev = s.ev := rfl
@[simp] theorem State.store_inputs (k n v : Nat) : (s.store k n v).inputs = s.inputs := rfl
@[simp] theorem State.store_tiles (k n v : Nat) : (s.store k n v).tiles = s.tiles := rfl
@[simp] theorem State.store_pens (k n v : Nat) : (s.store k n v).pens = s.pens := rfl
@[simp] theorem State.store_groups (k n v : Nat) : (s.store k n v).groups = s.groups := rfl
@[simp] theorem State.store_dies (k n v : Nat) : (s.store k n v).dies = s.dies := rfl
@[simp] theorem State.store_stks (k n v : Nat) : (s.store k n v).stks = s.stks := rfl
@[simp] theorem State.store_flight (k n v : Nat) : (s.store k n v).flight = s.flight := rfl
@[simp] theorem State.store_pairs (k n v : Nat) : (s.store k n v).pairs = s.pairs := rfl
@[simp] theorem State.store_held (k n v : Nat) : (s.store k n v).held = s.held := rfl
@[simp] theorem State.store_faults (k n v : Nat) : (s.store k n v).faults = s.faults := rfl
@[simp] theorem State.store_fbGen (k n v : Nat) : (s.store k n v).fbGen = s.fbGen := rfl
@[simp] theorem State.store_fbOvf (k n v : Nat) : (s.store k n v).fbOvf = s.fbOvf := rfl
@[simp] theorem State.store_fbSvc (k n v : Nat) : (s.store k n v).fbSvc = s.fbSvc := rfl
@[simp] theorem State.store_tlb (k n v : Nat) : (s.store k n v).tlb = s.tlb := rfl
@[simp] theorem State.store_xinvBusy (k n v : Nat) : (s.store k n v).xinvBusy = s.xinvBusy := rfl
@[simp] theorem State.store_launches (k n v : Nat) : (s.store k n v).launches = s.launches := rfl
@[simp] theorem State.store_nextLid (k n v : Nat) : (s.store k n v).nextLid = s.nextLid := rfl
@[simp] theorem State.store_queues (k n v : Nat) : (s.store k n v).queues = s.queues := rfl
@[simp] theorem State.store_rr (k n v : Nat) : (s.store k n v).rr = s.rr := rfl
@[simp] theorem State.store_parts (k n v : Nat) : (s.store k n v).parts = s.parts := rfl
@[simp] theorem State.store_roots (k n v : Nat) : (s.store k n v).roots = s.roots := rfl
@[simp] theorem State.store_rounds (k n v : Nat) : (s.store k n v).rounds = s.rounds := rfl
@[simp] theorem State.store_counters (k n v : Nat) : (s.store k n v).counters = s.counters := rfl
@[simp] theorem State.store_firings (k n v : Nat) : (s.store k n v).firings = s.firings := rfl
@[simp] theorem State.store_firedAt (k n v : Nat) : (s.store k n v).firedAt = s.firedAt := rfl
@[simp] theorem State.store_saved (k n v : Nat) : (s.store k n v).saved = s.saved := rfl
@[simp] theorem State.store_aclost (k n v : Nat) : (s.store k n v).aclost = s.aclost := rfl
@[simp] theorem State.store_starv (k n v : Nat) : (s.store k n v).starv = s.starv := rfl
@[simp] theorem State.store_starvAt (k n v : Nat) : (s.store k n v).starvAt = s.starvAt := rfl
@[simp] theorem State.store_starvSeen (k n v : Nat) : (s.store k n v).starvSeen = s.starvSeen := rfl
@[simp] theorem State.store_lendStat (k n v : Nat) : (s.store k n v).lendStat = s.lendStat := rfl
@[simp] theorem State.store_lendBusy (k n v : Nat) : (s.store k n v).lendBusy = s.lendBusy := rfl
@[simp] theorem State.store_preempt (k n v : Nat) : (s.store k n v).preempt = s.preempt := rfl
@[simp] theorem State.store_distAt (k n v : Nat) : (s.store k n v).distAt = s.distAt := rfl
@[simp] theorem State.store_fj (k n v : Nat) : (s.store k n v).fj = s.fj := rfl
@[simp] theorem State.store_mcasts (k n v : Nat) : (s.store k n v).mcasts = s.mcasts := rfl
@[simp] theorem State.store_mgmt (k n v : Nat) : (s.store k n v).mgmt = s.mgmt := rfl
@[simp] theorem State.store_pkg (k n v : Nat) : (s.store k n v).pkg = s.pkg := rfl
@[simp] theorem State.store_pod (k n v : Nat) : (s.store k n v).pod = s.pod := rfl
@[simp] theorem State.store_toMgmt (k n v : Nat) : (s.store k n v).toMgmt = s.toMgmt := rfl
@[simp] theorem State.store_events (k n v : Nat) : (s.store k n v).events = s.events := rfl
@[simp] theorem State.store_cpl (k n v : Nat) : (s.store k n v).cpl = s.cpl := rfl
@[simp] theorem State.store_fjOut (k n v : Nat) : (s.store k n v).fjOut = s.fjOut := rfl

@[simp] theorem State.zeroRange_now (k n : Nat) : (s.zeroRange k n).now = s.now := rfl
@[simp] theorem State.zeroRange_next (k n : Nat) : (s.zeroRange k n).next = s.next := rfl
@[simp] theorem State.zeroRange_ctr (k n : Nat) : (s.zeroRange k n).ctr = s.ctr := rfl
@[simp] theorem State.zeroRange_curTile (k n : Nat) : (s.zeroRange k n).curTile = s.curTile := rfl
@[simp] theorem State.zeroRange_curSlot (k n : Nat) : (s.zeroRange k n).curSlot = s.curSlot := rfl
@[simp] theorem State.zeroRange_ev (k n : Nat) : (s.zeroRange k n).ev = s.ev := rfl
@[simp] theorem State.zeroRange_inputs (k n : Nat) : (s.zeroRange k n).inputs = s.inputs := rfl
@[simp] theorem State.zeroRange_tiles (k n : Nat) : (s.zeroRange k n).tiles = s.tiles := rfl
@[simp] theorem State.zeroRange_pens (k n : Nat) : (s.zeroRange k n).pens = s.pens := rfl
@[simp] theorem State.zeroRange_groups (k n : Nat) : (s.zeroRange k n).groups = s.groups := rfl
@[simp] theorem State.zeroRange_dies (k n : Nat) : (s.zeroRange k n).dies = s.dies := rfl
@[simp] theorem State.zeroRange_stks (k n : Nat) : (s.zeroRange k n).stks = s.stks := rfl
@[simp] theorem State.zeroRange_flight (k n : Nat) : (s.zeroRange k n).flight = s.flight := rfl
@[simp] theorem State.zeroRange_pairs (k n : Nat) : (s.zeroRange k n).pairs = s.pairs := rfl
@[simp] theorem State.zeroRange_held (k n : Nat) : (s.zeroRange k n).held = s.held := rfl
@[simp] theorem State.zeroRange_faults (k n : Nat) : (s.zeroRange k n).faults = s.faults := rfl
@[simp] theorem State.zeroRange_fbGen (k n : Nat) : (s.zeroRange k n).fbGen = s.fbGen := rfl
@[simp] theorem State.zeroRange_fbOvf (k n : Nat) : (s.zeroRange k n).fbOvf = s.fbOvf := rfl
@[simp] theorem State.zeroRange_fbSvc (k n : Nat) : (s.zeroRange k n).fbSvc = s.fbSvc := rfl
@[simp] theorem State.zeroRange_tlb (k n : Nat) : (s.zeroRange k n).tlb = s.tlb := rfl
@[simp] theorem State.zeroRange_xinvBusy (k n : Nat) : (s.zeroRange k n).xinvBusy = s.xinvBusy := rfl
@[simp] theorem State.zeroRange_launches (k n : Nat) : (s.zeroRange k n).launches = s.launches := rfl
@[simp] theorem State.zeroRange_nextLid (k n : Nat) : (s.zeroRange k n).nextLid = s.nextLid := rfl
@[simp] theorem State.zeroRange_queues (k n : Nat) : (s.zeroRange k n).queues = s.queues := rfl
@[simp] theorem State.zeroRange_rr (k n : Nat) : (s.zeroRange k n).rr = s.rr := rfl
@[simp] theorem State.zeroRange_parts (k n : Nat) : (s.zeroRange k n).parts = s.parts := rfl
@[simp] theorem State.zeroRange_roots (k n : Nat) : (s.zeroRange k n).roots = s.roots := rfl
@[simp] theorem State.zeroRange_rounds (k n : Nat) : (s.zeroRange k n).rounds = s.rounds := rfl
@[simp] theorem State.zeroRange_counters (k n : Nat) : (s.zeroRange k n).counters = s.counters := rfl
@[simp] theorem State.zeroRange_firings (k n : Nat) : (s.zeroRange k n).firings = s.firings := rfl
@[simp] theorem State.zeroRange_firedAt (k n : Nat) : (s.zeroRange k n).firedAt = s.firedAt := rfl
@[simp] theorem State.zeroRange_saved (k n : Nat) : (s.zeroRange k n).saved = s.saved := rfl
@[simp] theorem State.zeroRange_aclost (k n : Nat) : (s.zeroRange k n).aclost = s.aclost := rfl
@[simp] theorem State.zeroRange_starv (k n : Nat) : (s.zeroRange k n).starv = s.starv := rfl
@[simp] theorem State.zeroRange_starvAt (k n : Nat) : (s.zeroRange k n).starvAt = s.starvAt := rfl
@[simp] theorem State.zeroRange_starvSeen (k n : Nat) : (s.zeroRange k n).starvSeen = s.starvSeen := rfl
@[simp] theorem State.zeroRange_lendStat (k n : Nat) : (s.zeroRange k n).lendStat = s.lendStat := rfl
@[simp] theorem State.zeroRange_lendBusy (k n : Nat) : (s.zeroRange k n).lendBusy = s.lendBusy := rfl
@[simp] theorem State.zeroRange_preempt (k n : Nat) : (s.zeroRange k n).preempt = s.preempt := rfl
@[simp] theorem State.zeroRange_distAt (k n : Nat) : (s.zeroRange k n).distAt = s.distAt := rfl
@[simp] theorem State.zeroRange_fj (k n : Nat) : (s.zeroRange k n).fj = s.fj := rfl
@[simp] theorem State.zeroRange_mcasts (k n : Nat) : (s.zeroRange k n).mcasts = s.mcasts := rfl
@[simp] theorem State.zeroRange_mgmt (k n : Nat) : (s.zeroRange k n).mgmt = s.mgmt := rfl
@[simp] theorem State.zeroRange_pkg (k n : Nat) : (s.zeroRange k n).pkg = s.pkg := rfl
@[simp] theorem State.zeroRange_pod (k n : Nat) : (s.zeroRange k n).pod = s.pod := rfl
@[simp] theorem State.zeroRange_toMgmt (k n : Nat) : (s.zeroRange k n).toMgmt = s.toMgmt := rfl
@[simp] theorem State.zeroRange_events (k n : Nat) : (s.zeroRange k n).events = s.events := rfl
@[simp] theorem State.zeroRange_cpl (k n : Nat) : (s.zeroRange k n).cpl = s.cpl := rfl
@[simp] theorem State.zeroRange_fjOut (k n : Nat) : (s.zeroRange k n).fjOut = s.fjOut := rfl

@[simp] theorem State.land_now (p k i o n : Nat) : (s.land p k i o n).now = s.now := rfl
@[simp] theorem State.land_next (p k i o n : Nat) : (s.land p k i o n).next = s.next := rfl
@[simp] theorem State.land_ctr (p k i o n : Nat) : (s.land p k i o n).ctr = s.ctr := rfl
@[simp] theorem State.land_curTile (p k i o n : Nat) : (s.land p k i o n).curTile = s.curTile := rfl
@[simp] theorem State.land_curSlot (p k i o n : Nat) : (s.land p k i o n).curSlot = s.curSlot := rfl
@[simp] theorem State.land_ev (p k i o n : Nat) : (s.land p k i o n).ev = s.ev := rfl
@[simp] theorem State.land_inputs (p k i o n : Nat) : (s.land p k i o n).inputs = s.inputs := rfl
@[simp] theorem State.land_tiles (p k i o n : Nat) : (s.land p k i o n).tiles = s.tiles := rfl
@[simp] theorem State.land_pens (p k i o n : Nat) : (s.land p k i o n).pens = s.pens := rfl
@[simp] theorem State.land_groups (p k i o n : Nat) : (s.land p k i o n).groups = s.groups := rfl
@[simp] theorem State.land_dies (p k i o n : Nat) : (s.land p k i o n).dies = s.dies := rfl
@[simp] theorem State.land_stks (p k i o n : Nat) : (s.land p k i o n).stks = s.stks := rfl
@[simp] theorem State.land_mem (p k i o n : Nat) : (s.land p k i o n).mem = s.mem := rfl
@[simp] theorem State.land_poison (p k i o n : Nat) : (s.land p k i o n).poison = s.poison := rfl
@[simp] theorem State.land_flight (p k i o n : Nat) : (s.land p k i o n).flight = s.flight := rfl
@[simp] theorem State.land_pairs (p k i o n : Nat) : (s.land p k i o n).pairs = s.pairs := rfl
@[simp] theorem State.land_held (p k i o n : Nat) : (s.land p k i o n).held = s.held := rfl
@[simp] theorem State.land_faults (p k i o n : Nat) : (s.land p k i o n).faults = s.faults := rfl
@[simp] theorem State.land_fbGen (p k i o n : Nat) : (s.land p k i o n).fbGen = s.fbGen := rfl
@[simp] theorem State.land_fbOvf (p k i o n : Nat) : (s.land p k i o n).fbOvf = s.fbOvf := rfl
@[simp] theorem State.land_fbSvc (p k i o n : Nat) : (s.land p k i o n).fbSvc = s.fbSvc := rfl
@[simp] theorem State.land_tlb (p k i o n : Nat) : (s.land p k i o n).tlb = s.tlb := rfl
@[simp] theorem State.land_xinvBusy (p k i o n : Nat) : (s.land p k i o n).xinvBusy = s.xinvBusy := rfl
@[simp] theorem State.land_launches (p k i o n : Nat) : (s.land p k i o n).launches = s.launches := rfl
@[simp] theorem State.land_nextLid (p k i o n : Nat) : (s.land p k i o n).nextLid = s.nextLid := rfl
@[simp] theorem State.land_queues (p k i o n : Nat) : (s.land p k i o n).queues = s.queues := rfl
@[simp] theorem State.land_rr (p k i o n : Nat) : (s.land p k i o n).rr = s.rr := rfl
@[simp] theorem State.land_parts (p k i o n : Nat) : (s.land p k i o n).parts = s.parts := rfl
@[simp] theorem State.land_roots (p k i o n : Nat) : (s.land p k i o n).roots = s.roots := rfl
@[simp] theorem State.land_rounds (p k i o n : Nat) : (s.land p k i o n).rounds = s.rounds := rfl
@[simp] theorem State.land_firings (p k i o n : Nat) : (s.land p k i o n).firings = s.firings := rfl
@[simp] theorem State.land_firedAt (p k i o n : Nat) : (s.land p k i o n).firedAt = s.firedAt := rfl
@[simp] theorem State.land_saved (p k i o n : Nat) : (s.land p k i o n).saved = s.saved := rfl
@[simp] theorem State.land_aclost (p k i o n : Nat) : (s.land p k i o n).aclost = s.aclost := rfl
@[simp] theorem State.land_starv (p k i o n : Nat) : (s.land p k i o n).starv = s.starv := rfl
@[simp] theorem State.land_starvAt (p k i o n : Nat) : (s.land p k i o n).starvAt = s.starvAt := rfl
@[simp] theorem State.land_starvSeen (p k i o n : Nat) : (s.land p k i o n).starvSeen = s.starvSeen := rfl
@[simp] theorem State.land_lendStat (p k i o n : Nat) : (s.land p k i o n).lendStat = s.lendStat := rfl
@[simp] theorem State.land_lendBusy (p k i o n : Nat) : (s.land p k i o n).lendBusy = s.lendBusy := rfl
@[simp] theorem State.land_preempt (p k i o n : Nat) : (s.land p k i o n).preempt = s.preempt := rfl
@[simp] theorem State.land_distAt (p k i o n : Nat) : (s.land p k i o n).distAt = s.distAt := rfl
@[simp] theorem State.land_fj (p k i o n : Nat) : (s.land p k i o n).fj = s.fj := rfl
@[simp] theorem State.land_mcasts (p k i o n : Nat) : (s.land p k i o n).mcasts = s.mcasts := rfl
@[simp] theorem State.land_mgmt (p k i o n : Nat) : (s.land p k i o n).mgmt = s.mgmt := rfl
@[simp] theorem State.land_pkg (p k i o n : Nat) : (s.land p k i o n).pkg = s.pkg := rfl
@[simp] theorem State.land_pod (p k i o n : Nat) : (s.land p k i o n).pod = s.pod := rfl
@[simp] theorem State.land_toMgmt (p k i o n : Nat) : (s.land p k i o n).toMgmt = s.toMgmt := rfl
@[simp] theorem State.land_events (p k i o n : Nat) : (s.land p k i o n).events = s.events := rfl
@[simp] theorem State.land_cpl (p k i o n : Nat) : (s.land p k i o n).cpl = s.cpl := rfl
@[simp] theorem State.land_fjOut (p k i o n : Nat) : (s.land p k i o n).fjOut = s.fjOut := rfl

@[simp] theorem State.send_now (m : Nat) (g : Msg) : (s.send m g).now = s.now := rfl
@[simp] theorem State.send_curTile (m : Nat) (g : Msg) : (s.send m g).curTile = s.curTile := rfl
@[simp] theorem State.send_curSlot (m : Nat) (g : Msg) : (s.send m g).curSlot = s.curSlot := rfl
@[simp] theorem State.send_ev (m : Nat) (g : Msg) : (s.send m g).ev = s.ev := rfl
@[simp] theorem State.send_inputs (m : Nat) (g : Msg) : (s.send m g).inputs = s.inputs := rfl
@[simp] theorem State.send_tiles (m : Nat) (g : Msg) : (s.send m g).tiles = s.tiles := rfl
@[simp] theorem State.send_pens (m : Nat) (g : Msg) : (s.send m g).pens = s.pens := rfl
@[simp] theorem State.send_groups (m : Nat) (g : Msg) : (s.send m g).groups = s.groups := rfl
@[simp] theorem State.send_dies (m : Nat) (g : Msg) : (s.send m g).dies = s.dies := rfl
@[simp] theorem State.send_stks (m : Nat) (g : Msg) : (s.send m g).stks = s.stks := rfl
@[simp] theorem State.send_mem (m : Nat) (g : Msg) : (s.send m g).mem = s.mem := rfl
@[simp] theorem State.send_poison (m : Nat) (g : Msg) : (s.send m g).poison = s.poison := rfl
@[simp] theorem State.send_pairs (m : Nat) (g : Msg) : (s.send m g).pairs = s.pairs := rfl
@[simp] theorem State.send_held (m : Nat) (g : Msg) : (s.send m g).held = s.held := rfl
@[simp] theorem State.send_faults (m : Nat) (g : Msg) : (s.send m g).faults = s.faults := rfl
@[simp] theorem State.send_fbGen (m : Nat) (g : Msg) : (s.send m g).fbGen = s.fbGen := rfl
@[simp] theorem State.send_fbOvf (m : Nat) (g : Msg) : (s.send m g).fbOvf = s.fbOvf := rfl
@[simp] theorem State.send_fbSvc (m : Nat) (g : Msg) : (s.send m g).fbSvc = s.fbSvc := rfl
@[simp] theorem State.send_tlb (m : Nat) (g : Msg) : (s.send m g).tlb = s.tlb := rfl
@[simp] theorem State.send_xinvBusy (m : Nat) (g : Msg) : (s.send m g).xinvBusy = s.xinvBusy := rfl
@[simp] theorem State.send_launches (m : Nat) (g : Msg) : (s.send m g).launches = s.launches := rfl
@[simp] theorem State.send_nextLid (m : Nat) (g : Msg) : (s.send m g).nextLid = s.nextLid := rfl
@[simp] theorem State.send_queues (m : Nat) (g : Msg) : (s.send m g).queues = s.queues := rfl
@[simp] theorem State.send_rr (m : Nat) (g : Msg) : (s.send m g).rr = s.rr := rfl
@[simp] theorem State.send_parts (m : Nat) (g : Msg) : (s.send m g).parts = s.parts := rfl
@[simp] theorem State.send_roots (m : Nat) (g : Msg) : (s.send m g).roots = s.roots := rfl
@[simp] theorem State.send_rounds (m : Nat) (g : Msg) : (s.send m g).rounds = s.rounds := rfl
@[simp] theorem State.send_counters (m : Nat) (g : Msg) : (s.send m g).counters = s.counters := rfl
@[simp] theorem State.send_firings (m : Nat) (g : Msg) : (s.send m g).firings = s.firings := rfl
@[simp] theorem State.send_firedAt (m : Nat) (g : Msg) : (s.send m g).firedAt = s.firedAt := rfl
@[simp] theorem State.send_saved (m : Nat) (g : Msg) : (s.send m g).saved = s.saved := rfl
@[simp] theorem State.send_aclost (m : Nat) (g : Msg) : (s.send m g).aclost = s.aclost := rfl
@[simp] theorem State.send_starv (m : Nat) (g : Msg) : (s.send m g).starv = s.starv := rfl
@[simp] theorem State.send_starvAt (m : Nat) (g : Msg) : (s.send m g).starvAt = s.starvAt := rfl
@[simp] theorem State.send_starvSeen (m : Nat) (g : Msg) : (s.send m g).starvSeen = s.starvSeen := rfl
@[simp] theorem State.send_lendStat (m : Nat) (g : Msg) : (s.send m g).lendStat = s.lendStat := rfl
@[simp] theorem State.send_lendBusy (m : Nat) (g : Msg) : (s.send m g).lendBusy = s.lendBusy := rfl
@[simp] theorem State.send_preempt (m : Nat) (g : Msg) : (s.send m g).preempt = s.preempt := rfl
@[simp] theorem State.send_distAt (m : Nat) (g : Msg) : (s.send m g).distAt = s.distAt := rfl
@[simp] theorem State.send_fj (m : Nat) (g : Msg) : (s.send m g).fj = s.fj := rfl
@[simp] theorem State.send_mcasts (m : Nat) (g : Msg) : (s.send m g).mcasts = s.mcasts := rfl
@[simp] theorem State.send_mgmt (m : Nat) (g : Msg) : (s.send m g).mgmt = s.mgmt := rfl
@[simp] theorem State.send_pkg (m : Nat) (g : Msg) : (s.send m g).pkg = s.pkg := rfl
@[simp] theorem State.send_pod (m : Nat) (g : Msg) : (s.send m g).pod = s.pod := rfl
@[simp] theorem State.send_toMgmt (m : Nat) (g : Msg) : (s.send m g).toMgmt = s.toMgmt := rfl
@[simp] theorem State.send_events (m : Nat) (g : Msg) : (s.send m g).events = s.events := rfl
@[simp] theorem State.send_cpl (m : Nat) (g : Msg) : (s.send m g).cpl = s.cpl := rfl
@[simp] theorem State.send_fjOut (m : Nat) (g : Msg) : (s.send m g).fjOut = s.fjOut := rfl

@[simp] theorem State.sendWithin_now (m : Nat) (g : Msg) : (s.sendWithin m g).now = s.now := rfl
@[simp] theorem State.sendWithin_curTile (m : Nat) (g : Msg) : (s.sendWithin m g).curTile = s.curTile := rfl
@[simp] theorem State.sendWithin_curSlot (m : Nat) (g : Msg) : (s.sendWithin m g).curSlot = s.curSlot := rfl
@[simp] theorem State.sendWithin_ev (m : Nat) (g : Msg) : (s.sendWithin m g).ev = s.ev := rfl
@[simp] theorem State.sendWithin_inputs (m : Nat) (g : Msg) : (s.sendWithin m g).inputs = s.inputs := rfl
@[simp] theorem State.sendWithin_tiles (m : Nat) (g : Msg) : (s.sendWithin m g).tiles = s.tiles := rfl
@[simp] theorem State.sendWithin_pens (m : Nat) (g : Msg) : (s.sendWithin m g).pens = s.pens := rfl
@[simp] theorem State.sendWithin_groups (m : Nat) (g : Msg) : (s.sendWithin m g).groups = s.groups := rfl
@[simp] theorem State.sendWithin_dies (m : Nat) (g : Msg) : (s.sendWithin m g).dies = s.dies := rfl
@[simp] theorem State.sendWithin_stks (m : Nat) (g : Msg) : (s.sendWithin m g).stks = s.stks := rfl
@[simp] theorem State.sendWithin_mem (m : Nat) (g : Msg) : (s.sendWithin m g).mem = s.mem := rfl
@[simp] theorem State.sendWithin_poison (m : Nat) (g : Msg) : (s.sendWithin m g).poison = s.poison := rfl
@[simp] theorem State.sendWithin_pairs (m : Nat) (g : Msg) : (s.sendWithin m g).pairs = s.pairs := rfl
@[simp] theorem State.sendWithin_held (m : Nat) (g : Msg) : (s.sendWithin m g).held = s.held := rfl
@[simp] theorem State.sendWithin_faults (m : Nat) (g : Msg) : (s.sendWithin m g).faults = s.faults := rfl
@[simp] theorem State.sendWithin_fbGen (m : Nat) (g : Msg) : (s.sendWithin m g).fbGen = s.fbGen := rfl
@[simp] theorem State.sendWithin_fbOvf (m : Nat) (g : Msg) : (s.sendWithin m g).fbOvf = s.fbOvf := rfl
@[simp] theorem State.sendWithin_fbSvc (m : Nat) (g : Msg) : (s.sendWithin m g).fbSvc = s.fbSvc := rfl
@[simp] theorem State.sendWithin_tlb (m : Nat) (g : Msg) : (s.sendWithin m g).tlb = s.tlb := rfl
@[simp] theorem State.sendWithin_xinvBusy (m : Nat) (g : Msg) : (s.sendWithin m g).xinvBusy = s.xinvBusy := rfl
@[simp] theorem State.sendWithin_launches (m : Nat) (g : Msg) : (s.sendWithin m g).launches = s.launches := rfl
@[simp] theorem State.sendWithin_nextLid (m : Nat) (g : Msg) : (s.sendWithin m g).nextLid = s.nextLid := rfl
@[simp] theorem State.sendWithin_queues (m : Nat) (g : Msg) : (s.sendWithin m g).queues = s.queues := rfl
@[simp] theorem State.sendWithin_rr (m : Nat) (g : Msg) : (s.sendWithin m g).rr = s.rr := rfl
@[simp] theorem State.sendWithin_parts (m : Nat) (g : Msg) : (s.sendWithin m g).parts = s.parts := rfl
@[simp] theorem State.sendWithin_roots (m : Nat) (g : Msg) : (s.sendWithin m g).roots = s.roots := rfl
@[simp] theorem State.sendWithin_rounds (m : Nat) (g : Msg) : (s.sendWithin m g).rounds = s.rounds := rfl
@[simp] theorem State.sendWithin_counters (m : Nat) (g : Msg) : (s.sendWithin m g).counters = s.counters := rfl
@[simp] theorem State.sendWithin_firings (m : Nat) (g : Msg) : (s.sendWithin m g).firings = s.firings := rfl
@[simp] theorem State.sendWithin_firedAt (m : Nat) (g : Msg) : (s.sendWithin m g).firedAt = s.firedAt := rfl
@[simp] theorem State.sendWithin_saved (m : Nat) (g : Msg) : (s.sendWithin m g).saved = s.saved := rfl
@[simp] theorem State.sendWithin_aclost (m : Nat) (g : Msg) : (s.sendWithin m g).aclost = s.aclost := rfl
@[simp] theorem State.sendWithin_starv (m : Nat) (g : Msg) : (s.sendWithin m g).starv = s.starv := rfl
@[simp] theorem State.sendWithin_starvAt (m : Nat) (g : Msg) : (s.sendWithin m g).starvAt = s.starvAt := rfl
@[simp] theorem State.sendWithin_starvSeen (m : Nat) (g : Msg) : (s.sendWithin m g).starvSeen = s.starvSeen := rfl
@[simp] theorem State.sendWithin_lendStat (m : Nat) (g : Msg) : (s.sendWithin m g).lendStat = s.lendStat := rfl
@[simp] theorem State.sendWithin_lendBusy (m : Nat) (g : Msg) : (s.sendWithin m g).lendBusy = s.lendBusy := rfl
@[simp] theorem State.sendWithin_preempt (m : Nat) (g : Msg) : (s.sendWithin m g).preempt = s.preempt := rfl
@[simp] theorem State.sendWithin_distAt (m : Nat) (g : Msg) : (s.sendWithin m g).distAt = s.distAt := rfl
@[simp] theorem State.sendWithin_fj (m : Nat) (g : Msg) : (s.sendWithin m g).fj = s.fj := rfl
@[simp] theorem State.sendWithin_mcasts (m : Nat) (g : Msg) : (s.sendWithin m g).mcasts = s.mcasts := rfl
@[simp] theorem State.sendWithin_mgmt (m : Nat) (g : Msg) : (s.sendWithin m g).mgmt = s.mgmt := rfl
@[simp] theorem State.sendWithin_pkg (m : Nat) (g : Msg) : (s.sendWithin m g).pkg = s.pkg := rfl
@[simp] theorem State.sendWithin_pod (m : Nat) (g : Msg) : (s.sendWithin m g).pod = s.pod := rfl
@[simp] theorem State.sendWithin_toMgmt (m : Nat) (g : Msg) : (s.sendWithin m g).toMgmt = s.toMgmt := rfl
@[simp] theorem State.sendWithin_events (m : Nat) (g : Msg) : (s.sendWithin m g).events = s.events := rfl
@[simp] theorem State.sendWithin_cpl (m : Nat) (g : Msg) : (s.sendWithin m g).cpl = s.cpl := rfl
@[simp] theorem State.sendWithin_fjOut (m : Nat) (g : Msg) : (s.sendWithin m g).fjOut = s.fjOut := rfl

@[simp] theorem State.logErr_now (k a : Nat) : (s.logErr k a).now = s.now := rfl
@[simp] theorem State.logErr_next (k a : Nat) : (s.logErr k a).next = s.next := rfl
@[simp] theorem State.logErr_ctr (k a : Nat) : (s.logErr k a).ctr = s.ctr := rfl
@[simp] theorem State.logErr_curTile (k a : Nat) : (s.logErr k a).curTile = s.curTile := rfl
@[simp] theorem State.logErr_curSlot (k a : Nat) : (s.logErr k a).curSlot = s.curSlot := rfl
@[simp] theorem State.logErr_ev (k a : Nat) : (s.logErr k a).ev = s.ev := rfl
@[simp] theorem State.logErr_inputs (k a : Nat) : (s.logErr k a).inputs = s.inputs := rfl
@[simp] theorem State.logErr_tiles (k a : Nat) : (s.logErr k a).tiles = s.tiles := rfl
@[simp] theorem State.logErr_pens (k a : Nat) : (s.logErr k a).pens = s.pens := rfl
@[simp] theorem State.logErr_groups (k a : Nat) : (s.logErr k a).groups = s.groups := rfl
@[simp] theorem State.logErr_dies (k a : Nat) : (s.logErr k a).dies = s.dies := rfl
@[simp] theorem State.logErr_stks (k a : Nat) : (s.logErr k a).stks = s.stks := rfl
@[simp] theorem State.logErr_mem (k a : Nat) : (s.logErr k a).mem = s.mem := rfl
@[simp] theorem State.logErr_poison (k a : Nat) : (s.logErr k a).poison = s.poison := rfl
@[simp] theorem State.logErr_flight (k a : Nat) : (s.logErr k a).flight = s.flight := rfl
@[simp] theorem State.logErr_pairs (k a : Nat) : (s.logErr k a).pairs = s.pairs := rfl
@[simp] theorem State.logErr_held (k a : Nat) : (s.logErr k a).held = s.held := rfl
@[simp] theorem State.logErr_faults (k a : Nat) : (s.logErr k a).faults = s.faults := rfl
@[simp] theorem State.logErr_fbGen (k a : Nat) : (s.logErr k a).fbGen = s.fbGen := rfl
@[simp] theorem State.logErr_fbOvf (k a : Nat) : (s.logErr k a).fbOvf = s.fbOvf := rfl
@[simp] theorem State.logErr_fbSvc (k a : Nat) : (s.logErr k a).fbSvc = s.fbSvc := rfl
@[simp] theorem State.logErr_tlb (k a : Nat) : (s.logErr k a).tlb = s.tlb := rfl
@[simp] theorem State.logErr_xinvBusy (k a : Nat) : (s.logErr k a).xinvBusy = s.xinvBusy := rfl
@[simp] theorem State.logErr_launches (k a : Nat) : (s.logErr k a).launches = s.launches := rfl
@[simp] theorem State.logErr_nextLid (k a : Nat) : (s.logErr k a).nextLid = s.nextLid := rfl
@[simp] theorem State.logErr_queues (k a : Nat) : (s.logErr k a).queues = s.queues := rfl
@[simp] theorem State.logErr_rr (k a : Nat) : (s.logErr k a).rr = s.rr := rfl
@[simp] theorem State.logErr_parts (k a : Nat) : (s.logErr k a).parts = s.parts := rfl
@[simp] theorem State.logErr_roots (k a : Nat) : (s.logErr k a).roots = s.roots := rfl
@[simp] theorem State.logErr_rounds (k a : Nat) : (s.logErr k a).rounds = s.rounds := rfl
@[simp] theorem State.logErr_counters (k a : Nat) : (s.logErr k a).counters = s.counters := rfl
@[simp] theorem State.logErr_firings (k a : Nat) : (s.logErr k a).firings = s.firings := rfl
@[simp] theorem State.logErr_firedAt (k a : Nat) : (s.logErr k a).firedAt = s.firedAt := rfl
@[simp] theorem State.logErr_saved (k a : Nat) : (s.logErr k a).saved = s.saved := rfl
@[simp] theorem State.logErr_aclost (k a : Nat) : (s.logErr k a).aclost = s.aclost := rfl
@[simp] theorem State.logErr_starv (k a : Nat) : (s.logErr k a).starv = s.starv := rfl
@[simp] theorem State.logErr_starvAt (k a : Nat) : (s.logErr k a).starvAt = s.starvAt := rfl
@[simp] theorem State.logErr_starvSeen (k a : Nat) : (s.logErr k a).starvSeen = s.starvSeen := rfl
@[simp] theorem State.logErr_lendStat (k a : Nat) : (s.logErr k a).lendStat = s.lendStat := rfl
@[simp] theorem State.logErr_lendBusy (k a : Nat) : (s.logErr k a).lendBusy = s.lendBusy := rfl
@[simp] theorem State.logErr_preempt (k a : Nat) : (s.logErr k a).preempt = s.preempt := rfl
@[simp] theorem State.logErr_distAt (k a : Nat) : (s.logErr k a).distAt = s.distAt := rfl
@[simp] theorem State.logErr_fj (k a : Nat) : (s.logErr k a).fj = s.fj := rfl
@[simp] theorem State.logErr_mcasts (k a : Nat) : (s.logErr k a).mcasts = s.mcasts := rfl
@[simp] theorem State.logErr_pkg (k a : Nat) : (s.logErr k a).pkg = s.pkg := rfl
@[simp] theorem State.logErr_pod (k a : Nat) : (s.logErr k a).pod = s.pod := rfl
@[simp] theorem State.logErr_toMgmt (k a : Nat) : (s.logErr k a).toMgmt = s.toMgmt := rfl
@[simp] theorem State.logErr_events (k a : Nat) : (s.logErr k a).events = s.events := rfl
@[simp] theorem State.logErr_cpl (k a : Nat) : (s.logErr k a).cpl = s.cpl := rfl
@[simp] theorem State.logErr_fjOut (k a : Nat) : (s.logErr k a).fjOut = s.fjOut := rfl

@[simp] theorem State.forgetErrs_now (f : Nat → Bool) : (s.forgetErrs f).now = s.now := rfl
@[simp] theorem State.forgetErrs_next (f : Nat → Bool) : (s.forgetErrs f).next = s.next := rfl
@[simp] theorem State.forgetErrs_ctr (f : Nat → Bool) : (s.forgetErrs f).ctr = s.ctr := rfl
@[simp] theorem State.forgetErrs_curTile (f : Nat → Bool) : (s.forgetErrs f).curTile = s.curTile := rfl
@[simp] theorem State.forgetErrs_curSlot (f : Nat → Bool) : (s.forgetErrs f).curSlot = s.curSlot := rfl
@[simp] theorem State.forgetErrs_ev (f : Nat → Bool) : (s.forgetErrs f).ev = s.ev := rfl
@[simp] theorem State.forgetErrs_inputs (f : Nat → Bool) : (s.forgetErrs f).inputs = s.inputs := rfl
@[simp] theorem State.forgetErrs_tiles (f : Nat → Bool) : (s.forgetErrs f).tiles = s.tiles := rfl
@[simp] theorem State.forgetErrs_pens (f : Nat → Bool) : (s.forgetErrs f).pens = s.pens := rfl
@[simp] theorem State.forgetErrs_groups (f : Nat → Bool) : (s.forgetErrs f).groups = s.groups := rfl
@[simp] theorem State.forgetErrs_dies (f : Nat → Bool) : (s.forgetErrs f).dies = s.dies := rfl
@[simp] theorem State.forgetErrs_stks (f : Nat → Bool) : (s.forgetErrs f).stks = s.stks := rfl
@[simp] theorem State.forgetErrs_mem (f : Nat → Bool) : (s.forgetErrs f).mem = s.mem := rfl
@[simp] theorem State.forgetErrs_poison (f : Nat → Bool) : (s.forgetErrs f).poison = s.poison := rfl
@[simp] theorem State.forgetErrs_flight (f : Nat → Bool) : (s.forgetErrs f).flight = s.flight := rfl
@[simp] theorem State.forgetErrs_pairs (f : Nat → Bool) : (s.forgetErrs f).pairs = s.pairs := rfl
@[simp] theorem State.forgetErrs_held (f : Nat → Bool) : (s.forgetErrs f).held = s.held := rfl
@[simp] theorem State.forgetErrs_faults (f : Nat → Bool) : (s.forgetErrs f).faults = s.faults := rfl
@[simp] theorem State.forgetErrs_fbGen (f : Nat → Bool) : (s.forgetErrs f).fbGen = s.fbGen := rfl
@[simp] theorem State.forgetErrs_fbOvf (f : Nat → Bool) : (s.forgetErrs f).fbOvf = s.fbOvf := rfl
@[simp] theorem State.forgetErrs_fbSvc (f : Nat → Bool) : (s.forgetErrs f).fbSvc = s.fbSvc := rfl
@[simp] theorem State.forgetErrs_tlb (f : Nat → Bool) : (s.forgetErrs f).tlb = s.tlb := rfl
@[simp] theorem State.forgetErrs_xinvBusy (f : Nat → Bool) : (s.forgetErrs f).xinvBusy = s.xinvBusy := rfl
@[simp] theorem State.forgetErrs_launches (f : Nat → Bool) : (s.forgetErrs f).launches = s.launches := rfl
@[simp] theorem State.forgetErrs_nextLid (f : Nat → Bool) : (s.forgetErrs f).nextLid = s.nextLid := rfl
@[simp] theorem State.forgetErrs_queues (f : Nat → Bool) : (s.forgetErrs f).queues = s.queues := rfl
@[simp] theorem State.forgetErrs_rr (f : Nat → Bool) : (s.forgetErrs f).rr = s.rr := rfl
@[simp] theorem State.forgetErrs_parts (f : Nat → Bool) : (s.forgetErrs f).parts = s.parts := rfl
@[simp] theorem State.forgetErrs_roots (f : Nat → Bool) : (s.forgetErrs f).roots = s.roots := rfl
@[simp] theorem State.forgetErrs_rounds (f : Nat → Bool) : (s.forgetErrs f).rounds = s.rounds := rfl
@[simp] theorem State.forgetErrs_counters (f : Nat → Bool) : (s.forgetErrs f).counters = s.counters := rfl
@[simp] theorem State.forgetErrs_firings (f : Nat → Bool) : (s.forgetErrs f).firings = s.firings := rfl
@[simp] theorem State.forgetErrs_firedAt (f : Nat → Bool) : (s.forgetErrs f).firedAt = s.firedAt := rfl
@[simp] theorem State.forgetErrs_saved (f : Nat → Bool) : (s.forgetErrs f).saved = s.saved := rfl
@[simp] theorem State.forgetErrs_aclost (f : Nat → Bool) : (s.forgetErrs f).aclost = s.aclost := rfl
@[simp] theorem State.forgetErrs_starv (f : Nat → Bool) : (s.forgetErrs f).starv = s.starv := rfl
@[simp] theorem State.forgetErrs_starvAt (f : Nat → Bool) : (s.forgetErrs f).starvAt = s.starvAt := rfl
@[simp] theorem State.forgetErrs_starvSeen (f : Nat → Bool) : (s.forgetErrs f).starvSeen = s.starvSeen := rfl
@[simp] theorem State.forgetErrs_lendStat (f : Nat → Bool) : (s.forgetErrs f).lendStat = s.lendStat := rfl
@[simp] theorem State.forgetErrs_lendBusy (f : Nat → Bool) : (s.forgetErrs f).lendBusy = s.lendBusy := rfl
@[simp] theorem State.forgetErrs_preempt (f : Nat → Bool) : (s.forgetErrs f).preempt = s.preempt := rfl
@[simp] theorem State.forgetErrs_distAt (f : Nat → Bool) : (s.forgetErrs f).distAt = s.distAt := rfl
@[simp] theorem State.forgetErrs_fj (f : Nat → Bool) : (s.forgetErrs f).fj = s.fj := rfl
@[simp] theorem State.forgetErrs_mcasts (f : Nat → Bool) : (s.forgetErrs f).mcasts = s.mcasts := rfl
@[simp] theorem State.forgetErrs_pkg (f : Nat → Bool) : (s.forgetErrs f).pkg = s.pkg := rfl
@[simp] theorem State.forgetErrs_pod (f : Nat → Bool) : (s.forgetErrs f).pod = s.pod := rfl
@[simp] theorem State.forgetErrs_toMgmt (f : Nat → Bool) : (s.forgetErrs f).toMgmt = s.toMgmt := rfl
@[simp] theorem State.forgetErrs_events (f : Nat → Bool) : (s.forgetErrs f).events = s.events := rfl
@[simp] theorem State.forgetErrs_cpl (f : Nat → Bool) : (s.forgetErrs f).cpl = s.cpl := rfl
@[simp] theorem State.forgetErrs_fjOut (f : Nat → Bool) : (s.forgetErrs f).fjOut = s.fjOut := rfl

@[simp] theorem State.sendAt_now (m : Nat) (g : Msg) : (s.sendAt m g).now = s.now := rfl
@[simp] theorem State.sendAt_ctr (m : Nat) (g : Msg) : (s.sendAt m g).ctr = s.ctr := rfl
@[simp] theorem State.sendAt_curTile (m : Nat) (g : Msg) : (s.sendAt m g).curTile = s.curTile := rfl
@[simp] theorem State.sendAt_curSlot (m : Nat) (g : Msg) : (s.sendAt m g).curSlot = s.curSlot := rfl
@[simp] theorem State.sendAt_ev (m : Nat) (g : Msg) : (s.sendAt m g).ev = s.ev := rfl
@[simp] theorem State.sendAt_inputs (m : Nat) (g : Msg) : (s.sendAt m g).inputs = s.inputs := rfl
@[simp] theorem State.sendAt_tiles (m : Nat) (g : Msg) : (s.sendAt m g).tiles = s.tiles := rfl
@[simp] theorem State.sendAt_pens (m : Nat) (g : Msg) : (s.sendAt m g).pens = s.pens := rfl
@[simp] theorem State.sendAt_groups (m : Nat) (g : Msg) : (s.sendAt m g).groups = s.groups := rfl
@[simp] theorem State.sendAt_dies (m : Nat) (g : Msg) : (s.sendAt m g).dies = s.dies := rfl
@[simp] theorem State.sendAt_stks (m : Nat) (g : Msg) : (s.sendAt m g).stks = s.stks := rfl
@[simp] theorem State.sendAt_mem (m : Nat) (g : Msg) : (s.sendAt m g).mem = s.mem := rfl
@[simp] theorem State.sendAt_poison (m : Nat) (g : Msg) : (s.sendAt m g).poison = s.poison := rfl
@[simp] theorem State.sendAt_pairs (m : Nat) (g : Msg) : (s.sendAt m g).pairs = s.pairs := rfl
@[simp] theorem State.sendAt_held (m : Nat) (g : Msg) : (s.sendAt m g).held = s.held := rfl
@[simp] theorem State.sendAt_faults (m : Nat) (g : Msg) : (s.sendAt m g).faults = s.faults := rfl
@[simp] theorem State.sendAt_fbGen (m : Nat) (g : Msg) : (s.sendAt m g).fbGen = s.fbGen := rfl
@[simp] theorem State.sendAt_fbOvf (m : Nat) (g : Msg) : (s.sendAt m g).fbOvf = s.fbOvf := rfl
@[simp] theorem State.sendAt_fbSvc (m : Nat) (g : Msg) : (s.sendAt m g).fbSvc = s.fbSvc := rfl
@[simp] theorem State.sendAt_tlb (m : Nat) (g : Msg) : (s.sendAt m g).tlb = s.tlb := rfl
@[simp] theorem State.sendAt_xinvBusy (m : Nat) (g : Msg) : (s.sendAt m g).xinvBusy = s.xinvBusy := rfl
@[simp] theorem State.sendAt_launches (m : Nat) (g : Msg) : (s.sendAt m g).launches = s.launches := rfl
@[simp] theorem State.sendAt_nextLid (m : Nat) (g : Msg) : (s.sendAt m g).nextLid = s.nextLid := rfl
@[simp] theorem State.sendAt_queues (m : Nat) (g : Msg) : (s.sendAt m g).queues = s.queues := rfl
@[simp] theorem State.sendAt_rr (m : Nat) (g : Msg) : (s.sendAt m g).rr = s.rr := rfl
@[simp] theorem State.sendAt_parts (m : Nat) (g : Msg) : (s.sendAt m g).parts = s.parts := rfl
@[simp] theorem State.sendAt_roots (m : Nat) (g : Msg) : (s.sendAt m g).roots = s.roots := rfl
@[simp] theorem State.sendAt_rounds (m : Nat) (g : Msg) : (s.sendAt m g).rounds = s.rounds := rfl
@[simp] theorem State.sendAt_counters (m : Nat) (g : Msg) : (s.sendAt m g).counters = s.counters := rfl
@[simp] theorem State.sendAt_firings (m : Nat) (g : Msg) : (s.sendAt m g).firings = s.firings := rfl
@[simp] theorem State.sendAt_firedAt (m : Nat) (g : Msg) : (s.sendAt m g).firedAt = s.firedAt := rfl
@[simp] theorem State.sendAt_saved (m : Nat) (g : Msg) : (s.sendAt m g).saved = s.saved := rfl
@[simp] theorem State.sendAt_aclost (m : Nat) (g : Msg) : (s.sendAt m g).aclost = s.aclost := rfl
@[simp] theorem State.sendAt_starv (m : Nat) (g : Msg) : (s.sendAt m g).starv = s.starv := rfl
@[simp] theorem State.sendAt_starvAt (m : Nat) (g : Msg) : (s.sendAt m g).starvAt = s.starvAt := rfl
@[simp] theorem State.sendAt_starvSeen (m : Nat) (g : Msg) : (s.sendAt m g).starvSeen = s.starvSeen := rfl
@[simp] theorem State.sendAt_lendStat (m : Nat) (g : Msg) : (s.sendAt m g).lendStat = s.lendStat := rfl
@[simp] theorem State.sendAt_lendBusy (m : Nat) (g : Msg) : (s.sendAt m g).lendBusy = s.lendBusy := rfl
@[simp] theorem State.sendAt_preempt (m : Nat) (g : Msg) : (s.sendAt m g).preempt = s.preempt := rfl
@[simp] theorem State.sendAt_distAt (m : Nat) (g : Msg) : (s.sendAt m g).distAt = s.distAt := rfl
@[simp] theorem State.sendAt_fj (m : Nat) (g : Msg) : (s.sendAt m g).fj = s.fj := rfl
@[simp] theorem State.sendAt_mcasts (m : Nat) (g : Msg) : (s.sendAt m g).mcasts = s.mcasts := rfl
@[simp] theorem State.sendAt_mgmt (m : Nat) (g : Msg) : (s.sendAt m g).mgmt = s.mgmt := rfl
@[simp] theorem State.sendAt_pkg (m : Nat) (g : Msg) : (s.sendAt m g).pkg = s.pkg := rfl
@[simp] theorem State.sendAt_pod (m : Nat) (g : Msg) : (s.sendAt m g).pod = s.pod := rfl
@[simp] theorem State.sendAt_toMgmt (m : Nat) (g : Msg) : (s.sendAt m g).toMgmt = s.toMgmt := rfl
@[simp] theorem State.sendAt_events (m : Nat) (g : Msg) : (s.sendAt m g).events = s.events := rfl
@[simp] theorem State.sendAt_cpl (m : Nat) (g : Msg) : (s.sendAt m g).cpl = s.cpl := rfl
@[simp] theorem State.sendAt_fjOut (m : Nat) (g : Msg) : (s.sendAt m g).fjOut = s.fjOut := rfl

@[simp] theorem State.taken_now : (s.taken).now = s.now := rfl
@[simp] theorem State.taken_next : (s.taken).next = s.next := rfl
@[simp] theorem State.taken_ctr : (s.taken).ctr = s.ctr := rfl
@[simp] theorem State.taken_curTile : (s.taken).curTile = s.curTile := rfl
@[simp] theorem State.taken_curSlot : (s.taken).curSlot = s.curSlot := rfl
@[simp] theorem State.taken_ev : (s.taken).ev = s.ev := rfl
@[simp] theorem State.taken_inputs : (s.taken).inputs = s.inputs := rfl
@[simp] theorem State.taken_tiles : (s.taken).tiles = s.tiles := rfl
@[simp] theorem State.taken_pens : (s.taken).pens = s.pens := rfl
@[simp] theorem State.taken_groups : (s.taken).groups = s.groups := rfl
@[simp] theorem State.taken_dies : (s.taken).dies = s.dies := rfl
@[simp] theorem State.taken_stks : (s.taken).stks = s.stks := rfl
@[simp] theorem State.taken_mem : (s.taken).mem = s.mem := rfl
@[simp] theorem State.taken_poison : (s.taken).poison = s.poison := rfl
@[simp] theorem State.taken_pairs : (s.taken).pairs = s.pairs := rfl
@[simp] theorem State.taken_held : (s.taken).held = s.held := rfl
@[simp] theorem State.taken_faults : (s.taken).faults = s.faults := rfl
@[simp] theorem State.taken_fbGen : (s.taken).fbGen = s.fbGen := rfl
@[simp] theorem State.taken_fbOvf : (s.taken).fbOvf = s.fbOvf := rfl
@[simp] theorem State.taken_fbSvc : (s.taken).fbSvc = s.fbSvc := rfl
@[simp] theorem State.taken_tlb : (s.taken).tlb = s.tlb := rfl
@[simp] theorem State.taken_xinvBusy : (s.taken).xinvBusy = s.xinvBusy := rfl
@[simp] theorem State.taken_launches : (s.taken).launches = s.launches := rfl
@[simp] theorem State.taken_nextLid : (s.taken).nextLid = s.nextLid := rfl
@[simp] theorem State.taken_queues : (s.taken).queues = s.queues := rfl
@[simp] theorem State.taken_rr : (s.taken).rr = s.rr := rfl
@[simp] theorem State.taken_parts : (s.taken).parts = s.parts := rfl
@[simp] theorem State.taken_roots : (s.taken).roots = s.roots := rfl
@[simp] theorem State.taken_rounds : (s.taken).rounds = s.rounds := rfl
@[simp] theorem State.taken_counters : (s.taken).counters = s.counters := rfl
@[simp] theorem State.taken_firings : (s.taken).firings = s.firings := rfl
@[simp] theorem State.taken_firedAt : (s.taken).firedAt = s.firedAt := rfl
@[simp] theorem State.taken_saved : (s.taken).saved = s.saved := rfl
@[simp] theorem State.taken_aclost : (s.taken).aclost = s.aclost := rfl
@[simp] theorem State.taken_starv : (s.taken).starv = s.starv := rfl
@[simp] theorem State.taken_starvAt : (s.taken).starvAt = s.starvAt := rfl
@[simp] theorem State.taken_starvSeen : (s.taken).starvSeen = s.starvSeen := rfl
@[simp] theorem State.taken_lendStat : (s.taken).lendStat = s.lendStat := rfl
@[simp] theorem State.taken_lendBusy : (s.taken).lendBusy = s.lendBusy := rfl
@[simp] theorem State.taken_preempt : (s.taken).preempt = s.preempt := rfl
@[simp] theorem State.taken_distAt : (s.taken).distAt = s.distAt := rfl
@[simp] theorem State.taken_fj : (s.taken).fj = s.fj := rfl
@[simp] theorem State.taken_mcasts : (s.taken).mcasts = s.mcasts := rfl
@[simp] theorem State.taken_mgmt : (s.taken).mgmt = s.mgmt := rfl
@[simp] theorem State.taken_pkg : (s.taken).pkg = s.pkg := rfl
@[simp] theorem State.taken_pod : (s.taken).pod = s.pod := rfl
@[simp] theorem State.taken_toMgmt : (s.taken).toMgmt = s.toMgmt := rfl
@[simp] theorem State.taken_events : (s.taken).events = s.events := rfl
@[simp] theorem State.taken_cpl : (s.taken).cpl = s.cpl := rfl
@[simp] theorem State.taken_fjOut : (s.taken).fjOut = s.fjOut := rfl

end Sys2Proof.Machine
end

