-- ==== Sys2Proof/Laws/Thread.lean ====
section
/-! SUPPORT. Laws of the executing thread: reading slots after an update, and what the usual ends of a word leave. -/

namespace Sys2Proof.Machine

theorem State.tile_updTile (s : State) (t k : Nat) (f : Tile → Tile) :
    (s.updTile t f).tile k = if k = t then f (s.tile t) else s.tile k := tget_tset _ _ _ _ _

theorem Tile.slot_updSlot (a : Tile) (u v : Nat) (f : Slot → Slot) :
    (a.updSlot u f).slot v = if v = u then f (a.slot u) else a.slot v := tget_tset _ _ _ _ _

theorem State.slot_updSlot (s : State) (t u k v : Nat) (f : Slot → Slot) :
    (s.updSlot t u f).slot k v = if k = t ∧ v = u then f (s.slot t u) else s.slot k v := by
  unfold State.slot State.updSlot
  rw [State.tile_updTile]
  by_cases hk : k = t
  · subst hk
    simp [Tile.slot_updSlot]
  · simp [hk]

@[simp] theorem State.cur_updCur (s : State) (f : Slot → Slot) : (s.updCur f).cur = f s.cur := by
  show (s.updSlot s.curTile s.curSlot f).slot s.curTile s.curSlot = _
  rw [State.slot_updSlot]; simp [State.cur]

theorem Tile.same_updSlot (a : Tile) (u : Nat) (f : Slot → Slot) : a.Same (a.updSlot u f) := rfl

/-- An update of the executing slot leaves everything else. -/
theorem State.sameElsewhere_updCur (s : State) (f : Slot → Slot) : SameElsewhere s (s.updCur f) := by
  refine ⟨rfl, fun _ => rfl, fun k => ?_, fun k u h => ?_⟩
  · show (s.tile k).Same ((s.updTile s.curTile _).tile k)
    rw [State.tile_updTile]
    split
    · rename_i e; subst e; exact Tile.same_updSlot _ _ _
    · rfl
  · show (s.updSlot s.curTile s.curSlot f).slot k u = _
    rw [State.slot_updSlot, if_neg (by omega)]

theorem Slot.xr_setX (a : Slot) (d r : Reg) (v : Word) : (a.setX d v).xr r = if r = d ∧ d ≠ 0 then v else a.xr r := by
  unfold Slot.setX
  by_cases hd : d = 0
  · simp only [hd, ne_eq, not_true_eq_false, and_false, if_true, if_false]
  · simp only [hd, ne_eq, not_false_eq_true, and_true, if_false]
    unfold Slot.xr
    by_cases hr : r = 0
    · have : ¬ r = d := fun h => hd (h ▸ hr)
      simp only [hr] at this ⊢
      simp only [this, if_true, if_false]
    · by_cases h : r = d
      · subst h; simp only [hr, if_true, if_false]; simp
      · have : d.toNat ≠ r.toNat := fun e => h (BitVec.eq_of_toNat_eq e.symm)
        simp only [hr, h, if_false]
        simp [this]

theorem Slot.kr_setK (a : Slot) (d r : BitVec 3) (v : Word) : (a.setK d v).kr r = if r = d then v else a.kr r := by
  unfold Slot.setK Slot.kr
  by_cases h : r = d
  · subst h; simp
  · have : d.toNat ≠ r.toNat := fun e => h (BitVec.eq_of_toNat_eq e.symm)
    simp [h, this]

@[simp] theorem Slot.setX_pc (a : Slot) (d : Reg) (v : Word) : (a.setX d v).pc = a.pc := by unfold Slot.setX; split <;> rfl
@[simp] theorem Slot.setX_loops (a : Slot) (d : Reg) (v : Word) : (a.setX d v).loops = a.loops := by unfold Slot.setX; split <;> rfl
@[simp] theorem Slot.setX_status (a : Slot) (d : Reg) (v : Word) : (a.setX d v).status = a.status := by unfold Slot.setX; split <;> rfl

@[simp] theorem Slot.complete_xr (a : Slot) (w : Word) (q : Bool) (r : Reg) : (a.complete w q).xr r = a.xr r := rfl
@[simp] theorem Slot.complete_kr (a : Slot) (w : Word) (q : Bool) (r : BitVec 3) : (a.complete w q).kr r = a.kr r := rfl
@[simp] theorem Slot.complete_status (a : Slot) (w : Word) (q : Bool) : (a.complete w q).status = a.status := rfl

theorem Slot.at_complete (a : Slot) (w : Word) (q : Bool) : a.At (a.complete w q) w q := ⟨rfl, rfl, rfl⟩

theorem Slot.sameButX_complete (a : Slot) (d : Reg) (v : Word) (w : Word) (q : Bool) : a.SameButX ((a.setX d v).complete w q) := by
  unfold Slot.setX Slot.SameButX
  split <;> rfl

theorem Slot.sameButX_complete' (a : Slot) (w : Word) (q : Bool) : a.SameButX (a.complete w q) := rfl

/-- The usual end of a word (State.wr). -/
theorem writesX_wr {i : Instr} {s : State} {d : Reg} {v : Word} {len : Nat} (h : exec i s = .next (s.wr d v len)) :
    WritesX i s d v len := by
  refine ⟨_, h, fun r => ?_, ?_, ?_, State.sameElsewhere_updCur _ _⟩
  · show (s.updCur _).cur.xr r = _
    rw [State.cur_updCur, Slot.complete_xr, Slot.xr_setX]; rfl
  · show s.cur.At (s.updCur _).cur _ _
    rw [State.cur_updCur]
    have := Slot.at_complete (s.cur.setX d v) (s.cur.pc + BitVec.ofNat 64 len) true
    simpa [Slot.At] using this
  · show s.cur.SameButX (s.updCur _).cur
    rw [State.cur_updCur]; exact Slot.sameButX_complete _ _ _ _ _

/-- A sequential advance or a taken transfer and nothing else (State.done, State.jump). -/
theorem movesPc_complete {i : Instr} {s : State} {w : Word} {q : Bool} (h : exec i s = .next (s.updCur fun sl => sl.complete w q)) :
    MovesPc i s w q := by
  refine ⟨_, h, fun r => ?_, ?_, ?_, State.sameElsewhere_updCur _ _⟩
  · show (s.updCur _).cur.xr r = _
    rw [State.cur_updCur]; rfl
  · rw [State.cur_updCur]; exact Slot.at_complete _ _ _
  · rw [State.cur_updCur]; rfl

theorem State.done_eq (s : State) (len : Nat) :
    s.done len = s.updCur fun sl => sl.complete (s.cur.pc + BitVec.ofNat 64 len) true := rfl

/-- A write of k[d] (State.wk). -/
theorem writesK_wk {i : Instr} {s : State} {d : BitVec 3} {v : Word} (h : exec i s = s.wk d v) : WritesK i s d v := by
  refine ⟨_, h, fun r => ?_, fun r => ?_, ?_, ?_, State.sameElsewhere_updCur _ _⟩
  · rw [State.cur_updCur, Slot.complete_kr, Slot.kr_setK]
  · show (s.updCur _).cur.xr r = _
    rw [State.cur_updCur]; rfl
  · rw [State.cur_updCur]; exact ⟨rfl, rfl, rfl⟩
  · rw [State.cur_updCur]; rfl

end Sys2Proof.Machine
end

