-- ==== Sys2Proof/Laws/Ops.lean ====
section
/-! SUPPORT. Laws of the shared operations: messages, updates of one slot or tile, waiting, taking an exception, and the canonical form
under the operations that move ranges of storage. -/

namespace Sys2Proof.Machine

/-! ### One slot, one tile, one message -/

theorem State.onlyTile_updTile (s : State) (k : Nat) (f : Tile → Tile) : OnlyTile s (s.updTile k f) k :=
  ⟨rfl, fun j h => by rw [State.tile_updTile, if_neg h]⟩

theorem State.onlySlot_updSlot (s : State) (k u : Nat) (f : Slot → Slot) : OnlySlot s (s.updSlot k u f) k u := by
  refine ⟨rfl, fun j => ?_, fun j v h => ?_⟩
  · show (s.tile j).Same ((s.updTile k _).tile j)
    rw [State.tile_updTile]
    split
    · rename_i e; subst e; exact Tile.same_updSlot _ _ _
    · rfl
  · rw [State.slot_updSlot, if_neg (by omega)]

theorem State.sent_send (s : State) (n : Nat) (m : Msg) : Sent s (s.send n m) m :=
  ⟨_, rfl, rfl, by show s.now ≤ s.now + n + Config.delay s.ctr; omega⟩

theorem State.sent_sendAt (s : State) (n : Nat) (m : Msg) (h : s.now ≤ n) : Sent s (s.sendAt n m) m := ⟨_, rfl, rfl, h⟩

theorem State.sent_sendWithin (s : State) (n : Nat) (m : Msg) : Sent s (s.sendWithin n m) m :=
  ⟨_, rfl, rfl, by show s.now ≤ s.now + 1 + Config.delay s.ctr % n; omega⟩

theorem State.sentBy_sendWithin (s : State) (n : Nat) (m : Msg) (hn : 0 < n) : SentBy s (s.sendWithin n m) n m := by
  have := Nat.mod_lt (Config.delay s.ctr) hn
  exact ⟨_, rfl, rfl, by show s.now < s.now + 1 + Config.delay s.ctr % n; omega, by show s.now + 1 + Config.delay s.ctr % n ≤ _; omega⟩


/-! ### Waiting at a word -/

@[simp] theorem Slot.xr_with_st (sl : Slot) (x : SlotState) (w : Wait) (r : Reg) : { sl with st := x, wait := w }.xr r = sl.xr r := rfl

/-- A word that waits (State.block) leaves its thread in BLOCK at its own pc and changes nothing else. -/
theorem waits_block {i : Instr} {s : State} {w : Wait} (h : exec i s = .next (s.block w)) : Waits i s := by
  refine ⟨_, h, ?_⟩
  simp only [State.block]
  refine ⟨?_, ?_, fun r => ?_, ?_, ?_, State.sameElsewhere_updCur _ _⟩
  · rw [State.cur_updCur]
  · rw [State.cur_updCur]
  · show (s.updCur _).cur.xr r = _
    rw [State.cur_updCur]; rfl
  · rw [State.cur_updCur]
  · rw [State.cur_updCur]

/-! ### Taking an exception (R40) -/

theorem State.leaveFlock_free (s : State) (t u n : Nat) (h : (s.slot t u).flk = 0) :
    s.leaveFlock t u n = s.updSlot t u fun sl => { sl with stream := [], pend := none } := by
  simp only [State.leaveFlock, h]

theorem State.seenTile_updSlot (s : State) (t u k : Nat) (f : Slot → Slot) : (s.updSlot t u f).seenTile k = s.seenTile k := by
  have h : ((s.updSlot t u f).tile k).twin = (s.tile k).twin ∧ ((s.updSlot t u f).tile k).lid = (s.tile k).lid := by
    show ((s.updTile t _).tile k).twin = _ ∧ ((s.updTile t _).tile k).lid = _
    rw [State.tile_updTile]
    split
    · rename_i e; subst e; exact ⟨rfl, rfl⟩
    · exact ⟨rfl, rfl⟩
  simp only [State.seenTile, h.1, h.2]
  rfl

/-- What reaches a state before the entry proper: only the executing slot's flock fields and waiting message, and the die's queue. -/
structure BeforeEntry (s b : State) : Prop where
  tile_eq : b.curTile = s.curTile
  slot_eq : b.curSlot = s.curSlot
  mem_eq : b.mem = s.mem
  mgmt_eq : b.toMgmt = s.toMgmt
  launch_eq : ∀ l, b.launch l = s.launch l
  seen_eq : ∀ k, b.seenTile k = s.seenTile k
  cur_eq : b.slot s.curTile s.curSlot = { s.cur with stream := [], pend := none, trapMsg := none }
  other_eq : ∀ k u, k ≠ s.curTile ∨ u ≠ s.curSlot → b.slot k u = s.slot k u

theorem State.beforeEntry (s : State) (h : s.cur.flk = 0) : BeforeEntry s ((s.leaveFlock s.curTile s.curSlot 3).keepMsg s.curTile s.curSlot) := by
  rw [State.leaveFlock_free _ _ _ _ h]
  have e : (s.updSlot s.curTile s.curSlot fun sl => { sl with stream := [], pend := none }).slot s.curTile s.curSlot =
      { s.cur with stream := [], pend := none } := by
    rw [State.slot_updSlot, if_pos ⟨rfl, rfl⟩]; rfl
  have ho : ∀ k u, k ≠ s.curTile ∨ u ≠ s.curSlot →
      (s.updSlot s.curTile s.curSlot fun sl => { sl with stream := [], pend := none }).slot k u = s.slot k u :=
    fun k u hk => by rw [State.slot_updSlot, if_neg (by omega)]
  simp only [State.keepMsg, e]
  split
  · rename_i hm
    exact ⟨rfl, rfl, rfl, rfl, fun _ => rfl, fun k => s.seenTile_updSlot _ _ k _, by rw [e, ← hm], ho⟩
  · refine ⟨rfl, rfl, rfl, rfl, fun _ => rfl, fun k => ?_, ?_, fun k u hk => ?_⟩
    · rw [State.seenTile_updSlot]; exact s.seenTile_updSlot _ _ _ _
    · rw [State.slot_updSlot, if_pos ⟨rfl, rfl⟩]
      exact congrArg (fun sl : Slot => { sl with trapMsg := none }) e
    · rw [State.slot_updSlot, if_neg (by omega)]; exact ho k u hk

/-- What the entry of a thread of no flock leaves: everything R40 says, in one place. -/
theorem trapped_trap (s : State) (c : Cause) (addr : Word) (detail : Nat) (h : s.cur.flk = 0) :
    Trapped s (s.trap c addr detail) c s.cur.pc addr detail := by
  obtain ⟨ht, hu, hm, hg, hl, hs, hc, ho⟩ := s.beforeEntry h
  simp only [State.trap, State.trapAt]
  generalize (s.leaveFlock s.curTile s.curSlot 3).keepMsg s.curTile s.curSlot = b at *
  have hcur : ∀ (f : Slot → Slot) (n : Nat) (m : List Entry),
      State.cur { (b.updSlot s.curTile s.curSlot f) with next := n, toMgmt := m } = f (b.slot s.curTile s.curSlot) := fun f n m => by
    show (b.updSlot s.curTile s.curSlot f).slot b.curTile b.curSlot = _
    rw [ht, hu, State.slot_updSlot, if_pos ⟨rfl, rfl⟩]
  have hoth : ∀ (f : Slot → Slot) (k u : Nat), k ≠ s.curTile ∨ u ≠ s.curSlot → (b.updSlot s.curTile s.curSlot f).slot k u = s.slot k u :=
    fun f k u hk => by rw [State.slot_updSlot, if_neg (by omega)]; exact ho k u hk
  by_cases hp : s.cur.priv = true
  · have hp' : (b.slot s.curTile s.curSlot).priv = true := by rw [hc]; exact hp
    rw [if_pos hp']
    refine ⟨?_, ?_, ?_, ?_, fun r => ?_, ?_, ?_, ?_, ?_, ?_, ?_, fun k => ?_, fun k u hk => hoth _ k u hk⟩
    case refine_11 =>
      rw [if_pos hp]
      refine ⟨by rw [hcur]; exact if_pos hp', ?_⟩
      simp only [State.trapMessage, hs, hl, hc, ← hg]; rfl
    case refine_12 => simp only [← hm]; rfl
    all_goals first | (rw [hcur, hc]) | (show (State.cur _).xr r = _; rw [hcur, hc]; rfl)
  · have hp' : ¬ (b.slot s.curTile s.curSlot).priv = true := by rw [hc]; exact hp
    rw [if_neg hp']
    refine ⟨?_, ?_, ?_, ?_, fun r => ?_, ?_, ?_, ?_, ?_, ?_, ?_, fun k => ?_, fun k u hk => hoth _ k u hk⟩
    case refine_11 =>
      rw [if_neg hp]
      refine ⟨?_, ?_⟩
      · rw [hcur]; refine (if_neg hp').trans ?_; simp only [State.trapMessage, hs, hl, hc]
      · rw [← hg]; rfl
    case refine_12 => simp only [← hm]; rfl
    all_goals first | (rw [hcur, hc]) | (show (State.cur _).xr r = _; rw [hcur, hc]; rfl)

/-! ### Ranges of storage -/

theorem memWf_foldl {α : Type} (f : State → α → State) (h : ∀ s a, memWf s.mem = true → memWf (f s a).mem = true) :
    ∀ (l : List α) (s : State), memWf s.mem = true → memWf (l.foldl f s).mem = true
  | [], _, hs => hs
  | a :: l, s, hs => memWf_foldl f h l (f s a) (h s a hs)

theorem memWf_copyStorage {s : State} (h : memWf s.mem = true) (old : State) (a b n : Nat) : memWf (s.copyStorage old a b n).mem = true := by
  unfold State.copyStorage
  exact memWf_foldl _ (fun s c hs => memWf_writeByte hs _ _) _ _ (memWf_zeroRange h b n)

theorem memWf_zeroGroup {s : State} (h : memWf s.mem = true) (g off n : Nat) : memWf (s.zeroGroup g off n).mem = true :=
  memWf_foldl _ (fun _ _ hs => memWf_zeroRange hs _ _) _ _ h

theorem memWf_zeroDie {s : State} (h : memWf s.mem = true) (d off n : Nat) : memWf (s.zeroDie d off n).mem = true :=
  memWf_foldl _ (fun _ _ hs => memWf_zeroRange hs _ _) _ _ h

theorem memWf_loadBytes {s : State} (h : memWf s.mem = true) (key : Nat → Nat) (off : Nat) (b : List Byte) : memWf (s.loadBytes key off b).mem = true :=
  memWf_foldl _ (fun _ _ hs => memWf_writeByte hs _ _) _ _ h

theorem memWf_sliceStore {s : State} (h : memWf s.mem = true) (t off n v : Nat) : memWf (s.sliceStore t off n v).mem = true := memWf_store h _ _ _

end Sys2Proof.Machine
end

