-- ==== Sys2Proof/Tests/Slice0.lean ====
section
/-! SUPPORT. Slice0: what WellFormed refuses, words written out from the spec's encodings, a few single steps whose results are the
spec's, and for every obligation with hypotheses states that meet them. -/

namespace Sys2Proof.Tests

open Sys2Proof Sys2Proof.Machine

set_option Elab.async false

/-! ### States to start from -/

/-- A supervisor thread on tile (0, 0) with NOP where it fetches. -/
def w0 : State := State.reset.withFetchWord 32 0x1F

/-- Its slot changed. -/
def inSlot (f : Slot → Slot) : State := w0.updCur f

/-- Its tile changed. -/
def inTile (f : Tile → Tile) : State := w0.updTile 0 f

/-- Its launch changed. -/
def inLaunch (f : Launch → Launch) : State := w0.updLaunch 1 f

/-- The thread without privilege. -/
def user : State := inSlot fun sl => { sl with status := 0 }

/-- x1 at a value. -/
def x1 (v : Word) : State := w0.setX 1 v

/-- A hardware step's subject. -/
def ask (s : State) (num a b c : Nat) : State := { s with ev := { num := num, a := a, b := b, c := c, data := [] } }

/-- Message 7 has arrived. -/
def gets (s : State) (m : Msg) : State := { s with ev := { Ev.fresh with num := 7 }, flight := [{ num := 7, due := 1, msg := m }] }

/-- A one-dimensional record of its fields (R162): KIND, type, elements, BASE; memory elements lie 4 bytes apart. -/
def recordOf (kind ty count base : Nat) : Rec :=
  BitVec.ofNat 256 (base + ty * 2 ^ 16 + kind * 2 ^ 24 + count * 2 ^ 32 + 2 ^ 48 + 2 ^ 64 + 2 ^ 80 + if kind = 0 then 4 * 2 ^ 96 else 0)

/-! ### What WellFormed refuses -/

/-- R79, R89, R95: codes that are ILL in the integer words. -/
theorem smoke_integer : wellFormed (.sext 1 2 3) = false ∧ wellFormed (.zext 1 2 3) = false ∧ wellFormed (.acomp 0 1 2 7) = false ∧
    wellFormed (.acomp 0 1 2 9) = false ∧ wellFormed (.acomp 0 1 2 8) = true ∧ wellFormed (.bfx 1 2 63 1) = false ∧
    wellFormed (.bfxu 1 2 32 32) = false ∧ wellFormed (.bfi 1 2 0 63) = true ∧ wellFormed (.bfi 1 2 1 63) = false := by decide

/-- The operand orders of the branches, the loop lengths and the empty wait (R83, R94, R99, R155). -/
theorem smoke_control : wellFormed (.beq 2 1 0) = false ∧ wellFormed (.beq 0 0 0) = true ∧ wellFormed (.bne 1 1 0) = false ∧
    wellFormed (.bne 1 2 0) = false ∧ wellFormed (.blt 3 3 0) = false ∧ wellFormed (.bge 3 3 0) = false ∧ wellFormed (.bltu 0 0 0) = false ∧
    wellFormed (.bgeu 7 7 0) = false ∧ wellFormed (.loop 1 0) = false ∧ wellFormed (.loopi 0 1) = false ∧ wellFormed (.waitc 0) = false ∧
    wellFormed (.waitcC 0) = false ∧ wellFormed (.bnezC 0 1) = false := by decide

/-- DYN with a rounding field, a conversion to its own format, .dom with a level, MWGT 0 and MLDB's fourth exchange (R45, R97). -/
theorem smoke_fields : wellFormed (.fadd 1 2 3 1 1 0) = false ∧ wellFormed (.fsqrt 1 2 1 2 0) = false ∧ wellFormed (.fma 1 2 3 1 3 1) = false ∧
    wellFormed (.icvtf 1 2 1 1 0 0) = false ∧ wellFormed (.fcvti 1 2 1 1 0 0) = false ∧ wellFormed (.fcvt 1 2 3 0 0 2) = false ∧
    wellFormed (.frcp 1 2 1 1 0) = false ∧ wellFormed (.frsqn 1 2 3 1 1 0) = false ∧ wellFormed (.harvAdd 1 2 1 1) = false ∧
    wellFormed (.harn 1 2) = false ∧ wellFormed (.hdrop 1 3) = false ∧ wellFormed (.hwt 1 1 1) = false ∧ wellFormed (.hqry 1 1 1) = false ∧
    wellFormed (.mwgt 0) = false ∧ wellFormed (.mldb 0 3 0) = false := by decide

/-- Type and rounding codes a vector word does not take, and destination codes 12 to 15 (R46, R85, R176). -/
theorem smoke_vector : wellFormed (.vadd 12 0 0 0 0) = false ∧ wellFormed (.vadd 0 0 0 2 0) = false ∧ wellFormed (.vadd 0 0 0 0 8) = false ∧
    wellFormed (.vfma 0 0 0 1 0) = false ∧ wellFormed (.vabs 0 0 1 10) = false ∧ wellFormed (.vsqrt 0 0 0 3) = false ∧
    wellFormed (.vexp2 0 0 0 13) = false ∧ wellFormed (.vlog2 0 0 0 13) = false ∧ wellFormed (.vand 0 0 0 10) = false ∧
    wellFormed (.vcmpUn 0 0 0 0) = false ∧ wellFormed (.vsel 0 0 0 14) = false ∧ wellFormed (.vreds 0 0 1 15) = false ∧
    wellFormed (.vdot 0 0 0 3) = false ∧ wellFormed (.vfold 0 0 15) = false ∧ wellFormed (.viota 0 1 0) = false ∧
    wellFormed (.vgath 0 0 0 15) = false ∧ wellFormed (.vfill 13 0 0) = false ∧ wellFormed (.vcopy 15 0 0) = false := by decide

/-! ### Words written out from the spec

Bits are given most significant first, as the spec's format rows lay the fields out. -/

/-- ADD x3, x1, x2; CSEL.lt x5, x9, x6, x7; SLTU x2, x3, x4; ANDN x10, x10, x5; ADDI x1,x1,8; MOVK k1, 0x20; MOVFK k3, x4; KGET x3, k3; ACOMP.tile k0,x4,x0; BFXU x6,x4,16,16. -/
theorem test_words_integer :
    decodeTableWord 32 0b00000000000000010000100110000001 = some (.add 3 1 2) ∧
    decodeTableWord 32 0b10100101010000111011001010000001 = some (.csel 5 9 6 7 2) ∧
    decodeTableWord 32 0b00000000100010100001100100000001 = some (.sltu 2 3 4) ∧
    decodeTableWord 32 0b00000000001010101101010100000001 = some (.andn 10 10 5) ∧
    decodeTableWord 32 0b00000000000001000000100010000011 = some (.addi 1 1 8) ∧
    decodeTableWord 32 0b00000000000100000000000010010011 = some (.movk 1 32) ∧
    decodeTableWord 32 0b00000000000000000010000110010101 = some (.movfk 3 4) ∧
    decodeTableWord 32 0b00000000000110000001100110010101 = some (.kget 3 3) ∧
    decodeTableWord 32 0b00000100000010000010000000010101 = some (.acomp 0 4 0 1) ∧
    decodeTableWord 32 0b00001001111010000010001100010111 = some (.bfxu 6 4 15 16) := by decide

/-- BNE x4, x0, -8; LOOP x11, rd_e; LOOPI 1024, c_e; NOP; JALR_C x0,x1; BEQZ_C x5,+2; WFE x0; REJOIN_C; EXIT_C; NOP_C. -/
theorem test_words_control :
    decodeTableWord 32 0b11111111111110000010011000100001 = some (.bne 4 0 131068) ∧
    decodeTableWord 32 0b00000000001010010001010110100001 = some (.loop 11 5) ∧
    decodeTableWord 32 0b00011010000000011001100000100001 = some (.loopi 3 1024) ∧
    decodeTableWord 32 0b00000000000000000000000000011111 = some .nop ∧
    decodeTableWord 16 0b1100000001011000 = some (.jalrC 1) ∧
    decodeTableWord 16 0b0000100101010010 = some (.beqzC 5 2) ∧
    decodeTableWord 16 0b0100000000011000 = some (.wfeC 0) ∧
    decodeTableWord 16 0b0000000110011000 = some .rejoinC ∧
    decodeTableWord 16 0b0000000001011000 = some .exitC ∧
    decodeTableWord 16 0b0000000000011000 = some .nopC := by decide

/-- LD.wn x5, [x2+24]; SW.wp x6, [x2+x3-8]; SDP x4, [x13+16]; WAITC.np; WALK x4; WHERE x5, x4; AMOCAS.i64.wn x9, [x4], x10; AMOFADD.f32.rtz x3, [x7], x8; AMOOR.i64 x10, [x5], x0. -/
theorem test_words_memory :
    decodeTableWord 32 0b00000011010110000001001010101101 = some (.ld 5 2 0 3 1) ∧
    decodeTableWord 32 0b11111110100100011001001100110001 = some (.sw 6 2 3 254 2) ∧
    decodeTableWord 32 0b00000001001000000110101000110001 = some (.sdp 2 13 0 1 0) ∧
    decodeTableWord 32 0b00110000000000000000000000110011 = some (.waitc 3) ∧
    decodeTableWord 32 0b00000000000010000010000000110011 = some (.walk 4) ∧
    decodeTableWord 32 0b00000000000100000010001010110011 = some (.whereOp 5 4) ∧
    decodeTableWord 32 0b00010100010011010010010010110101 = some (.amocas 9 1 4 10 1 0) ∧
    decodeTableWord 32 0b01000000100001000011100110110101 = some (.amofadd 3 0 7 8 1 0 0) ∧
    decodeTableWord 32 0b00000100000100000010110100110101 = some (.amoor 10 1 5 0 0 0) := by decide

/-- FMA.f32.rne x4, x5, x6; FCVTI.i32.f64.rtz x7,x2; ICVTF.bf16.n32 x6, x5. -/
theorem test_words_floating :
    decodeTableWord 32 0b00000100110000110010101001000001 = some (.fma 4 5 6 0 0 1) ∧
    decodeTableWord 32 0b00010000010100000001001111000011 = some (.fcvti 7 2 0 1 0 2) ∧
    decodeTableWord 32 0b01001100101100000010101101000011 = some (.icvtf 6 5 1 0 3 6) := by decide

/-- VSHAPE h0, x1; VFILL.bf16 h0, x2; VIOTA.bf16 h1; VDOT.bf16 h4, h2, h3; VLOOP 1, x3; VUNF.f32 h5, h4; VADD.i32 h0, h0, q0; VFOLD.bf16 h3, h2; VSYNC_C. -/
theorem test_words_vector :
    decodeTableWord 32 0b00000000000000000000100001010111 = some (.vshape 0 1) ∧
    decodeTableWord 32 0b00101000001000000001000001010101 = some (.vfill 0 2 10) ∧
    decodeTableWord 32 0b00101000001110000000000011010011 = some (.viota 1 0 10) ∧
    decodeTableWord 32 0b00101000001000011001001001010011 = some (.vdot 4 2 3 10) ∧
    decodeTableWord 32 0b00000000000010000001100001010111 = some (.vloop 3 0) ∧
    decodeTableWord 32 0b00110000001100000010001011010011 = some (.vunf 5 4 0 12) ∧
    decodeTableWord 32 0b00001000000001000000000001010001 = some (.vadd 0 0 8 0 2) ∧
    decodeTableWord 32 0b00101000001010000001000111010011 = some (.vfold 3 2 10) ∧
    decodeTableWord 16 0b0000000100011000 = some .vsyncC := by decide

/-- MWGT 4; MLDB.x8 h0; MZRO h2; MMA h2, h1; MRND.rne h3, h2; MPOLL x5; MWAIT x5. -/
theorem test_words_matrix :
    decodeTableWord 32 0b01000000010000000000000001101001 = some (.mwgt 4) ∧
    decodeTableWord 32 0b00100000000000000000000001101001 = some (.mldb 0 1 0) ∧
    decodeTableWord 32 0b00000000000110000000000101101001 = some (.mzro 2) ∧
    decodeTableWord 32 0b00000000000010000000100101101001 = some (.mma 2 1) ∧
    decodeTableWord 32 0b00000000001000000001000111101001 = some (.mrnd 3 2 0) ∧
    decodeTableWord 32 0b00000000001100000000001011101001 = some (.mpoll 5) ∧
    decodeTableWord 32 0b00000000001110000010100001101001 = some (.mwait 5) := by decide

/-- DSET 2, x4; DGO x9; DWAIT x9; DMCST x9,x2,x3; SBIND s3, x6. -/
theorem test_words_drover :
    decodeTableWord 32 0b00000000000000000010000101110001 = some (.dset 4 2) ∧
    decodeTableWord 32 0b00000000000010000000010011110001 = some (.dgo 9) ∧
    decodeTableWord 32 0b00000000000110000100100001110001 = some (.dwait 9) ∧
    decodeTableWord 32 0b00000000001010011001010011110001 = some (.dmcst 9 2 3) ∧
    decodeTableWord 32 0b00000000000000000011000111110011 = some (.sbind 3 6) := by decide

/-- ACARM x2,x3,x4; ACRD x6,x5. -/
theorem test_words_counters :
    decodeTableWord 32 0b00000000000100100001100101110011 = some (.acarm 2 3 4) ∧
    decodeTableWord 32 0b00000000000110000010101101110011 = some (.acrd 6 5) := by decide

/-- HARV.add.l1 x4, x5; HARV.max.l0 x4, x5; HARV.or.dom x4, x0; HARN.l0; HDROP.l0; HWT.l1 x6; HXEND.l2; TTGO.l0 x3; TTSTS.l0 x6. -/
theorem test_words_hurdles :
    decodeTableWord 32 0b00010000000000101010000001111001 = some (.harvAdd 4 5 0 1) ∧
    decodeTableWord 32 0b00000000001010101010000001111001 = some (.harvMax 4 5 0 0) ∧
    decodeTableWord 32 0b01000000000100000010000001111001 = some (.harvOr 4 0 1 0) ∧
    decodeTableWord 32 0b00000000010000000000000001111001 = some (.harn 0 0) ∧
    decodeTableWord 32 0b00000000010010000000000001111001 = some (.hdrop 0 0) ∧
    decodeTableWord 32 0b00010000010100000000001101111001 = some (.hwt 6 0 1) ∧
    decodeTableWord 32 0b00100000011000000000000001111001 = some (.hxend 0) ∧
    decodeTableWord 32 0b00000000100000000001100001111001 = some (.ttgo 3 0) ∧
    decodeTableWord 32 0b00000000100010000000001101111001 = some (.ttsts 6 0) := by decide

/-- SENDM x9, x2, x3; INBOX x5, x1; INBQ x4; RRDY x2, x3; RREL x0; LNCH x9, x1; GRPSET x7, x9, x4. -/
theorem test_words_messages :
    decodeTableWord 32 0b00000000000000011001010011111011 = some (.sendm 9 2 3) ∧
    decodeTableWord 32 0b00000000000010000000101011111011 = some (.inbox 5 1) ∧
    decodeTableWord 32 0b00000000000100000000001001111011 = some (.inbq 4) ∧
    decodeTableWord 32 0b00000000001010011001000001111011 = some (.rrdy 2 3) ∧
    decodeTableWord 32 0b00000000001000000000000001111011 = some (.rrel 0) ∧
    decodeTableWord 32 0b00000000000000000000110011111101 = some (.lnch 9 1) ∧
    decodeTableWord 32 0b00000000000110100100101111111101 = some (.grpset 7 9 4) := by decide

/-- TRAP 0x2A; ERET; MFC x3, c:STEP1; MTC c:TMR, x5; XSAVE x1,x2; XLOAD x1,x2. -/
theorem test_words_system :
    decodeTableWord 32 0b00000000000000010101000001111111 = some (.trap 42) ∧
    decodeTableWord 32 0b00000000000010000000000001111111 = some .eret ∧
    decodeTableWord 32 0b00000000000100000100100111111111 = some (.mfc 3 9) ∧
    decodeTableWord 32 0b00000000000110000011101011111111 = some (.mtc 7 5) ∧
    decodeTableWord 32 0b00000000001110010000100001111111 = some (.xsave 1 2) ∧
    decodeTableWord 32 0b00000000010000010000100001111111 = some (.xload 1 2) := by decide

/-- ADD x3, x3, x2; LD_C x5,[x1]; SD_C x4,[x1]; MOV_C x4,x0; ADDI_C x6,1. -/
theorem test_words_compact :
    decodeTableWord 16 0b0000100011000010 = some (.addC 3 2) ∧
    decodeTableWord 16 0b0000010101001010 = some (.ldC 5 0 1) ∧
    decodeTableWord 16 0b0000010100001100 = some (.sdC 4 0 1) ∧
    decodeTableWord 16 0b0000000100000110 = some (.movC 4 0) ∧
    decodeTableWord 16 0b0100010110000110 = some (.addiC 6 1) := by decide

/-! ### Single steps, with results the spec gives -/

/-- What holds of the next state of a word. -/
def after (i : Instr) (s : State) (p : State → Bool) : Bool := match exec i s with | .next t => p t | _ => false

/-- Two registers at values. -/
def x12 (a b : Word) : State := (w0.setX 1 a).setX 2 b

/-- R111, R112: sums wrap at 2^64, and a shift takes the low six bits of its amount. -/
theorem test_add_wraps : after (.add 3 1 2) (x12 (BitVec.allOnes 64) 1) (fun t => t.xr 3 == 0 && t.cur.pc == 0x104) = true ∧
    after (.sra 3 1 2) (x12 (BitVec.intMin 64) 127) (fun t => t.xr 3 == BitVec.allOnes 64) = true ∧
    after (.add 0 1 2) (x12 1 1) (fun t => t.xr 0 == 0) = true := by decide +kernel

/-- R49: x / 0 is all ones, x rem 0 is x, and the most negative number over -1 is itself. -/
theorem test_div_borders : after (.div 3 1 2) (x12 7 0) (fun t => t.xr 3 == BitVec.allOnes 64) = true ∧
    after (.rem 3 1 2) (x12 7 0) (fun t => t.xr 3 == 7) = true ∧
    after (.div 3 1 2) (x12 (BitVec.intMin 64) (BitVec.allOnes 64)) (fun t => t.xr 3 == BitVec.intMin 64) = true ∧
    after (.rem 3 1 2) (x12 (BitVec.intMin 64) (BitVec.allOnes 64)) (fun t => t.xr 3 == 0) = true := by decide +kernel

/-- R113, R115: the byte swap, and BFI into a set register. -/
theorem test_bswap_bfi : after (.bswap 3 1) (x12 0x0102030405060708 0) (fun t => t.xr 3 == 0x0807060504030201) = true ∧
    after (.bfi 2 1 7 8) (x12 0xAB (BitVec.allOnes 64)) (fun t => t.xr 2 == 0xFFFFFFFFFFFFABFF) = true := by decide +kernel

/-- R83, R120: BNE x4, x0, -8 goes back 8 bytes when taken. -/
theorem test_bne_back : after (.bne 4 0 0x1FFFC) (w0.setX 4 1) (fun t => t.cur.pc == 0xF8) = true ∧
    after (.bne 4 0 0x1FFFC) w0 (fun t => t.cur.pc == 0x104) = true := by decide +kernel

/-- R122: LOOPI 8 with a body of 8 bytes runs from the next word, with 8 passes left. -/
theorem test_loopi : after (.loopi 4 8) w0 (fun t => t.cur.pc == 0x104 && t.cur.loops == [⟨0x104, 0x10C, 8⟩]) = true := by decide +kernel

/-- R145, R148: bytes are little-endian; LH extends the sign. -/
theorem test_store_load : after (.sd 2 1 0 0 0) (x12 0x200 0x1122334455667788) (fun t =>
      readByte t.mem (t.sliceKey 0 0x200) == 0x88 && readByte t.mem (t.sliceKey 0 0x207) == 0x11) = true ∧
    after (.lh 3 1 0 0 0) { x12 0x200 0 with mem := writeMem [] (w0.sliceKey 0 0x200) 2 0x8001 } (fun t =>
      t.xr 3 == 0xFFFFFFFFFFFF8001) = true := by decide +kernel

/-- R144, R361: a misaligned LD is ALIGN (3) with its address; an address past the window is WINDOW (4). -/
theorem test_access_traps : after (.ld 3 1 0 0 0) (x12 0x201 0) (fun t => t.cur.st == .park && t.cur.cause == 3 && t.cur.pc == 0x100) = true ∧
    after (.ld 3 1 0 0 0) (x12 0x10000 0) (fun t => t.cur.cause == 4) = true := by decide +kernel

/-- R53, R55: in binary32, 1 + 2^-24 is a tie that goes to the even 1, and is inexact. -/
theorem test_fadd_tie : after (.fadd 3 1 2 0 0 1) (x12 0x3F800000 0x33800000) (fun t =>
      t.xr 3 == 0x3F800000 && t.cur.flags == 1) = true ∧
    after (.fadd 3 1 2 0 2 1) (x12 0x3F800000 0x33800000) (fun t => t.xr 3 == 0x3F800001) = true := by decide +kernel

/-- R51, R137: FNEG turns a sign over without a flag; inf - inf is the canonical quiet NaN with invalid. -/
theorem test_fp_special : after (.fneg 3 1 1) (x12 0x3F800000 0) (fun t => t.xr 3 == 0xBF800000 && t.cur.flags == 0) = true ∧
    after (.fsub 3 1 2 0 0 1) (x12 0x7F800000 0x7F800000) (fun t => t.xr 3 == 0x7FC00000 && t.cur.flags == 16) = true := by decide +kernel

/-- R240, R242: TRAP parks with its number in DETAIL and resumes after itself; MFC of a supervisor register without privilege is PRIV. -/
theorem test_trap_priv : after (.trap 0x2A) user (fun t =>
      t.cur.cause == 16 && t.cur.pc == 0x104 && (t.cur.trapMsg.map fun e => ef e 28 4) == some 0x2A) = true ∧
    after (.mfc 3 0x861) user (fun t => t.cur.cause == 2 && t.cur.pc == 0x100) = true := by decide +kernel

/-- R101, R38: the first step after the word is placed runs it. -/
theorem test_step_runs : (match step (State.reset.withFetchWord 32 0x00010981) with | .next t => t.cur.pc == 0x104 | _ => false) = true ∧
    (match step (State.reset.withFetchWord 16 0x0018) with | .next t => t.cur.pc == 0x102 | _ => false) = true := by decide +kernel

/-- The published digest of the empty message begins so (FIPS 202's SHAKE256). -/
theorem test_shake256_empty : keccakSponge 0x1F [] 8 = [0x46, 0xB9, 0xDD, 0x2B, 0x0B, 0xA8, 0x8D, 0x13] := by decide +kernel

/-! ### States that meet the hypotheses of the obligations -/

theorem witness_OneSourceIntegerWords : (2 : BitVec 2) ≠ 3 := by decide

/-- A field up to bit 63, from either end. -/
theorem witness_ImmediateAndFieldWords : (0 : BitVec 6).toNat + ((63 : BitVec 6).toNat + 1) ≤ 64 ∧
    (63 : BitVec 6).toNat + ((0 : BitVec 6).toNat + 1) ≤ 64 := by decide

/-- An even and an odd target, and an odd one by the offset's own bits is impossible: the offset is even. -/
theorem witness_JumpWords :
    ((x1 0x200).xr 1 + BitVec.ofInt 64 (2 * (255 : BitVec 9).toInt)).getLsbD 0 = false ∧ ((x1 0x200).xr 1).getLsbD 0 = false ∧
    ((x1 0x201).xr 1 + BitVec.ofInt 64 (2 * (0 : BitVec 9).toInt)).getLsbD 0 = true ∧ ((x1 0x201).xr 1).getLsbD 0 = true ∧
    (x1 0x201).cur.flk = 0 := by decide +kernel

/-- A loop of two passes that ends here, one that ends for the last time, one left by a transfer and one inside. -/
theorem witness_LoopAdvance :
    let e (n : BitVec 32) : LoopEntry := ⟨0x104, 0x10C, n⟩
    let sl (n : BitVec 32) : Slot := { Slot.fresh with loops := [e n] }
    Slot.fresh.loops = [] ∧ (sl 2).loops = e 2 :: [] ∧ ((0x10C : Word) = (e 2).stop ∧ 1 < (e 2).remaining.toNat) ∧
    ¬ (1 < (e 1).remaining.toNat) ∧ ((e 2).start.toNat ≤ (0x104 : Word).toNat ∧ (0x104 : Word).toNat < (e 2).stop.toNat) ∧
    ¬ ((0x10C : Word).toNat < (e 2).stop.toNat) := by decide +kernel

/-- Room for an entry with a count of 0 and of 1; two entries held; an entry that ends before the new one. -/
theorem witness_LoopWords :
    let held (l : List LoopEntry) : State := inSlot fun sl => { sl with loops := l }
    ((1 : BitVec 13).toNat = 1 ∧ (x1 0).cur.loops.length < 2 ∧ ((x1 0).xr 1).toNat % 2 ^ 32 = 0 ∧ ((x1 1).xr 1).toNat % 2 ^ 32 ≠ 0) ∧
    (held [⟨0x104, 0x200, 1⟩]).cur.loops.length < 2 ∧ (0x200 : Word).toNat ≥ ((held []).cur.pc + 4 + BitVec.ofNat 64 (2 * 31)).toNat ∧
    2 ≤ (held [⟨0, 0x200, 1⟩, ⟨0, 0x200, 1⟩]).cur.loops.length ∧
    (∃ e ∈ (held [⟨0x100, 0x104, 1⟩]).cur.loops, e.stop.toNat < ((held []).cur.pc + 4 + BitVec.ofNat 64 (2 * 1)).toNat) ∧ w0.cur.flk = 0 := by
  refine ⟨by decide +kernel, by decide +kernel, by decide +kernel, by decide +kernel, ⟨⟨0x100, 0x104, 1⟩, ?_, ?_⟩, ?_⟩ <;> decide +kernel

/-- A thread of no flock, a bellwether alone and with a follower whose buffer is full, a follower, and a detached follower with an earlier
notice, with one of this cycle, and with none. -/
theorem witness_FlockWords :
    let role (n : Nat) : State := inSlot fun sl => sl.setFlk n
    let word : FwdWord := { instr := .nop, pc := 0, next := 4, at_ := 0 }
    let full : State := (role 1).updSlot 0 1 fun sl => { sl.setFlk 2 with flock := some (0, 0), stream := List.replicate 16 word }
    let told (n : Nat) : State := inSlot fun sl => { sl.setFlk 3 with notices := [(0x100, n)] }
    (role 1).cur.flk ≠ 0 ∧ w0.cur.flk = 0 ∧ w0.gangFits w0.curTile (7 + 1) (7 + 1) = false ∧ w0.gangFits w0.curTile (0 + 1) (0 + 1) = true ∧
    (w0.tile w0.curTile).carriesFlock = false ∧ w0.gangTiles w0.curTile 1 1 = [] ∧
    ((w0.updSlot 0 1 fun sl => sl.setFlk 2).gangFits 0 1 1 = true ∧ ((w0.updSlot 0 1 fun sl => sl.setFlk 2).tile 0).carriesFlock = true ∧
      (w0.updSlot 0 1 fun sl => sl.setFlk 2).cur.flk = 0) ∧
    (∀ k ∈ w0.tiles, ∀ u ∈ k.2.slots, ∀ a b n e, u.2.wait ≠ .gang a b n e) ∧ (role 2).cur.flk = 2 ∧ (role 1).cur.flk = 1 ∧
    (full.cur.flk = 1 ∧ full.flockFull (0, full.curSlot) = true) ∧
    ((role 1).flockFull (0, (role 1).curSlot) = false ∧ ((role 1).followers (0, (role 1).curSlot)).Nodup) ∧
    ((role 3).cur.flk = 3 ∧ ∀ n ∈ (role 3).cur.notices, n.1 ≠ (role 3).cur.pc) ∧
    ((told (w0.now + 1)).cur.flk = 3 ∧ (∃ n ∈ (told (w0.now + 1)).cur.notices, n.1 = (told (w0.now + 1)).cur.pc) ∧
      ∀ n ∈ (told (w0.now + 1)).cur.notices, n.1 = (told (w0.now + 1)).cur.pc → n.2 ≠ (told (w0.now + 1)).now) ∧
    ((∃ n ∈ (told w0.now).cur.notices, n.1 = (told w0.now).cur.pc) ∧
      ∀ n ∈ (told w0.now).cur.notices, n.1 = (told w0.now).cur.pc → n.2 = (told w0.now).now) := by
  refine ⟨?_, ?_, ?_, ?_, ?_, ?_, ?_, ?_, ?_⟩
  case refine_8 =>
    intro k hk u hu a b n e h
    have hw : (w0.tiles.all fun k => k.2.slots.all fun u => u.2.wait == .none) = true := by decide +kernel
    rw [List.all_eq_true] at hw
    have := hw k hk
    rw [List.all_eq_true] at this
    have := this u hu
    rw [h] at this
    exact absurd this (by simp)
  all_goals decide +kernel

/-- An event set and none; a second slot in use; a sampled IDLE with and without an event since. -/
theorem witness_EventWords :
    (inSlot fun sl => sl.setEvt 1).cur.evt ≠ 0 ∧ w0.cur.evt = 0 ∧ w0.cur.idle = none ∧ w0.cur.evtNew = 0 ∧
    (inSlot fun sl => { sl with evtNew := 1 }).cur.idle = none ∧ (inSlot fun sl => { sl with evtNew := 1 }).cur.evtNew ≠ 0 ∧ w0.cur.flk = 0 ∧
    (inSlot fun sl => { sl.setEvt 3 with idle := some 1 }).cur.idle = some 1 ∧
    (inSlot fun sl => { sl.setEvt 3 with idle := some 1 }).cur.evt &&& ~~~1 ≠ 0 := by decide +kernel

theorem witness_SystemTraps : w0.cur.flk = 0 ∧ w0.mgmt.agent = none ∧ (w0.updMgmt fun m => { m with agent := some 1 }).mgmt.agent ≠ none ∧
    (x1 (BitVec.allOnes 64)).xr 1 = BitVec.allOnes 64 ∧ user.xr 1 ≠ BitVec.allOnes 64 ∧ user.cur.priv = false := by decide +kernel

/-- Slot 1 parked with tag 5 and sleeping. -/
theorem witness_SupervisorResume :
    let parked (k1 : Word) : State := (inSlot fun sl => sl.setK 1 k1).updSlot 0 1 fun sl => { sl with st := .park, tag := 5 }
    let asleep : State := (x1 (BitVec.ofNat 64 (2 ^ 16))).updSlot 0 1 fun sl => { sl with st := .sleep }
    let k1 : Word := BitVec.ofNat 64 (2 ^ 16 + 5 * 2 ^ 32)
    ((parked k1).cur.priv = true ∧ (parked k1).named ((parked k1).cur.kr 1) = [(0, 1)] ∧ (1 : Nat) ≠ (parked k1).curSlot ∧
      ((parked k1).slot 0 1).st = .park ∧ ((parked k1).cur.kr 1).getLsbD 20 = false ∧ ((parked k1).cur.kr 1).getLsbD 21 = false ∧
      ((parked k1).slot 0 1).tag = wf ((parked k1).cur.kr 1) 32 16) ∧
    ((parked (BitVec.ofNat 64 (2 ^ 16))).slot 0 1).tag ≠ wf ((parked (BitVec.ofNat 64 (2 ^ 16))).cur.kr 1) 32 16 ∧
    asleep.xr 1 ≠ BitVec.allOnes 64 ∧ asleep.named (asleep.xr 1) = [(0, 1)] ∧ (asleep.slot 0 1).st = .sleep ∧ (asleep.slot 0 1).flk = 0 ∧
    (asleep.slot 0 1).wait = .none ∧ (asleep.slot 0 1).back = none := by decide +kernel

/-- One address of each window that does not walk, and one of none. -/
theorem witness_AccessChecks : decodeWin (BitVec.allOnes 64) = none ∧ decodeWin (BitVec.ofNat 64 (8 * 2 ^ 56)) = some (.system 0 0 0) ∧
    decodeWin (BitVec.ofNat 64 (6 * 2 ^ 56 + 3 * 2 ^ 16)) = some (.ctrl 3 0) ∧ decodeWin 0xFFFF = some (.loc 0xFFFF) ∧
    decodeWin (BitVec.ofNat 64 (2 * 2 ^ 56 + 319 * 2 ^ 32)) = some (.group false 319 0) ∧
    decodeWin (BitVec.ofNat 64 (2 * 2 ^ 56 + 2 ^ 41)) = some (.group true 0 0) := by decide +kernel

/-- A long load, a compact load and a pair at the last place they fit. -/
theorem witness_LoadsFromTheOwnSlice :
    (LoadForm (.ld 3 1 0 0 0) (x1 0xFFF8) 3 0xFFF8 3 false 0 4 ∧ (x1 0xFFF8).memCheck 0 0 0xFFF8 (2 ^ 3) 3 = .ok (.slice 0 0xFFF8)) ∧
    (LoadForm (.lwC 3 3 1) (x1 0xFFF0) 3 0xFFFC 2 true 0 2 ∧ (x1 0xFFF0).memCheck 0 0 0xFFFC (2 ^ 2) 2 = .ok (.slice 0 0xFFFC)) ∧
    (LoadForm (.ldp 2 1 0 0 0) (x1 0) 4 0 4 false 0 4 ∧ (x1 0).memCheck 0 0 0 (2 ^ 4) 4 = .ok (.slice 0 0)) ∧
    w0.curT.unusable = false ∧ w0.cur.countsZero (waitMask 0) = true ∧ w0.cur.countsZero (waitMask 3) = true ∧
    poisonIn w0.poison (w0.sliceKey 0 0xFFF8) 8 = none := by
  refine ⟨⟨.inl ⟨1, 0, 0, ?_, rfl, .inr (.inr (.inr (.inl ⟨rfl, rfl, rfl⟩)))⟩, ?_⟩,
    ⟨.inr ⟨3, 1, ?_, rfl, rfl, .inr ⟨rfl, rfl, rfl⟩⟩, ?_⟩,
    ⟨.inl ⟨1, 0, 0, ?_, rfl, .inr (.inr (.inr (.inr (.inr (.inr (.inr ⟨2, rfl, rfl, rfl, rfl⟩))))))⟩, ?_⟩, ?_, ?_, ?_, ?_⟩ <;> decide +kernel

/-- A byte at the last place, and a pair. -/
theorem witness_StoresToTheOwnSlice :
    (StoreForm (.sb 3 1 0 0 0) (x1 0xFFFF) 0 0xFFFF 0 0 4 ∧ (x1 0xFFFF).memCheck 0 1 0xFFFF (2 ^ 0) 0 = .ok (.slice 0 0xFFFF)) ∧
    (StoreForm (.sdp 2 1 0 0 0) (x1 0xFFF0) 0 0xFFF0 4 0 4 ∧ (x1 0xFFF0).memCheck 0 1 0xFFF0 (2 ^ 4) 4 = .ok (.slice 0 0xFFF0)) ∧
    (StoreForm (.sdC 3 0 1) (x1 0) 0 0 3 0 2 ∧ (x1 0).memCheck 0 1 0 (2 ^ 3) 3 = .ok (.slice 0 0)) ∧
    partialPoison w0.poison (w0.sliceKey 0 0xFFFF) 1 = none ∧ w0.curT.unusable = false := by
  refine ⟨⟨.inl ⟨1, 0, 0, ?_, rfl, .inl ⟨3, ?_, .inl ⟨rfl, rfl⟩⟩⟩, ?_⟩,
    ⟨.inl ⟨1, 0, 0, ?_, rfl, .inr ⟨2, rfl, rfl, ?_⟩⟩, ?_⟩,
    ⟨.inr ⟨3, 0, 1, ?_, rfl, rfl, ?_, .inl ⟨rfl, rfl⟩⟩, ?_⟩, ?_, ?_⟩ <;> decide +kernel

/-- The launch with 256 bytes of every group and die. -/
def wide : State := inLaunch fun l => { l with packet := BitVec.ofNat 512 (l.packet.toNat + 256 * 2 ^ 224 + 256 * 2 ^ 288) }
def wideAt (v : Word) : State := wide.setX 1 v
def groupAt : Word := BitVec.ofNat 64 (2 * 2 ^ 56 + 2 ^ 41)
def packageAt : Word := BitVec.ofNat 64 (4 * 2 ^ 56)

/-- A read, a store and an atomic of a group, of a die column of its own and of PACKAGE, and an atomic of the own slice. -/
theorem witness_RemoteAccessesSend :
    let phased (v : Word) : State := (wideAt v).updTile 0 fun tl => { tl with phase := 7 }
    wide.paired wide.curTile = false ∧ wide.cur.countsZero (waitMask 0) = true ∧
    (LoadForm (.ld 3 1 0 0 0) (phased groupAt) 3 groupAt 3 false 0 4 ∧ (phased groupAt).memCheck 0 0 groupAt (2 ^ 3) 3 = .ok (.group 0 0)) ∧
    (StoreForm (.sd 3 1 0 0 0) (phased groupAt) 0 groupAt 3 0 4 ∧ (phased groupAt).memCheck 0 1 groupAt (2 ^ 3) 3 = .ok (.group 0 0)) ∧
    (StoreForm (.sd 3 1 0 0 0) (phased packageAt) 0 packageAt 3 0 4 ∧
      (phased packageAt).memCheck 0 1 packageAt (2 ^ 3) 3 = .ok (.package 0)) ∧
    (AtomicForm (.amoadd 3 1 1 2 0 0) (phased groupAt) 3 groupAt 3 0 0 0 0 false ∧
      (phased groupAt).memCheck 0 2 groupAt (2 ^ 3) 3 = .ok (.group 0 0)) ∧
    (AtomicForm (.amofadd 3 1 1 2 2 0 1) (phased 0) 3 0 3 16 2 0 0 true ∧ (phased 0).memCheck 0 2 0 (2 ^ 3) 3 = .ok (.slice 0 0)) ∧
    (∃ p, (phased (BitVec.ofNat 64 (3 * 2 ^ 56 + 2 ^ 35))).memCheck 0 0 (BitVec.ofNat 64 (3 * 2 ^ 56 + 2 ^ 35)) (2 ^ 3) 3 = .ok p ∧
      p = .die 0 0) ∧ wide.cur.count (placeCls (.group 0 0)) ≠ 65535 := by
  refine ⟨?_, ?_, ⟨.inl ⟨1, 0, 0, ?_, rfl, .inr (.inr (.inr (.inl ⟨rfl, rfl, rfl⟩)))⟩, ?_⟩,
    ⟨.inl ⟨1, 0, 0, ?_, rfl, .inl ⟨3, ?_, .inr (.inr (.inr ⟨rfl, rfl⟩))⟩⟩, ?_⟩,
    ⟨.inl ⟨1, 0, 0, ?_, rfl, .inl ⟨3, ?_, .inr (.inr (.inr ⟨rfl, rfl⟩))⟩⟩, ?_⟩,
    ⟨⟨1, 2, 1, 0, ?_, ?_, rfl, rfl, .inl ⟨rfl, .inl ⟨rfl, rfl⟩⟩⟩, ?_⟩,
    ⟨⟨1, 2, 1, 1, ?_, ?_, rfl, rfl, .inr ⟨rfl, rfl⟩⟩, ?_⟩, ⟨.die 0 0, ?_, rfl⟩, ?_⟩ <;> decide +kernel

/-- A store waits for its own N; a load outside every window and a misaligned atomic stop. -/
theorem witness_AccessesThatStop :
    let busy : State := inSlot fun sl => { sl with cntN := 1 }
    StoreForm (.sd 3 1 0 0 1) busy 0 0 3 1 4 ∧ busy.cur.countsZero (waitMask 1) = false ∧
    LoadForm (.ld 3 1 0 0 0) (x1 0x10000) 3 0x10000 3 false 0 4 ∧ (x1 0x10000).memCheck 0 0 0x10000 (2 ^ 3) 3 = .trap .window 3 ∧
    AtomicForm (.amoswp 3 1 1 2 0 0) (x1 4) 3 4 3 8 0 0 0 false ∧ (x1 4).memCheck 0 2 4 (2 ^ 3) 3 = .trap .align 0 ∧
    (x1 4).cur.countsZero (waitMask 0) = true ∧ (x1 4).cur.flk = 0 := by
  refine ⟨.inl ⟨1, 0, 0, ?_, rfl, .inl ⟨3, ?_, .inr (.inr (.inr ⟨rfl, rfl⟩))⟩⟩, ?_,
    .inl ⟨1, 0, 0, ?_, rfl, .inr (.inr (.inr (.inl ⟨rfl, rfl, rfl⟩)))⟩, ?_,
    ⟨1, 2, 1, 0, ?_, ?_, rfl, rfl, .inl ⟨rfl, by simp⟩⟩, ?_, ?_, ?_⟩ <;> decide +kernel

/-- A request of a thread. -/
def reqOf (acc : Acc) (addr : Word) : Req :=
  { num := 0, who := .thread 0 0, acc := acc, addr := addr, size := 8, data := 5, d := 3, code := 3, sign := false, fn := 0, k1 := 0, rm := 0,
    nt := false, cls := if acc = .store then 1 else 0, lid := 1, part := 0, elem := 0, dst := 0, phys := none, lvl := 0, tbl := 0, gen := 0,
    lgrp := 0, pgrp := 0, grant := none, len := 4, peer := none, bad := false }

theorem witness_AtomicsAtTheirController :
    (reqOf .atomic 0).acc = .atomic ∧ (reqOf .atomic 0).size = 8 ∧ { reqOf .atomic 0 with size := 4, fn := 9 }.size = 4 ∧
    (reqOf .atomic 0).fn ≤ 9 ∧ { reqOf .atomic 0 with size := 4, fn := 9 }.fn ≤ 9 ∧ poisonIn w0.poison 0x200 8 = none := by decide +kernel

/-- Counts that hold WAITC up and let it pass; no tile, the own tile and the next one as a WALK's destination. -/
theorem witness_WaitWalkWhere :
    let two : State := inLaunch fun l => { l with packet := BitVec.ofNat 512 (l.packet.toNat + 2 ^ 112) }
    let tile01 : Word := BitVec.ofNat 64 (2 ^ 56 + 2 ^ 32)
    w0.cur.countsZero 7 = true ∧ (inSlot fun sl => { sl with cntP := 1 }).cur.countsZero (2 : BitVec 3).toNat = false ∧ w0.cur.flk = 0 ∧
    w0.walkWin 0 tile01 = none ∧ w0.walkWin 0 0xFFFF = some (.loc 0xFFFF) ∧ w0.walkTo 0 (.loc 0xFFFF) = none ∧
    two.walkWin 0 tile01 = some (.tile 0 1 0) ∧ two.walkTo 0 (.tile 0 1 0) = some (0, 1) ∧ (two.launch two.curT.lid).inRect 0 1 = true ∧
    two.cur.flk ≠ 1 ∧ decodeWin 0xFFFF = some (.loc 0xFFFF) ∧ 0xFFFF + 1 ≤ (two.launch two.curT.lid).parkBase ∧
    decodeWin (BitVec.allOnes 64) = none := by decide +kernel

theorem witness_RoundingModes : (3 : Nat) < 4 ∧ 0 < (1 : Nat) ∧ (0 : Nat) < 4 := by decide

theorem witness_FloatingSpecialResults : (0 : Nat) < 4 ∧ 0 < (1 : Nat) ∧ (FpVal.nan true).isNan = true := by decide

/-- Records of four 32-bit integers: d and a in LOCAL, and one that leaves the slice. -/
def vecState : State := inTile fun tl =>
  { tl with h := [(0, recordOf 0 2 4 0x200), (1, recordOf 0 2 4 0x300), (2, recordOf 0 2 4 0x400), (3, recordOf 0 2 8 0x400),
                  (4, recordOf 0 2 4 0xFFF8), (5, recordOf 0 2 1 0x402), (6, recordOf 0 12 4 0x400), (7, recordOf 0 2 1 0x404)] }
def vecOps (s : State) (i : Instr) : Option VOps := (vecOf i).map fun w => s.curT.vops w

/-- A VADD that enters; one of a wrong type, of unlike counts, out of the slice, and misaligned; one that finds four entries held. -/
theorem witness_VectorWordsIssue :
    let s := vecState
    let o (i : Instr) (p : VOps → Bool) : Bool := ((vecOps s i).map p).getD false
    let e : SeqEntry := s.newEntry (.vadd 0 1 2 0 2) ((vecOps s (.vadd 0 1 2 0 2)).getD ⟨⟨.add, 0, 0, 0, 0, 0⟩, 0, 0, 0⟩) 0 [] 0
    let full : State := s.updTile 0 fun tl => { tl with seq := (List.range 16).map fun n => { e with num := n } }
    (o (.vadd 0 1 2 0 2) fun o => o.typesOk && o.countsOk 0 && o.chainOk s 0 0 &&
      (shapeTrap (s.launch s.curT.lid).parkBase o.shaped).isNone) = true ∧ s.curT.seqRoom.isSome = true ∧
    (o (.vadd 0 1 6 0 2) fun o => !o.typesOk) = true ∧ (o (.vadd 0 1 3 0 2) fun o => o.typesOk && !o.countsOk 0) = true ∧
    (o (.vadd 4 1 2 0 2) fun o => o.countsOk 0 && shapeTrap (s.launch s.curT.lid).parkBase o.shaped == some (.window, 0xFFF8)) = true ∧
    (o (.vadd 5 7 7 0 2) fun o => o.countsOk 0 && shapeTrap (s.launch s.curT.lid).parkBase o.shaped == some (.align, 0x402)) = true ∧
    full.curT.seqRoom = none ∧ s.cur.flk = 0 ∧ s.cur.wait = .none ∧
    (inSlot fun sl => { sl with wait := .entry e }).cur.wait = .entry e := by decide +kernel

/-- VXCHG without a group-table entry; a chain operand without a neighbour; VFILL of a shaped destination. -/
theorem witness_VectorWordsIssue_rest :
    let s : State := inTile fun tl => { tl with h := [(0, recordOf 0 2 4 0x200), (1, recordOf 3 2 4 0)] }
    s.xchgMembers s.curTile (s.cur.kr 1).toNat = none ∧
    ((vecOps s (.vxchg 0 0 2)).map fun o => o.typesOk) = some true ∧
    ((vecOps s (.vadd 0 1 0 0 2)).map fun o => o.typesOk && o.countsOk 0 && !o.chainOk s 0 0) = some true ∧
    vecOf (.vfill 7 1 2) = some ⟨.fill, 7, 1, 0, 0, 2⟩ ∧ (7 : BitVec 4).toNat < 8 := by decide +kernel

/-- A valid and an invalid shape record; a VLOOP over one entry, without one and beside another repeat; a busy and an idle
sequencer; a full queue and one with room. -/
theorem witness_SequencerWords :
    let at_ (v : Nat) : State := { x1 0x220 with mem := writeMem [] (w0.sliceKey 0 0x220) 32 v }
    let e : SeqEntry := (vecState.newEntry (.vadd 0 1 2 0 2) ((vecOps vecState (.vadd 0 1 2 0 2)).getD ⟨⟨.add, 0, 0, 0, 0, 0⟩, 0, 0, 0⟩) 0 [] 0)
    let held (c : Word) (r : List SeqEntry) : State := (w0.updTile 0 fun tl => { tl with seq := e :: r }).updCur fun sl =>
      { sl with x := sl.x.set 1 c, repeatSet := [e.num] }
    let rep : SeqEntry := { e with num := 9, instr := .vloop 1 0, set := [e.num], count := 2 }
    let q (n : Nat) : State := inTile fun tl => { tl with q := [(0, List.replicate n 0)] }
    (at_ 0).localAt 0x220 32 0x220 ∧ (∀ off, ¬ (x1 0x10000).localAt 0x10000 32 off) ∧ (x1 0x21F).localAt 0x21F 32 0x21F ∧ (0x21F : Nat) % 32 ≠ 0 ∧
    Rec.valid (BitVec.ofNat 256 (recordOf 0 2 4 0).toNat) = true ∧ Rec.valid (BitVec.ofNat 256 (2 ^ 23)) = false ∧
    poisonIn (at_ 0).poison ((at_ 0).sliceKey 0 0x220) 32 = none ∧
    ((held 0 []).xr 1).toNat % 65536 = 0 ∧ ((held 2 []).xr 1).toNat % 65536 ≠ 0 ∧
    ((held 2 []).cur.repeatSet.filter fun i => (held 2 []).curT.seq.any fun e => e.num == i).length = 1 ∧
    e.repeatFits ((held 2 []).launch (held 2 []).curT.lid).parkBase 2 = true ∧
    ((held 2 [rep]).curT.seq.any fun e => e.isRepeat && e.slot == (held 2 [rep]).curSlot) = true ∧
    ((held 2 []).curT.seq.any fun e => e.isRepeat && e.slot == (held 2 []).curSlot) = false ∧
    (∃ x ∈ (held 2 []).curT.seq, x.slot = (held 2 []).curSlot ∧ x.st ≠ .done) ∧ (∀ x ∈ w0.curT.seq, x.slot = w0.curSlot → x.st = .done) ∧
    8 ≤ (8 : BitVec 4).toNat ∧ 8 ≤ ((q 8).curT.queue 0).length ∧ ((q 7).curT.queue 0).length < 8 ∧ w0.cur.flk = 0 := by
  refine ⟨?_, ?_, ?_, ?_, ?_, ?_, ?_, ?_, ?_, ?_, ?_, ?_, ?_, ⟨_, List.mem_cons_self, ?_⟩, ?_, ?_⟩
  case refine_2 =>
    intro off h
    have hn : decodeWin 0x10000 = none := by decide +kernel
    have := h.1
    rw [hn] at this
    cases this
  case refine_1 => exact ⟨by decide +kernel, by decide +kernel⟩
  case refine_3 => exact ⟨by decide +kernel, by decide +kernel⟩
  all_goals decide +kernel

/-- Commands of good and bad records, a chain operand without a neighbour, a record out of the slice, a full queue; a ticket
outstanding and complete. -/
theorem witness_MatrixWords :
    let s : State := inTile fun tl => { tl with h := [(0, recordOf 0 12 4 0x200), (1, recordOf 0 12 4 0xFFF8), (2, recordOf 3 12 4 0)] }
    let c : MCmd := { ticket := 0, instr := .mzro 0, pc := 0, slot := 0, lid := 1, recD := 0, recA := 0, chain := 0, steps := 0, row := [],
                      flags := 0, err := none, finished := false, ready := 0 }
    let busy (n : Nat) : State := inTile fun tl => { tl with mq := List.replicate n c, mI := n, h := [(0, recordOf 0 12 4 0x200)] }
    mIll (.mldb 0 0 0) 0 (s.curT.hrec 0) = false ∧ mIll (.mldb 7 0 0) 0 (s.curT.hrec 7) = true ∧
    shapeTrap (s.launch s.curT.lid).parkBase [s.curT.hrec 0] = none ∧
    shapeTrap (s.launch s.curT.lid).parkBase [s.curT.hrec 1] = some (.window, 0xFFF8) ∧ mIll (.mldb 1 0 0) 0 (s.curT.hrec 1) = false ∧
    Rec.kind (s.curT.hrec 2) = 3 ∧ s.chainUp 0 s.curT.chain = none ∧
    8 ≤ (busy 8).curT.mq.length ∧ (busy 7).curT.mq.length < 8 ∧
    ((0 : Nat) + 65536 - (busy 1).curT.mC) % 65536 < ((busy 1).curT.mI + 65536 - (busy 1).curT.mC) % 65536 ∧
    ¬ ((0 : Nat) + 65536 - w0.curT.mC) % 65536 < (w0.curT.mI + 65536 - w0.curT.mC) % 65536 ∧ s.cur.flk = 0 ∧ s.cur.wait = .none ∧
    (busy 8).cur.wait = .none ∧ (inSlot fun sl => { sl with wait := .command c }).cur.wait = .command c := by decide +kernel

/-- A job of a pen. -/
def jobOf (st : JobState) : Job :=
  { (w0.dgoJob 0 0 w0.cur 0) with xid := 1, src := 0x200, dst := BitVec.ofNat 64 (2 * 2 ^ 56 + 2 ^ 41), bytes := 16, st := st }
def withJob (j : Job) : State := (x1 1).updPen 0 fun p => { p with jobs := [j] }

/-- DGO and DMCST with status 0 and 2, a pen of 31 and of 32 jobs, a job queued, kept, streaming and unknown. -/
theorem witness_DroverWords :
    let sh (v : List (Nat × Word)) : State := inSlot fun sl =>
      { sl with shadow := v.foldl (fun a x => if h : x.1 < 16 then a.set x.1 x.2 h else a) sl.shadow }
    let good := sh [(0, 0x200), (1, 0x300), (2, 16)]
    let j : Job := jobOf .queued
    let pen (n : Nat) : State := w0.updPen 0 fun p => { p with jobs := List.replicate n j }
    w0.paired w0.curTile = false ∧ good.dgoStatus 0 good.cur (good.curT.hrec 0) = 0 ∧
    (sh [(0, BitVec.allOnes 64)]).dgoStatus 0 (sh [(0, BitVec.allOnes 64)]).cur 0 = 2 ∧ (w0.dmcst 0 0 w0.cur 0 0).1 = 2 ∧
    32 ≤ (((pen 32).keptJobs 0).filter Job.outstanding).length ∧ (((pen 31).keptJobs 0).filter Job.outstanding).length < 32 ∧
    (((withJob j).pen (penKey 0)).job (((withJob j).xr 1).toNat % 65536) = some j ∧ j.tile = 0 ∧ j.st ≠ .kept ∧ j.strm = false) ∧
    ((withJob { j with strm := true }).pen 0).job 1 = some { j with strm := true } ∧
    ((withJob (jobOf .kept)).pen 0).job 1 = some (jobOf .kept) ∧ (w0.pen 0).job 0 = none ∧ w0.cur.flk = 0 := by decide +kernel

/-- DMCST to one member of its launch's entry is accepted. -/
theorem witness_DroverWords_dmcst :
    let s : State := ((w0.updPart 0 fun p => { p with gtab := [(0, [0])] }).updLaunch 1 fun l => { l with entries := [0] })
    (s.dmcst 0 0 s.cur 0x200 (BitVec.ofNat 64 (2 ^ 56 + 0x400))).1 = 0 := by decide +kernel

theorem witness_CounterWords : w0.paired w0.curTile = false ∧ (x1 0x220).localAt 0x220 32 0x220 ∧ (0x220 : Nat) % 32 = 0 ∧
    poisonIn w0.poison (w0.sliceKey 0 0x220) 32 = none ∧ w0.cur.flk = 0 := by
  refine ⟨?_, ⟨?_, ?_⟩, ?_, ?_, ?_⟩ <;> decide +kernel

/-- Level 1 is a domain of the launch, level 3 is not; a thread with a store outstanding; a tile that has arrived. -/
theorem witness_HurdleArrivals :
    let arrived : State := inTile fun tl => { tl with hur := [(1, { HurState.fresh with arr := true })] }
    w0.paired w0.curTile = false ∧ w0.hurDom 0 3 = none ∧ w0.hurDom 0 (1 : BitVec 2).toNat = some (1, w0.domOf 0 1) ∧
    w0.hurDom 1 0 = none ∧ (inSlot fun sl => { sl with cntN := 1 }).drained 0 0 = false ∧ w0.drained w0.curTile w0.curSlot = true ∧
    (arrived.curT.hurd 1).arr = true ∧ (w0.curT.hurd 1).arr = false ∧ (w0.curT.hurd 1).drop = false ∧ w0.cur.flk = 0 := by decide +kernel

/-- HWT that has waited and not; TTGO of no timetable, of one held and of one not held. -/
theorem witness_HurdleQueries :
    let waiting (n : Nat) : State := (inSlot fun sl => { sl with wait := .release n }).updTile 0 fun tl =>
      { tl with hur := [(1, { HurState.fresh with arr := true, rels := 4 })] }
    let tts : State := inLaunch fun l => { l with tts := [(5 * 128 * 160, [])] }
    w0.hurDom 0 3 = none ∧ (w0.hurDom 0 1).isSome = true ∧ (waiting 4).cur.wait = .release 4 ∧ ((waiting 4).curT.hurd 1).rels = 4 ∧
    (waiting 3).cur.wait = .release 3 ∧ ((waiting 3).curT.hurd 1).rels ≠ 3 ∧ (∀ n, w0.cur.wait ≠ .release n) ∧
    ((x1 255).xr 1).toNat % 256 = 255 ∧
    (∃ e ∈ (tts.launch tts.curT.lid).tts, e.1 / (128 * 160) = (0 : BitVec 1).toNat * 256 + 5) ∧
    ¬ ((x1 254).xr 1).toNat % 256 = 255 ∧ (∀ e ∈ (w0.launch w0.curT.lid).tts, e.1 / (128 * 160) ≠ 254) ∧ w0.cur.flk = 0 := by
  refine ⟨?_, ?_, ?_, ?_, ?_, ?_, ?_, ?_, ⟨(5 * 128 * 160, []), ?_, ?_⟩, ?_, ?_⟩
  case refine_7 =>
    intro n h
    have : w0.cur.wait = .none := by decide +kernel
    rw [this] at h
    cases h
  all_goals decide +kernel

/-- SENDM to no tile, to the own tile; an inbox empty and not; a routine filled. -/
theorem witness_MessageWords :
    let mail : State := inTile fun tl => { tl with inbox := [5], routines := [(31, { Routine.fresh with vld := true })] }
    w0.paired 0 = false ∧ (x1 0xFFE8).localAt 0xFFE8 24 0xFFE8 ∧ (0xFFE8 : Nat) % 8 = 0 ∧ poisonIn w0.poison (w0.sliceKey 0 0xFFE8) 24 = none ∧
    w0.sendDest 0 (BitVec.ofNat 64 128) = none ∧ w0.sendDest 0 (BitVec.ofNat 64 (2 ^ 19)) = some (none, false, 0) ∧ tDie 0 = tDie w0.curTile ∧
    (x1 0xFFE0).localAt 0xFFE0 32 0xFFE0 ∧ w0.curT.inbox = [] ∧ mail.curT.inbox = 5 :: [] ∧ (mail.curT.routine 31).vld = true ∧
    w0.cur.flk = 0 := by
  refine ⟨?_, ⟨?_, ?_⟩, ?_, ?_, ?_, ?_, ?_, ⟨?_, ?_⟩, ?_⟩ <;> decide +kernel

/-- A launch packet of one tile at level 0 of one die. -/
def packetOf : Nat :=
  4 * 2 ^ 56 + 64 + 2 ^ 88 + 2 ^ 112 + 2 ^ 128 + 2 ^ 136 + 256 * 2 ^ 160

/-- LNCH of a good packet, of none, at depth 7 and 8, with a full and an almost full pool, and with an access outstanding. -/
theorem witness_LaunchWords :
    let good (s : State) : Bool := (s.childLaunch 0 (BitVec.ofNat 512 packetOf)).packetValid false && (s.childLaunch 0 (BitVec.ofNat 512 packetOf)).childValid
    let at_ (n : Nat) : State := inLaunch fun l => { l with depth := n }
    let pool (n : Nat) : State := w0.updDie 0 fun d => { d with pool := List.replicate n 1 }
    w0.paired w0.curTile = false ∧ (x1 0xFFC0).localAt 0xFFC0 64 0xFFC0 ∧ (0xFFC0 : Nat) % 64 = 0 ∧
    (inSlot fun sl => { sl with cntF := 1 }).drained 0 0 = false ∧ w0.drained w0.curTile w0.curSlot = true ∧
    poisonIn w0.poison (w0.sliceKey 0 0xFFC0) 64 = none ∧ good w0 = true ∧ (w0.childLaunch 0 0).packetValid false = false ∧
    (w0.childLaunch 0 (BitVec.ofNat 512 packetOf)).twin = false ∧ 8 ≤ ((at_ 8).launch (at_ 8).curT.lid).depth ∧ good (at_ 8) = true ∧
    ((at_ 7).launch (at_ 7).curT.lid).depth < 8 ∧ 4096 ≤ ((pool 4096).die 0).pool.length ∧ ((pool 4095).die 0).pool.length < 4096 ∧
    w0.draining 0 = false ∧ ((x1 0xFFFF).xr 1).toNat % 65536 = 0xFFFF ∧ w0.cur.flk = 0 := by
  refine ⟨?_, ⟨?_, ?_⟩, ?_⟩ <;> decide +kernel

/-- Registers of a program and of a supervisor, with and without privilege, and numbers that name none. -/
theorem witness_ControlRegisterReads :
    (2048 ≤ (0x861 : BitVec 12).toNat ∧ user.cur.priv = false) ∧ (18 ≤ (18 : BitVec 12).toNat ∧ (255 : BitVec 12).toNat < 256) ∧
    (352 ≤ (352 : BitVec 12).toNat ∧ (2047 : BitVec 12).toNat < 2048) ∧ ((2111 : BitVec 12).toNat < 2112 ∧ 2211 ≤ (2211 : BitVec 12).toNat) ∧
    w0.cur.priv = true ∧ w0.cur.flk = 0 ∧ (8 ≤ (11 : BitVec 12).toNat ∧ (11 : BitVec 12).toNat < 12) ∧
    ((31 : Nat) < 32 ∧ (0x11F : BitVec 12).toNat = 0x100 + 31) ∧ (0x15F : BitVec 12).toNat = 0x140 + 31 := by decide +kernel

/-- An XINV and an LEND in progress, and the registers with a written value. -/
theorem witness_ControlRegisterWrites :
    user.cur.priv = false ∧ w0.cur.priv = true ∧ (6 : BitVec 12).toNat ≤ 6 ∧ (14 ≤ (17 : BitVec 12).toNat ∧ (17 : BitVec 12).toNat ≤ 17) ∧
    ((0x885 : BitVec 12).toNat = 0x885 ∧ (0x888 : BitVec 12).toNat ≤ 0x888) ∧ (18 ≤ (18 : BitVec 12).toNat ∧ 2211 ≤ (4095 : BitVec 12).toNat) ∧
    ((0 : Nat) < 32 ∧ (0x140 : BitVec 12).toNat = 0x140 + 0) ∧ { w0 with xinvBusy := true }.xinvBusy = true ∧
    { w0 with lendBusy := 1 }.lendActive = true ∧ w0.cur.flk = 0 := by decide +kernel

/-- A page table at 0x10000 of partition 0's HBM4: one leaf of 64 KiB pages. -/
def paged (s : State) : State :=
  let e (k v : Nat) (m : List Host.Cell) := writeMem m (hbmKey k) 8 v
  { (s.updPart 0 fun p => { p with ptEn := true, ptAddr := 0x10000, hbase := 0, hlen := 0x100000, owner := 7 }) with
    mem := e 0x10000 (0x11000 + 1) (e 0x11000 (0x12000 + 1) (e 0x12000 (0x13000 + 1) (e 0x13000 (0x20000 + 7 + 7 * 2 ^ 52) s.mem))) }

/-- A save area of launch 2, die 3, of no tiles, behind a page table of one 2 MiB leaf (R353, R368): its header, and zeros. -/
def savedArea : State :=
  let s := ((w0.setX 1 2).setX 2 packageAt).updPart 0 fun p => { p with ptEn := true, ptAddr := 0x10000, hbase := 0, hlen := 0x400000, owner := 7 }
  { (s.updLaunch 2 fun _ => { Launch.fresh with st := .saved, savedDies := [3] }) with
    mem := [(2 ^ 40 + 0x10000, 1), (2 ^ 40 + 0x10001, 0x10), (2 ^ 40 + 0x10002, 1), (2 ^ 40 + 0x11000, 1), (2 ^ 40 + 0x11001, 0x20),
            (2 ^ 40 + 0x11002, 1), (2 ^ 40 + 0x12000, 7), (2 ^ 40 + 0x12002, 0x20), (2 ^ 40 + 0x12006, 0x70)] ++
           [(2 ^ 40 + 0x200000, 0x4B), (2 ^ 40 + 0x200001, 0x5A), (2 ^ 40 + 0x200002, 0x53), (2 ^ 40 + 0x200003, 0x56),
            (2 ^ 40 + 0x200004, 1), (2 ^ 40 + 0x200006, 2), (2 ^ 40 + 0x200008, 3), (2 ^ 40 + 0x20001A, 4)] }

/-- The area's header reads well, names launch 2 and its saved die. -/
theorem savedArea_header : ((savedArea.readPkg 0 0 256).map fun h => saveHeaderOk h 2 && (savedArea.launch 2).savedDies.contains (imgNum h 8 1)) =
    some true := by decide +kernel

theorem savedArea_table : pteIndex 3 0 = 0 ∧ (savedArea.walkTable (savedArea.part 0) 0 4 0x10000) = some (1, 0x200000 + 7 + 7 * 2 ^ 52) ∧
    savedArea.poison = [] ∧ (savedArea.part 0).ptEn = true ∧ (savedArea.part 0).ptAddr = 0x10000 ∧ (savedArea.part 0).owner = 7 ∧
    hbmKey (pteAddr (0x200000 + 7 + 7 * 2 ^ 52)) = 2 ^ 40 + 0x200000 ∧ pteOwner (0x200000 + 7 + 7 * 2 ^ 52) = 7 := by decide +kernel

/-- A walk that ends at level 1 or above depends on an address only above that level's page. -/
theorem walkTable_congr (s : State) (p : Part) {a b : Nat} (h : ∀ l, 1 ≤ l → l < 4 → pteIndex l a = pteIndex l b) :
    ∀ n ≤ 4, ∀ t r, s.walkTable p a n t = some r → 1 ≤ r.1 → s.walkTable p b n t = some r := by
  intro n
  induction n with
  | zero => intro _ t r hr; exact absurd hr (by simp [State.walkTable])
  | succ n ih =>
    intro hn t r hr h1
    rcases Nat.eq_zero_or_pos n with rfl | hp
    · simp only [State.walkTable] at hr
      split at hr
      · cases hr
      · split at hr
        · cases hr; exact absurd h1 (by simp)
        · cases hr
    · simp only [State.walkTable, h n hp (by omega)] at hr ⊢
      split at hr
      · cases hr
      · rename_i hb
        rw [if_neg hb]
        split at hr
        · rename_i hl; rw [if_pos hl]; exact hr
        · rename_i hl; rw [if_neg hl]; exact ih (by omega) _ _ hr h1

theorem savedArea_page (i : Nat) (h : i < 0x200000) : savedArea.xlate 0 i false = some (2 ^ 40 + 0x200000 + i) := by
  obtain ⟨-, hw, -, he, ha, ho, hk, hp⟩ := savedArea_table
  have hc : ∀ l, 1 ≤ l → l < 4 → pteIndex l 0 = pteIndex l i := by
    intro l hl hl'
    have : l = 3 ∨ l = 2 ∨ l = 1 := by omega
    rcases this with rfl | rfl | rfl <;> simp only [pteIndex, nf] <;> omega
  have hw' := walkTable_congr savedArea (savedArea.part 0) hc 4 (by omega) 0x10000 _ hw (by decide)
  have hm : i % pageBytes 1 = i := Nat.mod_eq_of_lt h
  simp only [State.xlate, he, ha, hw', ho, hp]
  simp only [hbmKey] at hk ⊢
  simp only [hm, Bool.not_true, Bool.false_eq_true, if_false, ne_eq, not_true_eq_false, false_and, or_self, ← Nat.add_assoc, hk]

theorem mapM_some {α β : Type} (f : α → Option β) (g : α → β) : ∀ l : List α, (∀ x ∈ l, f x = some (g x)) → l.mapM f = some (l.map g)
  | [], _ => rfl
  | x :: r, h => by
    rw [List.mapM_cons, h x List.mem_cons_self, mapM_some f g r fun y hy => h y (List.mem_cons_of_mem x hy)]
    rfl

def areaByte (i : Nat) : Byte := readByte savedArea.mem (2 ^ 40 + 0x200000 + i)

theorem savedArea_reads : savedArea.readArea 0 0 0x40000 = some ((List.range 0x40000).map areaByte) := by
  refine mapM_some _ _ _ fun i hi => ?_
  have hi' : i < 0x40000 := List.mem_range.1 hi
  simp only [Nat.zero_add, savedArea_page i (by omega)]
  rfl

theorem areaByte_zero (i : Nat) (h : 32 ≤ i) : areaByte i = 0 := by
  simp only [areaByte, readByte, savedArea, List.cons_append, List.nil_append, tget]
  repeat rw [if_neg (by omega)]

theorem ofBytes_zero : ∀ l : List Byte, (∀ b ∈ l, b = 0) → ofBytes l = 0
  | [], _ => rfl
  | b :: r, h => by simp [ofBytes, h b List.mem_cons_self, ofBytes_zero r fun x hx => h x (List.mem_cons_of_mem b hx)]

theorem area_lid (n k : Nat) (h : 32 ≤ k) : (counterOf ((((List.range n).map areaByte).drop k).take 64)).lid = 0 := by
  refine ofBytes_zero _ fun b hb => ?_
  have hb := List.mem_of_mem_take (List.mem_of_mem_drop (List.mem_of_mem_take hb))
  rw [← List.map_drop, List.mem_map] at hb
  obtain ⟨i, hi, rfl⟩ := hb
  refine areaByte_zero i ?_
  rw [List.mem_iff_getElem] at hi
  obtain ⟨m, hm, rfl⟩ := hi
  simp only [List.getElem_drop, List.getElem_range]
  omega

theorem savedArea_launch : (savedArea.launch 2).tilesOn 0 = [] ∧ (savedArea.launch 2).groups = [] ∧
    areaDie (savedArea.launch 2) + (savedArea.launch 2).dlen = 0x10000 ∧ areaTotal (savedArea.launch 2) = 0x40000 := by decide +kernel

theorem areaCounters_nil (area : List Byte) (h : ∀ i, (counterOf ((area.drop (0x10000 + 64 * i)).take 64)).lid = 0) :
    areaCounters (savedArea.launch 2) 2 0 area = [] := by
  obtain ⟨ht, hg, hd, -⟩ := savedArea_launch
  simp only [areaCounters, ht, hg, hd, List.length_nil, List.range_zero, List.zip_nil_left, List.map_nil, List.flatten_nil, List.nil_append]
  rw [List.filterMap_eq_nil_iff]
  intro i _
  rw [if_neg (by rw [h i]; decide)]

theorem loadDie_some (area : List Byte) (bad : List Nat) (h : areaCounters (savedArea.launch 2) 2 0 area = []) :
    ∃ u, savedArea.loadDie 2 3 0 area bad = some u := by
  simp only [State.loadDie, h, State.rebind, Option.map_some]
  exact ⟨_, rfl⟩

/-- The area reads whole and its die can be restored. -/
theorem savedArea_loads : ∃ area, savedArea.readArea 0 0 (areaTotal (savedArea.launch 2)) = some area ∧
    ∃ u, savedArea.loadDie 2 3 0 area (savedArea.areaPoison 0 0 ((savedArea.areaKeys (savedArea.launch 2) 0).map Prod.fst)) = some u :=
  ⟨_, savedArea_launch.2.2.2 ▸ savedArea_reads, loadDie_some _ _ (areaCounters_nil _ fun _ => area_lid _ _ (by omega))⟩

/-- XSAVE of a launch on the die, XLOAD of one that is saved; addresses outside PACKAGE and misaligned; no such launch. -/
theorem witness_SaveAndRestoreWords :
    user.cur.priv = false ∧ w0.cur.priv = true ∧ w0.cur.flk = 0 ∧ decodeWin 0x8000 = some (.loc 0x8000) ∧
    decodeWin (packageAt + 0xFFFF) = some (.package 0xFFFF) ∧ (0xFFFF : Nat) % 65536 ≠ 0 ∧ decodeWin (savedArea.xr 2) = some (.package 0) ∧
    (w0.launch 2).holdsOn 0 = false ∧ (w0.launch 2).savedDies = [] ∧ (w0.launch 1).holdsOn 0 = true ∧
    (((savedArea.launch 2).tilesAt 0).all savedArea.tileFree && savedArea.rangesFree (savedArea.launch 2) 0) = true ∧
    ((w0.launch 1).tilesAt 0).all w0.tileFree = false := by decide +kernel

/-! Hardware steps -/

/-- Slot 0 of tile 0 about to walk to tile 1. -/
def walking : State := ask (inSlot fun sl => { sl with st := .block, wait := .walk 1 true 0x100 0 }) 0 0 0 0

/-- Its walk message, for a tile of the launch. -/
def ctxOf (dest origin : Nat) : WalkCtx :=
  { dest := dest, origin := origin, origSlot := 0, explicit := true, resume := false, lid := 1, pc := 0x104, status := 0,
    x := Vector.replicate 16 0, loops := [], home := none, answer := 0, desc := 0, opc := 0, fpx := none, refusals := [], engErrs := [], phys := 0, addr := 0x100, code := 0 }

/-- Tile 1 in the launch, with slots in use and park places. -/
def two (used park : Nat) : State :=
  (w0.updSlot 0 0 fun sl => { sl with st := .out }).updTile 1 fun tl =>
    { tl with lid := 1, parkCap := park, slots := (List.range used).map fun u => (u, { Slot.fresh with st := .run, lid := 1 }) }

theorem witness_WalkSteps :
    walking.walkWaiting 0 0 = some (1, true) ∧ walking.drained 0 0 = true ∧ (walking.slot 0 0).flk = 0 ∧ (walking.slot 0 0).back = none ∧
    ((walking.updSlot 0 0 fun sl => { sl with cntN := 1 }).walkWaiting 0 0 = some (1, true) ∧
      (walking.updSlot 0 0 fun sl => { sl with cntN := 1 }).drained 0 0 = false) ∧
    (gets (two 7 0) (.walk (ctxOf 1 0))).arrived = some (.walk (ctxOf 1 0)) ∧ w0.walkRefusal (ctxOf 1 0) = some .nak ∧
    (two 7 0).walkRefusal (ctxOf 1 0) = none ∧ ((two 8 0).tile 1).freeSlot = none ∧ ((two 8 0).tile 1).parkCap ≤ ((two 8 0).tile 1).parkq.length ∧
    (ctxOf 1 0).dest ≠ (ctxOf 1 0).origin ∧ ((two 7 0).tile 0).parkq = [] ∧ ((two 7 0).tile 1).freeSlot = some 7 ∧
    ((two 8 1).tile 1).parkq.length < ((two 8 1).tile 1).parkCap ∧ (ctxOf 1 0).desc.getLsbD 8 = false ∧ wf (ctxOf 1 0).desc 4 3 ≠ 4 ∧
    (gets (two 8 0) (.walkRefused (ctxOf 1 0) none)).arrived = some (.walkRefused (ctxOf 1 0) none) ∧ (ctxOf 1 0).resume = false ∧
    ((two 8 0).slot 0 0).st = .out ∧ (two 8 0).fenced 0 = false ∧ ((two 8 0).slot 0 0).flk = 0 ∧
    ((two 8 0).updSlot 0 0 fun sl => { sl with status := 0 }).cur.priv = false ∧
    (inSlot fun sl => { sl with wait := .reissue 64 }).cur.wait = .reissue 64 := by decide +kernel

/-- A thread in EXIT with and without a store outstanding; a routine ready; refusals, a late FPX and an engine error; a bad word. -/
theorem witness_ThreadStartAndEnd :
    let ending : State := inSlot fun sl => { sl with wait := .exit }
    let ready : State := inTile fun tl => { tl with routines := [(31, { Routine.fresh with vld := true, rdy := true })] }
    let due : State := inSlot fun sl => { sl with refusals := [⟨0, 8, .nak, false⟩], fpx := some (0xFC, 1, false),
                                                  engErrs := [⟨false, .align, 0xFC, 0⟩] }
    let bad : State := State.reset.withFetchWord 32 0x37
    w0.cur.wait ≠ .exit ∧ (ending.slot 0 0).wait = .exit ∧ ending.drained 0 0 = true ∧ (ending.tile 0).parkq = [] ∧
    (ready.tile 0).startable ready.now = some 31 ∧ (ready.tile 0).freeSlot = some 1 ∧ (ready.tile 0).parkq = [] ∧ (ready.tile 0).held = false ∧
    due.cur.refusals = ⟨0, 8, .nak, false⟩ :: [] ∧ (Cause.nak : Cause) ≠ .poison ∧ due.cur.fpx = some (0xFC, 1, false) ∧ due.cur.engErrs = [⟨false, .align, 0xFC, 0⟩] ∧
    due.cur.flk = 0 ∧ bad.fetchDecode bad.curTile bad.curSlot = .trap .ill 0x37 := by decide +kernel

/-- A store, a read and an atomic at a slice: in order and behind an older one, refused, poisoned, performed; and their answers. -/
theorem witness_RequestsAndAnswers :
    let s : State := { w0 with next := 1 }
    let at_ (acc : Acc) : State := gets s (.req (reqOf acc 0x200))
    let older : State := { at_ .read with flight := [⟨7, 1, .req { reqOf .read 0x200 with num := 2 }⟩, ⟨8, 1, .req { reqOf .store 0x200 with num := 1 }⟩] }
    let poisoned : State := { at_ .read with poison := [w0.sliceKey 0 0x200 / 16] }
    let ans (acc : Acc) (st : Nat) (w : Wait) : State := (gets s (.ans ⟨reqOf acc 0x200, st, 5, 0⟩)).updSlot 0 0 fun sl =>
      { sl with wait := w, st := .block, cntN := 1 }
    (at_ .store).arrived = some (.req (reqOf .store 0x200)) ∧ (reqOf .store 0x200).who = .thread 0 0 ∧
    (at_ .store).reqReady (reqOf .store 0x200) = true ∧ (at_ .store).reqPlace (reqOf .store 0x200) = some (.slice 0 0x200) ∧
    older.reqReady { reqOf .read 0x200 with num := 2 } = false ∧
    ((at_ .read).updTile 0 fun tl => { tl with lid := 2 }).refuses (reqOf .read 0x200) (.slice 0 0x200) = some .nak ∧
    (at_ .read).refuses (reqOf .read 0x200) (.slice 0 0x200) = none ∧ (at_ .read).placeKey (.slice 0 0x200) = some (w0.sliceKey 0 0x200) ∧
    (at_ .read).placeDead (.slice 0 0x200) = false ∧ poisonIn poisoned.poison (w0.sliceKey 0 0x200) 8 ≠ none ∧
    poisonIn (at_ .atomic).poison (w0.sliceKey 0 0x200) 8 = none ∧ partialPoison (at_ .store).poison (w0.sliceKey 0 0x200) 8 = none ∧
    (ans .read 0 .answer).ev.a ≠ 1 ∧ (ans .read 0 .answer).arrived = some (.ans ⟨reqOf .read 0x200, 0, 5, 0⟩) ∧ (reqOf .read 0x200).peer = none ∧
    ((ans .read 0 .answer).slot 0 0).wait = .answer ∧ ((ans .read 0 .none).slot 0 0).wait ≠ .answer ∧
    ((ans .read 0 .answer).slot 0 0).lid = (reqOf .read 0x200).lid ∧ ((ans .read 0 .answer).slot 0 0).parkReq = false ∧ ((ans .read 0 .answer).slot 0 0).pend = none ∧
    (ans .read 0 .answer).heldPark 0 0 1 = false ∧
    (reqOf .read 0x200).code ≠ 4 ∧ (reqOf .read 0x200).nt = false ∧ ((ans .read 9 .answer).slot 0 0).flk = 0 ∧
    ((ans .store 13 .none).slot 0 0).refusals.length < 4 := by decide +kernel

/-- PACKAGE requests: translated, behind a held one, untranslated without and with a root, of POD without a grant; table entries not
valid, of a table, of the owner's leaf and another's; the fault buffer and the invalidations. -/
theorem witness_TranslationSteps :
    let r (acc : Acc) : Req := { reqOf acc packageAt with cls := 2 }
    let pod : Req := { reqOf .store (BitVec.ofNat 64 (5 * 2 ^ 56)) with cls := 3 }
    let ph : Req := { r .read with phys := some (hbmKey 0x20000) }
    let at_ (q : Req) : State := gets (paged w0) (.req q)
    let tbl (lvl t : Nat) (acc : Acc) : Req := { r acc with lvl := lvl, tbl := t }
    let tab (q : Req) : State := gets (paged w0) (.table q)
    let e (q : Req) : Nat := readMem (paged w0).mem (hbmKey (q.tbl + 8 * pteIndex q.lvl q.va)) 8
    let p := (paged w0).part 0
    let fl (v : Nat) : State := { paged w0 with held := [r .store], tlb := [((r .store).agent, 0, 0, 0, v)] }
    let r' : Req := { r .store with phys := none, gen := (w0.fbGen + 1) % 65536, grant := none }
    (at_ ph).pkgReady ph = true ∧ { at_ ph with mgmt := { (at_ ph).mgmt with quiesced := [hbmChan 0x20000] } }.pkgReady ph = false ∧
    ph.phys = some (hbmKey 0x20000) ∧ w0.heldPark 0 0 1 = false ∧ poisonIn w0.poison (hbmKey 0x20000) 8 = none ∧
    (at_ (r .store)).pkgReady (r .store) = true ∧ (r .store).phys = none ∧ (at_ (r .store)).heldBefore (r .store) = false ∧
    wf (r .store).addr 56 8 = 4 ∧ ((at_ (r .store)).part 0).ptEn = true ∧ (at_ (r .store)).cached { r .store with grant := none, gen := 0 } = none ∧
    (w0.part 0).ptEn = false ∧ w0.faults.length < 1024 ∧ wf pod.addr 56 8 ≠ 4 ∧ pod.grant = none ∧ (at_ pod).findGrant pod = none ∧
    (at_ pod).pkgReady pod = true ∧
    (tab (tbl 3 0x10000 .store)).arrived = some (.table (tbl 3 0x10000 .store)) ∧ pteV (e (tbl 3 0x10000 .store)) = true ∧
    pteBad p.hbase p.hlen (e (tbl 3 0x10000 .store)) 3 = false ∧ pteLeaf (e (tbl 3 0x10000 .store)) = false ∧
    pteV (e (tbl 3 0x14000 .store)) = false ∧ (tbl 3 0x14000 .store).gen = (paged w0).fbGen ∧ (tbl 3 0x14000 .store).lvl < 4 ∧
    pteLeaf (e (tbl 0 0x13000 .store)) = true ∧ pteBad p.hbase p.hlen (e (tbl 0 0x13000 .store)) 0 = false ∧
    pteOwner (e (tbl 0 0x13000 .store)) = p.owner ∧ pteW (e (tbl 0 0x13000 .store)) = true ∧
    pteOwner (e (tbl 0 0x13000 .store)) ≠ (((paged w0).updPart 0 fun q => { q with owner := 8 }).part 0).owner ∧
    ((0 : Nat) % 65536 = w0.fbGen ∧ (65535 : Nat) % 65536 ≠ w0.fbGen) ∧
    (fl (0x20000 + 7 + 7 * 2 ^ 52)).held = [r .store] ∧ w0.held = [] ∧ (r .store).who = .thread 0 0 ∧
    (fl (0x20000 + 7 + 7 * 2 ^ 52)).cached r' = some (0, 0x20000 + 7 + 7 * 2 ^ 52) ∧ pteOwner (0x20000 + 7 + 7 * 2 ^ 52) = p.owner ∧
    pteW (0x20000 + 7 + 7 * 2 ^ 52) = true ∧ (fl 0).mgmt.quiesced.contains (hbmChan 0x20000) = false ∧ (fl 0).flight = [] ∧
    partialPoison (fl 0).poison (hbmKey 0x20000) 8 = none ∧ (fl (0x20000 + 7 + 8 * 2 ^ 52)).cached r' = some (0, 0x20000 + 7 + 8 * 2 ^ 52) ∧
    pteOwner (0x20000 + 7 + 8 * 2 ^ 52) ≠ p.owner ∧ wf (r .read).addr 56 8 = 4 ∧
    (gets w0 (.xinvDone 0 1 false)).arrived = some (.xinvDone 0 1 false) ∧ (gets w0 (.xinvDone 0 1 false)).translatedDone = true ∧
    { gets w0 (.xinvDone 0 1 false) with flight := [⟨7, 1, .xinvDone 0 1 false⟩, ⟨8, 9, .table (r .read)⟩] }.translatedDone = false := by decide +kernel

/-- A sequencer entry of one 32-bit addition on tile 0. -/
def oneAdd : SeqEntry :=
  { num := 0, instr := .vadd 0 1 2 0 2, pc := 0xFC, slot := 0, lid := 1, recD := recordOf 0 2 1 0x200, recA := recordOf 0 2 1 0x300,
    recB := recordOf 0 2 1 0x400, val := 0, chain := 0, st := .wait, prog := Progress.fresh, err := none, xcOut := false, xcGot := 0,
    xcBad := false, set := [], count := 0, kNow := 0, pos := 0, ready := 0 }
def withSeq (e : SeqEntry) : State := inTile fun tl => { tl with seq := [e] }
/-- One that moves two elements to queue 0, has one of them and has failed. -/
def halfPushed : SeqEntry :=
  { oneAdd with instr := .vcopy 0 1 2, recD := recordOf 2 2 2 0, recA := recordOf 0 2 2 0x300, st := .run, err := some (.poison, 5),
                prog := { Progress.fresh with n := 1, bufD := [9] } }

/-- An entry that starts, one finished and one stopped; a VXCHG that runs and a slice for it. -/
theorem witness_EngineSteps_sequencer :
    ((withSeq oneAdd).tile 0).seqHead = some oneAdd ∧ oneAdd.isRepeat = false ∧ oneAdd.ready = 0 ∧ oneAdd.prog = Progress.fresh ∧
    (∃ x, oneAdd.vx 0 = some x ∧ x.fn = .add ∧ x.o.w.t < 8 ∧ x.o.w.d < 8 ∧ x.o.w.a < 8 ∧ x.o.w.b < 8 ∧ x.o.rd.kind = 0 ∧ x.o.ra.kind = 0 ∧
      x.o.rb.kind = 0 ∧ x.n = 1 ∧ (x.o.rd.addr 0 0).toNat = 0x200) ∧ (w0.tile 0).unusable = false ∧ w0.poison = [] ∧
    w0.seqFinished 0 = false ∧ (withSeq { oneAdd with ready := 1, st := .run }).seqFinished 0 = true ∧
    ((withSeq { oneAdd with err := some (.poison, 5) }).tile 0).seqHead = some { oneAdd with err := some (.poison, 5) } ∧
    (w0.slot 0 0).st ≠ .free ∧ (w0.slot 0 0).lid = oneAdd.lid ∧ ((withSeq { oneAdd with err := some (.poison, 5) }).tile 0).unpushed = none ∧
    ((withSeq halfPushed).tile 0).seqHead = some halfPushed ∧ halfPushed.isRepeat = false ∧
    ((withSeq halfPushed).tile 0).unpushed = some (2, 0, 9) ∧ (((withSeq halfPushed).tile 0).queue 0).length < 8 := by
  refine ⟨?_, ?_, ?_, ?_, ⟨_, rfl, ?_⟩, ?_⟩ <;> decide +kernel

theorem witness_EngineSteps_slice :
    let e : SeqEntry := { oneAdd with instr := .vxchg 0 1 2, st := .run }
    let s : State := ((withSeq e).updPart 0 fun p => { p with gtab := [(0, [0])] }).updLaunch 1 fun l => { l with entries := [0] }
    let m (len : Nat) : Msg := .slice 0 (entryDom 0 0) 0 len 4 [9] false
    (gets s (m 1)).arrived = some (m 1) ∧ ((gets w0 (m 1)).tile 0).seqHead = none ∧ (s.tile 0).seqHead = some e ∧
    entryDom (s.launch e.lid).part (wf e.val 0 8) = entryDom 0 0 ∧
    s.xchgMembers 0 (wf e.val 0 8) = some ([some 0], 0) ∧ (s.tile 0).unusable = false ∧ (∃ x, e.vx 0 = some x ∧ x.fn = .xchg ∧ x.n / 1 = 1 ∧ x.o.z = 4 ∧ (2 : Nat) ≠ x.n / 1) := by
  refine ⟨?_, ?_, ?_, ?_, ?_, ?_, ⟨_, rfl, ?_⟩⟩ <;> decide +kernel

/-- A pen's next command, one finished and one stopped. -/
theorem witness_EngineSteps_matrix :
    let c : MCmd := { ticket := 0, instr := .mzro 0, pc := 0xFC, slot := 0, lid := 1, recD := recordOf 0 15 1 0x200, recA := 0, chain := 0,
                      steps := 0, row := [], flags := 0, err := none, finished := false, ready := 0 }
    let s (c : MCmd) : State := inTile fun tl => { tl with mq := [c] }
    w0.mPick 0 = none ∧ (s c).mPick 0 = some 0 ∧ ((s c).tile 0).unusable = false ∧ ((s c).tile (penTile 0 0)).mWgt = 1 ∧ ((s c).tile (penTile 0 0)).mq = [c] ∧ c.rd.count = 1 ∧
    partialPoison (s c).poison ((s c).sliceKey 0 (c.rd.addr 0 0).toNat) c.rd.size = none ∧ w0.mFinished 0 = false ∧
    (s { c with finished := true }).mFinished 0 = true ∧ ((s { c with err := some (.align, 0) }).tile 0).mq = [{ c with err := some (.align, 0) }] ∧
    ((s c).slot 0 0).st ≠ .free ∧ ((s c).slot 0 0).lid = c.lid := by decide +kernel

/-- A queued job of one unit to a group, one that has ended, one to place. -/
theorem witness_JobSteps :
    let j := jobOf .queued
    let s := ask (withJob j) 0 0 0 0
    let ended : Job := { jobOf .running with killed := true }
    let placing : Job := { jobOf .placing with hval := true, hslot := 31 }
    let handled := (withJob placing).updTile placing.tile fun tl => { tl with routines := [(31, { Routine.fresh with vld := true })] }
    w0.droverPick 0 = none ∧ s.droverPick 0 = some j ∧ (s.pen 0).job j.xid = some j ∧ j.mcast = [] ∧ j.lside = 0 ∧ j.killed = false ∧
    j.poisoned = false ∧ j.next = 0 ∧ 1 ≤ j.bytes ∧ j.bytes ≤ 16 - j.dst.toNat % 16 ∧ decodeWin j.src = some (.loc 0x200) ∧
    (decodeWin j.dst).bind (s.place j.tile) = some (.group 0 0) ∧ decodeWin j.dst = some (.group true 0 0) ∧ (s.tile j.tile).unusable = false ∧
    poisonIn s.poison (s.sliceKey j.tile 0x200) j.bytes = none ∧ (w0.pen 0).jobs.find? Job.finished = none ∧
    ((withJob ended).pen 0).jobs.find? Job.finished = some ended ∧ (w0.pen 0).jobs.find? w0.placeable = none ∧
    ((withJob placing).pen 0).jobs.find? (withJob placing).placeable = some placing ∧ (withJob placing).copies placing.tile = [placing.tile] ∧
    placing.strm = false ∧ placing.xid < 65536 ∧ placing.hslot < 32 ∧
    (handled.pen 0).jobs.find? handled.placeable = some placing ∧ ((handled.tile placing.tile).routine 31).vld = true ∧
    ((handled.tile placing.tile).routine 31).lastAt ≠ handled.now := by decide +kernel

/-- An arm record for LOCAL 0x200: base, 16 bytes, total 16, action, target. -/
def armRecord (act tgt : Nat) : Nat := 0x200 + 16 * 2 ^ 64 + 16 * 2 ^ 96 + act * 2 ^ 128 + tgt * 2 ^ 160

/-- Counter key 5 of tile 0, armed with an action. -/
def armed (act tgt n : Nat) : State :=
  (inLaunch fun l => { l with ctrs := [(0, 5), (1, 6)], packet := BitVec.ofNat 512 (l.packet.toNat + 2 * 2 ^ 176) }).updCounter 5 fun c =>
    { c with st := 1, act := act, tgt := tgt, base := 0x200, len := 16, total := 16, count := n, lid := 1 }

theorem witness_CounterSteps_requests :
    let q (fn index arg : Nat) : CtrReq := ⟨fn, 0, 0, 3, index, arg, 0, none⟩
    let free : State := inLaunch fun l => { l with packet := BitVec.ofNat 512 (l.packet.toNat + 2 * 2 ^ 176) }
    let s := armed 2 0 0
    (gets s (.ctr (q 1 0 0))).arrived = some (.ctr (q 1 0 0)) ∧ (s.launch (s.tile 0).lid).cnt = 2 ∧
    tget? (s.launch 1).ctrs 0 = some 5 ∧ (s.counter 5).act ≠ 0 ∧ (s.counter 5).st = 1 ∧ (free.launch 1).cnt ≤ 2 ∧
    tget? (free.launch 1).ctrs 1 = none ∧ (free.launch 1).armFieldBad 1 (armRecord 2 0) = false ∧ free.ctrFits 0 (armRecord 2 0) = true ∧
    free.ctrAt 0 (arBase (armRecord 2 0)) = some (0, 0) ∧ (free.ctrFree 0 0).isSome = true ∧ arAct (armRecord 2 0) ≠ 0 ∧
    (gets s (.ctrAns (q 1 0 0))).arrived = some (.ctrAns (q 1 0 0)) ∧ ((inSlot fun sl => { sl with wait := .answer }).slot 0 0).wait = .answer ∧
    (w0.slot 0 0).parkReq = false ∧ (w0.slot 0 0).pend = none ∧ (q 1 0 0).peer = none := by decide +kernel

theorem witness_CounterSteps_firings :
    let s := armed 2 0 16
    let f (act tgt : Nat) : Firing := { key := 5, act := act, tgt := tgt, arg := 0, count := 16, ovr := false, fires := 1, mode := 0, hop := 1, at_ := 0 }
    let decided (act tgt : Nat) : State := ask { armed act tgt 0 with firings := [f act tgt] } 0 0 0 0
    let full : State := (decided 2 0).updTile 0 fun tl => { tl with inbox := List.replicate 32 0 }
    let task : Task := { slot := 3, arg := 9, lid := 1, prio := 0, stamp := 0 }
    let pool : State := (inTile fun tl => { tl with routines := [(3, { Routine.fresh with vld := true })] }).updGroup 0 fun g =>
      { g with banks := [(7, [task])] }
    (w0.counters.filter fun p => p.2.due) = [] ∧ (s.counters.filter fun p => p.2.due) = [(5, s.counter 5)] ∧ (s.counter 5).pend < 255 ∧
    (decided 2 0).firings[0]? = some (f 2 0) ∧ ((decided 2 0).firingFirst (f 2 0) && (decided 2 0).firingRoom (f 2 0)) = true ∧
    (full.firingFirst (f 2 0) && full.firingRoom (f 2 0)) = false ∧ (f 2 0).act ≠ 0 ∧
    (decided 2 0).firingTile ((decided 2 0).counter 5).lid 0 = 0 ∧ (decided 2 0).copies 0 = [0] ∧ (decided 2 0).fenced 0 = false ∧
    ((decided 3 1).firingFirst (f 3 1) && (decided 3 1).firingRoom (f 3 1)) = true ∧ (f 3 1).hop < 9 ∧
    tget? ((decided 3 1).launch 1).ctrs (nf 1 0 16) = some 6 ∧ (gets s (.ctrAdd 5 1 1 1)).arrived = some (.ctrAdd 5 1 1 1) ∧ (s.counter 5).lid = 1 ∧
    tget? w0.counters 5 = none ∧ tget? s.counters 5 = some (s.counter 5) ∧ (s.counter 5).st = 1 ∧ (1 : Nat) ≠ 0 ∧
    (pool.group 0).banks = [(7, [task])] ∧ (7 : Nat) < 8 ∧ (pool.tile 0).eligible task = true ∧ ((pool.tile 0).routine 3).vld = true ∧
    ((pool.tile 0).routine 3).lastBy ≤ 3 := by
  decide +kernel

/-- A contribution of tile 0, and phases full, held and not. -/
def contrib : Contrib := { tile := some 0, far := none, counter := none, op := some 0, val := 5, abort := 0, drop := false }

theorem witness_HurdleAndTreeSteps_hurdles :
    let waits (c : Nat) : State := inSlot fun sl => { sl with st := .block, wait := .arrive (w0.domOf 0 1) false (some 0) 5 0, cntN := c }
    let been : State := (waits 0).updTile 0 fun tl => { tl with hur := [(1, { HurState.fresh with arr := true })] }
    let d := w0.domOf 0 1
    let full : State := w0.updRoot d fun r => { r with arrived := [contrib] }
    let ent : State := (w0.updPart 0 fun p => { p with gtab := [(0, [0])] }).updLaunch 1 fun l => { l with entries := [0] }
    let r : Release := { value := 5, abort := 0, op := 0, mix := false, none_ := false }
    ([contrib] ≠ [] ∧ ∀ c ∈ [contrib], c.op = some 0) ∧
    ((waits 0).slot 0 0).wait = .arrive d false (some 0) 5 0 ∧ w0.paired 0 = false ∧ ((waits 0).slot 0 0).pend = none ∧ (waits 1).drained 0 0 = false ∧
    (waits 0).drained 0 0 = true ∧ (((waits 0).tile 0).hurd (domKey d)).arr = false ∧ ((been.tile 0).hurd (domKey d)).arr = true ∧
    (been.slot 0 0).flk = 0 ∧ (gets w0 (.hurArrive d contrib)).ev.a = 0 ∧ (gets w0 (.hurArrive d contrib)).arrived = some (.hurArrive d contrib) ∧ contrib.counter = none ∧
    w0.phaseFull d = false ∧ full.phaseFull d = true ∧ (full.root d).err = false ∧ (ask w0 d 3 1 4).ev.a = 3 ∧ domIsEntry d = false ∧ domLevel d ≤ 1 ∧
    (ask full d 2 0 0).ev.a = 2 ∧ (gets w0 (.hurRelease d 0 r)).arrived = some (.hurRelease d 0 r) ∧
    (w0.domLaunches d).any (w0.holdsLaunch 0) = true ∧ (w0.domLaunches d).any (w0.holdsLaunch 1) = false ∧
    domIsEntry (entryDom 0 0) = true ∧ (ent.domLaunches (entryDom 0 0)).any (ent.holdsLaunch 0) = true ∧
    (inTile fun tl => { tl with phase := 0 }).ttDue 0 0 = false ∧ (inTile fun tl => { tl with phase := 1 }).ttDue 0 0 = true := by
  decide +kernel

/-- No launch here is to be pre-empted, so no tile holds a release. -/
theorem witness_HurdleAndTreeSteps_released :
    let full : State := w0.updRoot (w0.domOf 0 1) fun r => { r with arrived := [contrib] }
    full.phaseFull (w0.domOf 0 1) = true ∧ ∀ x, full.holdsRelease (w0.domOf 0 1) x = false := by
  refine ⟨by decide +kernel, fun x => ?_⟩
  have one : w0.launches = [(1, w0.launch 1)] := by decide +kernel
  have h : ∀ n, (w0.launch n).marked = false := fun n => by
    show (tget Launch.fresh w0.launches n).marked = false
    rw [one]
    by_cases hn : 1 = n
    · subst hn
      decide +kernel
    · simp only [tget, tget?, hn, if_false]
      rfl
  have hu (s : State) (d : Nat) (f : Root → Root) (n : Nat) : (s.updRoot d f).launch n = s.launch n := rfl
  simp only [State.holdsRelease, hu, h, Bool.false_and]

/-- A send beat of this cycle, a beat received and one that no entry takes. -/
theorem witness_HurdleAndTreeSteps_beats :
    let e : TtEntry := { start := 0, stop := 3, send := true, dest := 0, ofs := 0x200 }
    let table (e : TtEntry) : State := (inLaunch fun l => { l with tts := [(ttKey 0 5 0 0, [e])] }).updTile 0 fun tl =>
      { tl with tt := [(0, { sel := 5, cur := 5, run := true, slot := false, t0 := 1, sent := 0 })] }
    let rcv := table { e with send := false }
    let m : Msg := .beat 0 0 0 8 77 1 false
    let lost : Msg := .beat 0 0 0 8 77 1 true
    (table e).sendsNow 0 0 = [e] ∧ ((table e).tile 0).unusable = false ∧ (gets rcv m).arrived = some m ∧ (gets rcv lost).arrived = some lost ∧
    (rcv.tile 0).unusable = false ∧
    ((rcv.timetable 0 0 5).find? fun e => !e.send && decide (e.start ≤ 0 ∧ 0 ≤ e.stop)) = some { e with send := false } ∧
    ((rcv.timetable 0 0 5).find? fun e => !e.send && decide (e.start ≤ 4 ∧ 4 ≤ e.stop)) = none ∧ w0.poison = [] := by decide +kernel

/-- An injection at level 1 into a free and a busy domain; a round open and full; results; stalls of a tile and of a phase. -/
theorem witness_HurdleAndTreeSteps_tree :
    let d : Word := BitVec.ofNat 64 (2 ^ 9 + 2 * 2 ^ 15)
    let de : Word := BitVec.ofNat 64 (2 ^ 8 + 2 * 2 ^ 15)
    let ent : State := (w0.updPart 0 fun p => { p with gtab := [(0, [0])] }).updLaunch 1 fun l => { l with entries := [0] }
    let dom := w0.domOf 0 1
    let full : State := w0.updRound dom fun r => { r with terms := [(1, 5, d)] }
    let late : State := { (inSlot fun sl => { sl with st := .block }).updRoot dom fun r => { r with arrived := [contrib], first := 1 } with
      now := 2 + 0x4C4B * 1024 }
    w0.paired 0 = false ∧ tdDom d = false ∧ nb (w0.launch (w0.tile 0).lid).levels (tdLevel d) = true ∧ treeIll d = false ∧
    tdKey d ∉ (w0.tile 0).busy ∧ tdKey d ∈ ((inTile fun tl => { tl with busy := [1] }).tile 0).busy ∧ tdDom de = true ∧ treeIll de = false ∧
    ent.entryHas 0 (tdEntry de) = true ∧
    (gets w0 (.treeTerm dom 0 5 d)).arrived = some (.treeTerm dom 0 5 d) ∧ w0.roundFull dom = false ∧ full.roundFull dom = true ∧
    (gets w0 (.treeResult dom 0 5 0)).arrived = some (.treeResult dom 0 5 0) ∧ (w0.domLaunches dom).any (w0.holdsLaunch 0) = true ∧ (w0.domLaunches dom).any (w0.holdsLaunch 1) = false ∧
    (w0.tile 0).xq = [] ∧ ((inTile fun tl => { tl with xq := [(5, d)] }).tile 0).xq = (5, d) :: [] ∧
    w0.tileStalls 0 (w0.tile 0) = false ∧ late.tileStalls 0 (late.tile 0) = true ∧ (late.die 0).trq.length < 64 ∧
    late.stallPhase dom = some 0 := by decide +kernel
/-! ### Messages, launches, maps and swaps -/

def sendOf (dest lid pgrp : Nat) : SendReq :=
  { tile := 0, slot := 0, d := 3, entry := 0, dest := dest, owner := 0, lid := lid, byOwner := false, pgrp := pgrp, status := 0, peer := none }

/-- An inbox empty and with a child's entry; a message for a fenced tile, a moved group, another launch, a full inbox and a good one. -/
theorem witness_MessageSteps_inbox :
    let s : State := inTile fun tl => { tl with inbox := [BitVec.ofNat 256 (3 + 2 * 2 ^ 16), 5] }
    let m (s : State) (q : SendReq) : State := gets s (.sendm q)
    let drains := w0.updStack 0 fun k => { k with chg := true }
    let fence := w0.updDie 0 fun d => { d with implicit := [(0, 1)] }
    let full : State := inTile fun tl => { tl with inbox := List.replicate 32 0 }
    (w0.tile 0).inbox = [] ∧ (s.tile 0).inbox = BitVec.ofNat 256 (3 + 2 * 2 ^ 16) :: [5] ∧ ef (BitVec.ofNat 256 (3 + 2 * 2 ^ 16)) 0 2 = 3 ∧
    (m fence (sendOf 0 1 0)).arrived = some (.sendm (sendOf 0 1 0)) ∧ (sendOf 0 1 0).byOwner = false ∧ (sendOf 0 1 0).slot < 8 ∧
    fence.fenced 0 = true ∧ w0.fenced 0 = false ∧ w0.draining (tDie 0) = false ∧ w0.paired 0 = false ∧ drains.draining (tDie 0) = true ∧
    drains.usesStack 2 (drains.stackOf (tDie 0)) = false ∧ drains.usesStack 1 (drains.stackOf (tDie 0)) = true ∧ w0.dieExists (tDie 0) = true ∧
    w0.physGroup (tDie 0) (tGroup 0) = (sendOf 0 1 0).pgrp ∧ w0.physGroup (tDie 0) (tGroup 0) ≠ (sendOf 0 1 9).pgrp ∧
    w0.holdsLaunch 0 1 = true ∧ w0.holdsLaunch 0 2 = false ∧ 32 ≤ (full.tile 0).inbox.length ∧ (s.tile 0).inbox.length < 32 ∧
    (m w0 (sendOf 0 1 0)).ev.a ≠ 1 ∧ (gets w0 (.sendmAns (sendOf 0 1 0))).arrived = some (.sendmAns (sendOf 0 1 0)) ∧
    ((inSlot fun sl => { sl with wait := .answer }).slot 0 0).wait = .answer ∧ (w0.slot 0 0).parkReq = false ∧
    (w0.slot 0 0).pend = none ∧ (sendOf 0 1 0).peer = none := by decide +kernel

/-- A trap message for the management core, for a supervisor tile with a full inbox and one with room; timers; a parked slot named by
c:PKSEL; code regions; group requests; a GANG that waits; a forwarded word; REJOIN notices. -/
theorem witness_MessageSteps_rest :
    let t : State := inSlot fun sl => { sl with st := .park, trapMsg := some 7 }
    let sup := t.updPart 0 fun p => { p with valid := true, dies := 1 }
    let crowd := sup.updTile 0 fun tl => { tl with inbox := List.replicate 32 0 }
    let timed : State := inSlot fun sl => { sl with tmrEnd := 1 }
    let code : State := inLaunch fun l => { l with regions := [{ die := true, base := 0, len := 64, nx := [] }] }
    let g (set_ : Bool) (b : Word) : GrpReq :=
      { num := 4, set_ := set_, tile := 0, slot := 0, d := 3, a := 0, b := b, result := 0, answer := true, peer := none }
    let gang : State := inSlot fun sl => { sl with st := .block, wait := .gang 1 2 1 3 }
    let w : FwdWord := { instr := .nop, pc := 0x100, next := 0x104, at_ := 0 }
    let off (x : Wait) : State := inSlot fun sl => { (sl.setFlk 3) with flock := some (1, 0), wait := x }
    t.trapFirst 0 = some (.slot 0 0) ∧ (t.slot 0 0).trapMsg = some 7 ∧ t.hasSup 0 0 = false ∧ sup.trapFirst 0 = some (.slot 0 0) ∧
    sup.hasSup 0 0 = true ∧ sup.supTile 0 0 = 0 ∧ (sup.tile 0).inbox.length < 32 ∧ 32 ≤ (crowd.tile 0).inbox.length ∧
    (w0.slot 0 0).tmrDue w0.now = false ∧ (timed.slot 0 0).tmrDue timed.now = true ∧ w0.pkSlot 0 = some (0, 0) ∧ w0.copies 0 = [0] ∧
    (w0.slot 0 0).st ≠ .park ∧ (t.slot 0 0).st = .park ∧ t.pkSlot 0 = some (0, 0) ∧ (w0.launch 0).holdsOn 0 = false ∧
    (code.launch 1).holdsOn 0 = true ∧ (code.launch 1).regions[0]? = some { die := true, base := 0, len := 64, nx := [] } ∧
    (gets w0 (.grp (g false 0))).arrived = some (.grp (g false 0)) ∧ (g true 0).peer = none ∧ ((inSlot fun sl => { sl with wait := .table 4 }).slot 0 0).wait = .table 4 ∧ grpField 0 (2 ^ 63) = true ∧
    (gang.slot 0 0).wait = .gang 1 2 1 3 ∧ gang.now = 1 ∧ gang.formFlock 0 0 1 2 3 = none ∧
    ((inSlot fun sl => { sl with stream := [w] }).slot 0 0).stream = [w] ∧ (gets (off (.rejoin 4)) (.notice 1 0 0 0 0x100)).arrived =
    some (.notice 1 0 0 0 0x100) ∧ ((inSlot fun sl => { sl with stream := [w] }).slot 0 0).flock ≠ some (0, 0) ∧ (w0.slot 0 0).flock ≠ some (1, 0) ∧ ((off (.rejoin 4)).slot 0 0).flock = some (1, 0) ∧
    ((off (.rejoin 4)).slot 0 0).flk = 3 ∧ ((off (.rejoin 4)).slot 0 0).pc = 0x100 ∧ ((off .none).slot 0 0).wait = .none := by decide +kernel
/-! ### An image that the loader accepts: one empty LOCAL section; its header holds the hash of the rest -/

def imageBody : List Byte := toBytes 32 (1 + 64 * 2 ^ 128)
def imageHash : Nat := (shake256 imageBody 32).toNat
def imageBytes : List Byte := toBytes 32 (0x495A4E4B + 2 ^ 32 + 2 ^ 48 + 64 * 2 ^ 64 + 96 * 2 ^ 128) ++ toBytes 32 imageHash ++ imageBody
def imageSecs : List Section := [{ ty := 1, lidx := 0, off := 0, file := 64, size := 0 }]

theorem ofBytes_toBytes : ∀ n v : Nat, ofBytes (toBytes n v) = v % 256 ^ n
  | 0, v => by simp [toBytes, leBytes, ofBytes, Nat.mod_one]
  | n + 1, v => by
    have h := ofBytes_toBytes n (v / 256)
    simp only [toBytes, leBytes, ofBytes] at h ⊢
    rw [h, BitVec.toNat_ofNat, Nat.pow_succ 256 n, Nat.mul_comm (256 ^ n) 256, Nat.mod_mul]

theorem imageBytes_length : imageBytes.length = 96 := by decide +kernel
theorem imageBytes_head : imageBytes.take 64 = toBytes 32 (0x495A4E4B + 2 ^ 32 + 2 ^ 48 + 64 * 2 ^ 64 + 96 * 2 ^ 128) ++ toBytes 32 imageHash := by
  rw [imageBytes, List.take_append_of_le_length (by decide +kernel), List.take_of_length_le (by decide +kernel)]
theorem imageBytes_tail : imageBytes.drop 64 = imageBody := by
  rw [imageBytes, List.drop_append_of_le_length (by decide +kernel), List.drop_of_length_le (by decide +kernel), List.nil_append]

/-- The hash the header holds. -/
theorem imageNum_hash : imgNum (imageBytes.take 64) 32 32 = imageHash := by
  rw [imageBytes_head, imgNum, List.drop_append_of_le_length (by decide +kernel), List.drop_of_length_le (by decide +kernel), List.nil_append,
    List.take_of_length_le (by decide +kernel), ofBytes_toBytes]
  exact Nat.mod_eq_of_lt (shake256 imageBody 32).isLt

theorem imageNums : let h := imageBytes.take 64
    imgNum h 0 4 = 0x495A4E4B ∧ imgNum h 4 2 = 1 ∧ imgNum h 6 2 = 1 ∧ imgNum h 8 8 = 64 ∧ imgNum h 16 8 = 96 ∧ imgNum h 24 8 = 0 := by decide +kernel

theorem imageSection : (List.range 1).mapM (fun i => imgSection imageBytes (64 + 32 * i)) = some imageSecs := by
  have h : imgNum imageBytes 64 2 = 1 ∧ imgNum imageBytes 66 2 = 0 ∧ imgNum imageBytes 68 4 = 0 ∧ imgNum imageBytes 72 8 = 0 ∧
      imgNum imageBytes 80 8 = 64 ∧ imgNum imageBytes 88 8 = 0 := by decide +kernel
  obtain ⟨a, b, c, d, e, f⟩ := h
  have hs : imgSection imageBytes (64 + 32 * 0) = some { ty := 1, lidx := 0, off := 0, file := 64, size := 0 } := by
    simp only [imgSection, Nat.mul_zero, Nat.add_zero, Nat.reduceAdd, a, b, c, d, e, f, imageBytes_length]
    rfl
  simp only [List.range_succ, List.range_zero, List.nil_append, List.mapM_cons, List.mapM_nil, hs, imageSecs]
  rfl

/-- A reader that gives the image's bytes reads the image. -/
theorem readImage_imageBytes (rd : Nat → Nat → Option (List Byte)) (h : rd 0 64 = some (imageBytes.take 64)) (h' : rd 0 96 = some imageBytes) :
    readImage rd = some (imageBytes, imageSecs) := by
  obtain ⟨h0, h4, h6, h8, h16, h24⟩ := imageNums
  rw [readImage, h]
  simp only [h0, h4, h6, h8, h16, h24, h', imageNum_hash, imageBytes_tail]
  rw [if_neg (by decide), if_neg (fun hn => hn rfl), imageSection]
  rfl

/-- Bytes from a key on. -/
def cells : Nat → List Byte → List Host.Cell
  | _, [] => []
  | k, b :: r => (k, b) :: cells (k + 1) r

theorem readByte_cons (k : Nat) (b : Byte) (m : List Host.Cell) (j : Nat) : readByte ((k, b) :: m) j = if k = j then b else readByte m j := by
  simp only [readByte, tget]

theorem readByte_cells : ∀ (l : List Byte) (k i : Nat) (m : List Host.Cell), i < l.length → readByte (cells k l ++ m) (k + i) = l.getD i 0
  | [], _, i, _, h => absurd h (Nat.not_lt_zero i)
  | b :: r, k, 0, m, _ => by simp [cells, readByte_cons]
  | b :: r, k, i + 1, m, h => by
    have := readByte_cells r (k + 1) i m (Nat.lt_of_succ_lt_succ h)
    rw [cells, List.cons_append, readByte_cons, if_neg (by omega), show k + (i + 1) = k + 1 + i by omega, this]
    rfl

theorem readByte_cells_out : ∀ (l : List Byte) (k j : Nat) (m : List Host.Cell), (j < k ∨ k + l.length ≤ j) → readByte (cells k l ++ m) j = readByte m j
  | [], _, _, _, _ => rfl
  | b :: r, k, j, m, h => by
    simp only [List.length_cons] at h
    rw [cells, List.cons_append, readByte_cons, if_neg (by omega), readByte_cells_out r (k + 1) j m (by omega)]

theorem map_getD (l : List Byte) : ∀ n ≤ l.length, (List.range n).map (fun i => l.getD i 0) = l.take n := by
  intro n hn
  refine List.ext_getElem (by simp [hn]) fun i h1 h2 => ?_
  simp only [List.length_map, List.length_range] at h1
  simp only [List.getElem_map, List.getElem_range, List.getElem_take, List.getD_eq_getElem?_getD, List.getElem?_eq_getElem (show i < l.length by omega),
    Option.getD_some]

/-- The page table of `savedArea`. -/
def tableMem : List Host.Cell :=
  [(2 ^ 40 + 0x10000, 1), (2 ^ 40 + 0x10001, 0x10), (2 ^ 40 + 0x10002, 1), (2 ^ 40 + 0x11000, 1), (2 ^ 40 + 0x11001, 0x20),
   (2 ^ 40 + 0x11002, 1), (2 ^ 40 + 0x12000, 7), (2 ^ 40 + 0x12002, 0x20), (2 ^ 40 + 0x12006, 0x70)]

/-- Behind it the image at 0x200000, which is the PACKAGE address 0, and a launch packet of it pinned to die 0 at 0x201000. -/
def imageMem : List Host.Cell := tableMem ++ (cells (2 ^ 40 + 0x200000) imageBytes ++ (cells (2 ^ 40 + 0x201000) (toBytes 64 (packetOf - 64 + 2 ^ 135)) ++ []))

theorem readByte_table (m : List Host.Cell) (j : Nat) (h : 2 ^ 40 + 0x200000 ≤ j) : readByte (tableMem ++ m) j = readByte m j := by
  simp only [tableMem, List.cons_append, List.nil_append, readByte_cons]
  repeat rw [if_neg (by omega)]

theorem imageMem_image (n : Nat) (h : n ≤ 96) : (List.range n).map (fun i => readByte imageMem (2 ^ 40 + 0x200000 + i)) = imageBytes.take n := by
  rw [← map_getD imageBytes n (imageBytes_length ▸ h)]
  refine List.map_congr_left fun i hi => ?_
  have hi := List.mem_range.1 hi
  rw [imageMem, readByte_table _ _ (by omega), readByte_cells _ _ _ _ (by rw [imageBytes_length]; omega)]

theorem imageMem_packet : (List.range 64).map (fun i => readByte imageMem (2 ^ 40 + 0x200000 + (0x1000 + i))) = toBytes 64 (packetOf - 64 + 2 ^ 135) := by
  have hl : (toBytes 64 (packetOf - 64 + 2 ^ 135)).length = 64 := by decide +kernel
  refine Eq.trans ?_ ((map_getD (toBytes 64 (packetOf - 64 + 2 ^ 135)) 64 (by rw [hl])).trans (List.take_of_length_le (by rw [hl])))
  refine List.map_congr_left fun i hi => ?_
  have hi := List.mem_range.1 hi
  rw [imageMem, readByte_table _ _ (by omega), readByte_cells_out _ _ _ _ (by rw [imageBytes_length]; omega),
    show 2 ^ 40 + 0x200000 + (0x1000 + i) = 2 ^ 40 + 0x201000 + i by omega, readByte_cells _ _ _ _ (by rw [hl]; omega)]

/-- Partition 0 with that page table. -/
def tablePart : Part := { Part.fresh with ptEn := true, ptAddr := 0x10000, hbase := 0, hlen := 0x400000, owner := 7 }

/-- A state that holds the page table below the page it maps. -/
def Tabled (s : State) : Prop :=
  (s.part 0).ptEn = true ∧ (s.part 0).ptAddr = 0x10000 ∧ (s.part 0).hbase = 0 ∧ (s.part 0).hlen = 0x400000 ∧ (s.part 0).owner = 7 ∧
    s.poison = [] ∧ ∀ j, j < 2 ^ 40 + 0x200000 → readByte s.mem j = readByte tableMem j

theorem tabled_walk {s : State} (h : Tabled s) : s.walkTable (s.part 0) 0 4 0x10000 = some (1, 0x200000 + 7 + 7 * 2 ^ 52) := by
  obtain ⟨-, -, hb, hl, -, hp, hm⟩ := h
  have ld : ∀ k, k + 8 ≤ 2 ^ 40 + 0x200000 → s.load k 8 = readMem tableMem k 8 := fun k hk => readMem_congr fun j _ h => hm j (by omega)
  have l3 : s.load (hbmKey 0x10000) 8 = 0x11001 := (ld _ (by decide)).trans (by decide +kernel)
  have l2 : s.load (hbmKey 0x11000) 8 = 0x12001 := (ld _ (by decide)).trans (by decide +kernel)
  have l1 : s.load (hbmKey 0x12000) 8 = 0x200000 + 7 + 7 * 2 ^ 52 := (ld _ (by decide)).trans (by decide +kernel)
  have i3 : 0x10000 + 8 * pteIndex 3 0 = 0x10000 := by decide
  have i2 : 0x11000 + 8 * pteIndex 2 0 = 0x11000 := by decide
  have i1 : 0x12000 + 8 * pteIndex 1 0 = 0x12000 := by decide
  have a3 : pteAddr 0x11001 = 0x11000 := by decide
  have a2 : pteAddr 0x12001 = 0x12000 := by decide
  simp only [State.walkTable, i3, l3, a3, i2, l2, a2, i1, l1, hb, hl, hp]
  rw [if_neg (by decide), if_neg (by decide), if_neg (by decide), if_neg (by decide), if_neg (by decide), if_pos (by decide)]

/-- Every offset of the page translates. -/
theorem tabled_xlate {s : State} (h : Tabled s) (i : Nat) (hi : i < 0x200000) (w : Bool) : s.xlate 0 i w = some (2 ^ 40 + 0x200000 + i) := by
  have hc : ∀ l, 1 ≤ l → l < 4 → pteIndex l 0 = pteIndex l i := by
    intro l hl hl'
    have : l = 3 ∨ l = 2 ∨ l = 1 := by omega
    rcases this with rfl | rfl | rfl <;> simp only [pteIndex, nf] <;> omega
  have hw := walkTable_congr s (s.part 0) hc 4 (by omega) 0x10000 _ (tabled_walk h) (by decide)
  obtain ⟨he, ha, -, -, ho, -, -⟩ := h
  have hm : i % pageBytes 1 = i := Nat.mod_eq_of_lt hi
  have hk : hbmKey (pteAddr (0x200000 + 7 + 7 * 2 ^ 52)) = 2 ^ 40 + 0x200000 := by decide
  have hq : pteOwner (0x200000 + 7 + 7 * 2 ^ 52) = 7 := by decide
  have hr : pteW (0x200000 + 7 + 7 * 2 ^ 52) = true := by decide
  simp only [State.xlate, he, ha, hw, ho, hq, hr]
  simp only [hbmKey] at hk ⊢
  simp only [hm, Bool.not_true, Bool.false_eq_true, if_false, ne_eq, not_true_eq_false, and_false, or_self, ← Nat.add_assoc, hk]

theorem tabled_reads {s : State} (h : Tabled s) (va n : Nat) (hn : va + n ≤ 0x200000) :
    s.readPkg 0 va n = some ((List.range n).map fun i => readByte s.mem (2 ^ 40 + 0x200000 + (va + i))) := by
  refine mapM_some _ _ _ fun i hi => ?_
  have hi := List.mem_range.1 hi
  simp only [tabled_xlate h (va + i) (by omega)]
  rw [h.2.2.2.2.2.1]
  rfl

/-- The table stays when bytes of the page are stored, and every write to the page succeeds. -/
theorem tabled_store {s : State} (h : Tabled s) (k n v : Nat) (hk : 2 ^ 40 + 0x200000 ≤ k) : Tabled (s.store k n v) := by
  obtain ⟨a, b, c, d, e, f, g⟩ := h
  refine ⟨a, b, c, d, e, by simp only [State.store, f, clearPoison, List.filter_nil], fun j hj => ?_⟩
  rw [← g j hj]
  exact readByte_writeMem_out _ _ _ _ _ (Or.inl (by omega))

theorem tabled_writes : ∀ (gs : List (Nat × Nat)) (s : State), Tabled s → (∀ g ∈ gs, 16 * g.1 < 0x200000) → ∃ t, s.writeArea 0 0 gs = some t
  | [], s, _, _ => ⟨s, rfl⟩
  | g :: gs, s, h, hg => by
    have hx := tabled_xlate h (0 + 16 * g.1) (by have := hg g List.mem_cons_self; omega) true
    obtain ⟨t, ht⟩ := tabled_writes gs (s.store (2 ^ 40 + 0x200000 + (0 + 16 * g.1)) 16 g.2) (tabled_store h _ _ _ (by omega))
      fun x hx => hg x (List.mem_cons_of_mem g hx)
    refine ⟨t, ?_⟩
    rw [State.writeArea] at ht ⊢
    rw [List.foldl_cons, Option.bind_some, hx, Option.map_some]
    exact ht

/-- The image and the packet read through the table. -/
def withImage (s : State) : State :=
  { (s.updPart 0 fun p => { p with ptEn := true, ptAddr := 0x10000, hbase := 0, hlen := 0x400000, owner := 7 }) with mem := imageMem, poison := [] }

theorem withImage_tabled (s : State) (h : s.parts = []) : Tabled (withImage s) := by
  have hp : (withImage s).part 0 = tablePart := by simp only [withImage, State.part, State.updPart, h]; rfl
  refine ⟨?_, ?_, ?_, ?_, ?_, rfl, fun j hj => ?_⟩
  iterate 5 rw [hp]; rfl
  show readByte imageMem j = _
  have hl : (toBytes 64 (packetOf - 64 + 2 ^ 135)).length = 64 := by decide +kernel
  simp only [imageMem, tableMem, List.cons_append, List.nil_append, readByte_cons]
  rw [readByte_cells_out _ _ _ _ (by omega), readByte_cells_out _ _ _ _ (by omega)]
/-! ### Launches of that image -/

theorem imageOf_imageMem {s : State} (ht : Tabled s) (hm : s.mem = imageMem) (l : Launch) (h : l.supervisor = false) (hp : l.part = 0) (hi : l.image.toNat % 2 ^ 48 = 0)
    (hf : l.imageFits imageBytes imageSecs = true) : s.imageOf l = some (imageBytes, imageSecs) := by
  have rd : ∀ n, n ≤ 96 → s.readPkg 0 (0 + 0) n = some (imageBytes.take n) := fun n hn => by
    rw [tabled_reads ht _ _ (by omega), hm]
    simp only [Nat.zero_add]
    exact congrArg some (imageMem_image n hn)
  have hr := readImage_imageBytes
    (fun o n => if l.supervisor then (s.part l.part).keptImg o n else s.readPkg l.part (l.image.toNat % 2 ^ 48 + o) n)
    (by simpa only [h, hp, hi, Bool.false_eq_true, if_false] using rd 64 (by omega))
    (by simpa only [h, hp, hi, Bool.false_eq_true, if_false, List.take_of_length_le (Nat.le_of_eq imageBytes_length)] using rd 96 (by omega))
  rw [State.imageOf, hr]
  exact if_pos hf

/-- A launch of the image, and the image's demands on it. -/
def imageLaunch (pkt : Nat) : Launch := { Launch.fresh with packet := BitVec.ofNat 512 pkt, st := .pending }

theorem imageLaunch_fits : ((imageLaunch (packetOf - 64)).packetValid false = true ∧ (imageLaunch (packetOf - 64)).image.toNat % 2 ^ 48 = 0 ∧
    (imageLaunch (packetOf - 64)).imageFits imageBytes imageSecs = true) ∧
    ((imageLaunch (packetOf - 64 + 2 ^ 135)).packetValid false = true ∧ (imageLaunch (packetOf - 64 + 2 ^ 135)).image.toNat % 2 ^ 48 = 0 ∧
    (imageLaunch (packetOf - 64 + 2 ^ 135)).imageFits imageBytes imageSecs = true) := by decide +kernel

/-- The launch alone, in the pool of die 0. -/
def pooled : State := ({ w0 with launches := [(2, imageLaunch (packetOf - 64))], tiles := [] }).updDie 0 fun d => { d with pool := [2] }

theorem fit_go {s : State} {lid d : Nat} {l : Launch} {pool : Option Nat} {img : List Byte} {ss : List Section} (hv : l.packetValid l.twin = true)
    (hi : s.imageOf l = some (img, ss)) (hd : s.dieChoices l pool = [[d]])
    (hb : (s.entriesFree l.part (l.readEntries img ss) &&
      ((s.updLaunch lid fun _ => { l with dies := [d].map s.logDie, cur := [d] }).reserveTables lid img ss).isSome) = true) :
    s.fit lid l pool = .go [d] := by
  simp only [State.fit, hv, hi, hd, Bool.not_true, Bool.false_eq_true, if_false]
  rw [List.find?_cons_of_pos]
  exact hb

theorem fit_wait {s : State} {lid : Nat} {l : Launch} {pool : Option Nat} {img : List Byte} {ss : List Section} (hv : l.packetValid l.twin = true)
    (hi : s.imageOf l = some (img, ss)) (hd : s.dieChoices l pool = []) : s.fit lid l pool = .wait := by
  simp only [State.fit, hv, hi, hd, Bool.not_true, Bool.false_eq_true, if_false, List.find?_nil]

theorem pick_pool {s : State} {d lid e : Nat} {l : Launch} (hc : s.cands = [.pool d lid]) (hl : s.launch lid = l) (hf : s.fit lid l (some d) = .go [e]) :
    s.pick = some (.pool d lid, .go [e]) := by
  simp only [State.pick, hc, List.findSome?_cons, State.candFit, hl, hf]

theorem pooled_go : (withImage pooled).pick = some (.pool 0 2, .go [0]) := by
  have hi := imageOf_imageMem (withImage_tabled pooled rfl) rfl (imageLaunch (packetOf - 64)) rfl rfl imageLaunch_fits.1.2.1 imageLaunch_fits.1.2.2
  have hd : (withImage pooled).dieChoices (imageLaunch (packetOf - 64)) (some 0) = [[0]] := by decide +kernel
  exact pick_pool (by decide +kernel) (by decide +kernel) (fit_go imageLaunch_fits.1.1 hi hd (by decide +kernel))

/-- A queue whose command waits while every group is full of a lesser launch. -/
def crowded : State :=
  let s := (((inLaunch fun l => { l with supervisor := false }).updPart 0 fun p => { p with valid := true, queues := 1, dies := 1, grow0 := 1 }).updQueue 0
    fun q => { q with base := 4 * 2 ^ 56 + 0x1000, en := true, pen := true, prio := 3, plvl := 0, tail := 1 }).updDie 0 fun d => { d with dthr := 0 }
  s.updTile (tileKey 0 8 0) fun tl => { tl with routines := [(31, { Routine.fresh with vld := true })] }

/-- The same state with the image and a packet, pinned to die 0, behind a page table. -/
def crowdedImage : State :=
  { (crowded.updPart 0 fun p => { p with ptEn := true, ptAddr := 0x10000, hbase := 0, hlen := 0x400000, owner := 7 }) with mem := imageMem, poison := [] }

theorem crowdedImage_tabled : Tabled crowdedImage := by
  refine ⟨?_, ?_, ?_, ?_, ?_, rfl, (withImage_tabled w0 rfl).2.2.2.2.2.2⟩ <;> decide +kernel

theorem queueCmd_some {s : State} {q p at_ n o : Nat} {b : List Byte} (hp : s.queuePart q = some p)
    (ha : (s.queue q).base + 64 * ((s.queue q).head % 2 ^ (s.queue q).lsize) = at_) (hw : nf at_ 48 16 = 0x0400)
    (ho : at_ % 2 ^ 48 = o) (hr : s.readPkg p o 64 = some b) (hn : ofBytes b = n) : s.queueCmd q = some (BitVec.ofNat 512 n) := by
  simp only [State.queueCmd, hp, ha, ho, hr, Option.map_some, hn, hw, ne_eq, not_true_eq_false, if_false]

theorem crowdedImage_cmd : crowdedImage.queueCmd 0 = some (BitVec.ofNat 512 (packetOf - 64 + 2 ^ 135)) := by
  have hr := tabled_reads crowdedImage_tabled 0x1000 64 (by omega)
  rw [show crowdedImage.mem = imageMem from rfl, imageMem_packet] at hr
  exact queueCmd_some (at_ := 4 * 2 ^ 56 + 0x1000) (by decide +kernel) (by decide +kernel) (by decide) (by decide) hr (by decide +kernel)

/-- The launch the command names. -/
def crowdedLaunch : Launch := crowdedImage.queueLaunch 0 (BitVec.ofNat 512 (packetOf - 64 + 2 ^ 135))

theorem crowdedImage_wait : crowdedImage.fit crowdedImage.freshLid crowdedLaunch none = .wait :=
  fit_wait (by decide +kernel) (imageOf_imageMem crowdedImage_tabled rfl crowdedLaunch (by decide +kernel) (by decide +kernel) (by decide +kernel)
    (by decide +kernel)) (by decide +kernel)

theorem wouldPreempt_some {s : State} {q v : Nat} {pkt : BitVec 512} {ds : List Nat}
    (hr : (s.queueReady q && (s.queue q).pen && decide ((s.queue q).plvl ≤ (s.queue q).prio)) = true) (hc : s.queueCmd q = some pkt)
    (hw : s.fit s.freshLid (s.queueLaunch q pkt) none = .wait) (hd : s.couldDies (s.queueLaunch q pkt) = ds)
    (hg : (!ds.isEmpty && ds.all fun d => (List.range 320).all (s.groupFull d)) = true) (hv : s.victim (s.queue q).prio = some v) :
    s.wouldPreempt q = some v := by
  simp only [State.wouldPreempt, hr, hc, hw, hd, hg, hv, Bool.not_true, Bool.false_eq_true, if_false, if_true]

theorem preemptPick_some {s : State} {q v : Nat} (h0 : s.preempt = 0) (hq : (s.queues.filter fun q => q.2.pen && q.2.en).map Prod.fst = [q])
    (hw : s.wouldPreempt q = some v) : s.preemptPick = some v := by
  obtain ⟨x, hx, hq⟩ := List.map_eq_singleton_iff.1 hq
  simp only [State.preemptPick, h0, hx, List.findSome?_cons, hq, hw, ne_eq, not_true_eq_false, if_false]

theorem candFit_queue {s : State} {q : Nat} {pkt : BitVec 512} (hc : s.queueCmd q = some pkt)
    (hw : s.fit s.freshLid (s.queueLaunch q pkt) none = .wait) : s.candFit (.queue q) = .wait := by
  simp only [State.candFit, hc, hw]

/-- A request for pre-emption names launch 1, and the waiting command is counted at a boundary. -/
theorem crowdedImage_preempts : crowdedImage.preemptPick = some 1 ∧ ∃ c ∈ crowdedImage.cands, crowdedImage.candFit c = .wait := by
  have ht : (crowdedImage.die 0).dthr = 0 := by decide +kernel
  have hg : ((List.range 320).all (crowdedImage.groupFull 0)) = true := by
    rw [List.all_eq_true]
    intro g _
    simp only [State.groupFull, ht, Nat.zero_le, decide_true]
  have hw := wouldPreempt_some (ds := [0]) (v := 1) (by decide +kernel) crowdedImage_cmd crowdedImage_wait (by decide +kernel)
    (by simp only [List.isEmpty_cons, List.all_cons, List.all_nil, hg, Bool.not_false, Bool.and_self]) (by decide +kernel)
  exact ⟨preemptPick_some (by decide +kernel) (by decide +kernel) hw, .queue 0, by decide +kernel, candFit_queue crowdedImage_cmd crowdedImage_wait⟩

/-! ### A save area that can be written -/

theorem length_toBytes : ∀ n v : Nat, (toBytes n v).length = n
  | 0, _ => rfl
  | n + 1, v => by simp only [toBytes, leBytes, List.length_cons]; exact congrArg (· + 1) (length_toBytes n (v / 256))

theorem length_flatten_map {α : Type} (f : α → List Byte) (k : Nat) : ∀ l : List α, (∀ x ∈ l, (f x).length = k) → (l.map f).flatten.length = k * l.length
  | [], _ => rfl
  | x :: r, h => by
    rw [List.map_cons, List.flatten_cons, List.length_append, h x List.mem_cons_self, length_flatten_map f k r fun y hy => h y (List.mem_cons_of_mem x hy),
      List.length_cons, Nat.mul_succ, Nat.add_comm]

theorem mem_granules {off : Nat} {b : List Byte} {g : Nat × Nat} (h : g ∈ granules off b) : g.1 < off / 16 + (b.length + 15) / 16 := by
  obtain ⟨i, hi, rfl⟩ := List.mem_map.1 h
  have := List.mem_range.1 hi
  show off / 16 + i < _
  omega

theorem length_ctrImages (s : State) (lid idx : Nat) : (s.ctrImages lid 2 idx).length = 64 * ctrCount 2 := by
  rw [State.ctrImages, length_flatten_map _ 64, List.length_range]
  intro i _
  split
  · split
    · simp only [Counter.image, List.length_append, length_toBytes]
    · exact length_toBytes _ _
  · exact length_toBytes _ _

/-- Launch 2 runs on die 0, without tiles, groups or die memory there; the point is reached and a thread's XSAVE waits for it. -/
def saving : State :=
  { ((((inSlot fun sl => { sl with st := .block, wait := .xsave 2 0 }).updLaunch 2 fun _ =>
      { Launch.fresh with st := .running, dies := [0], cur := [0], atPoint := [0] }).updPart 0 fun p =>
      { p with ptEn := true, ptAddr := 0x10000, hbase := 0, hlen := 0x400000, owner := 7 })) with mem := imageMem, poison := [] }

theorem saving_tabled : Tabled saving := by
  refine ⟨?_, ?_, ?_, ?_, ?_, rfl, (withImage_tabled w0 rfl).2.2.2.2.2.2⟩ <;> decide +kernel

theorem saving_launch : (saving.launch 2).tilesOn 0 = [] ∧ (saving.launch 2).groups = [] ∧ (saving.launch 2).dlen = 0 ∧
    areaDie (saving.launch 2) = 0x10000 ∧ ctrCount 2 = 2048 := by decide +kernel

theorem writeMemory_nil (s : State) (p va : Nat) (f : State → Option State) : (s.writeMemory p va []).bind f = f s := rfl

theorem saving_writes : ∃ t, ((saving.writeMemory 0 0 (saving.areaKeys (saving.launch 2) 0)).bind fun y =>
    y.writeArea 0 0 (saving.saveImage 2 0)) = some t := by
  have hk : saving.areaKeys (saving.launch 2) 0 = [] := by decide +kernel
  rw [hk, writeMemory_nil]
  refine tabled_writes _ _ saving_tabled fun g hg => ?_
  obtain ⟨ht, hgr, hl, ha, hc⟩ := saving_launch
  simp only [State.saveImage, ht, hgr, hl, ha, List.length_nil, List.range_zero, List.zip_nil_left, List.map_nil, List.flatten_nil,
    List.append_nil, List.mem_append] at hg
  rcases hg with hg | hg
  · have h := mem_granules hg
    have hn : (saving.saveHeader 2 ((saving.launch 2).dieOwn 0)).length = 0x10000 := by
      simp only [State.saveHeader, List.length_append, length_toBytes]
      rw [length_flatten_map _ 1 (List.range 8) fun _ _ => length_toBytes _ _, List.length_range]
    omega
  · have h := mem_granules hg
    have hn : (saving.dieRecord 2 0).length = 64 * 2048 + 0x10000 := by
      simp only [State.dieRecord, State.rootRecord, Root.record, List.length_append, length_toBytes, length_ctrImages, hc]
    omega

/-- Nothing to distribute, a queue whose command does not translate, a launch that fits, one whose packet is not valid. -/
theorem witness_LaunchSteps_pick :
    let bad : State := { w0.updLaunch 2 fun _ => { Launch.fresh with st := .pending } with dies := (w0.updDie 0 fun d => { d with pool := [2] }).dies }
    let q : State := (w0.updPart 0 fun p => { p with valid := true, queues := 8 }).updQueue 3 fun q => { q with en := true, tail := 1 }
    w0.pick = none ∧ q.pick = some (.queue 3, .err) ∧ (withImage pooled).pick = some (.pool 0 2, .go [0]) ∧ bad.pick = some (.pool 0 2, .bad) := by
  refine ⟨?_, ?_, pooled_go, ?_⟩ <;> decide +kernel

/-- A launch being placed whose image is read, one whose image is not, and one already done. -/
theorem witness_LaunchSteps_placed :
    let s : State := gets (withImage (w0.updLaunch 2 fun _ => { imageLaunch (packetOf - 64) with st := .placing, dies := [0], cur := [0] })) (.placed 2)
    let none_ : State := w0.updLaunch 2 fun _ => { Launch.fresh with st := .placing }
    s.arrived = some (.placed 2) ∧ (s.launch 2).st = .placing ∧ s.imageOf (s.launch 2) = some (imageBytes, imageSecs) ∧ (s.launch 2).twin = false ∧
    (s.launch 2).allTiles.any s.fenced = false ∧ (none_.launch 2).st = .placing ∧ none_.imageOf (none_.launch 2) = none ∧
    (w0.launch 2).st ≠ .placing := by
  refine ⟨?_, ?_, imageOf_imageMem ?_ rfl _ ?_ ?_ ?_ ?_, ?_⟩
  case refine_3 => refine ⟨?_, ?_, ?_, ?_, ?_, rfl, (withImage_tabled w0 rfl).2.2.2.2.2.2⟩ <;> decide +kernel
  all_goals decide +kernel

/-- Launches complete, done children of launch 1, pre-emption, the point, an end, and launches saved and restored. -/
theorem witness_LaunchSteps_rest :
    let idle : State := (inLaunch fun l => { l with supervisor := false }).updSlot 0 0 fun sl => { sl with st := .free }
    let child : State := w0.updLaunch 2 fun _ => { Launch.fresh with parent := 1, ended := true }
    let sup : State := w0.updPart 0 fun p => { p with valid := true, dies := 1 }
    let still : State := { (inTile fun tl => { tl with held := true }).updLaunch 1 fun l => { l with marked := true } with
      tiles := ((inTile fun tl => { tl with held := true }).updSlot 0 0 fun sl => { sl with stopped := true }).tiles }
    let ending : State := inLaunch fun l => { l with st := .ending }
    let back : State := inLaunch fun l => { l with restored := [0] }
    w0.launchDone 1 = false ∧ idle.launchDone 1 = true ∧ w0.childNext = none ∧ child.childNext = some 2 ∧ child.childTiles (child.launch 2) = [0] ∧
    child.lendBusy ≠ 2 ∧ (child.launch 2).endSt < 256 ∧ w0.preemptPick = none ∧ crowdedImage.preemptPick = some 1 ∧
    (crowdedImage.launch 1).cur.filter (crowdedImage.hasSup (crowdedImage.launch 1).part) = [0] ∧
    ((crowdedImage.tile (crowdedImage.supTile (crowdedImage.launch 1).part 0)).routine 31).vld = true ∧
    ((crowdedImage.tile (crowdedImage.supTile (crowdedImage.launch 1).part 0)).routine 31).lastBy ≤ 1 ∧ w0.starvSeen ≠ 1 ∧
    { w0 with starvSeen := 1 }.starvSeen = 1 ∧
    w0.quiescent 1 0 = false ∧ still.quiescent 1 0 = true ∧ crowdedImage.preempt = 0 ∧
    (∃ c ∈ crowdedImage.cands, crowdedImage.candFit c = .wait) ∧ (∀ c ∈ sup.cands, sup.candFit c ≠ .wait) ∧ w0.endable 5 1 = false ∧
    w0.endable 0 1 = true ∧ (w0.launch 1).st = .running ∧ (∀ p ∈ w0.launches, p.2.st ≠ .pending) ∧ w0.endDrained 1 = false ∧
    ending.endDrained 1 = true ∧ (ending.launch 1).parent = 0 ∧ (w0.launch 1).restoredAll = false ∧ (back.launch 1).restoredAll = true ∧
    (∀ r ∈ back.roots, r.2.heldOut = false) := by
  refine ⟨?_, ?_, ?_, ?_, ?_, ?_, ?_, ?_, crowdedImage_preempts.1, ?_, ?_, ?_, ?_, ?_, ?_, ?_, ?_, crowdedImage_preempts.2, ?_⟩ <;> decide +kernel

theorem witness_LaunchSteps_saving :
    (saving.slot 0 0).wait = .xsave 2 0 ∧ (saving.launch (saving.slot 0 0).lid).part = 0 ∧ (saving.launch 2).st ≠ .done ∧
    (saving.launch 2).damaged = false ∧ (saving.launch 2).holdsOn 0 = true ∧ (saving.launch 2).dieOwn 0 ∈ (saving.launch 2).atPoint ∧
    saving.swapsOf (saving.launch 2) 0 = false ∧ (∃ t, ((saving.writeMemory 0 (0 : Word).toNat (saving.areaKeys (saving.launch 2) 0)).bind fun y =>
      y.writeArea 0 (0 : Word).toNat (saving.saveImage 2 0)) = some t) ∧
    (let s := saving.updLaunch 2 fun l => { l with damaged := true }
     (s.launch 2).damaged = true ∧ ∃ k, s.xlate 0 (0 : Word).toNat true = some k) ∧
    (let s := saving.updLaunch 2 fun l => { l with atPoint := [] }
     (s.launch 2).holdsOn 0 = true ∧ (s.launch 2).dieOwn 0 ∉ (s.launch 2).atPoint) := by
  refine ⟨?_, ?_, ?_, ?_, ?_, ?_, ?_, saving_writes, ⟨?_, 2 ^ 40 + 0x200000 + 0, tabled_xlate ?_ 0 (by decide) true⟩, ?_⟩
  case refine_9 => refine ⟨?_, ?_, ?_, ?_, ?_, rfl, (withImage_tabled w0 rfl).2.2.2.2.2.2⟩ <;> decide +kernel
  all_goals decide +kernel
/-! ### Maps, twins, swaps and roles -/

theorem witness_MapAndTwinSteps :
    let mv (g pg : Nat) (f : Bool) : MapMove := { grp := g, phys := pg, force := f, tag := 1, tile := 0, from_ := 0 }
    let moving : State := gets ((inSlot fun sl => { sl with st := .park }).updDie 0 fun d => { d with move := some (mv 0 5 true) }) (.mapDone 0)
    let busy : State := { (gets (w0.updDie 0 fun d => { d with move := some { mv 0 5 false with from_ := 9 } }) (.mapDone 0)) with
      flight := [{ num := 7, due := 1, msg := .mapDone 0 }, { num := 8, due := 1, msg := .sendm (sendOf 0 1 0) }] }
    let q (copy : Bool) (h : Nat) : TwinReq :=
      { tile := 0, seq := 3, copy := copy, hash := h, msg := some (.ctr ⟨1, 0, 0, 3, 0, 0, 0, none⟩), min := 0 }
    let ps (h : Nat) : State := { w0 with pairs := [q false 4, q true h] }
    let mis : State := (inLaunch fun l => { l with twinOff := 4 }).updDie 0 fun d => { d with twins := [(0, 0)] }
    w0.moveStatus 0 (0 + 5 * 2 ^ 9 + 2 ^ 18) = 3 ∧ (inSlot fun sl => { sl with st := .park }).moveStatus 0 (0 + 5 * 2 ^ 9 + 2 ^ 18) = 1 ∧
    (gets w0 (.mapDone 0)).arrived = some (.mapDone 0) ∧ (w0.die 0).move = none ∧ moving.arrived = some (.mapDone 0) ∧
    (moving.die 0).move = some (mv 0 5 true) ∧ moving.moveQuiet 0 (mv 0 5 true) = true ∧ moving.physGroup 0 (moving.logOf 0 5) = 5 ∧
    busy.arrived = some (.mapDone 0) ∧ busy.moveQuiet 0 { mv 0 5 false with from_ := 9 } = false ∧
    (w0.dieExists 0 = true ∧ w0.groupHeld 0 3 = false ∧ w0.groupHeld 0 5 = false ∧ w0.groupHeld 0 0 = true) ∧
    w0.pairPick = none ∧ (ps 4).pairPick = some (q false 4, q true 4) ∧ (ps 5).pairPick = some (q false 4, q true 5) ∧
    w0.mismatched 0 = false ∧ mis.mismatched 0 = true ∧ memWf mis.mem = true ∧ (mis.launch (mis.tile 0).lid).twinOff ≠ 0 ∧
    (mis.launch (mis.tile 0).lid).st = .running ∧ (∀ l ∈ mis.launches, l.2.st ≠ .pending) := by decide +kernel

theorem witness_SwapAndRoleSteps_swaps :
    let w (m : Bool) : Swap := { dieA := 0, pgA := 0, selB := if m then 2 else 0, idB := 10, move := m, tag := 9, tile := 0 }
    let s (m : Bool) : State := w0.updStack 0 fun x => { x with swaps := [w m] }
    let run (m : Bool) : State := gets ((s m).updStack 0 fun x => { x with swapping := true }) (.swapDone 0)
    w0.swapStatus 0 (10 * 2 ^ 20 + 9 * 2 ^ 40) = 1 ∧ w0.swapStatus 0 (11 * 2 ^ 20) = 5 ∧
    (w0.updStack 0 fun x => { x with role := 2 }).swapStatus 0 (10 * 2 ^ 20 + 2 * 2 ^ 36 + 2 ^ 39) = 1 ∧
    w0.swapPick 0 = none ∧ (s false).swapPick 0 = some (w false) ∧ (s true).swapPick 0 = some (w true) ∧
    (gets w0 (.swapDone 0)).arrived = some (.swapDone 0) ∧ (w0.stack 0).swaps = [] ∧ (run true).arrived = some (.swapDone 0) ∧
    ((run true).stack 0).swaps = w true :: [] ∧ ((run false).stack 0).swaps = w false :: [] ∧ memWf (run true).mem = true ∧
    (w true).move = true ∧ (w false).move = false ∧ remapKey (w false).dieA (w false).pgA ≠ remapKey (w false).selB (w false).idB ∧
    w0.isCompute 0 1 = true ∧ w0.isCompute 0 0 = false := by decide +kernel

theorem witness_SwapAndRoleSteps_roles :
    let cfg (m : Bool) : BitVec 8 × Nat × Nat × Nat := (if m then 0x0A else 2, 0, 0, 0)
    let s : State := (inLaunch fun l => { l with supervisor := false }).updStack 0 fun x => { x with reroll := some (cfg true) }
    let free : State := w0.updStack 1 fun x => { x with reroll := some (cfg true), chg := true }
    let same : State := { gets (w0.updStack 0 fun x => { x with reroll := some (w0.stack 0 |>.role, 0, 0, 0), chg := true }) (.reenum 0) with
      mgmt := { w0.mgmt with booted := BitVec.allOnes _ } }
    same.arrived = some (.reenum 0) ∧ (same.stack 0).reroll = some ((w0.stack 0).role, 0, 0, 0) ∧ same.mgmt.booted.getLsbD 3 = true ∧
    (∀ l < 8, (w0.stack 0).role.getLsbD l = true → (same.stack 0).role.getLsbD l = true) ∧
    w0.mgmtUp 0 = true ∧ w0.mgmtUp 2 = false ∧ (free.stack 1).chg = true ∧ (w0.stack 0).chg = false ∧ (w0.stack 1).chg = false ∧
    (mapValid 0x0A w0.mgmt.cooling = true ∧ w0.keepOk 0 = true) ∧ mapValid 3 w0.mgmt.cooling = false ∧ w0.drainPick 0 = [] ∧
    s.drainPick 0 = [1] ∧ (s.launch 1).st = .running ∧ (∀ l ∈ s.launches, l.2.st ≠ .pending) ∧ w0.flushReady 0 = false ∧
    free.flushReady 1 = true ∧ (free.stack 1).reroll = some (cfg true) ∧ (gets free (.reenum 1)).arrived = some (.reenum 1) ∧
    (w0.stack 1).reroll = none := by decide +kernel

/-! ### Errors, paddocks, margins and repairs -/

theorem witness_ErrorAndPaddockSteps :
    let due : State := { (w0.updDie 0 fun d => { d with ceFirst := some (0, 0x200, 1) }) with now := 2 ^ 24 }
    let ans : Ans := ⟨reqOf .read 0x200, 0, 5, 0⟩
    let rel : Release := { value := 5, abort := 0, op := 0, mix := false, none_ := false }
    let fl : State := gets w0 (.ans ans)
    let killed : State := w0.updDie 0 fun d => { d with implicit := [(0, 1)] }
    let pad (st : Nat) : State := w0.updDie 0 fun d =>
      { d with paddocks := [(0, { row0 := 0, col0 := 0, rows := 8, cols := 8, v := true, st := st, err := false })] }
    w0.corrDue = [] ∧ due.corrDue = [0] ∧ (due.die 0).ceFirst = some (0, 0x200, 1) ∧
    (fl.flight.find? fun f => f.num == 7).map Flight.msg = some (.ans ans) ∧ ans.req.acc ≠ .store ∧
    ((gets w0 (.req ans.req)).flight.find? fun f => f.num == 7).map Flight.msg = some (.req ans.req) ∧
    (∃ f ∈ (gets w0 (.hurRelease 4 0 rel)).flight, f.msg = .hurRelease 4 0 rel) ∧ w0.flight = [] ∧
    w0.padSt 0 (w0.padOf 0) = 0 ∧ killed.padSt 0 (killed.padOf 0) = 1 ∧
    (∀ p, p < 8 → (pad 1).padSt (tDie (penTile (penKey 0) p)) ((pad 1).padOf (penTile (penKey 0) p)) ≠ 0) ∧
    (gets killed (.padReset 0 64)).arrived = some (.padReset 0 64) ∧ (gets killed (.padEnd 0 64)).arrived = some (.padEnd 0 64) ∧
    (nb (2 ^ 36) 36 = true ∧ (tget Paddock.fresh ((pad 3).die 0).paddocks 0).v = true ∧ (tget Paddock.fresh ((pad 3).die 0).paddocks 0).st = 3) ∧
    nf (2 ^ 38) 38 26 ≠ 0 ∧ (¬ (128 < (0 : Nat) + nf (8 * 2 ^ 16) 16 8) ∧ nf (8 * 2 ^ 16 + 8 * 2 ^ 24) 38 26 = 0 ∧ (w0.die 0).paddocks = []) ∧
    w0.fenced 0 = false ∧ (gets (pad 4) (.padTest 0 0)).arrived = some (.padTest 0 0) := by decide +kernel

/-- A position that fails beside two marked ones is beyond the code, one alone is not; a walk message lost with its thread. -/
theorem witness_ErrorAndPaddockSteps_lost :
    let marked : State := { w0 with mgmt := { w0.mgmt with marks := [(0, [1, 2])] } }
    let walks : State := { ((inSlot fun sl => { sl with st := .out }).updDie 0 fun d => { d with implicit := [(0, 1)] }) with
      flight := [⟨7, 0, .walk (ctxOf 1 0)⟩], ev := { w0.ev with num := 0, a := 8, b := 8 } }
    marked.beyondCode 0 [3] = true ∧ w0.beyondCode 0 [3] = false ∧
    walks.ev.b ≠ 0 ∧ walks.ev.a ≠ 5 ∧ walks.padSt (tDie walks.ev.num) (walks.padOf walks.ev.num) ≠ 0 ∧
    (walks.flight.find? fun f => f.num == walks.ev.b - 1).map Flight.msg = some (.walk (ctxOf 1 0)) ∧
    (walks.slot (ctxOf 1 0).origin (ctxOf 1 0).origSlot).st = .out ∧ (walks.tile (ctxOf 1 0).origin).parkq = [] := by decide +kernel

/-- Four corrected errors at one unmarked position within a second ask for its mark; eight errors of a core for its flag (R381, R387). -/
theorem test_counted_errors :
    let ce (s : State) : State := (s.rankError 0 0x40 [3])
    let core (s : State) : State := s.unitError 0 false
    ((ce (ce (ce w0))).symPick = none ∧ (ce (ce (ce (ce w0)))).symPick = some { num := 0, a := 3, b := 0x40, c := 0, data := [] }) ∧
    (core (core (core (core (core (core (core w0))))))).marginPick = none ∧
    (core (core (core (core (core (core (core (core w0)))))))).marginPick = some (0, false) := by decide +kernel

theorem witness_MarginAndRepairSteps :
    let m (st bin : Nat) : Margin := { bin := bin, st := st, mev := 0, tests := 0, errs := [] }
    let s (st bin : Nat) : State := (inTile fun tl => { tl with margin := m st bin }).updTile 0 fun tl => { tl with lid := 0 }
    let far : State := inTile fun tl => { tl with sel := { tl.sel with mgsel := 255 } }
    let marked : State := { w0 with mgmt := { w0.mgmt with marks := [(0, [1])], softUsed := [0] } }
    let kept : State := w0.updPart 0 fun p => { p with valid := true, rlpol := false }
    w0.unitMargin 0 false = m 0 0 ∧ (s 1 0).unitMargin 0 false = m 1 0 ∧ far.mgUnit 0 = none ∧ w0.mgUnit 0 = some (0, false) ∧
    w0.retestPick = none ∧ (s 1 0).retestPick = some (0, false) ∧ (gets (s 2 3) (.retest 0 false)).arrived = some (.retest 0 false) ∧
    ((1 : Nat) ∈ tget [] marked.mgmt.marks 0) ∧ ¬ (2 ≤ (tget [] w0.mgmt.marks 0).length ∨ 1 ∈ tget [] w0.mgmt.marks 0 ∨ 18 ≤ 1) ∧
    0 ∈ marked.mgmt.softUsed ∧ 0 ∉ w0.mgmt.softUsed ∧ w0.mayPause = true ∧ kept.mayPause = false ∧
    (gets w0 (.repairEnd 0)).arrived = some (.repairEnd 0) := by decide +kernel
/-! ### Other packages, hosts, bring-up and tenancy -/

/-- An earmark that link 1 allows, with its frame failures there, and a frame of it. -/
def earmarked (fails blocked : Nat) : State :=
  { w0 with mgmt := { w0.mgmt with earmarks := [(5, { mask := 2, key := 77, blocked := BitVec.ofNat 16 blocked, fails := [(1, fails)], frames := [] })] } }

theorem witness_FjoicSteps_frames :
    let s := earmarked 1 0
    let frame : Ev := { num := 1, a := 5, b := 0, c := (frameTag 77 (frameBytes 1 0 0 [9])).toNat, data := [9] }
    let key := tget Earmark.fresh s.mgmt.earmarks 5
    (s.mgmt.fjDown.getLsbD 1 = false ∧ s.isReady (13 + 1) = true) ∧ { w0 with mgmt := { w0.mgmt with fjDown := 2 } }.mgmt.fjDown.getLsbD 1 = true ∧
    tget? w0.mgmt.earmarks 5 = none ∧ tget? s.mgmt.earmarks 5 = some key ∧ key.mask.getLsbD 1 = true ∧ key.blocked.getLsbD 1 = false ∧
    (tget Earmark.fresh (earmarked 0 2).mgmt.earmarks 5).blocked.getLsbD 1 = true ∧ tget 0 key.fails 1 < 2 ∧
    2 ≤ tget 0 (tget Earmark.fresh (earmarked 2 0).mgmt.earmarks 5).fails 1 ∧
    frame.c = (frameTag key.key (frameBytes (frame.num % 16) (frame.b % 2) (tget 0 key.frames 2) frame.data)).toNat ∧
    (1 ≤ frame.data.length ∧ frame.data.length ≤ 16) ∧ ¬ 1 ≤ ([] : List Nat).length := by
  refine ⟨?_, ?_, ?_, ?_, ?_, ?_, ?_, ?_, ?_, rfl, ?_⟩ <;> decide +kernel

theorem witness_FjoicSteps_requests :
    let h (ty pod budget : Nat) : Nat := ty + pod * 2 ^ 56 + budget * 2 ^ 104
    let out (msg : Msg) (hold inc : Bool) : FjReq := { msg := msg, header := 0, hold := hold, incoming := inc, limit := 0 }
    let late : State := { (inSlot fun sl => { sl with wait := .answer }) with fj := [(4, out (.sendm (sendOf 0 1 0)) false false)] }
    let heldReq (acc : Acc) : State := { (inSlot fun sl => { sl with wait := .answer, st := .block }) with
      fj := [(4, out (.req (reqOf acc 0)) false false)] }
    let taken : State := { w0 with fj := [(4, out (.sendm (sendOf 0 1 0)) false true)] }
    let cast (bs : List (Nat × Nat)) (told : Bool) : State :=
      { w0 with mcasts := [(4, { pen := 0, xid := 1, branches := bs, mask := 0, told := told })] }
    4 < fhType (h 5 0 9) ∧ fhType (h 1 0 9) ≤ 4 ∧ fhBudget (h 1 0 0) = 0 ∧ (fhSpod (h 1 3 9) ≠ w0.pod ∧ fhType (h 1 3 9) ≠ 0 ∧ fhType (h 1 3 9) ≠ 3) ∧
    ¬ (fhBudget (h 1 0 9) = 0 ∨ (fhSpod (h 1 0 9) ≠ w0.pod ∧ fhType (h 1 0 9) ≠ 0 ∧ fhType (h 1 0 9) ≠ 3) ∨ w0.isReady (13 + 0 % 16) = false) ∧
    fhType (h 3 0 9) = 3 ∧ (w0.fjMsgOf 0 7 (h 3 0 9) 0).isSome = true ∧ (w0.fjMsgOf 0 7 (h 3 0 9 + 255 * 2 ^ 128) 0).isSome = false ∧
    tget? late.fj 4 = some (out (.sendm (sendOf 0 1 0)) false false) ∧ (late.slot 0 0).pend = none ∧
    (tget? (heldReq .store).fj 4 = some (out (.req (reqOf .store 0)) false false) ∧ (reqOf .store 0).acc = .store) ∧
    (tget? (heldReq .read).fj 4 = some (out (.req (reqOf .read 0)) false false) ∧ (reqOf .read 0).acc ≠ .store ∧
      (reqOf .read 0).askers = [(0, 0)] ∧ (heldReq .read).waits 0 0 1 = true ∧ ((heldReq .read).slot 0 0).flk = 0) ∧ (∀ q, tget? w0.fj 4 = some q → q.incoming = true) ∧
    tget? taken.fj 4 = some (out (.sendm (sendOf 0 1 0)) false true) ∧ w0.fjLate = none ∧
    late.fjLate = some (4, out (.sendm (sendOf 0 1 0)) false false) ∧ (late.slot 0 0).wait = .answer ∧ (late.slot 0 0).parkReq = false ∧
    tget? w0.mcasts 4 = none ∧ tget? (cast [] false).mcasts 4 = some { pen := 0, xid := 1, branches := [], mask := 0, told := false } ∧
    tget? (cast [(0, 1)] true).mcasts 4 = some { pen := 0, xid := 1, branches := [(0, 1)], mask := 0, told := true } ∧
    ((∃ x ∈ [((0 : Nat), (1 : Nat)), (1, 2)], x.1 = 0) ∧ (∃ x ∈ [((0 : Nat), (1 : Nat)), (1, 2)], x.1 ≠ 0) ∧ ∀ x ∈ [((0 : Nat), (1 : Nat))], x.1 ≠ 5) ∧
    (gets (cast [(0, 1)] true) (.branchTimer 4 0)).arrived = some (.branchTimer 4 0) := by
  refine ⟨?_, ?_, ?_, ?_, ?_, ?_, ?_, ?_, ?_, ?_, ?_, ?_, fun q hq => ?_, ?_⟩
  case refine_13 =>
    have h : tget? w0.fj 4 = none := by decide +kernel
    rw [h] at hq
    cases hq
  all_goals decide +kernel

/-- A partition open to port 0, whose page table maps offset 0x10000; a closed one; a quiesced channel; semaphores and grants. -/
theorem witness_HostSteps :
    let s : State := (paged w0).updPart 0 fun p => { p with valid := true, st := 2, ports := 1 }
    let still : State := { s with mgmt := { s.mgmt with quiesced := [hbmChan 0x20000] } }
    let a : Word := packageAt
    let sems : State := { w0 with mgmt := { w0.mgmt with sems := [(3, (1, 0, 0)), (4, (2, 0, 0))] } }
    let dbg (n : Nat) : State := { still with mgmt := { still.mgmt with agent := some 0, dbgAddr := [(0, n)] } }
    let g (st : Nat) : State := w0.updPart 0 fun p => { p with grants := [(3, { Grant.fresh with st := st })] }
    let clash : State := w0.updPart 1 fun p => { p with grants := [(3, { Grant.fresh with st := 1, base := 0, pages := 4, grantee := 6 })] }
    w0.hostAt 0 0 a 8 true = .no 1 ∧ s.hostAt 0 0 a 8 true = .at_ [(hbmKey 0x20000, 8, 0)] 3 (agentOf 0) 0 ∧
    s.hostAt 0 0 a 8 false = .at_ [(hbmKey 0x20000, 8, 0)] 3 (agentOf 0) 0 ∧ still.hostAt 0 0 a 8 true = .wait ∧
    still.hostAt 0 0 a 8 false = .wait ∧ s.hostDead 3 (agentOf 0) 0 8 = false ∧ partialPoison s.poison (hbmKey 0x20000) 8 = none ∧
    poisonIn s.poison (hbmKey 0x20000) 8 = none ∧ (poisonIn (markPoison [] (hbmKey 0x20000) 8) (hbmKey 0x20000) 8).isSome = true ∧
    w0.mgmtUp 0 = true ∧ w0.mgmtUp 2 = false ∧ (w0.sem 3).1 = 0 ∧ (sems.sem 3).1 = 0 + 1 ∧ (sems.sem 4).1 ≠ 0 + 1 ∧ w0.portUp 0 = true ∧
    w0.portUp 2 = false ∧ w0.isReady 2 = true ∧ w0.mgmt.agent = none ∧ (dbg (2 ^ 62 + 0x20000)).mgmt.agent ≠ none ∧
    (dbg (2 ^ 62 + 0x20000)).dbgRead 0 = .wait ∧ (dbg (3 * 2 ^ 62)).dbgRead 0 = .ok 4 0 false ∧ ((w0.part 0).grant 3).st = 0 ∧
    (((g 1).part 0).grant 3).st = 1 ∧ (((g 2).part 0).grant 3).st = 2 ∧ w0.grantClash 0 0 4 6 = false ∧ clash.grantClash 0 0 4 6 = true ∧
    (gets w0 (.grantFree 3)).arrived = some (.grantFree 3) ∧ (gets w0 (.grantFree 3)).grantBusy 3 = false ∧
    ({ w0 with flight := [{ num := 7, due := 1, msg := .ans ⟨{ reqOf .read 0 with grant := some 3 }, 0, 0, 0⟩ }] }).grantBusy 3 = true := by
  decide +kernel

/-- Ports up and down; functions next and lost; a boot image without its format; reports and link keys. -/
theorem witness_BringUpSteps :
    let mg (f : Mgmt → Mgmt) : State := { w0 with mgmt := f w0.mgmt }
    let off := mg fun m => { m with ready := 1, booted := 1 }
    let two := mg fun m => { m with booted := nw (2 ^ 42 - 1 - 2 ^ 1) }
    let maps := mg fun m => { m with booted := nw (2 ^ 42 - 1 - 2 ^ 3) }
    let key (w : Nat) (ems : Nat) := mg fun m =>
      { m with reportNonce := [(0, 9)], keyNonce := [(0, 9)], keyWord := [(0, w)], earmarks := (List.range ems).map fun i => (i + 100, Earmark.fresh) }
    w0.portUp 0 = true ∧ w0.mgmtUp 0 = true ∧ State.reset.portUp 0 = false ∧ State.reset.mgmtUp 0 = false ∧ (w0.tiles.map Prod.fst).Nodup ∧
    State.reset.bootNext = some 0 ∧ State.reset.mgmt.booted.getLsbD 5 = false ∧ two.bootNext = some 1 ∧ maps.bootNext = some 3 ∧
    w0.bootNext = none ∧ w0.mgmt.booted.getLsbD 7 = true ∧ off.portUp 0 = true ∧ off.isReady 2 = false ∧ (0 : Nat) = off.mgmt.bootPort ∧
    off.bootFails 0 = some 3 ∧ (gets w0 (.report 0 9)).arrived = some (.report 0 9) ∧
    tget? w0.mgmt.reportNonce 0 ≠ some (tget 0 w0.mgmt.keyNonce 0) ∧ tget? (key 5 0).mgmt.reportNonce 0 = some (tget 0 (key 5 0).mgmt.keyNonce 0) ∧
    (nf 0 0 12 = 0 ∧ nf 5 0 12 ≠ 0) ∧ nb 5 28 = false ∧ nb (5 + 2 ^ 28) 28 = true ∧
    (tget? (key 5 256).mgmt.earmarks 5 = none ∧ 256 ≤ (key 5 256).mgmt.earmarks.length) ∧ (key 5 255).mgmt.earmarks.length < 256 := by
  decide +kernel

/-- A boot image of one byte after its header, for the fused key hash and any rollback count. -/
def booting : State :=
  { w0 with mgmt := { w0.mgmt with ready := 1, booted := 1, boot := cells 0 (toBytes 4 0x57465A4B ++ toBytes 4 1 ++ toBytes 8 (2 ^ 64 - 1) ++
      toBytes 8 1 ++ toBytes 8 0 ++ toBytes 32 Config.fuseKeyHash.toNat) } }

/-- When its key is the fused one and its signature verifies, the image passes. -/
theorem witness_BringUpSteps_boot (hk : (shake256 (booting.bootBytes 0x40 1793) 32).toNat = Config.fuseKeyHash.toNat)
    (hv : Config.falconVerify (booting.bootBytes 0x40 1793) (booting.bootBytes 0x800 1280) (booting.bootDigest 4097) = true) :
    booting.bootFails 4097 = none := by
  have hf : booting.bootFormat 4097 = true := by decide +kernel
  have hr : booting.bootNum 8 8 = 2 ^ 64 - 1 := by decide +kernel
  have hn : booting.bootNum 0x20 32 = Config.fuseKeyHash.toNat := by
    have hb : booting.bootBytes 0x20 32 = toBytes 32 Config.fuseKeyHash.toNat := by rfl
    rw [State.bootNum, hb, ofBytes_toBytes]
    exact Nat.mod_eq_of_lt Config.fuseKeyHash.isLt
  have hl := Config.fuseRollback.isLt
  simp only [State.bootFails, hf, hv, hn, hk, hr, Bool.not_true, Bool.false_eq_true, if_false, ne_eq, not_true_eq_false, or_self]
  rw [if_neg (by omega)]

/-- Acquire attempts of both ports in one cycle: port 0's is taken first (R393). -/
theorem test_port_order :
    let at_ (p : Nat) : Ev := { num := p, a := 3, b := 0, c := 0, data := [] }
    let s : State := { w0 with inputs := [(0, .semaphoreAcquire, at_ 1), (0, .semaphoreAcquire, at_ 0)] }
    (s.inputDue.map fun x => x.2.num) = some 0 ∧ (s.takeInput (at_ 0)).inputs.length = 1 ∧
    ((s.takeInput (at_ 0)).inputDue.map fun x => x.2.num) = some 1 := by decide +kernel

theorem witness_TenancySteps :
    let cfg (st : Nat) : Part :=
      { Part.fresh with valid := decide (st ≠ 0), st := st, owner := 9, dies := 1, grow0 := 0, gcol0 := 0, grows := 1, gcols := 1, hlen := 65536 }
    let s (st : Nat) : State := w0.updPart 0 fun _ => cfg st
    let at_ (s : State) (f : Mgmt → Mgmt) : State := { s with mgmt := f s.mgmt }
    let hot := at_ w0 fun m => { m with duty := 4, overSince := some 0 }
    let cold := at_ w0 fun m => { m with duty := 2, lowSince := some 0 }
    w0.mgmtUp 0 = true ∧ w0.mgmtUp 2 = false ∧ (powerLimit w0.mgmt.cooling < 4000 ∧ hot.mgmt.duty = 4 ∧ hot.mgmt.overSince = some 0 ∧
      0 + 125000000 ≤ { hot with now := 125000000 }.now) ∧ (1 * 10 < powerLimit cold.mgmt.cooling * 9 ∧ cold.mgmt.duty ≠ 0) ∧
    ((s 0).part 0).st = 0 ∧ ((s 1).part 0).st = 1 ∧ ((s 2).part 0).st = 2 ∧ ((s 3).part 0).st = 3 ∧
    (s 0).partRefused 0 (cfg 0) (1 + 9 * 2 ^ 16) = false ∧ (s 0).partRefused 0 { cfg 0 with owner := 0 } 1 = true ∧
    (gets (s 1) (.opened 0)).arrived = some (.opened 0) ∧ (w0.launches.map Prod.fst).Nodup ∧ (w0.launch 1).part = 0 ∧
    (w0.launch 1).st = .running ∧ ((inLaunch fun l => { l with supervisor := false }).launch 1).supervisor = false ∧
    w0.freePick = none ∧ (s 3).freePick = some 0 ∧ ((s 3).part 0).granting = false ∧
    (let g := (s 3).updGrant 0 1 fun g => { g with st := 1 }
     g.freePick = some 0 ∧ (g.part 0).granting = true ∧ ((g.part 0).grant 1).st = 1) ∧ tget? w0.mgmt.reportNonce 0 = none ∧ w0.mgmt.agent = none ∧
    (at_ w0 fun m => { m with agent := some 0 }).mgmt.agent ≠ none ∧ nf (nput (3 + 5 * 2 ^ 8) 19 2 1) 0 8 < 128 ∧
    nf (nput (3 + 5 * 2 ^ 8) 19 2 1) 8 8 < 160 ∧ w0.realDie (nf (nput (3 + 5 * 2 ^ 8) 19 2 1) 16 3) = some 0 := by decide +kernel

/-! ### Whole steps -/

/-- The thread of `w0` fetches NOP at LOCAL 0x100 and runs it. -/
theorem witness_StepRunsTheDecodedWord :
    w0.inputDue = none ∧ w0.hwNext = none ∧ w0.threadNext = w0.actOf 0 0 true ∧ (w0.slot 0 0).refusals = [] ∧ (w0.slot 0 0).engErrs = [] ∧
    (w0.slot 0 0).fpx = none ∧ (w0.slot 0 0).fwd = none ∧ (w0.slot 0 0).flk = 0 ∧ (w0.slot 0 0).line = none ∧
    decodeWin (w0.slot 0 0).pc = some (.loc 0x100) ∧ 0x100 + 4 ≤ (w0.launch (w0.tile 0).lid).slice ∧
    (w0.readLine 0 (lineBase (w0.slot 0 0).pc)).poison = [] ∧
    (List.range 4).map (fun n => readByte w0.mem (w0.sliceKey 0 0x100 + n)) = [0x1F, 0, 0, 0] ∧ (w0.slot 0 0).priv = true := by
  decide +kernel

theorem witness_StepRunsTheDecodedWord_decodes : decode [0x1F, 0, 0, 0] = .ok (.nop, []) := by rfl

theorem witness_DecodeOfEncode : hasWord (.add 3 1 2) = true ∧ wellFormed (.add 3 1 2) = true ∧ hasWord (.addC 3 2) = true ∧
    wellFormed (.addC 3 2) = true := by decide

theorem witness_EveryStepKeepsMemory : memWf State.reset.mem = true ∧ memWf w0.mem = true := by decide +kernel

end Sys2Proof.Tests
end

section
/-! Storage: what each shared operation of the model leaves of it, and that every store keeps its canonical form, in the order of the
model. -/

open Sys2Proof

namespace Sys2Proof.Machine

@[simp] theorem State.mem_ite (c : Prop) [Decidable c] (a b : State) : (if c then a else b).mem = if c then a.mem else b.mem :=
  apply_ite State.mem c a b

/-- Storage is byte for byte the same list in both states. -/
def State.SameMem (s t : State) : Prop := t.mem = s.mem

@[simp] theorem State.sameMem_iff (s t : State) : s.SameMem t ↔ t.mem = s.mem := ⟨id, id⟩

@[simp] theorem State.mem_foldl {α : Type} (f : State → α → State) (l : List α) (s : State) (h : ∀ (s : State) (a : α), s.SameMem (f s a)) :
    (l.foldl f s).mem = s.mem :=
  List.foldlRecOn (motive := fun r => r.mem = s.mem) l f rfl fun b hb a _ => (h b a).trans hb

theorem State.mem_getD {o : Option State} {s : State} (h : ∀ s', o = some s' → s'.mem = s.mem) : (o.getD s).mem = s.mem := by
  cases o with
  | none => rfl
  | some s' => exact h s' rfl

/-- A fold that may stop keeps what each of its steps keeps. -/
theorem foldl_bind_keeps {α : Type} {P : State → Prop} {f : State → α → Option State} (h : ∀ s a s', P s → f s a = some s' → P s')
    {l : List α} {s s' : State} (hs : P s) (hf : l.foldl (fun o a => o.bind fun s => f s a) (some s) = some s') : P s' := by
  induction l generalizing s with
  | nil => cases hf; exact hs
  | cons a l ih =>
    rw [List.foldl_cons, Option.bind_some] at hf
    cases hfa : f s a with
    | none =>
      rw [hfa, List.foldlRecOn (motive := fun o => o = none) l _ rfl fun o ho _ _ => by rw [ho]; rfl] at hf
      cases hf
    | some u => rw [hfa] at hf; exact ih (h s a u hs hfa) hf


/-! ### Ops -/

@[simp] theorem State.draw_mem (s : State) : s.draw.2.mem = s.mem := rfl

@[simp] theorem State.event_mem (s : State) (t b : Nat) : (s.event t b).mem = s.mem := rfl

@[simp] theorem State.dissolve_mem (s : State) (t u : Nat) : (s.dissolve t u).mem = s.mem := rfl

@[simp] theorem State.leaveFlock_mem (s : State) (t u : Nat) (detach : Nat) : (s.leaveFlock t u detach).mem = s.mem := by
  unfold State.leaveFlock
  split <;> simp

@[simp] theorem State.keepMsg_mem (s : State) (t u : Nat) : (s.keepMsg t u).mem = s.mem := by
  simp only [State.keepMsg]
  split <;> simp

@[simp] theorem State.trapAt_mem (s : State) (t u : Nat) (i : TrapInfo) : (s.trapAt t u i).mem = s.mem := by simp [State.trapAt]

@[simp] theorem State.trap_mem (s : State) (c : Cause) (addr : Word) (detail : Nat) : (s.trap c addr detail).mem = s.mem := by
  simp [State.trap]

@[simp] theorem State.queueMsg_mem (s : State) (d dest : Nat) (e : Entry) : (s.queueMsg d dest e).mem = s.mem := rfl

@[simp] theorem State.tileMsg_mem (s : State) (code t : Nat) (addr : Word) (lid detail : Nat) :
    (s.tileMsg code t addr lid detail).mem = s.mem := rfl

@[simp] theorem State.record_mem (s : State) (code d row col : Nat) (addr : Word) (lid detail : Nat) :
    (s.record code d row col addr lid detail).mem = s.mem := rfl

@[simp] theorem State.baseRecord_mem (s : State) (code : Nat) (addr : Word) (detail : Nat) :
    (s.baseRecord code addr detail).mem = s.mem := rfl

@[simp] theorem State.clearRun_mem (s : State) (h : Option (Nat × Nat)) : (s.clearRun h).mem = s.mem := by
  unfold State.clearRun
  split <;> simp

/-! ### Flags -/

@[simp] theorem State.fpEnd_mem (s : State) (d : Reg) (res : Word) (fl : Fl) : (s.fpEnd d res fl).mem = s.mem := by simp [State.fpEnd]

@[simp] theorem State.mergeFlags_mem (s : State) (t u lid : Nat) (pc : Word) (fl : Fl) : (s.mergeFlags t u lid pc fl).mem = s.mem := by
  simp [State.mergeFlags]

/-! ### Control -/

@[simp] theorem State.trapIll_mem (s : State) (i : Instr) : (s.trapIll i).mem = s.mem := by simp [State.trapIll]

@[simp] theorem State.trapPriv_mem (s : State) (i : Instr) : (s.trapPriv i).mem = s.mem := by simp [State.trapPriv]

@[simp] theorem State.jalrTo_mem (s : State) (d : Reg) (t : Word) (len : Nat) : (s.jalrTo d t len).mem = s.mem := by
  simp [State.jalrTo]

@[simp] theorem State.loopStart_mem (s : State) (n len : Nat) (i : Instr) : (s.loopStart n len i).mem = s.mem := by
  simp only [State.loopStart]
  split <;> simp

theorem State.formFlock_mem {s s' : State} {t u rows cols : Nat} {d : Reg} (h : s.formFlock t u rows cols d = some s') :
    s'.mem = s.mem := by
  simp only [State.formFlock] at h
  split at h
  · cases h
  · split at h
    · obtain rfl := Option.some.inj h
      rw [State.updSlot_mem, State.mem_foldl]
      intro s m
      split <;> simp
    · cases h

@[simp] theorem State.tryGangs_mem (s : State) : s.tryGangs.mem = s.mem :=
  State.mem_foldl _ _ _ fun _ _ => State.mem_getD fun _ => State.formFlock_mem

@[simp] theorem State.doJoin_mem (s : State) (len : Nat) : (s.doJoin len).mem = s.mem := by simp [State.doJoin]

@[simp] theorem State.forwardWord_mem (s : State) (b : Nat × Nat) (w : FwdWord) : (s.forwardWord b w).mem = s.mem := by
  simp [State.forwardWord]

@[simp] theorem State.endFlock_mem (s : State) (len : Nat) : (s.endFlock len).mem = s.mem := by simp [State.endFlock]

@[simp] theorem State.doSplit_mem (s : State) (len : Nat) : (s.doSplit len).mem = s.mem := by
  unfold State.doSplit
  split <;> simp

@[simp] theorem State.doRejoin_mem (s : State) (len : Nat) : (s.doRejoin len).mem = s.mem := by
  simp only [State.doRejoin]
  (repeat' split) <;> simp

@[simp] theorem State.settle_mem (s : State) (t u : Nat) : (s.settle t u).mem = s.mem := by
  simp only [State.settle]
  split <;> simp

@[simp] theorem State.doWfe_mem (s : State) (d : Reg) (len : Nat) : (s.doWfe d len).mem = s.mem := by simp [State.doWfe]

@[simp] theorem State.doYield_mem (s : State) (len : Nat) : (s.doYield len).mem = s.mem := rfl

@[simp] theorem State.doExit_mem (s : State) (len : Nat) : (s.doExit len).mem = s.mem := by simp [State.doExit]

/-! ### Net -/

@[simp] theorem State.linkRecord_mem (s : State) (event port earmark : Nat) (stoxis : Bool) (addr : Word) :
    (s.linkRecord event port earmark stoxis addr).mem = s.mem := rfl

@[simp] theorem State.fjSend_mem (s : State) (m : Msg) (ty len dpod dpkg t off aux data : Nat) :
    (s.fjSend m ty len dpod dpkg t off aux data).mem = s.mem := by
  simp [State.fjSend]

@[simp] theorem State.forward_mem (s : State) (t min : Nat) (m : Msg) : (s.forward t min m).mem = s.mem := by
  unfold State.forward
  (repeat' split) <;> simp

@[simp] theorem State.sendOut_mem (s : State) (t min : Nat) (h : List Nat) (m : Msg) : (s.sendOut t min h m).mem = s.mem := by
  simp [State.sendOut]

@[simp] theorem State.fjAnswer_mem (s : State) (k ty status len data aux : Nat) : (s.fjAnswer k ty status len data aux).mem = s.mem := by
  unfold State.fjAnswer
  split <;> simp

@[simp] theorem State.placeInbox_mem (s : State) (t : Nat) (e : Entry) (arg : Word) : (s.placeInbox t e arg).mem = s.mem := rfl

/-! ### Hurdle -/

@[simp] theorem State.upTime_mem (s : State) (d : Nat) : (s.upTime d).2.mem = s.mem := by
  unfold State.upTime
  split <;> rfl

theorem State.arriveNow_mem {s s' : State} {t u key dom : Nat} {op : Option Nat} {val : Word} {abort : Nat} {drop : Bool}
    (h : s.arriveNow t u key dom op val abort drop = some s') : s'.mem = s.mem := by
  simp only [State.arriveNow] at h
  split at h
  · cases h
  · obtain rfl := Option.some.inj h
    split <;> simp

@[simp] theorem State.finishArrive_mem (s : State) (t u key dom : Nat) (op : Option Nat) (val : Word) (abort : Nat) (drop : Bool) :
    (s.finishArrive t u key dom op val abort drop).mem = s.mem := by
  unfold State.finishArrive
  split
  · next h => rw [State.updSlot_mem, State.arriveNow_mem h]
  · simp

@[simp] theorem State.hurWord_mem (s : State) (m : BitVec 1) (l : Nat) (op : Option Nat) (val : Word) (abort : Nat) (drop : Bool) :
    (s.hurWord m l op val abort drop).mem = s.mem := by
  unfold State.hurWord
  split <;> simp

@[simp] theorem State.rootCount_mem (s : State) (d : Nat) (c : Contrib) : (s.rootCount d c).mem = s.mem := rfl

@[simp] theorem State.sendRelease_mem (s : State) (d : Nat) (ts : List Nat) (r : Release) : (s.sendRelease d ts r).mem = s.mem := by
  simp [State.sendRelease, State.draw]

@[simp] theorem State.completePhase_mem (s : State) (d : Nat) : (s.completePhase d).mem = s.mem := by
  simp [State.completePhase]

@[simp] theorem State.startTimetable_mem (s : State) (t lvl : Nat) : (s.startTimetable t lvl).mem = s.mem := by
  simp [State.startTimetable]

@[simp] theorem State.releaseAt_mem (s : State) (d t : Nat) (r : Release) : (s.releaseAt d t r).mem = s.mem := by
  simp [State.releaseAt]

@[simp] theorem State.meetBeats_mem (s : State) : s.meetBeats.mem = s.mem := rfl

@[simp] theorem State.fenceBeats_mem (s : State) : s.fenceBeats.mem = s.mem :=
  State.mem_foldl _ _ _ fun s f => by
    rw [State.sameMem_iff]
    (repeat' split) <;> rfl

@[simp] theorem State.inject_mem (s : State) (t lvl w : Nat) (e : TtEntry) : (s.inject t lvl w e).mem = s.mem := by
  simp [State.inject]

/-! ### Counter -/

@[simp] theorem State.joinDom_mem (s : State) (k : Nat) : (s.joinDom k).mem = s.mem := by simp [State.joinDom]

@[simp] theorem State.leaveDom_mem (s : State) (k : Nat) : (s.leaveDom k).mem = s.mem := by simp [State.leaveDom]

@[simp] theorem State.armAt_mem (s : State) (k r idx lid armer : Nat) : (s.armAt k r idx lid armer).mem = s.mem := by
  simp [State.armAt]

@[simp] theorem State.acarm_mem (s : State) (c : CtrReq) : (s.acarm c).2.mem = s.mem := by
  simp only [State.acarm]
  (repeat' split) <;> simp

@[simp] theorem State.ctrServe_mem (s : State) (c : CtrReq) : (s.ctrServe c).2.mem = s.mem := by
  simp only [State.ctrServe]
  (repeat' split) <;> simp

@[simp] theorem State.ctrSend_mem (s : State) (fn : Nat) (d : Reg) (index arg : Nat) : (s.ctrSend fn d index arg).mem = s.mem := by
  simp [State.ctrSend]

@[simp] theorem State.parkDue_mem (s : State) (t u : Nat) : (s.parkDue t u).mem = s.mem := by simp [State.parkDue]

@[simp] theorem State.answerTo_mem (s : State) (l : List (Nat × Nat)) (d : Reg) (v : Word) (len : Nat) :
    (s.answerTo l d v len).mem = s.mem := by
  simp [State.answerTo]

@[simp] theorem State.deliver_mem (s : State) (f : Firing) : (s.deliver f).mem = s.mem := by
  simp only [State.deliver]
  (repeat' split) <;> simp

/-! ### Tree -/

theorem State.treeInject_mem {s s' : State} {t : Nat} {val d : Word} (h : s.treeInject t val d = .ok s') : s'.mem = s.mem := by
  revert h
  fun_cases State.treeInject s t val d <;> rintro ⟨⟩
  exact State.sendOut_mem ..

@[simp] theorem State.completeRound_mem (s : State) (d : Nat) : (s.completeRound d).mem = s.mem := by
  simp [State.completeRound]

@[simp] theorem State.treeExtract_mem (s : State) (t : Nat) : (s.treeExtract t).1.mem = s.mem := by
  unfold State.treeExtract
  split <;> rfl

/-! ### Message -/

@[simp] theorem State.sendmAt_mem (s : State) (m : SendReq) : (s.sendmAt m).2.mem = s.mem := by
  simp only [State.sendmAt]
  (repeat' split) <;> simp

@[simp] theorem State.noteDequeued_mem (s : State) (e : Entry) : (s.noteDequeued e).mem = s.mem := by simp [State.noteDequeued]

@[simp] theorem State.inboxPop_mem (s : State) (t : Nat) : (s.inboxPop t).mem = s.mem := by
  unfold State.inboxPop
  split <;> simp

theorem State.deliverTrap_mem {s s' : State} {d p : Nat} {e : Entry} (h : s.deliverTrap d p e = some s') : s'.mem = s.mem := by
  simp only [State.deliverTrap] at h
  split at h
  · obtain rfl := Option.some.inj h
    rfl
  · split at h
    · obtain rfl := Option.some.inj h
      simp
    · cases h

theorem State.trapDeliver_mem {s s' : State} {d : Nat} (h : s.trapDeliver d = some s') : s'.mem = s.mem := by
  simp only [State.trapDeliver] at h
  split at h
  · cases h
  · split at h
    · cases h
    · rw [State.deliverTrap_mem h, State.updSlot_mem]
  · split at h
    · cases h
    · rw [State.deliverTrap_mem h, State.updDie_mem]
  · split at h
    · cases h
    · split at h
      · obtain rfl := Option.some.inj h
        split <;> simp
      · cases h

@[simp] theorem State.setHeld_mem (s : State) (i : Nat) (h : Bool) : (s.setHeld i h).mem = s.mem := rfl

theorem State.ctrlLoad_mem {s : State} {t block off code : Nat} {q : State × Nat} (h : s.ctrlLoad t block off code = some q) :
    q.1.mem = s.mem := by
  simp only [State.ctrlLoad] at h
  (repeat' split at h) <;> cases h <;> simp

theorem State.ctrlStore_mem {s s' : State} {t block off code data : Nat} (h : s.ctrlStore t block off code data = .ok s') :
    s'.mem = s.mem := by
  unfold State.ctrlStore at h
  split at h
  · obtain rfl := CtrlOut.ok.inj h
    simp
  · split at h
    · exact State.treeInject_mem h
    · cases h

/-! ### Access -/

@[simp] theorem State.sendReq_mem (s : State) (t : Nat) (r : Req) (p : Place) : (s.sendReq t r p).mem = s.mem := by
  unfold State.sendReq
  split <;> simp

@[simp] theorem State.spoil_mem (s : State) (r : Req) (key : Nat) : (s.spoil r key).mem = s.mem := by simp [State.spoil]

theorem memWf_perform {s : State} (h : memWf s.mem = true) (r : Req) (key : Nat) (dead : Bool) (part kind idx off : Nat) :
    memWf (s.perform r key dead part kind idx off).1.mem = true := by
  simp only [State.perform]
  split
  · split
    · exact h
    · simpa using memWf_store h _ _ _
  · split <;> exact h
  · split
    · exact h
    · simpa using memWf_writeMem h _ _ _

theorem memWf_performAt {s : State} (h : memWf s.mem = true) (r : Req) (p : Place) : memWf (s.performAt r p).1.mem = true := by
  unfold State.performAt
  split
  · exact h
  · split
    · extract_lets fromJob t a
      have ha : memWf a.1.mem = true := memWf_perform h _ _ _ _ _ _ _
      split
      · simpa using memWf_store ha _ _ _
      · exact ha
    · exact memWf_perform h _ _ _ _ _ _ _
    · exact memWf_perform h _ _ _ _ _ _ _
    · exact h

@[simp] theorem State.refuseThread_mem (s : State) (t u : Nat) (c : Cause) (r : Req) : (s.refuseThread t u c r).mem = s.mem := by
  simp [State.refuseThread]

@[simp] theorem State.takeAnswer_mem (s : State) (a : Ans) (t u : Nat) : (s.takeAnswer a t u).mem = s.mem := by
  simp only [State.takeAnswer]
  (repeat' split) <;> simp

@[simp] theorem State.takeStore_mem (s : State) (a : Ans) (t u : Nat) : (s.takeStore a t u).mem = s.mem := rfl

/-! ### LoadStore -/

@[simp] theorem State.beginWalk_mem (s : State) (dest : Nat) (explicit : Bool) (addr : Word) (code : Nat) :
    (s.beginWalk dest explicit addr code).mem = s.mem := by
  simp [State.beginWalk]

@[simp] theorem State.loadWord_mem (s : State) (d : Reg) (ea : Word) (code : Nat) (sign : Bool) (w : BitVec 2) (len : Nat) :
    (s.loadWord d ea code sign w len).mem = s.mem := by
  simp only [State.loadWord]
  split
  · rfl
  · split
    · simp
    · simp
    · split
      · split
        · split <;> simp
        · rfl
      · split
        · simp
        · next h => exact State.ctrlLoad_mem h
      · split <;> simp

theorem memWf_storeWord {s : State} (h : memWf s.mem = true) (data : Nat) (ea : Word) (code : Nat) (w : BitVec 2) (len : Nat) :
    memWf (s.storeWord data ea code w len).mem = true := by
  simp only [State.storeWord]
  split
  · exact h
  · split
    · simpa using h
    · exact h
    · split
      · split
        · split
          · simpa using h
          · exact memWf_sliceStore h _ _ _ _
        · split <;> simpa using h
      · split
        · simpa using h
        · simpa using h
        · exact h
        · next hs => simpa [State.ctrlStore_mem hs] using h
      · split <;> simpa using h

@[simp] theorem State.doWaitc_mem (s : State) (m len : Nat) : (s.doWaitc m len).mem = s.mem := by simp [State.doWaitc]

@[simp] theorem State.amo_mem (s : State) (d : Reg) (sz : BitVec 1) (a b : Reg) (w : BitVec 2) (n : BitVec 1) (fn : Nat) (rm : BitVec 2) :
    (s.amo d sz a b w n fn rm).mem = s.mem := by
  simp only [State.amo]
  (repeat' split) <;> simp

/-! ### Walk -/

theorem memWf_parkWrite {s : State} (h : memWf s.mem = true) (t : Nat) (c : WalkCtx) : memWf (s.parkWrite t c).mem = true :=
  memWf_store h _ _ _

@[simp] theorem State.grant_mem (s : State) (t : Nat) : (s.grant t).mem = s.mem := by
  simp only [State.grant]
  (repeat' split) <;> simp

@[simp] theorem State.freeSlot_mem (s : State) (t u : Nat) : (s.freeSlot t u).mem = s.mem := by simp [State.freeSlot]

theorem memWf_accept {s s' : State} (h : memWf s.mem = true) {t : Nat} {c : WalkCtx} (ha : s.accept t c = some s') :
    memWf s'.mem = true := by
  simp only [State.accept] at ha
  split at ha
  · cases ha
    exact h
  · split at ha <;> cases ha
    exact memWf_parkWrite h _ _

/-! ### Shape -/

@[simp] theorem State.chainEvent_mem (s : State) (t : Nat) : (s.chainEvent t).mem = s.mem := by
  simp [State.chainEvent]

theorem State.coutPush_mem {s s' : State} {t v : Nat} (h : s.coutPush t v = some s') : s'.mem = s.mem := by
  simp only [State.coutPush] at h
  split at h
  · cases h
  · obtain rfl := Option.some.inj h
    simp

theorem State.cinPop_mem {s : State} {t up : Nat} {q : Nat × State} (h : s.cinPop t up = some q) : q.2.mem = s.mem := by
  simp only [State.cinPop] at h
  split at h
  · cases h
  · split at h
    · cases h
    · obtain rfl := Option.some.inj h
      simp

theorem State.streamRead_mem {s s' : State} {t i z v : Nat} (h : s.streamRead t i z = .ok v s') : s'.mem = s.mem := by
  unfold State.streamRead at h
  (repeat' split at h) <;> cases h
  rfl

theorem State.pullPiece_mem {s : State} {t : Nat} {chain : BitVec 4} {kind unit z : Nat} {q : List Nat × State}
    (h : s.pullPiece t chain kind unit z = .ok q) : q.2.mem = s.mem := by
  unfold State.pullPiece at h
  split at h
  · split at h <;> cases h
    next h => exact State.streamRead_mem h
  · split at h <;> cases h
    rfl
  · split at h
    · cases h
    · next v s' hs =>
      cases h
      obtain ⟨up, -, hp⟩ := Option.bind_eq_some_iff.1 hs
      exact State.cinPop_mem hp

@[simp] theorem State.pull_mem (s : State) (t : Nat) (chain : BitVec 4) (kind unit z need n : Nat) (buf : List Nat) :
    (s.pull t chain kind unit z need n buf).1.mem = s.mem := by
  induction n generalizing s buf with
  | zero => rfl
  | succ n ih =>
    unfold State.pull
    split
    · rfl
    · split
      · rfl
      · next h => rw [ih, State.pullPiece_mem h]

theorem memWf_elemStore {s s' : State} (h : memWf s.mem = true) {t off z v : Nat} (he : s.elemStore t off z v = .ok s') :
    memWf s'.mem = true := by
  simp only [State.elemStore] at he
  split at he
  · cases he
  · split at he <;> cases he
    exact memWf_sliceStore h _ _ _ _

@[simp] theorem State.pushEntry_mem (s : State) (t kind unit v : Nat) : (s.pushEntry t kind unit v).mem = s.mem := by
  unfold State.pushEntry
  split
  · refine State.mem_getD fun s' h => ?_
    obtain ⟨tl, -, rfl⟩ := Option.map_eq_some_iff.1 h
    rfl
  · exact State.mem_getD fun _ => State.coutPush_mem

/-! ### Vector -/

@[simp] theorem State.enterSeq_mem (s : State) (e : SeqEntry) : (s.enterSeq e).mem = s.mem := by
  unfold State.enterSeq
  split <;> simp

@[simp] theorem State.vecIssue_mem (s : State) (i : Instr) (w : VW) : (s.vecIssue i w).mem = s.mem := by
  simp only [State.vecIssue]
  (repeat' split) <;> simp

@[simp] theorem State.doVsync_mem (s : State) (len : Nat) : (s.doVsync len).mem = s.mem := by simp [State.doVsync]

/-! ### Sequencer -/

@[simp] theorem State.fillSrc_mem (s : State) (t : Nat) (chain : BitVec 4) (src : Src) (need : Nat) (buf : List Nat) :
    (s.fillSrc t chain src need buf).1.mem = s.mem := by
  unfold State.fillSrc
  (repeat' split) <;> simp

theorem memWf_dstPut {s : State} (h : memWf s.mem = true) {t k n : Nat} {d : Dst} {buf : List Nat} {v : Nat} {last : Bool}
    {q : State × List Nat} (hd : s.dstPut t k n d buf v last = .ok q) : memWf q.1.mem = true := by
  simp only [State.dstPut] at hd
  split at hd
  · cases he : s.elemStore t (Rec.addr _ k n).toNat (Rec.size _) v with
    | error g => rw [he] at hd; cases hd
    | ok s' => rw [he] at hd; cases hd; exact memWf_elemStore h he
  · split at hd <;> cases hd
    · simpa using h
    · exact h

/-- A value that may be poisoned: with poison nothing is written. -/
theorem memWf_orPoison {α : Type} {e : Except Nat α} {s : State} (h : memWf s.mem = true) {p : Progress} {k : α → State × Progress × VOut}
    (hk : ∀ v, e = .ok v → memWf (k v).1.mem = true) : memWf (orPoison e s p k).1.mem = true := by
  cases e with
  | error g => exact h
  | ok v => exact hk v rfl

theorem memWf_vxApply {s : State} (h : memWf s.mem = true) (x : VX) (t : Nat) (p : Progress) : memWf (x.apply s t p).1.mem = true := by
  simp only [VX.apply]
  refine memWf_orPoison h fun b0 _ => memWf_orPoison h fun a0 _ => ?_
  split
  · exact memWf_orPoison h fun acc _ => h
  · refine memWf_orPoison h fun z _ => ?_
    split
    · exact h
    · exact memWf_orPoison h fun q hq => memWf_dstPut h hq

theorem memWf_vxElem {s : State} (h : memWf s.mem = true) (x : VX) (t : Nat) (p : Progress) : memWf (x.elem s t p).1.mem = true := by
  unfold VX.elem
  extract_lets n need fillA pA fillB pB fillO pO s'
  have hA : fillA.1.mem = s.mem := by
    simp only [fillA]
    (repeat' split) <;> simp
  have hB : fillB.1.mem = s.mem := (State.fillSrc_mem ..).trans hA
  have hO : fillO.1.mem = s.mem := (State.fillSrc_mem ..).trans hB
  split
  · exact hA ▸ h
  · split
    · exact hB ▸ h
    · split
      · exact hO ▸ h
      · split
        · exact hO ▸ h
        · exact memWf_vxApply (hO ▸ h) _ _ _

theorem memWf_vxRun {s : State} (h : memWf s.mem = true) (x : VX) (t m : Nat) (p : Progress) : memWf (x.run t m s p).1.mem = true := by
  induction m generalizing s p with
  | zero => exact h
  | succ m ih =>
    have he := memWf_vxElem h x t p
    unfold VX.run
    split
    · exact h
    · split
      · next hs => rw [hs] at he; exact ih he _
      · exact he

theorem memWf_vxFinish {s : State} (h : memWf s.mem = true) (x : VX) (t : Nat) (p : Progress) : memWf (x.finish s t p).1.mem = true := by
  simp only [VX.finish]
  split
  · exact h
  · split
    · exact h
    · exact memWf_orPoison h fun q hq => memWf_dstPut h hq

theorem memWf_sendSlices {s : State} (h : memWf s.mem = true) (t dom j len : Nat) (x : VX) (buf : List Nat) (l : List (Nat × Option Nat)) :
    memWf (s.sendSlices t dom j len x buf l).1.mem = true := by
  induction l generalizing s with
  | nil => exact h
  | cons m l ih =>
    unfold State.sendSlices
    simp only
    split
    · have hw := List.foldlRecOn (motive := fun r : State × Except Nat Unit => memWf r.1.mem = true) (List.range len)
        (fun acc i => match acc.2 with
          | .error _ => acc
          | .ok _ => match acc.1.elemStore t (x.o.rd.addr x.k (m.1 * len + i)).toNat x.o.z (((buf.drop (m.1 * len)).take len)[i]?.getD 0) with
            | .error g => (acc.1, .error g)
            | .ok s => (s, .ok ())) (b := (s, .ok ())) h fun acc ha i _ => by
          split
          · exact ha
          · split
            · exact ha
            · next he => exact memWf_elemStore ha he
      split
      · exact hw
      · exact ih hw
    · split
      · exact ih h
      · exact ih (by simpa using h)

/-- What step 2 of a VXCHG gathers: the source's elements, read from the slice or taken from a queue. -/
def State.xchgGather (s : State) (t : Nat) (x : VX) (buf : List Nat) : State × List Nat × Option (Option Cause × Nat) :=
  match x.srcA with
  | .mem r => (List.range (x.n - buf.length)).foldl (fun acc _ => match acc.2.2 with
      | some _ => acc
      | none => match s.sliceRead t (r.addr x.k acc.2.1.length).toNat r.size with
        | .error g => (acc.1, acc.2.1, some (some .poison, g))
        | .ok v => (acc.1, acc.2.1 ++ [v], none)) (s, buf, none)
  | src => s.fillSrc t x.chain src x.n buf

theorem State.xchgGather_mem (s : State) (t : Nat) (x : VX) (buf : List Nat) : (s.xchgGather t x buf).1.mem = s.mem := by
  unfold State.xchgGather
  split
  · refine List.foldlRecOn (motive := fun r : State × List Nat × Option (Option Cause × Nat) => r.1.mem = s.mem) _ _ rfl
      fun acc hacc _ _ => ?_
    split
    · exact hacc
    · split <;> exact hacc
  · exact State.fillSrc_mem ..

theorem memWf_xchgStep {s : State} (h : memWf s.mem = true) (t : Nat) (e : SeqEntry) (x : VX) : memWf (s.xchgStep t e x).1.mem = true := by
  have gathered : memWf (s.xchgGather t x e.prog.bufA).1.mem = true := by rw [State.xchgGather_mem]; exact h
  fun_cases State.xchgStep s t e x
  case case3 ha => rw [State.arriveNow_mem ha]; exact h
  case case7 => exact gathered
  case case8 => exact memWf_sendSlices gathered ..
  case case9 => exact memWf_sendSlices gathered ..
  case case10 => exact memWf_sendSlices gathered ..
  all_goals exact h

theorem memWf_seqStep {s s' : State} (h : memWf s.mem = true) {t : Nat} (hs : s.seqStep t = some s') : memWf s'.mem = true := by
  unfold State.seqStep at hs
  split at hs
  · cases hs
  · split at hs
    · cases hs
    · split at hs
      · cases hs
      · extract_lets e0 q f r e' at hs
        have hq : memWf q.1.mem = true := memWf_vxRun h _ _ _ _
        have hr : memWf r.1.mem = true := by
          simp only [r]
          split
          · exact memWf_xchgStep h _ _ _
          · split
            · split
              · split <;> exact memWf_vxFinish hq _ _ _
              · exact hq
            · exact hq
        split at hs <;> cases hs
        exact hr

@[simp] theorem State.engineError_mem (s : State) (t u lid : Nat) (x : EngineErr) : (s.engineError t u lid x).mem = s.mem := by
  simp [State.engineError]

theorem memWf_slicePut {s : State} (h : memWf s.mem = true) (t : Nat) (e : SeqEntry) (x : VX) (pos len size : Nat) (data : List Nat)
    (bad : Bool) : memWf (s.slicePut t e x pos len size data bad).mem = true := by
  simp only [State.slicePut]
  split
  · exact h
  · rw [State.updTile_mem]
    refine List.foldlRecOn (motive := fun r : State × Option Nat => memWf r.1.mem = true) _ _ h fun acc ha i _ => ?_
    split
    · exact ha
    · split
      · exact ha
      · next he =>
        have hs := memWf_elemStore ha he
        split <;> exact hs

theorem memWf_sliceIn {s : State} (h : memWf s.mem = true) (t dom pos len size : Nat) (data : List Nat) (bad : Bool) :
    memWf (s.sliceIn t dom pos len size data bad).mem = true := by
  simp only [State.sliceIn]
  split
  · exact h
  · split
    · split
      · exact memWf_slicePut h _ _ _ _ _ _ _ _
      · exact h
    · exact h

/-! ### Matrix -/

@[simp] theorem State.enterCmd_mem (s : State) (c : MCmd) : (s.enterCmd c).mem = s.mem := by simp [State.enterCmd]

@[simp] theorem State.mCmd_mem (s : State) (i : Instr) : (s.mCmd i).mem = s.mem := by
  simp only [State.mCmd]
  (repeat' split) <;> simp

@[simp] theorem State.fillRow_mem (s : State) (t : Nat) (c : MCmd) (i need : Nat) : (s.fillRow t c i need).1.mem = s.mem := by
  simp only [State.fillRow]
  (repeat' split) <;> simp

theorem memWf_mmaRow {s : State} (h : memWf s.mem = true) (t : Nat) (d : Rec) (b : BBlock) (ta m : Nat) (row : List Nat) :
    memWf (s.mmaRow t d b ta m row).1.mem = true :=
  List.foldlRecOn (motive := fun r : State × Fl => memWf r.1.mem = true) _ _ h fun _ ha _ _ => memWf_sliceStore ha _ _ _ _

theorem memWf_writeEls {s : State} (h : memWf s.mem = true) (t : Nat) (d : Rec) (f : State → Nat → Except Nat (Nat × Fl)) (i n : Nat) :
    memWf (s.writeEls t d f i n).1.mem = true := by
  induction n generalizing s i with
  | zero => exact h
  | succ n ih =>
    unfold State.writeEls
    split
    · exact h
    · split
      · exact h
      · next he => exact ih (memWf_elemStore h he) _

@[simp] theorem State.bankWaits_mem (s : State) (t : Nat) : (s.bankWaits t).2.mem = s.mem := rfl

theorem memWf_elsStep {s : State} (h : memWf s.mem = true) (t : Nat) (c : MCmd) (f : State → Nat → Except Nat (Nat × Fl)) :
    memWf (s.elsStep t c f).1.mem = true := by
  simp only [State.elsStep]
  split <;> exact memWf_writeEls h _ _ _ _ _

theorem memWf_mmaStep {s : State} (h : memWf s.mem = true) (t : Nat) (c : MCmd) : memWf (s.mmaStep t c).1.mem = true := by
  simp only [State.mmaStep]
  split
  · exact h
  · split
    · exact h
    · split
      · split
        · simpa using h
        · simpa using memWf_mmaRow (by simpa using h) _ _ _ _ _ _
      · simpa using h

@[simp] theorem State.mldbStep_mem (s : State) (t : Nat) (c : MCmd) (x : Nat) (tr : Bool) : (s.mldbStep t c x tr).1.mem = s.mem := by
  simp only [State.mldbStep]
  (repeat' split) <;> simp

theorem memWf_mStep {s s' : State} (h : memWf s.mem = true) {t : Nat} (hs : s.mStep t = some s') : memWf s'.mem = true := by
  unfold State.mStep at hs
  split at hs
  · cases hs
  · next c rest _ =>
    split at hs
    · cases hs
    · extract_lets r isLoad c' at hs
      have hr : memWf r.1.mem = true := by
        simp only [r]
        split
        · simpa using h
        · exact memWf_elsStep h _ _ _
        · exact memWf_elsStep h _ _ _
        · exact memWf_mmaStep h _ _
      split at hs <;> cases hs
      exact hr

@[simp] theorem State.mComplete_mem (s : State) (t : Nat) : (s.mComplete t).mem = s.mem := by
  unfold State.mComplete
  split <;> simp

theorem memWf_mSteps {s : State} (h : memWf s.mem = true) (t n : Nat) : memWf (s.mSteps t n).mem = true := by
  induction n generalizing s with
  | zero => exact h
  | succ n ih =>
    unfold State.mSteps
    extract_lets s1
    have h1 : memWf s1.mem = true := by
      simp only [s1]
      (repeat' split) <;> simpa using h
    split
    · exact h1
    · next hs => exact ih (memWf_mStep h1 hs)

/-! ### Translate -/

@[simp] theorem State.reply_mem (s : State) (min : Nat) (a : Ans) : (s.reply min a).mem = s.mem := by
  unfold State.reply
  (repeat' split) <;> simp

@[simp] theorem State.updGrant_mem (s : State) (p i : Nat) (f : Grant → Grant) : (s.updGrant p i f).mem = s.mem := rfl

@[simp] theorem State.wgWrite_mem (s : State) (p i : Nat) (v : Word) : (s.wgWrite p i v).mem = s.mem := by simp [State.wgWrite]

@[simp] theorem State.parkPage_mem (s : State) (t u : Nat) (r : Req) (detail : Nat) : (s.parkPage t u r detail).mem = s.mem := by
  simp [State.parkPage]

@[simp] theorem State.holdNotice_mem (s : State) (w : Who) (aux : Nat) : (s.holdNotice w aux).mem = s.mem := by
  unfold State.holdNotice
  (repeat' split) <;> simp

@[simp] theorem State.hold_mem (s : State) (r : Req) (idx : Option Nat) : (s.hold r idx).mem = s.mem := by simp [State.hold]

@[simp] theorem State.notifyFault_mem (s : State) (r : Req) (detail : Nat) : (s.notifyFault r detail).mem = s.mem := rfl

@[simp] theorem State.pageFault_mem (s : State) (r : Req) (reason lvl tbl : Nat) : (s.pageFault r reason lvl tbl).mem = s.mem := by
  simp [State.pageFault]

@[simp] theorem State.resumeHeld_mem (s : State) (a : Ans) (t u : Nat) : (s.resumeHeld a t u).mem = s.mem := by
  simp [State.resumeHeld]

@[simp] theorem State.agentAnswer_mem (s : State) (a : Ans) : (s.agentAnswer a).mem = s.mem := by simp [State.agentAnswer]

theorem memWf_agentPerform {s : State} (h : memWf s.mem = true) (r : Req) (key : Nat) : memWf (s.agentPerform r key).mem = true := by
  simpa [State.agentPerform] using memWf_perform h _ _ _ _ _ _ _

@[simp] theorem State.leafFound_mem (s : State) (r : Req) (e lvl : Nat) : (s.leafFound r e lvl).mem = s.mem := by
  unfold State.leafFound
  split <;> simp

@[simp] theorem State.cacheLeaf_mem (s : State) (r : Req) (lvl e : Nat) : (s.cacheLeaf r lvl e).mem = s.mem := rfl

theorem memWf_agentTake {s : State} (h : memWf s.mem = true) (r : Req) : memWf (s.agentTake r).mem = true := by
  unfold State.agentTake
  split
  · exact memWf_agentPerform h _ _
  · split
    · simpa using h
    · split
      · simpa using h
      · next g _ =>
        extract_lets r p
        split
        · simpa using h
        · split
          · simpa using h
          · simpa using h

theorem memWf_flushLeaf {s : State} (h : memWf s.mem = true) (r : Req) (e lvl : Nat) : memWf (s.flushLeaf r e lvl).mem = true := by
  simp only [State.flushLeaf]
  split
  · simpa using h
  · split
    · exact memWf_agentPerform h _ _
    · exact h

theorem memWf_flushOne {s : State} (h : memWf s.mem = true) (r : Req) : memWf (s.flushOne r).mem = true := by
  unfold State.flushOne
  extract_lets r0
  split
  · simpa using h
  · split
    · simpa using h
    · extract_lets r1 p
      split
      · simpa using h
      · split
        · exact memWf_flushLeaf h _ _ _
        · split
          · exact memWf_flushLeaf (by simpa using h) _ _ _
          · simpa using h
          · simpa using h

theorem memWf_faultFlush {s : State} (h : memWf s.mem = true) (g : Nat) : memWf (s.faultFlush g).mem = true := by
  unfold State.faultFlush
  split
  · exact h
  · exact memWf_foldl _ (fun _ _ hs => memWf_flushOne hs _) _ _ h

@[simp] theorem State.dropLeaves_mem (s : State) (p vpn : Nat) (all : Bool) : (s.dropLeaves p vpn all).mem = s.mem := rfl

@[simp] theorem State.xinv_mem (s : State) (p vpn : Nat) (all : Bool) : (s.xinv p vpn all).mem = s.mem := rfl

/-! ### Drover -/

@[simp] theorem State.updJob_mem (s : State) (p x : Nat) (f : Job → Job) : (s.updJob p x f).mem = s.mem := rfl

@[simp] theorem State.acceptJob_mem (s : State) (p : Nat) (j : Job) : (s.acceptJob p j).2.mem = s.mem := by
  simp only [State.acceptJob]
  split <;> rfl

@[simp] theorem State.launchJob_mem (s : State) (t st : Nat) (j : Job) : (s.launchJob t st j).2.mem = s.mem := by
  unfold State.launchJob
  split <;> simp

/-- A word that a twin copy pairs leaves storage as its action does. -/
theorem State.paired1_mem (s : State) (h : List Nat) (d : Reg) {act : State → Nat × State} (ha : ∀ s, (act s).2.mem = s.mem) :
    (s.paired1 h d act).mem = s.mem := by
  simp only [State.paired1]
  (repeat' split) <;> simp [ha]

@[simp] theorem State.jobSend_mem (s : State) (j : Job) (r : Req) : (s.jobSend j r).mem = s.mem := by
  unfold State.jobSend
  split <;> simp

@[simp] theorem State.jobWrite_mem (s : State) (p x : Nat) (dst : Word) (n v elem : Nat) : (s.jobWrite p x dst n v elem).mem = s.mem := by
  unfold State.jobWrite
  split <;> simp

@[simp] theorem State.jobRead_mem (s : State) (p : Nat) (j : Job) (src dst : Word) (data got len elem : Nat) :
    (s.jobRead p j src dst data got len elem).mem = s.mem := by
  simp [State.jobRead]

@[simp] theorem State.jobPoison_mem (s : State) (p x : Nat) : (s.jobPoison p x).mem = s.mem := rfl

@[simp] theorem State.jobUnit_mem (s : State) (p x i : Nat) : (s.jobUnit p x i).mem = s.mem := by
  simp only [State.jobUnit]
  (repeat' split) <;> simp

@[simp] theorem State.jobCast_mem (s : State) (p x : Nat) : (s.jobCast p x).mem = s.mem := by
  simp only [State.jobCast]
  (repeat' split) <;> simp

@[simp] theorem State.jobStored_mem (s : State) (p x : Nat) (r : Req) (st : Nat) : (s.jobStored p x r st).mem = s.mem := by
  simp only [State.jobStored]
  split <;> simp

@[simp] theorem State.jobGot_mem (s : State) (p x : Nat) (r : Req) (st v : Nat) : (s.jobGot p x r st v).mem = s.mem := by
  simp only [State.jobGot]
  split <;> simp

/-! ### Answers -/

theorem memWf_serve {s : State} (h : memWf s.mem = true) (acc : Acc) : memWf (s.serve acc).mem = true := by
  simp only [State.serve]
  split
  · split
    · split
      · simpa using h
      · rw [State.reply_mem]
        exact memWf_performAt (by simpa using h) _ _
    · exact h
  · exact h

@[simp] theorem State.takeAns_mem (s : State) (a : Ans) : (s.takeAns a).mem = s.mem := by
  unfold State.takeAns
  split <;> simp

@[simp] theorem State.fjAns_mem (s : State) (k st v : Nat) (fl : Fl) (acc : Acc) : (s.fjAns k st v fl acc).mem = s.mem := by
  unfold State.fjAns
  (repeat' split) <;> simp

@[simp] theorem State.answerRow_mem (s : State) (acc : Acc) : (s.answerRow acc).mem = s.mem := by
  unfold State.answerRow
  (repeat' split) <;> simp

/-! ### GroupTable -/

@[simp] theorem State.joinEntry_mem (s : State) (p g t : Nat) : (s.joinEntry p g t).mem = s.mem := rfl

@[simp] theorem State.grpSet_mem (s : State) (t : Nat) (a b : Word) : (s.grpSet t a b).2.mem = s.mem := by
  simp only [State.grpSet]
  (repeat' split) <;> simp

@[simp] theorem State.grpSend_mem (s : State) (set_ : Bool) (d : Reg) (a b : Word) : (s.grpSend set_ d a b).mem = s.mem := by
  simp [State.grpSend]

@[simp] theorem State.tableAnswer_mem (s : State) (t u k : Nat) (d : Reg) (v : Word) : (s.tableAnswer t u k d v).mem = s.mem := by
  simp [State.tableAnswer]

/-! ### Dispatcher -/

theorem State.bindOne_mem {s s' : State} {lid idx : Nat} {c : Option (Nat × Nat)} {r : Option Nat} (h : s.bindOne lid idx c r = some s') :
    s'.mem = s.mem := by
  obtain ⟨c, -, h⟩ := Option.bind_eq_some_iff.1 h
  obtain ⟨k, -, rfl⟩ := Option.map_eq_some_iff.1 h
  simp only
  split <;> simp

theorem State.bindAll_mem {s s' : State} {lid idx : Nat} {l : List (List (Option (Nat × Nat)) × Option Nat)}
    (h : s.bindAll lid idx l = some s') : s'.mem = s.mem := by
  induction l generalizing s idx with
  | nil => cases h; rfl
  | cons x l ih =>
    unfold State.bindAll at h
    split at h
    · cases h
    · next s'' hs =>
      rw [ih h]
      exact foldl_bind_keeps (P := fun u => u.mem = s.mem) (fun u c v hu hv => (State.bindOne_mem hv).trans hu) rfl hs

theorem State.bindImage_mem {s s' : State} {lid : Nat} {img : List Byte} {ss : List Section} (h : s.bindImage lid img ss = some s') :
    s'.mem = s.mem := State.bindAll_mem h

theorem State.reserveTables_mem {s s' : State} {lid : Nat} {img : List Byte} {ss : List Section}
    (h : s.reserveTables lid img ss = some s') : s'.mem = s.mem :=
  (State.bindImage_mem h).trans (State.updLaunch_mem ..)

@[simp] theorem State.tailWrite_mem (s : State) (q tail : Nat) : (s.tailWrite q tail).mem = s.mem := rfl

@[simp] theorem State.qdWrite_mem (s : State) (q i v : Nat) : (s.qdWrite q i v).mem = s.mem := by
  unfold State.qdWrite
  split <;> simp

@[simp] theorem State.finishLaunch_mem (s : State) (lid : Nat) (ended : Bool) (cycles : Nat) :
    (s.finishLaunch lid ended cycles).mem = s.mem := by
  simp only [State.finishLaunch]
  split <;> simp

@[simp] theorem State.releaseTables_mem (s : State) (lid : Nat) : (s.releaseTables lid).mem = s.mem := rfl

@[simp] theorem State.releaseLaunch_mem (s : State) (lid : Nat) : (s.releaseLaunch lid).mem = s.mem := rfl

@[simp] theorem State.takeCand_mem (s : State) (c : Cand) : (s.takeCand c).1.mem = s.mem := by
  unfold State.takeCand
  split <;> rfl

@[simp] theorem State.distribute_mem (s : State) (lid : Nat) (ds : List Nat) : (s.distribute lid ds).mem = s.mem := by
  simp only [State.distribute, State.send_mem]
  split
  · exact State.mem_getD fun _ => State.reserveTables_mem
  · rfl

theorem memWf_loadLaunch {s : State} (h : memWf s.mem = true) (l : Launch) (img : List Byte) (ss : List Section) :
    memWf (s.loadLaunch l img ss).mem = true := by
  simp only [State.loadLaunch]
  refine memWf_foldl _ (fun s x hs => ?_) _ _ (memWf_foldl _ (fun _ _ hs => memWf_zeroDie hs _ _ _) _ _
    (memWf_foldl _ (fun _ _ hs => memWf_zeroGroup hs _ _ _) _ _ (memWf_foldl _ (fun _ _ hs => memWf_zeroRange hs _ _) _ _ h)))
  have hl : ∀ {α : Type} (key : State → α → Nat → Nat) (ts : List α) (off : Nat) (b : List Byte),
      memWf (ts.foldl (fun s t => s.loadBytes (key s t) off b) s).mem = true :=
    fun key ts off b => memWf_foldl _ (fun _ _ hs => memWf_loadBytes hs _ _ _) _ _ hs
  split
  · exact hl State.sliceKey _ _ _
  · exact hl State.sliceKey _ _ _
  · exact hl State.groupByteKey _ _ _
  · exact hl State.groupByteKey _ _ _
  · exact hl State.dieByteKey _ _ _
  · exact hl State.dieByteKey _ _ _
  · exact hs

theorem memWf_placeLaunch {s : State} (h : memWf s.mem = true) (lid : Nat) (img : List Byte) (ss : List Section) :
    memWf (s.placeLaunch lid img ss).mem = true := by
  simpa [State.placeLaunch] using memWf_loadLaunch (by simpa using h) _ _ _

@[simp] theorem State.endUnrun_mem (s : State) (lid : Nat) : (s.endUnrun lid).mem = s.mem := by simp [State.endUnrun]

@[simp] theorem State.launchChild_mem (s : State) (t : Nat) (pkt : BitVec 512) : (s.launchChild t pkt).2.mem = s.mem := by
  simp only [State.launchChild]
  (repeat' split) <;> rfl

@[simp] theorem State.noteWaits_mem (s : State) : s.noteWaits.mem = s.mem := rfl

/-! ### LaunchEnd -/

@[simp] theorem State.endChildren_mem (s : State) (lid : Nat) : (s.endChildren lid).mem = s.mem := by simp [State.endChildren]

@[simp] theorem State.jobLoses_mem (s : State) (r : Req) : (s.jobLoses r).mem = s.mem := by
  unfold State.jobLoses
  split <;> simp

@[simp] theorem State.endLaunch_mem (s : State) (lid : Nat) : (s.endLaunch lid).mem = s.mem := by
  simp only [State.endLaunch]
  split <;> simp

@[simp] theorem State.endDone_mem (s : State) (lid : Nat) : (s.endDone lid).mem = s.mem := by simp [State.endDone]

@[simp] theorem State.lendWrite_mem (s : State) (p lid : Nat) : (s.lendWrite p lid).mem = s.mem := by simp [State.lendWrite]

@[simp] theorem State.swapUnits_mem (s : State) (a b : Nat) : (s.swapUnits a b).mem = s.mem := rfl

@[simp] theorem State.swapPens_mem (s : State) (a b : Nat) : (s.swapPens a b).mem = s.mem := rfl

@[simp] theorem State.exchangeMap_mem (s : State) (d a b : Nat) : (s.exchangeMap d a b).mem = s.mem := by
  simp [State.exchangeMap]

@[simp] theorem State.setTmres_mem (s : State) (t st tag : Nat) : (s.setTmres t st tag).mem = s.mem := rfl

@[simp] theorem State.tmreq_mem (s : State) (t v : Nat) : (s.tmreq t v).mem = s.mem := by simp [State.tmreq]

/-! ### Lirek -/

@[simp] theorem State.setRemap_mem (s : State) (d p : Nat) (e : Remap) : (s.setRemap d p e).mem = s.mem := rfl

@[simp] theorem State.setSwres_mem (s : State) (t st tag : Nat) (completed : Bool) : (s.setSwres t st tag completed).mem = s.mem := rfl

@[simp] theorem State.swreq_mem (s : State) (t v : Nat) : (s.swreq t v).mem = s.mem := by simp [State.swreq]

@[simp] theorem State.setBusy_mem (s : State) (d p : Nat) (b : Bool) : (s.setBusy d p b).mem = s.mem := rfl

theorem memWf_copyFrame {s : State} (h : memWf s.mem = true) (old : State) (k la fa lb fb : Nat) :
    memWf (s.copyFrame old k la fa lb fb).mem = true := memWf_copyStorage h _ _ _ _

@[simp] theorem State.layerRecord_mem (s : State) (code k l row col : Nat) (addr : Word) (detail : Nat) :
    (s.layerRecord code k l row col addr detail).mem = s.mem := by
  unfold State.layerRecord
  split <;> simp

theorem memWf_loseRange {s : State} (h : memWf s.mem = true) (key n : Nat) : memWf (s.loseRange key n).mem = true :=
  memWf_zeroRange h _ _

theorem memWf_loseSlice {s : State} (h : memWf s.mem = true) (k l t : Nat) (dead : Bool) : memWf (s.loseSlice k l t dead).mem = true := by
  simpa [State.loseSlice] using memWf_loseRange h _ _

theorem memWf_loseGroup {s : State} (h : memWf s.mem = true) (k l g : Nat) (dead : Bool) : memWf (s.loseGroup k l g dead).mem = true := by
  unfold State.loseGroup
  rw [State.layerRecord_mem, State.mem_ite, State.updGroup_mem, ite_self]
  exact memWf_foldl _ (fun _ _ hs => by with_reducible exact memWf_loseRange hs _ _) _ _ h

theorem memWf_loseColumn {s : State} (h : memWf s.mem = true) (k l col : Nat) (dead : Bool) :
    memWf (s.loseColumn k l col dead).mem = true := by
  simp only [State.loseColumn, State.layerRecord_mem]
  refine memWf_foldl _ (fun s p hs => ?_) _ _ (memWf_foldl _ (fun s f hs => memWf_foldl _ (fun s i hs => ?_) _ _ hs) _ _ h)
  · rw [State.mem_ite, State.setRemap_mem, State.setRemap_mem]
    split
    · with_reducible exact memWf_loseRange hs _ _
    · exact hs
  · rw [State.mem_ite]
    split
    · with_reducible exact memWf_loseRange hs _ _
    · exact hs

@[simp] theorem State.holdColumn_mem (s : State) (k l col : Nat) (dead : Bool) : (s.holdColumn k l col dead).mem = s.mem := by
  simp [State.holdColumn]

theorem memWf_rehome {s : State} (h : memWf s.mem = true) (k d p : Nat) : memWf (s.rehome k d p).mem = true := by
  simp only [State.rehome]
  split <;> exact memWf_loseRange h _ _

@[simp] theorem State.unready_mem (s : State) (m : Nat) : (s.unready m).mem = s.mem := rfl

@[simp] theorem State.roleRequest_mem (s : State) (v : Nat) : (s.roleRequest v).mem = s.mem := by simp [State.roleRequest]

theorem memWf_savePage {s : State} (h : memWf s.mem = true) (d p pa : Nat) : memWf (s.savePage d p pa).mem = true :=
  memWf_copyStorage h _ _ _ _

@[simp] theorem State.selfTest_mem (s : State) : s.selfTest.2.mem = s.mem := rfl

@[simp] theorem State.testLayers_mem (s : State) (ls : List Nat) : (s.testLayers ls).2.mem = s.mem :=
  List.foldlRecOn (motive := fun r : BitVec 8 × State => r.2.mem = s.mem) ls _ rfl fun _ h _ _ => h

@[simp] theorem State.testMap_mem (s : State) (n : Nat) (m tested fail : BitVec 8) : (s.testMap n m tested fail).2.2.mem = s.mem := by
  induction n generalizing s m tested fail with
  | zero => rfl
  | succ n ih =>
    simp only [State.testMap]
    split
    · simp
    · split <;> simp [ih]

@[simp] theorem State.rebuild_mem (s : State) (k : Nat) (new : List Nat) : (s.rebuild k new).mem = s.mem := by
  simp [State.rebuild]

@[simp] theorem State.dropSupervisors_mem (s : State) (k : Nat) : (s.dropSupervisors k).mem = s.mem := by
  simp [State.dropSupervisors]

theorem memWf_reenumerate {s : State} (h : memWf s.mem = true) (k : Nat) (map : BitVec 8) (stat : Nat) :
    memWf (s.reenumerate k map stat).mem = true :=
  memWf_zeroRange (by simpa using h) _ _

theorem memWf_rerollNow {s : State} (h : memWf s.mem = true) (k : Nat) : memWf (s.rerollNow k).mem = true := by
  simp only [State.rerollNow]
  split
  · exact h
  · refine memWf_foldl _ (fun s l hs => ?_) _ _ ?_
    · rw [State.mem_ite, State.layerRecord_mem, ite_self]
      exact hs
    · split <;> exact memWf_reenumerate (by simpa using h) _ _ _

/-! ### Reliability -/

@[simp] theorem State.setMargin_mem (s : State) (t : Nat) (matrix : Bool) (m : Margin) : (s.setMargin t matrix m).mem = s.mem := by
  simp [State.setMargin]

@[simp] theorem State.unitError_mem (s : State) (t : Nat) (matrix : Bool) : (s.unitError t matrix).mem = s.mem := by
  simp [State.unitError]

@[simp] theorem State.hbmLost_mem (s : State) (o : Nat) : (s.hbmLost o).mem = s.mem := rfl

@[simp] theorem State.rankError_mem (s : State) (rank addr : Nat) (ps : List Nat) : (s.rankError rank addr ps).mem = s.mem := by
  simp [State.rankError]

@[simp] theorem State.sendCorr_mem (s : State) (d : Nat) : (s.sendCorr d).mem = s.mem := by
  unfold State.sendCorr
  split <;> simp

@[simp] theorem State.poisonAt_mem (s : State) (key : Nat) : (s.poisonAt key).mem = s.mem := rfl

@[simp] theorem State.losePayload_mem (s : State) (num : Nat) : (s.losePayload num).mem = s.mem := rfl

@[simp] theorem State.loseHurdle_mem (s : State) (d : Nat) : (s.loseHurdle d).mem = s.mem := by simp [State.loseHurdle]

@[simp] theorem State.bankError_mem (s : State) (kind n o : Nat) : (s.bankError kind n o).mem = s.mem := by
  unfold State.bankError
  split <;> simp

@[simp] theorem State.setPadSt_mem (s : State) (d i st : Nat) : (s.setPadSt d i st).mem = s.mem := rfl

@[simp] theorem State.dropAt_mem (s : State) (t dom : Nat) : (s.dropAt t dom).mem = s.mem := by simp [State.dropAt]

@[simp] theorem State.goneAt_mem (s : State) (t dom : Nat) : (s.goneAt t dom).mem = s.mem := rfl

@[simp] theorem State.forwardSolo_mem (s : State) (t : Nat) : (s.forwardSolo t).mem = s.mem :=
  State.mem_foldl _ _ _ fun s q => by split <;> simp

@[simp] theorem State.goSolo_mem (s : State) (dead live : Nat) : (s.goSolo dead live).mem = s.mem := by simp [State.goSolo]

@[simp] theorem State.killTile_mem (s : State) (ts : List Nat) (t : Nat) : (s.killTile ts t).mem = s.mem := by
  simp only [State.killTile]
  split <;> simp

@[simp] theorem State.killPaddock_mem (s : State) (d i t kind : Nat) : (s.killPaddock d i t kind).mem = s.mem := by
  simp only [State.killPaddock]
  split <;> simp

@[simp] theorem State.loseWalk_mem (s : State) (num : Nat) : (s.loseWalk num).mem = s.mem := by
  unfold State.loseWalk
  split <;> simp

@[simp] theorem State.killCounters_mem (s : State) (f : Nat → Bool) : (s.killCounters f).mem = s.mem := rfl

@[simp] theorem State.pdWrite_mem (s : State) (d i v : Nat) : (s.pdWrite d i v).mem = s.mem := by simp [State.pdWrite]

@[simp] theorem State.marginFlag_mem (s : State) (t : Nat) (matrix : Bool) : (s.marginFlag t matrix).mem = s.mem := by
  simp [State.marginFlag]

@[simp] theorem State.mgWrite_mem (s : State) (t v : Nat) : (s.mgWrite t v).mem = s.mem := by
  unfold State.mgWrite
  split <;> simp

@[simp] theorem State.listRepair_mem (s : State) (rank base : Nat) (lane : Bool) : (s.listRepair rank base lane).mem = s.mem := by
  simp [State.listRepair]

/-! ### Twin -/

@[simp] theorem State.releasePair_mem (s : State) (q : TwinReq) (peer : Option (Nat × Nat)) (live : Nat) :
    (s.releasePair q peer live).mem = s.mem := by
  unfold State.releasePair
  split <;> simp

@[simp] theorem State.reportTwin_mem (s : State) (q r : TwinReq) : (s.reportTwin q r).mem = s.mem := rfl

theorem memWf_keepCopy {s : State} (h : memWf s.mem = true) (p : Nat) (twin : Bool) : memWf (s.keepCopy p twin).mem = true := by
  unfold State.keepCopy
  rw [State.marginFlag_mem]
  exact memWf_foldl _ (fun _ _ hs => by simpa using hs) _ _ (memWf_copyStorage (by simpa using h) _ _ _ _)

theorem memWf_twctl {s : State} (h : memWf s.mem = true) (d v : Nat) : memWf (s.twctl d v).mem = true := by
  simp only [State.twctl]
  split
  · exact h
  · split
    · exact memWf_keepCopy h _ _
    · exact memWf_keepCopy h _ _
    · simpa using h
    · exact h

/-! ### System -/

@[simp] theorem State.parkSelf_mem (s : State) (c : Cause) (detail : Nat) : (s.parkSelf c detail).mem = s.mem := by
  simp [State.parkSelf]

@[simp] theorem State.dropHeld_mem (s : State) (t u : Nat) : (s.dropHeld t u).mem = s.mem := rfl

@[simp] theorem State.eretAt_mem (s : State) (d : Word) (t u : Nat) : (s.eretAt d t u).mem = s.mem := by simp [State.eretAt]

@[simp] theorem State.parkOther_mem (s : State) (t u : Nat) : (s.parkOther t u).mem = s.mem := by
  simp only [State.parkOther]
  (repeat' split) <;> simp

@[simp] theorem State.pkWrite_mem (s : State) (t : Nat) (v : Word) : (s.pkWrite t v).mem = s.mem := by
  unfold State.pkWrite
  split <;> simp

@[simp] theorem State.cregWrite_mem (s : State) (d v : Nat) : (s.cregWrite d v).mem = s.mem := by simp [State.cregWrite]

theorem State.mfcUser_mem {s : State} {n : Nat} {q : Nat × State} (h : s.mfcUser n = some q) : q.2.mem = s.mem := by
  revert h
  fun_cases State.mfcUser s n <;> rintro ⟨⟩ <;> rfl

@[simp] theorem State.updSel_mem (s : State) (t : Nat) (f : Selects → Selects) : (s.updSel t f).mem = s.mem := rfl

theorem State.mfcSup_mem {s : State} {n : Nat} {q : Nat × State} (h : s.mfcSup n = some q) : q.2.mem = s.mem := by
  simp only [State.mfcSup] at h
  split at h <;> cases h <;> rfl

theorem State.mtcUser_mem {s s' : State} {n : Nat} {v : Word} (h : s.mtcUser n v = .ok s') : s'.mem = s.mem := by
  revert h
  fun_cases State.mtcUser s n v <;> rintro ⟨⟩ <;> simp

theorem memWf_mtcSup {s s' : State} (h : memWf s.mem = true) {n : Nat} {w : Word} (hs : s.mtcSup n w = .ok s') : memWf s'.mem = true := by
  revert hs
  fun_cases State.mtcSup s n w <;> rintro ⟨⟩
  case case29 => exact memWf_faultFlush h _
  case case39 => exact memWf_twctl h _ _
  all_goals simpa using h

/-! ### Preempt -/

@[simp] theorem State.dissolveOn_mem (s : State) (ts : List Nat) : (s.dissolveOn ts).mem = s.mem := by
  simp [State.dissolveOn]

theorem memWf_writeArea {s s' : State} (h : memWf s.mem = true) {p va : Nat} {gs : List (Nat × Nat)} (hs : s.writeArea p va gs = some s') :
    memWf s'.mem = true :=
  foldl_bind_keeps (P := fun s => memWf s.mem = true) (fun s g s' hm hx => by
    obtain ⟨k, -, rfl⟩ := Option.map_eq_some_iff.1 hx
    exact memWf_store hm _ _ _) h hs

theorem memWf_writeMemory {s s' : State} (h : memWf s.mem = true) {p va : Nat} {ks : List (Nat × Nat)}
    (hs : s.writeMemory p va ks = some s') : memWf s'.mem = true :=
  foldl_bind_keeps (P := fun s => memWf s.mem = true) (fun s g s' hm hx => by
    obtain ⟨k, -, rfl⟩ := Option.map_eq_some_iff.1 hx
    simp only
    split <;> exact memWf_store hm _ _ _) h hs

@[simp] theorem State.renameDie_mem (s : State) (lid a b : Nat) (k : Nat → Nat) : (s.renameDie lid a b k).mem = s.mem := rfl

@[simp] theorem State.leaveDie_mem (s : State) (lid d : Nat) : (s.leaveDie lid d).mem = s.mem := rfl

@[simp] theorem State.saveDie_mem (s : State) (lid d : Nat) : (s.saveDie lid d).mem = s.mem := by simp [State.saveDie]

theorem memWf_xsaveNow {s s' : State} (h : memWf s.mem = true) {t u : Nat} (hs : s.xsaveNow t u = some s') : memWf s'.mem = true := by
  simp only [State.xsaveNow] at hs
  split at hs
  · split at hs
    · obtain ⟨x, hx, rfl⟩ := Option.map_eq_some_iff.1 hs
      obtain ⟨k, -, rfl⟩ := Option.map_eq_some_iff.1 hx
      exact memWf_store h _ _ _
    · split at hs
      · obtain ⟨x, hx, rfl⟩ := Option.map_eq_some_iff.1 hs
        obtain ⟨y, hy, hw⟩ := Option.bind_eq_some_iff.1 hx
        simpa using memWf_writeArea (memWf_writeMemory h hy) hw
      · cases hs
  · cases hs

theorem State.rebind_mem {s s' : State} {lid : Nat} {l : List ((Nat × Nat) × Counter)} (h : s.rebind lid l = some s') : s'.mem = s.mem := by
  induction l generalizing s with
  | nil => cases h; rfl
  | cons x l ih =>
    unfold State.rebind at h
    split at h
    · cases h
    · rw [ih h, State.updLaunch_mem, State.updCounter_mem]

theorem memWf_loadArea {s : State} (h : memWf s.mem = true) (l : Launch) (d : Nat) (area : List Byte) (bad : List Nat) :
    memWf (s.loadArea l d area bad).mem = true := by
  have hput : ∀ (s : State) (x : Nat × Nat), memWf s.mem = true →
      memWf (if bad.contains x.1 then { s.store x.2 16 (imgNum area (16 * x.1) 16) with
        poison := markPoison (s.store x.2 16 (imgNum area (16 * x.1) 16)).poison x.2 16 }
        else s.store x.2 16 (imgNum area (16 * x.1) 16)).mem = true := fun s x hs => by
    split <;> exact memWf_store hs _ _ _
  simp only [State.loadArea]
  split
  · exact memWf_foldl _ hput _ _ (memWf_foldl _ hput _ _ h)
  · exact memWf_foldl _ hput _ _ h

@[simp] theorem State.loadRoot_mem (s : State) (d lvl : Nat) (kept : Root) (ts : List Nat) (b : List Byte) :
    (s.loadRoot d lvl kept ts b).mem = s.mem := by
  simp [State.loadRoot]

theorem memWf_loadDie {s s' : State} (h : memWf s.mem = true) {lid own d : Nat} {area : List Byte} {bad : List Nat}
    (hs : s.loadDie lid own d area bad = some s') : memWf s'.mem = true := by
  obtain ⟨x, hx, rfl⟩ := Option.map_eq_some_iff.1 hs
  have hm : memWf x.mem = true := by rw [State.rebind_mem hx]; exact h
  simpa using memWf_loadArea (by simpa using hm) _ _ _ _

@[simp] theorem State.releaseOut_mem (s : State) (lid : Nat) (x : Nat × Root) : (s.releaseOut lid x).mem = s.mem := by
  unfold State.releaseOut
  split <;> simp

/-! ### Watchdog -/

@[simp] theorem State.stallMsg_mem (s : State) (x d addr missing : Nat) : (s.stallMsg x d addr missing).mem = s.mem := rfl

/-! ### Stoxis -/

@[simp] theorem State.answerHost_mem (s : State) (port status data : Nat) : (s.answerHost port status data).mem = s.mem := rfl

@[simp] theorem State.landHost_mem (s : State) (p kind idx va n : Nat) : (s.landHost p kind idx va n).mem = s.mem := rfl

@[simp] theorem State.retryHost_mem (s : State) (i : Instr) : (s.retryHost i).mem = s.mem := rfl

@[simp] theorem State.setSem_mem (s : State) (n : Nat) (v : Nat × Nat × Nat) : (s.setSem n v).mem = s.mem := rfl

@[simp] theorem State.acquire_mem (s : State) (port n : Nat) : (s.acquire port n).2.mem = s.mem := by
  simp only [State.acquire]
  split <;> simp

@[simp] theorem State.release_mem (s : State) (port n v : Nat) : (s.release port n v).mem = s.mem := by simp [State.release]

@[simp] theorem State.loseSems_mem (s : State) (port : Nat) : (s.loseSems port).mem = s.mem := rfl

/-! ### Fjoic -/

@[simp] theorem State.packetIn_mem (s : State) (link em : Nat) (p : List Nat) : (s.packetIn link em p).mem = s.mem := by
  unfold State.packetIn
  (repeat' split) <;> simp

@[simp] theorem State.flitIn_mem (s : State) (link em f : Nat) : (s.flitIn link em f).mem = s.mem := by simp [State.flitIn]

@[simp] theorem State.updEarmark_mem (s : State) (em : Nat) (f : Earmark → Earmark) : (s.updEarmark em f).mem = s.mem := rfl

@[simp] theorem State.frameFail_mem (s : State) (em link : Nat) (e : Earmark) : (s.frameFail em link e).mem = s.mem := by
  simp [State.frameFail]

@[simp] theorem State.fjRefuse_mem (s : State) (h : Nat) : (s.fjRefuse h).mem = s.mem := rfl

@[simp] theorem State.fjTake_mem (s : State) (h : Nat) (m : Nat → Msg) : (s.fjTake h m).mem = s.mem := rfl

@[simp] theorem State.castDone_mem (s : State) (k mask : Nat) : (s.castDone k mask).mem = s.mem := by
  unfold State.castDone
  split <;> simp

@[simp] theorem State.fjTimeout_mem (s : State) (k : Nat) (q : FjReq) : (s.fjTimeout k q).mem = s.mem := by
  unfold State.fjTimeout
  split <;> simp

@[simp] theorem State.branchDone_mem (s : State) (k b mask : Nat) : (s.branchDone k b mask).mem = s.mem := by
  unfold State.branchDone
  split <;> simp

@[simp] theorem State.leaveRemote_mem (s : State) (x : Nat) : (s.leaveRemote x).mem = s.mem := by
  simp [State.leaveRemote]

/-! ### Bringup -/

@[simp] theorem State.setReady_mem (s : State) (m : Nat) : (s.setReady m).mem = s.mem := rfl

theorem memWf_bootMap {s : State} (h : memWf s.mem = true) (k : Nat) : memWf (s.bootMap k).mem = true :=
  memWf_rerollNow (by simpa using h) _

@[simp] theorem State.coldReset_mem (s : State) : s.coldReset.mem = [] := rfl

@[simp] theorem State.packageReset_mem (s : State) : s.packageReset.mem = [] := rfl

@[simp] theorem State.portReset_mem (s : State) (port : Nat) : (s.portReset port).mem = s.mem := rfl

theorem memWf_resetWrite {s : State} (h : memWf s.mem = true) (port v : Nat) : memWf (s.resetWrite port v).mem = true := by
  unfold State.resetWrite
  split
  · rfl
  · rfl
  · exact h
  · exact h

/-- A row that the host asks for keeps the form of the memory where its action does. -/
theorem memWf_host {s : State} (h : memWf s.mem = true) {f : State → State} (hf : memWf (f s).mem = true) :
    memWf (s.host f).mem = true := by
  unfold State.host
  split <;> assumption

theorem memWf_hostMc {s : State} (h : memWf s.mem = true) {f : State → State} (hf : memWf (f s).mem = true) :
    memWf (s.hostMc f).mem = true := by
  unfold State.hostMc
  split <;> assumption

@[simp] theorem State.bootCheck_mem (s : State) (port len : Nat) : (s.bootCheck port len).mem = s.mem := by
  unfold State.bootCheck
  (repeat' split) <;> simp

@[simp] theorem State.attest_mem (s : State) (port : Nat) : (s.attest port).mem = s.mem := rfl

@[simp] theorem State.keyCommit_mem (s : State) (port v : Nat) : (s.keyCommit port v).mem = s.mem := by simp [State.keyCommit]

@[simp] theorem State.retainWrite_mem (s : State) (v : Nat) : (s.retainWrite v).mem = s.mem := rfl

/-! ### Tenancy -/

@[simp] theorem State.partField_mem (s : State) (p i v : Nat) : (s.partField p i v).mem = s.mem := by simp [State.partField]

@[simp] theorem State.partClose_mem (s : State) (p : Nat) : (s.partClose p).mem = s.mem := by simp [State.partClose]

@[simp] theorem State.revokeAll_mem (s : State) (p : Nat) : (s.revokeAll p).mem = s.mem := by simp [State.revokeAll]

theorem memWf_placeSup {s : State} (h : memWf s.mem = true) (p d : Nat) : memWf (s.placeSup p d).mem = true := by
  fun_cases State.placeSup s p d
  · exact h
  · exact h
  · refine memWf_placeLaunch ?_ _ _ _
    rw [State.mem_getD fun _ => State.reserveTables_mem]
    exact h

@[simp] theorem State.partWrite_mem (s : State) (p v : Nat) : (s.partWrite p v).mem = s.mem := by simp [State.partWrite]

theorem memWf_restoreSups {s : State} (h : memWf s.mem = true) (k : Nat) : memWf (s.restoreSups k).mem = true := by
  refine memWf_foldl _ (fun s p hs => ?_) _ _ h
  split
  · exact memWf_foldl _ (fun _ _ hs => memWf_placeSup hs _ _) _ _ hs
  · exact hs

/-! ### Debug -/

@[simp] theorem State.attach_mem (s : State) (port v : Nat) : (s.attach port v).mem = s.mem := by simp [State.attach]

@[simp] theorem State.haltWrite_mem (s : State) (v : Nat) : (s.haltWrite v).mem = s.mem := by
  unfold State.haltWrite
  (repeat' split) <;> simp

theorem State.mgmtRead_mem {s s' : State} {port off v : Nat} (h : s.mgmtRead port off = .ok v s') : s'.mem = s.mem := by
  revert h
  fun_cases State.mgmtRead s port off <;> rintro ⟨⟩
  case case14 => exact State.acquire_mem ..
  all_goals rfl

theorem memWf_mgmtWrite {s s' : State} (h : memWf s.mem = true) {port off v n : Nat} (hs : s.mgmtWrite port off v = .ok n s') :
    memWf s'.mem = true := by
  revert hs
  fun_cases State.mgmtWrite s port off v <;> rintro ⟨⟩
  case case3 => exact memWf_resetWrite h _ _
  all_goals simpa using h

theorem memWf_mgmtAnswer {s : State} (h : memWf s.mem = true) (i : Instr) {o : MgOut} (ho : ∀ n s', o = .ok n s' → memWf s'.mem = true) :
    memWf (s.mgmtAnswer i o).mem = true := by
  cases o with
  | no st => exact h
  | wait => exact h
  | ok v s' => exact (State.answerHost_mem ..).symm ▸ ho v s' rfl

/-! ### Issue -/

@[simp] theorem State.prepare_mem (s : State) (a : Act) : (s.prepare a).mem = s.mem := by simp [State.prepare]

@[simp] theorem State.afterWord_mem (s : State) (a : Act) : (s.afterWord a).mem = s.mem := by simp [State.afterWord]

@[simp] theorem State.takeInput_mem (s : State) (e : Ev) : (s.takeInput e).mem = s.mem := rfl

@[simp] theorem State.tick_mem (s : State) : s.tick.mem = s.mem := by simp [State.tick]

end Sys2Proof.Machine
end

section
/-! Rows: every meaning keeps the canonical form of the memory. -/

open Sys2Proof

namespace Sys2Proof.Machine

/-- The next state, if there is one, has its memory in canonical form. -/
def WfAfter : Res → Prop
  | .next t => memWf t.mem = true
  | _ => True

theorem wfAfter_next (t : State) : WfAfter (.next t) ↔ memWf t.mem = true := ⟨id, id⟩

theorem memWf_ite {c : Prop} [Decidable c] {a b : State} (ha : memWf a.mem = true) (hb : memWf b.mem = true) :
    memWf (if c then a else b).mem = true := by
  split <;> assumption

section
variable {s : State} (h : memWf s.mem = true)
include h

/-! ### Flock -/

theorem wfAfter_execGang (d : Reg) (c r : BitVec 3) : WfAfter (execGang d c r s) := by
  refine (wfAfter_next _).2 ?_
  split
  · simpa using h
  · split
    · simpa using h
    · split
      · simpa using h
      · split
        · next hf => rw [State.formFlock_mem hf]; exact h
        · simpa using h

theorem wfAfter_execGangTimeout : WfAfter (execGangTimeout s) := by
  refine (wfAfter_next _).2 ?_
  split
  · split
    · exact h
    · split
      · next hf => rw [State.formFlock_mem hf]; exact h
      · simpa using h
  · exact h

/-! ### Timetable -/

theorem wfAfter_execBeatReceive : WfAfter (execBeatReceive s) := by
  refine (wfAfter_next _).2 ?_
  split
  · dsimp only
    split
    · simpa using h
    · split
      · simpa using h
      · simp only [State.mem_ite, ite_self]
        exact memWf_sliceStore (by simpa using h) ..
  · exact h

/-! ### Counter -/

theorem wfAfter_execCounterRequest : WfAfter (execCounterRequest s) := by
  refine (wfAfter_next _).2 ?_
  split
  · rw [State.send_mem, State.ctrServe_mem]
    exact h
  · exact h

theorem wfAfter_execCounterFire : WfAfter (execCounterFire s) :=
  memWf_foldl _ (fun s k hs => by
    generalize (s.counter k).fire k s.now = cf
    obtain ⟨c, f⟩ := cf
    cases f <;> simpa using hs) _ _ h

/-! ### Tree -/

theorem wfAfter_execTreeInject : WfAfter (execTreeInject s) := by
  refine (wfAfter_next _).2 ?_
  split
  · next ht => rw [State.treeInject_mem ht]; exact h
  · exact h

/-! ### Message -/

theorem wfAfter_execMessageArrival : WfAfter (execMessageArrival s) := by
  refine (wfAfter_next _).2 ?_
  split
  · dsimp only
    split <;> simpa using h
  · exact h

theorem wfAfter_execInbox (d a : Reg) : WfAfter (execInbox d a s) := by
  refine (wfAfter_next _).2 ?_
  split
  · simpa using h
  · split
    · simpa using h
    · split
      · simpa using h
      · rw [State.wr_mem]
        exact memWf_sliceStore (by simpa using h) ..

theorem wfAfter_execTrapMessageDelivery : WfAfter (execTrapMessageDelivery s) := by
  refine (wfAfter_next _).2 ?_
  rw [State.mem_getD fun _ => State.trapDeliver_mem]
  exact h

/-! ### Walk -/

theorem wfAfter_execWalkArrival : WfAfter (execWalkArrival s) := by
  refine (wfAfter_next _).2 ?_
  split
  · dsimp only
    split
    · simpa using h
    · split
      · next ha =>
        rw [State.freeSlot_mem]
        exact memWf_accept (by simpa using h) ha
      · simpa using h
  · exact h

theorem wfAfter_execResumeMove : WfAfter (execResumeMove s) := by
  refine (wfAfter_next _).2 ?_
  split
  · dsimp only
    split
    · simpa using h
    · split
      · next ha =>
        rw [State.freeSlot_mem]
        exact memWf_accept (by simpa using h) ha
      · simpa using h
  · exact h

/-! ### Sequencer -/

theorem wfAfter_execVfill (d a t : BitVec 4) : WfAfter (execVfill d a t s) := by
  unfold execVfill
  split
  · refine (wfAfter_next _).2 ?_
    split <;> simpa using h
  · exact (wfAfter_next _).2 (by (repeat' split) <;> simpa using h)

theorem wfAfter_execSeqEntryStart : WfAfter (execSeqEntryStart s) := by
  refine (wfAfter_next _).2 ?_
  cases hs : s.seqStep s.ev.num with
  | none => exact h
  | some s' => exact memWf_seqStep h hs

theorem wfAfter_execVxchgSliceArrival : WfAfter (execVxchgSliceArrival s) := by
  refine (wfAfter_next _).2 ?_
  split
  · split
    · exact memWf_sliceIn h ..
    · exact h
  · split
    · exact memWf_sliceIn (by simpa using h) ..
    · exact h

/-! ### Matrix -/

theorem wfAfter_execMatrixGrant : WfAfter (execMatrixGrant s) := by
  refine (wfAfter_next _).2 ?_
  split
  · exact h
  · exact memWf_mSteps h ..

/-! ### Agent -/

theorem wfAfter_execPackageRequest : WfAfter (execPackageRequest s) := by
  refine (wfAfter_next _).2 ?_
  split
  · split
    · exact memWf_agentTake (by simpa using h) _
    · simpa using h
  · exact h

theorem wfAfter_execTableRead : WfAfter (execTableRead s) := by
  refine (wfAfter_next _).2 ?_
  split
  · dsimp only
    split <;> simpa using h
  · exact h

/-! ### Drover -/

theorem wfAfter_execDgo (d : Reg) : WfAfter (execDgo d s) := by
  refine (wfAfter_next _).2 ?_
  rw [State.paired1_mem _ _ _ fun _ => State.launchJob_mem ..]
  exact h

theorem wfAfter_execDmcst (d a b : Reg) : WfAfter (execDmcst d a b s) := by
  refine (wfAfter_next _).2 ?_
  rw [State.paired1_mem _ _ _ fun _ => State.launchJob_mem ..]
  exact h

/-! ### GroupTable -/

theorem wfAfter_execGroupTableAnswer : WfAfter (execGroupTableAnswer s) := by
  refine (wfAfter_next _).2 ?_
  split
  · refine memWf_foldl _ (fun s q hs => by simpa using hs) _ _ ?_
    split <;> simpa using h
  · exact h

/-! ### Dispatcher -/

theorem wfAfter_execDispatchDistribute : WfAfter (execDispatchDistribute s) := by
  refine (wfAfter_next _).2 ?_
  split
  · exact h
  · simpa using h
  · simpa using h
  · simpa using h

theorem wfAfter_execLaunchPlaced : WfAfter (execLaunchPlaced s) := by
  refine (wfAfter_next _).2 ?_
  split
  · dsimp only
    split
    · exact h
    · split
      · split
        · simpa using h
        · exact memWf_placeLaunch (by simpa using h) ..
      · simpa using h
  · exact h

theorem wfAfter_execLnch (d a : Reg) : WfAfter (execLnch d a s) := by
  refine (wfAfter_next _).2 ?_
  split
  · simpa using h
  · split
    · simpa using h
    · split
      · simpa using h
      · rw [State.paired1_mem _ _ _ fun _ => State.launchChild_mem ..]
        exact h

/-! ### Dm -/

theorem wfAfter_execTileMapMoveDone : WfAfter (execTileMapMoveDone s) := by
  refine (wfAfter_next _).2 ?_
  split
  · split
    · simpa using h
    · split
      · exact h
      · rw [State.setTmres_mem]
        refine memWf_foldl _ (fun s i hs => memWf_copyStorage hs _ _ _ _) _ _ ?_
        refine memWf_foldl _ (fun s t hs => memWf_copyStorage hs _ _ _ _) _ _ ?_
        simpa using h
  · exact h

theorem wfAfter_execSwapDone : WfAfter (execSwapDone s) := by
  refine (wfAfter_next _).2 ?_
  split
  · dsimp only
    split
    · simpa using h
    · rw [State.setSwres_mem, State.updStack_mem]
      split
      · exact memWf_copyFrame (by simpa using h) ..
      · exact memWf_copyFrame (memWf_copyFrame (by simpa using h) ..) ..
  · exact h

theorem wfAfter_execStorageLoss : WfAfter (execStorageLoss s) := by
  refine (wfAfter_next _).2 ?_
  split
  · split
    · exact memWf_loseColumn (by simpa using h) ..
    · exact h
  · simpa using h
  · dsimp only
    split
    · exact memWf_ite (memWf_loseSlice (by simpa using h) ..) (by simpa using h)
    · exact memWf_ite (memWf_loseGroup (by simpa using h) ..) (by simpa using h)
    · exact memWf_ite (by simpa using h) (by simpa using h)

theorem wfAfter_execLayerLoss : WfAfter (execLayerLoss s) := by
  refine (wfAfter_next _).2 ?_
  split
  · exact h
  · rw [State.layerRecord_mem]
    exact memWf_foldl _ (fun s q hs => memWf_rehome hs ..) _ _ h

theorem wfAfter_execRoleFlush : WfAfter (execRoleFlush s) := by
  refine (wfAfter_next _).2 ?_
  split
  · exact h
  · split
    · exact h
    · rw [State.send_mem, State.updStack_mem]
      refine memWf_foldl _ (fun s r hs => ?_) _ _ (by simpa using h)
      split
      · split
        · exact memWf_foldl _ (fun s i hs => memWf_savePage hs ..) _ _ hs
        · exact hs
      · exact hs

/-! ### Reliability -/

theorem wfAfter_execPaddockResetEnd : WfAfter (execPaddockResetEnd s) := by
  refine (wfAfter_next _).2 ?_
  split
  · rw [State.record_mem, State.setPadSt_mem, State.killCounters_mem]
    refine memWf_foldl _ (fun s t hs => ?_) _ _ (by simpa using h)
    with_reducible exact memWf_loseRange (memWf_loseRange (by simpa using hs) _ _) _ _
  · exact h

theorem wfAfter_execSoftRepairStart : WfAfter (execSoftRepairStart s) := by
  refine (wfAfter_next _).2 ?_
  split
  · simpa using h
  · split
    · rw [State.listRepair_mem, State.sendWithin_mem]
      refine memWf_foldl _ (fun s f hs => ?_) _ _ h
      (repeat' split) <;> simpa using hs
    · simpa using h

/-! ### System -/

theorem wfAfter_execMfc (d : Reg) (n : BitVec 12) : WfAfter (execMfc d n s) := by
  refine (wfAfter_next _).2 ?_
  split
  · simpa using h
  · split
    · simpa using h
    · next v s' hr =>
      have same : s'.mem = s.mem := by
        split at hr
        · exact State.mfcSup_mem hr
        · exact State.mfcUser_mem hr
      rw [State.wr_mem, same]
      exact h

theorem wfAfter_execMtc (n : BitVec 12) (x : Reg) : WfAfter (execMtc n x s) := by
  refine (wfAfter_next _).2 ?_
  split
  · simpa using h
  · split
    · simpa using h
    · simpa using h
    · simpa using h
    · next s' hr =>
      rw [State.done_mem]
      split at hr
      · exact memWf_mtcSup h hr
      · rw [State.mtcUser_mem hr]
        exact h

/-! ### SaveArea -/

theorem wfAfter_execXsaveWrite : WfAfter (execXsaveWrite s) := by
  refine (wfAfter_next _).2 ?_
  cases hs : s.xsaveNow s.ev.num s.ev.a with
  | none => exact h
  | some s' => exact memWf_xsaveNow h hs

theorem wfAfter_execXload (a b : Reg) : WfAfter (execXload a b s) := by
  refine (wfAfter_next _).2 ?_
  split
  · simpa using h
  · split
    · simpa using h
    · split
      · simpa using h
      · split
        · simpa using h
        · dsimp only
          split
          · simpa using h
          · split
            · simpa using h
            · split
              · simpa using h
              · split
                · simpa using h
                · next s' hl =>
                  obtain ⟨area, -, hd⟩ := Option.bind_eq_some_iff.1 hl
                  rw [State.done_mem]
                  exact memWf_loadDie h hd

/-! ### HostDma -/

theorem wfAfter_execStoxisWrite : WfAfter (execStoxisWrite s) := by
  refine (wfAfter_next _).2 ?_
  split
  · simpa using h
  · split
    · simpa using h
    · simpa using h
    · split
      · simpa using h
      · rw [State.answerHost_mem, State.mem_foldl _ _ _ fun _ _ => State.landHost_mem ..]
        exact memWf_foldl _ (fun s r hs => memWf_store hs ..) _ _ h

/-! ### Bringup -/

theorem wfAfter_execFunctionReady : WfAfter (execFunctionReady s) := by
  refine (wfAfter_next _).2 ?_
  split
  · split
    · exact memWf_bootMap h _
    · exact h
  · split
    · exact h
    · exact h

/-! ### Partition -/

theorem wfAfter_execPowerSample : WfAfter (execPowerSample s) := by
  refine (wfAfter_next _).2 ?_
  split
  · split
    · rfl
    · exact h
  · exact h

theorem wfAfter_execPartitionFreed : WfAfter (execPartitionFreed s) := by
  refine (wfAfter_next _).2 ?_
  split
  · split
    · simpa using h
    · rw [State.updPart_mem]
      refine memWf_zeroRange ?_ _ _
      simpa using h
  · exact h

theorem wfAfter_execPartitionOpened : WfAfter (execPartitionOpened s) := by
  refine (wfAfter_next _).2 ?_
  split
  · dsimp only
    split
    · simpa using h
    · rw [State.updPart_mem]
      refine memWf_foldl _ (fun s d hs => memWf_placeSup hs ..) _ _ ?_
      rw [State.updPart_mem]
      exact memWf_zeroRange (by simpa using h) _ _
  · exact h

theorem wfAfter_execRoleReenumerate : WfAfter (execRoleReenumerate s) := by
  refine (wfAfter_next _).2 ?_
  split
  · dsimp only
    split
    · simpa using h
    · exact memWf_restoreSups (memWf_rerollNow (by simpa using h) _) _
  · exact h

/-! ### Mgmt -/

theorem wfAfter_execMgmtRead : WfAfter (execMgmtRead s) := by
  refine (wfAfter_next _).2 ?_
  split
  · simpa using h
  · exact memWf_mgmtAnswer h _ fun n s' ho => by rw [State.mgmtRead_mem ho]; exact h

theorem wfAfter_execDebugRead : WfAfter (execDebugRead s) := by
  refine (wfAfter_next _).2 ?_
  split
  · simpa using h
  · exact memWf_mgmtAnswer h _ fun n s' ho => by rw [State.mgmtRead_mem ho]; exact h

theorem wfAfter_execMgmtWrite : WfAfter (execMgmtWrite s) := by
  refine (wfAfter_next _).2 ?_
  split
  · simpa using h
  · exact memWf_mgmtAnswer h _ fun n s' ho => memWf_mgmtWrite h ho

end

/-! ### All rows -/

/-- Every meaning keeps the memory in canonical form: the rows that store go through the lemmas about their stores, the others leave it. -/
theorem wfAfter_exec {s : State} (h : memWf s.mem = true) (i : Instr) : WfAfter (exec i s) := by
  cases i
  case sb | sh | sw | sd | sdp | sdC | swC => exact memWf_storeWord h ..
  case twinKeepPrimary | twinKeepTwin | twinEndLaunch | twinNoAction => exact memWf_twctl h ..
  case postedStoreLand | remoteReadServe | atomicPerform => exact memWf_serve h _
  case resetCold | resetPackage | resetPort => exact memWf_host h (memWf_resetWrite h ..)
  case bootImageCheck => exact memWf_host h (by simpa using h)
  case roleMapRequest | attestRequest | keyLoad | keyRemove | partitionCreate | partitionClose | layerRetain | debugAttach | tileHalt
      | tileResume =>
    exact memWf_hostMc h (by simpa using h)
  case powerOn => exact (wfAfter_next _).2 rfl
  case faultFlush => exact memWf_faultFlush h _
  case gang => exact wfAfter_execGang h ..
  case gangTimeout => exact wfAfter_execGangTimeout h
  case beatReceive => exact wfAfter_execBeatReceive h
  case counterRequest => exact wfAfter_execCounterRequest h
  case counterFire => exact wfAfter_execCounterFire h
  case treeInject => exact wfAfter_execTreeInject h
  case messageArrival => exact wfAfter_execMessageArrival h
  case inbox => exact wfAfter_execInbox h ..
  case trapMessageDelivery => exact wfAfter_execTrapMessageDelivery h
  case walkArrival => exact wfAfter_execWalkArrival h
  case resumeMove => exact wfAfter_execResumeMove h
  case vfill => exact wfAfter_execVfill h ..
  case seqEntryStart => exact wfAfter_execSeqEntryStart h
  case vxchgSliceArrival => exact wfAfter_execVxchgSliceArrival h
  case matrixGrant => exact wfAfter_execMatrixGrant h
  case packageRequest => exact wfAfter_execPackageRequest h
  case tableRead => exact wfAfter_execTableRead h
  case dgo => exact wfAfter_execDgo h ..
  case dmcst => exact wfAfter_execDmcst h ..
  case groupTableAnswer => exact wfAfter_execGroupTableAnswer h
  case dispatchDistribute => exact wfAfter_execDispatchDistribute h
  case launchPlaced => exact wfAfter_execLaunchPlaced h
  case lnch => exact wfAfter_execLnch h ..
  case tileMapMoveDone => exact wfAfter_execTileMapMoveDone h
  case swapDone => exact wfAfter_execSwapDone h
  case storageLoss => exact wfAfter_execStorageLoss h
  case layerLoss => exact wfAfter_execLayerLoss h
  case roleFlush => exact wfAfter_execRoleFlush h
  case paddockResetEnd => exact wfAfter_execPaddockResetEnd h
  case softRepairStart => exact wfAfter_execSoftRepairStart h
  case mfc => exact wfAfter_execMfc h ..
  case mtc => exact wfAfter_execMtc h ..
  case xsaveWrite => exact wfAfter_execXsaveWrite h
  case xload => exact wfAfter_execXload h ..
  case stoxisWrite => exact wfAfter_execStoxisWrite h
  case functionReady => exact wfAfter_execFunctionReady h
  case powerSample => exact wfAfter_execPowerSample h
  case partitionFreed => exact wfAfter_execPartitionFreed h
  case partitionOpened => exact wfAfter_execPartitionOpened h
  case roleReenumerate => exact wfAfter_execRoleReenumerate h
  case mgmtRead => exact wfAfter_execMgmtRead h
  case debugRead => exact wfAfter_execDebugRead h
  case mgmtWrite => exact wfAfter_execMgmtWrite h
  case walk | vadd | vsub | vmul | vfma | vmin | vmax | vabs | vneg | vdiv | vsqrt | vrcp | vrsq | vrcpn | vrsqn | vexp2 | vlog2 | vand
      | vor | vxor | vshl | vshr | vcmpEq | vcmpNe | vcmpLt | vcmpLe | vcmpUn | vsel | vcopy | vcvt | vreds | vredmMin | vredmMax
      | vscan | vdot | vfold | vunf | viota | vgath | vscat | vperm | vxchg | vshape | dkill | sbind | acarm | hwt | hqry | sendm
      | xsave | idle | walkDepart | walkRefusalReturn | routineStart | refusalTrap | deferredFpxTrap | engineTrap | seqEntryComplete
      | seqEntryStop | matrixCommandStop | droverJobStart | droverJobComplete | droverCompletionPlace | counterAnswer | firingDelivery
      | counterAddition | poolPop | hurdleArrive | hurdleRootCount | hurdleRelease | treeRoundComplete | treeResultPlace | watchdogStall
      | sendmAnswer | forwardedWord | rejoinNotice | childCompletionPlace | preemptRequest | twinPairCompare | swapStart | xinvDone
      | eccCorrected | uncorrectableData | paddockResetStart | paddockTestEnd | marginRetestStart | marginRetestEnd | softRepairEnd
      | frameReceive | fjoicAdmit | holdNotice | fjoicSourceTimeout | multicastReplicate | multicastBranchTimeout | multicastAnswer
      | stoxisRead | grantDrained | attestReportDone | decodeTrap =>
    exact (wfAfter_next _).2 (by (repeat' split) <;> simpa using h)
  all_goals exact (wfAfter_next _).2 (by simpa using h)

end Sys2Proof.Machine
end

section
/-! Step: every step completes and keeps the canonical form of the memory (O60). -/

open Sys2Proof

namespace Sys2Proof.Machine

theorem wfAfter_finishWord {a : Act} {r : Res} (h : WfAfter r) : WfAfter (finishWord a r) := by
  cases r with
  | next t => exact (wfAfter_next _).2 (by rw [State.afterWord_mem]; exact h)
  | fault _ => trivial
  | refused _ => trivial

theorem wfAfter_step {s : State} (h : memWf s.mem = true) : WfAfter (step s) := by
  unfold step
  split
  · split
    · exact (wfAfter_next _).2 h
    · exact wfAfter_exec (by exact h) _
  · split
    · exact wfAfter_exec (by exact h) _
    · split
      · exact wfAfter_finishWord (wfAfter_exec (by simpa using h) _)
      · split
        · exact wfAfter_exec (by exact h) _
        · exact (wfAfter_next _).2 (by simpa using h)

theorem completes_finishWord {a : Act} {r : Res} (h : Completes r) : Completes (finishWord a r) := by
  obtain ⟨t, rfl⟩ := h
  exact ⟨_, rfl⟩

theorem completes_step (s : State) : Completes (step s) := by
  unfold step
  split
  · split
    · exact ⟨_, rfl⟩
    · exact exec_completes ..
  · split
    · exact exec_completes ..
    · split
      · exact completes_finishWord (exec_completes ..)
      · split
        · exact exec_completes ..
        · exact ⟨_, rfl⟩

/-- Settles O60: every meaning answers a next state, and each keeps the memory rising in its addresses and free of listed zero bytes. -/
theorem everyStepKeepsMemory : Obligations.EveryStepKeepsMemory := by
  intro s h
  refine ⟨completes_step s, fun t ht => ?_⟩
  have wf := wfAfter_step h
  rw [ht] at wf
  exact wf

end Sys2Proof.Machine
end

section
/-! Updates: two updates of one place, and a trap that resumes elsewhere. -/

open Sys2Proof

namespace Sys2Proof.Machine

/-! ### Two updates of one place -/

theorem tset_tset {α : Type} (t : Tbl α) (k : Nat) (v w : α) : tset (tset t k v) k w = tset t k w := by
  induction t with
  | nil => simp [tset]
  | cons p r ih =>
    obtain ⟨j, u⟩ := p
    by_cases hj : j = k
    · simp [tset, hj]
    · by_cases hk : k < j <;> simp [tset, hj, hk, ih]

theorem State.updTile_updTile (s : State) (k : Nat) (f g : Tile → Tile) :
    (s.updTile k f).updTile k g = s.updTile k fun tl => g (f tl) := by
  have fk : (s.updTile k f).tile k = f (s.tile k) := by rw [State.tile_updTile, if_pos rfl]
  simp only [State.updTile, tset_tset]
  exact congrArg (fun tl => { s with tiles := tset s.tiles k (g tl) }) fk

theorem Tile.updSlot_updSlot (a : Tile) (u : Nat) (f g : Slot → Slot) : (a.updSlot u f).updSlot u g = a.updSlot u fun sl => g (f sl) := by
  have fu : (a.updSlot u f).slot u = f (a.slot u) := by rw [Tile.slot_updSlot, if_pos rfl]
  simp only [Tile.updSlot, tset_tset]
  exact congrArg (fun sl => { a with slots := tset a.slots u (g sl) }) fu

theorem State.updSlot_updSlot (s : State) (k u : Nat) (f g : Slot → Slot) :
    (s.updSlot k u f).updSlot k u g = s.updSlot k u fun sl => g (f sl) := by
  simp only [State.updSlot, State.updTile_updTile, Tile.updSlot_updSlot]

/-! ### Traps that resume elsewhere -/

/-- Only the resume pc of a trap depends on where its thread resumes. -/
theorem State.trapAt_resume (s : State) (t u : Nat) (i : TrapInfo) (r : Word) :
    s.trapAt t u { i with resume := r } = (s.trapAt t u i).updSlot t u fun sl => { sl with pc := r } := by
  simp only [State.trapAt]
  generalize (s.leaveFlock t u 3).keepMsg t u = b
  split <;> simp only [State.updSlot, State.updTile, State.tile, Tile.updSlot, Tile.slot, tget_tset_same, tset_tset]

end Sys2Proof.Machine
end

section
/-! System traps: the words whose own effect is to park their thread (O13). -/

open Sys2Proof

namespace Sys2Proof.Machine

/-- A trap's thread stands where the trap says it resumes. -/
theorem Trapped.resumeAt {s t : State} {c : Cause} {p addr : Word} {detail : Nat} (h : Trapped s t c p addr detail)
    (ht : t.curTile = s.curTile) (hu : t.curSlot = s.curSlot) (r : Word) :
    Trapped s (t.updSlot s.curTile s.curSlot fun sl => { sl with pc := r }) c r addr detail := by
  have cur : (t.updSlot s.curTile s.curSlot fun sl => { sl with pc := r }).cur = { t.cur with pc := r } := by
    show (t.updSlot s.curTile s.curSlot _).slot t.curTile t.curSlot = _
    rw [ht, hu, State.slot_updSlot, if_pos ⟨rfl, rfl⟩]
    simp only [State.cur, ht, hu]
  obtain ⟨hst, hcause, -, htag, hx, hstatus, hk, hshadow, hloops, hcnt, hmsg, hmem, hother⟩ := h
  refine ⟨?_, ?_, ?_, ?_, fun r' => ?_, ?_, ?_, ?_, ?_, ?_, ?_, hmem, fun k u hk => ?_⟩
  case refine_5 =>
    refine Eq.trans ?_ (hx r')
    simp only [State.xr, cur]
    rfl
  case refine_12 => rw [State.slot_updSlot, if_neg (by omega), hother k u hk]
  case refine_3 => rw [cur]
  all_goals rw [cur]; assumption

theorem State.trap_curTile {s : State} (h : s.cur.flk = 0) (c : Cause) (addr : Word) (detail : Nat) :
    (s.trap c addr detail).curTile = s.curTile := by
  refine Eq.trans ?_ (s.beforeEntry h).tile_eq
  simp only [State.trap, State.trapAt]
  split <;> rfl

theorem State.trap_curSlot {s : State} (h : s.cur.flk = 0) (c : Cause) (addr : Word) (detail : Nat) :
    (s.trap c addr detail).curSlot = s.curSlot := by
  refine Eq.trans ?_ (s.beforeEntry h).slot_eq
  simp only [State.trap, State.trapAt]
  split <;> rfl

/-- A thread that parks itself has taken a trap that resumes at the following word. -/
theorem trapped_parkSelf (s : State) (c : Cause) (detail : Nat) (h : s.cur.flk = 0) :
    Trapped s (s.parkSelf c detail) c (s.cur.pc + 4) 0 detail := by
  rw [State.parkSelf, State.trapAt_resume s s.curTile s.curSlot { cause := c, pc := s.cur.pc, resume := s.cur.pc, addr := 0, detail := detail, mflags := 0 }]
  exact (trapped_trap s c 0 detail h).resumeAt (State.trap_curTile h ..) (State.trap_curSlot h ..) _

/-- What BRK leaves with a debug agent attached: the word done, the tile halted and its pc recorded (R420). -/
def State.haltBrk (s : State) : State :=
  let t := (s.done 4).updTile s.curTile fun t => { t with halted := true }
  { t with mgmt := { t.mgmt with brkPc := s.cur.pc.toNat } }

theorem execBrk_of_agent {n : BitVec 8} {s : State} (h : s.mgmt.agent ≠ none) :
    ∃ t, execBrk n s = .next t ∧ t.curT.halted = true ∧ t.mgmt.brkPc = s.cur.pc.toNat ∧ t.cur.trapMsg = s.cur.trapMsg ∧ t.toMgmt = s.toMgmt := by
  have agent : s.mgmt.agent.isSome = true := Option.isSome_iff_ne_none.2 h
  have tile : s.haltBrk.curT = { (s.done 4).curT with halted := true } := by
    show ((s.done 4).updTile s.curTile fun t => { t with halted := true }).tile s.curTile = _
    rw [State.tile_updTile, if_pos rfl]
    rfl
  refine ⟨s.haltBrk, by rw [execBrk, if_pos agent]; rfl, ?_, rfl, ?_, rfl⟩
  · rw [tile]
  · show (s.haltBrk.curT.slot s.curSlot).trapMsg = _
    rw [tile]
    show (s.done 4).cur.trapMsg = _
    rw [State.done_eq, State.cur_updCur]
    rfl

/-- Settles O13: TRAP, BRK and PARK of the own thread are one trap that resumes at the next word. -/
theorem systemTraps : Obligations.SystemTraps := by
  intro s n a flk
  refine ⟨⟨_, rfl, trapped_parkSelf s _ _ flk⟩, fun agent => ?_, execBrk_of_agent, fun all => ?_, fun other low => ?_, fun low => ?_⟩
  · exact ⟨_, by rw [exec, execBrk, agent]; rfl, trapped_parkSelf s _ _ flk⟩
  · exact ⟨_, by simp only [exec, execPark]; rw [if_pos all], trapped_parkSelf s _ _ flk⟩
  · exact ⟨_, by simp only [exec, execPark]; rw [if_neg other, low]; rfl, trapped_trap s _ _ _ flk⟩
  · exact ⟨_, by simp only [exec, execEret]; rw [low]; rfl, trapped_trap s _ _ _ flk⟩

end Sys2Proof.Machine
end

section
/-! Words: what a word leaves that changes its own tile, asks, or takes a record in LOCAL. -/

open Sys2Proof

namespace Sys2Proof.Machine

/-! ### An update of the executing thread's own tile and the end of its word -/

section
variable (s : State) {f : Tile → Tile} (g : Slot → Slot)

theorem State.updTile_updCur : (s.updTile s.curTile f).updCur g = s.updTile s.curTile fun tl => (f tl).updSlot s.curSlot g :=
  s.updTile_updTile s.curTile f fun tl => tl.updSlot s.curSlot g

theorem State.curT_updTile : (s.updTile s.curTile f).curT = f s.curT := (State.tile_updTile ..).trans (if_pos rfl)

theorem State.curT_updTile_updCur : ((s.updTile s.curTile f).updCur g).curT = (f s.curT).updSlot s.curSlot g := by
  rw [State.updTile_updCur, State.curT_updTile]

theorem State.onlyTile_updTile_updCur : OnlyTile s ((s.updTile s.curTile f).updCur g) s.curTile := by
  rw [State.updTile_updCur]
  exact State.onlyTile_updTile ..

theorem State.cur_updTile_updCur : ((s.updTile s.curTile f).updCur g).cur = g ((f s.curT).slot s.curSlot) := by
  show ((s.updTile s.curTile f).updCur g).curT.slot s.curSlot = _
  rw [State.curT_updTile_updCur, Tile.slot_updSlot, if_pos rfl]

theorem Tile.slot_congr {a b : Tile} (h : a.slots = b.slots) (u : Nat) : a.slot u = b.slot u := congrArg (fun l => tget Slot.fresh l u) h

theorem State.slot_updTile_updCur_of_ne (hf : (f s.curT).slots = s.curT.slots) {u : Nat} (hu : u ≠ s.curSlot) :
    ((s.updTile s.curTile f).updCur g).slot s.curTile u = s.slot s.curTile u := by
  show ((s.updTile s.curTile f).updCur g).curT.slot u = _
  rw [State.curT_updTile_updCur, Tile.slot_updSlot, if_neg hu]
  exact Tile.slot_congr hf u

theorem State.cur_updTile_updCur_of_slots (hf : (f s.curT).slots = s.curT.slots) : ((s.updTile s.curTile f).updCur g).cur = g s.cur := by
  rw [State.cur_updTile_updCur, Tile.slot_congr hf]
  rfl

end

/-- A word that changes its tile beside its slots, and is done. -/
theorem wordDone_updTile (s : State) {f : Tile → Tile} (hf : (f s.curT).slots = s.curT.slots) (len : Nat) :
    WordDone s ((s.updTile s.curTile f).done len) len ∧ s.cur.SameButX ((s.updTile s.curTile f).done len).cur := by
  have cur : ((s.updTile s.curTile f).done len).cur = s.cur.complete (s.cur.pc + BitVec.ofNat 64 len) true :=
    s.cur_updTile_updCur_of_slots _ hf
  refine ⟨⟨?_, fun r => ?_, fun u hu => s.slot_updTile_updCur_of_ne _ hf hu⟩, ?_⟩
  · rw [cur]
    exact Slot.at_complete ..
  · rw [State.xr, cur]
    rfl
  · rw [cur]
    exact Slot.sameButX_complete' ..

/-- A word that changes its tile beside its slots, and writes x[d]. -/
theorem wordWrote_updTile (s : State) {f : Tile → Tile} (hf : (f s.curT).slots = s.curT.slots) (d : Reg) (v : Word) (len : Nat) :
    (∀ r, ((s.updTile s.curTile f).wr d v len).xr r = if r = d ∧ d ≠ 0 then v else s.xr r) ∧
      s.cur.At ((s.updTile s.curTile f).wr d v len).cur (s.cur.pc + BitVec.ofNat 64 len) true ∧
      s.cur.SameButX ((s.updTile s.curTile f).wr d v len).cur := by
  have cur : ((s.updTile s.curTile f).wr d v len).cur = (s.cur.setX d v).complete (s.cur.pc + BitVec.ofNat 64 len) true :=
    s.cur_updTile_updCur_of_slots _ hf
  refine ⟨fun r => ?_, ?_, ?_⟩
  · rw [State.xr, cur, Slot.complete_xr, Slot.xr_setX]
    rfl
  · rw [cur]
    simpa [Slot.At] using Slot.at_complete (s.cur.setX d v) (s.cur.pc + BitVec.ofNat 64 len) true
  · rw [cur]
    exact Slot.sameButX_complete ..

/-! ### A change outside the tiles and the end of the word -/

section
variable {s u : State} (tiles : u.tiles = s.tiles) (tile : u.curTile = s.curTile) (slot : u.curSlot = s.curSlot)
include tiles tile slot

theorem State.cur_of_tiles : u.cur = s.cur := by
  unfold State.cur State.slot State.tile
  rw [tiles, tile, slot]

/-- Where no tile has changed before a word ends, it leaves every tile beside the slots and every other slot. -/
theorem sameElsewhere_of_tiles (g : Slot → Slot) : (∀ k, (s.tile k).Same ((u.updCur g).tile k)) ∧
    ∀ k v, k ≠ s.curTile ∨ v ≠ s.curSlot → (u.updCur g).slot k v = s.slot k v := by
  obtain ⟨-, -, hsame, hother⟩ := u.sameElsewhere_updCur g
  rw [tile, slot] at hother
  simp only [State.slot, State.tile, tiles] at hsame hother ⊢
  exact ⟨hsame, hother⟩

theorem wordWrote_wr (d : Reg) (v : Word) (len : Nat) : WordWrote s (u.wr d v len) d v len := by
  have cur : (u.wr d v len).cur = (s.cur.setX d v).complete (s.cur.pc + BitVec.ofNat 64 len) true := by
    rw [← State.cur_of_tiles tiles tile slot]
    exact State.cur_updCur ..
  refine ⟨fun r => ?_, ?_, ?_, sameElsewhere_of_tiles tiles tile slot _⟩
  · rw [State.xr, cur, Slot.complete_xr, Slot.xr_setX]
    rfl
  · rw [cur]
    simpa [Slot.At] using Slot.at_complete (s.cur.setX d v) (s.cur.pc + BitVec.ofNat 64 len) true
  · rw [cur]
    exact Slot.sameButX_complete ..

theorem wordDone_done (len : Nat) :
    WordDone s (u.done len) len ∧ s.cur.SameButX (u.done len).cur ∧ ∀ k, (s.tile k).Same ((u.done len).tile k) := by
  have cur : (u.done len).cur = s.cur.complete (s.cur.pc + BitVec.ofNat 64 len) true := by
    rw [← State.cur_of_tiles tiles tile slot]
    exact State.cur_updCur ..
  obtain ⟨hsame, hother⟩ := sameElsewhere_of_tiles tiles tile slot fun sl => sl.complete (sl.pc + BitVec.ofNat 64 len) true
  refine ⟨⟨?_, fun r => ?_, fun v hv => hother _ v (.inr hv)⟩, ?_, hsame⟩
  · rw [cur]
    exact Slot.at_complete ..
  · rw [State.xr, cur]
    rfl
  · rw [cur]
    exact Slot.sameButX_complete' ..

end

/-! ### Asking and records in LOCAL -/

/-- A word that sends one message and waits for what comes back. -/
theorem asksWith_send_block {w : Wait} {i : Instr} {s : State} {n : Nat} {m : Msg} (h : exec i s = .next ((s.send n m).block w)) :
    AsksWith w i s m := by
  have cur : ((s.send n m).block w).cur = { s.cur with st := .block, wait := w } := State.cur_updCur ..
  obtain ⟨-, -, hsame, hother⟩ := (s.send n m).sameElsewhere_updCur fun sl => { sl with st := .block, wait := w }
  refine ⟨_, h, s.sent_send n m, by rw [cur], by rw [cur], by rw [cur], fun r => ?_, ?_, rfl, hsame, hother⟩
  · rw [State.xr, cur]
    rfl
  · rw [cur]
    rfl

theorem State.localArg_of_loc {s : State} {a : Word} {off : Nat} (hwin : decodeWin a = some (.loc off)) (n align : Nat) :
    s.localArg a n align = if off + n ≤ (s.launch s.curT.lid).parkBase then (if off % align ≠ 0 then .error .align else .ok off)
      else .error .window := by
  simp only [State.localArg, hwin, State.reserved, State.curT]
  by_cases hres : off + n ≤ (s.launch (s.tile s.curTile).lid).parkBase <;> simp [hres]

theorem State.localArg_ok {s : State} {a : Word} {n align off : Nat} (h : s.localAt a n off) (al : off % align = 0) :
    s.localArg a n align = .ok off := by
  rw [State.localArg_of_loc h.1, if_pos h.2, if_neg (by simpa using al)]

theorem State.localArg_align {s : State} {a : Word} {n align off : Nat} (h : s.localAt a n off) (al : off % align ≠ 0) :
    s.localArg a n align = .error .align := by
  rw [State.localArg_of_loc h.1, if_pos h.2, if_pos al]

theorem State.localArg_window {s : State} {a : Word} {n align : Nat} (h : ∀ off, ¬ s.localAt a n off) :
    s.localArg a n align = .error .window := by
  by_cases hloc : ∃ off, decodeWin a = some (.loc off)
  · obtain ⟨off, hwin⟩ := hloc
    rw [State.localArg_of_loc hwin, if_neg fun hres => h off ⟨hwin, hres⟩]
  · unfold State.localArg
    split
    · next off hwin => exact absurd ⟨off, hwin⟩ hloc
    · rfl

/-- A word whose meaning traps where its record is misplaced. -/
theorem argTraps_localArg {i : Instr} {s : State} {a : Word} {n align : Nat}
    (h : ∀ c, s.localArg a n align = .error c → exec i s = .next (s.trap c a 0)) : ArgTraps i s a n align := fun flk =>
  ⟨fun hw => ⟨_, h _ (State.localArg_window hw), trapped_trap s _ _ _ flk⟩,
   fun _ hl al => ⟨_, h _ (State.localArg_align hl al), trapped_trap s _ _ _ flk⟩⟩

theorem State.badGranule_none {s : State} {off n : Nat} (hu : s.curT.unusable = false)
    (hp : poisonIn s.poison (s.sliceKey s.curTile off) n = none) : s.badGranule s.curTile off n = none := by
  have usable : (s.tile s.curTile).unusable = false := hu
  simp [State.badGranule, usable, hp]

end Sys2Proof.Machine
end

section
/-! Message words: SENDM, INBOX, INBQ and the routine slots (O33). -/

open Sys2Proof

namespace Sys2Proof.Machine

/-! ### SENDM -/

theorem State.twinFull_of_not_paired {s : State} {t : Nat} (h : s.paired t = false) : s.twinFull t = false := by
  simp [State.twinFull, h]

theorem argTraps_sendm (s : State) (d a b : Reg) : ArgTraps (.sendm d a b) s (s.xr b) 24 8 :=
  argTraps_localArg fun c hc => by simp only [exec, execSendm, hc]

/-- The message of SENDM before its destination is known (R227). -/
def State.sendmReq (s : State) (d a : Reg) (off : Nat) : SendReq :=
  { tile := s.curTile, slot := s.curSlot, d := d,
    entry := s.sendEntry s.curTile (wf (s.xr a) 20 5 + b2n ((s.xr a).getLsbD 25) * 128) (s.load (s.sliceKey s.curTile off) 24),
    dest := 0, owner := s.ownerOf s.curT.lid, lid := s.curT.lid, byOwner := false, pgrp := 0, status := 2, peer := none }

theorem State.sendmReq_entry (s : State) (d a : Reg) (off : Nat) : (s.sendmReq d a off).entry =
    BitVec.ofNat 256 (1 + tRow (s.seenTile s.curTile) * 2 ^ 16 + tCol (s.seenTile s.curTile) * 2 ^ 24 + s.ownDie s.curTile % 8 * 2 ^ 32 +
      ((s.xr a).toNat / 2 ^ 20 % 32 + (if (s.xr a).getLsbD 25 then 128 else 0)) * 2 ^ 40 + s.pkg % 4096 * 2 ^ 48 +
      readMem s.mem (s.sliceKey s.curTile off) 24 * 2 ^ 64) := by
  have hnd : wf (s.xr a) 20 5 + b2n ((s.xr a).getLsbD 25) * 128 = (s.xr a).toNat / 2 ^ 20 % 32 + (if (s.xr a).getLsbD 25 then 128 else 0) := by
    cases (s.xr a).getLsbD 25 <;> rfl
  rw [← hnd]
  rfl

section
variable {s : State} {d a b : Reg} {off : Nat} (hpair : s.paired s.curTile = false) (harg : s.localArg (s.xr b) 24 8 = .ok off)
  (hbad : s.badGranule s.curTile off 24 = none)
include hpair harg hbad

theorem asks_sendm_invalid (hdest : s.sendDest s.curTile (s.xr a) = none) : Asks (.sendm d a b) s (.sendmAns (s.sendmReq d a off)) := by
  refine asksWith_send_block (n := 2) ?_
  simp only [exec, execSendm, harg, hbad, State.twinFull_of_not_paired hpair, hdest]
  rfl

theorem asks_sendm {dest : Nat} (hdest : s.sendDest s.curTile (s.xr a) = some (none, false, dest)) (hdie : tDie dest = tDie s.curTile) :
    Asks (.sendm d a b) s
      (.sendm { s.sendmReq d a off with dest := dest, byOwner := false, pgrp := s.physGroup (tDie dest) (tGroup dest) }) := by
  refine asksWith_send_block (n := routed (hops s.curTile dest) 3) ?_
  simp only [exec, execSendm, harg, hbad, State.twinFull_of_not_paired hpair, hdest, hdie]
  simp only [beq_self_eq_true, Bool.not_false, Bool.and_self, if_true]
  rfl

end

/-! ### INBOX and INBQ -/

theorem argTraps_inbox (s : State) (d a : Reg) : ArgTraps (.inbox d a) s (s.xr a) 32 32 :=
  argTraps_localArg fun c hc => by simp only [exec, execInbox, hc]

theorem State.noteDequeued_eq (s : State) (e : Entry) : ∃ l, s.noteDequeued e = { s with launches := l } := by
  unfold State.noteDequeued
  split
  · exact ⟨_, rfl⟩
  · exact ⟨_, rfl⟩

theorem readMem_writeMem_entry (m : List Host.Cell) (k : Nat) (e : Entry) : readMem (writeMem m k 32 e.toNat) k 32 = e.toNat := by
  rw [readMem_writeMem]
  exact Nat.mod_eq_of_lt e.isLt

theorem nw_nf_entry (e : Entry) : nw (nf e.toNat 0 64) = e.setWidth 64 := by
  apply BitVec.eq_of_toNat_eq
  simp [nw, nf]

/-- The state INBOX leaves, but for the poison, counters and launches that its store and pop note. -/
def State.inboxTaken (s : State) (d : Reg) (off : Nat) (e : Entry) (rest : List Entry) : State :=
  { (s.updTile s.curTile fun tl => { tl with inbox := rest }).wr d (e.setWidth 64) 4 with
    mem := writeMem s.mem (s.sliceKey s.curTile off) 32 e.toNat }

theorem exec_inbox_entry {s : State} {d a : Reg} {off : Nat} {e : Entry} {rest : List Entry} (harg : s.localArg (s.xr a) 32 32 = .ok off)
    (hbox : s.curT.inbox = e :: rest) (husable : s.curT.unusable = false) :
    ∃ p c l, exec (.inbox d a) s = .next { s.inboxTaken d off e rest with poison := p, counters := c, launches := l } := by
  have box : (s.tile s.curTile).inbox = e :: rest := hbox
  have pop : s.inboxPop s.curTile = (s.updTile s.curTile fun tl => { tl with inbox := rest }).noteDequeued e := by
    simp only [State.inboxPop, box]
  obtain ⟨l, hl⟩ := (s.updTile s.curTile fun tl => { tl with inbox := rest }).noteDequeued_eq e
  have run : exec (.inbox d a) s = .next (((s.inboxPop s.curTile).sliceStore s.curTile off 32 e.toNat).wr d (e.setWidth 64) 4) := by
    simp only [exec, execInbox, harg, hbox, husable, nw_nf_entry]
    rfl
  rw [run, pop, hl]
  exact ⟨_, _, _, rfl⟩

theorem answers_inbox {s : State} {d a : Reg} {off : Nat} {e : Entry} {rest : List Entry} (harg : s.localArg (s.xr a) 32 32 = .ok off)
    (hbox : s.curT.inbox = e :: rest) (husable : s.curT.unusable = false) :
    Answers (exec (.inbox d a) s) fun t =>
      readMem t.mem (s.sliceKey s.curTile off) 32 = e.toNat ∧
      (∀ k, k < s.sliceKey s.curTile off ∨ s.sliceKey s.curTile off + 32 ≤ k → readByte t.mem k = readByte s.mem k) ∧
      t.curT.inbox = rest ∧ (∀ r, t.xr r = if r = d ∧ d ≠ 0 then e.setWidth 64 else s.xr r) ∧ s.cur.At t.cur (s.cur.pc + 4) true ∧
      s.cur.SameButX t.cur ∧ { t.curT with slots := s.curT.slots, inbox := s.curT.inbox } = s.curT ∧
      (∀ j, j ≠ s.curTile → t.tile j = s.tile j) ∧
      { t with tiles := s.tiles, mem := s.mem, poison := s.poison, counters := s.counters, launches := s.launches } = s := by
  obtain ⟨p, c, l, he⟩ := exec_inbox_entry (d := d) harg hbox husable
  obtain ⟨hx, hat, hsame⟩ := wordWrote_updTile s (f := fun tl => { tl with inbox := rest }) rfl d (e.setWidth 64) 4
  have curT := s.curT_updTile_updCur (f := fun tl => { tl with inbox := rest }) fun sl => (sl.setX d (e.setWidth 64)).complete (sl.pc + 4) true
  refine ⟨_, he, readMem_writeMem_entry .., fun k hk => readByte_writeMem_out _ _ _ _ _ hk, ?_, hx, hat, hsame, ?_,
    (s.onlyTile_updTile_updCur _).2, rfl⟩
  · exact congrArg Tile.inbox curT
  · exact congrArg (fun tl : Tile => { tl with slots := s.curT.slots, inbox := s.curT.inbox }) curT

theorem Tile.inbq_eq (t : Tile) : t.inbq = t.inbox.length + (t.inbox.headD 0).toNat % 2 ^ 16 * 2 ^ 16 := by
  unfold Tile.inbq
  cases t.inbox with
  | nil => rfl
  | cons e r => simp [nf]

/-! ### Routine slots -/

theorem Tile.routine_tset (t : Tile) (i k : Nat) (r : Routine) :
    ({ t with routines := tset t.routines i r } : Tile).routine k = if k = i then r else t.routine k := tget_tset ..

/-- HLD of a filled slot of the tile. -/
def Tile.setHeld (now i : Nat) (h : Bool) (t : Tile) : Tile :=
  let r := t.routine i
  if r.vld then { t with routines := tset t.routines i { r with hld := h, from_ := if r.hld && !h then now + 1 else r.from_ } } else t

theorem State.setHeld_eq (s : State) (i : Nat) (h : Bool) : s.setHeld i h = s.updTile s.curTile (Tile.setHeld s.now i h) := rfl

theorem Tile.setHeld_slots (now i : Nat) (h : Bool) (t : Tile) : (t.setHeld now i h).slots = t.slots := by
  simp only [Tile.setHeld]
  split <;> rfl

theorem Tile.setHeld_rest (now i : Nat) (h : Bool) (t : Tile) : { t.setHeld now i h with routines := t.routines } = t := by
  simp only [Tile.setHeld]
  split <;> rfl

theorem Tile.routine_setHeld (now i : Nat) (h : Bool) (t : Tile) (k : Nat) :
    (t.setHeld now i h).routine k = if k = i ∧ (t.routine i).vld then
      { t.routine k with hld := h, from_ := if (t.routine i).hld ∧ !h then now + 1 else (t.routine i).from_ } else t.routine k := by
  simp only [Tile.setHeld]
  by_cases hv : (t.routine i).vld = true
  · rw [if_pos hv, Tile.routine_tset]
    by_cases hk : k = i <;> simp [hk, hv]
  · rw [if_neg hv, if_neg fun hkv => hv hkv.2]

theorem answers_setHeld {s : State} {i : Instr} {k : Nat} {h : Bool} (he : exec i s = .next ((s.setHeld k h).done 4)) :
    Answers (exec i s) fun t =>
      (∀ j, t.curT.routine j = if j = k ∧ (s.curT.routine k).vld then
          { s.curT.routine j with hld := h, from_ := if (s.curT.routine k).hld ∧ !h then s.now + 1 else (s.curT.routine k).from_ }
        else s.curT.routine j) ∧
      WordDone s t 4 ∧ s.cur.SameButX t.cur ∧ { t.curT with slots := s.curT.slots, routines := s.curT.routines } = s.curT ∧
      OnlyTile s t s.curTile := by
  obtain ⟨hdone, hsame⟩ := wordDone_updTile s (Tile.setHeld_slots s.now k h s.curT) 4
  have curT : ((s.setHeld k h).done 4).curT = (s.curT.setHeld s.now k h).updSlot s.curSlot _ := s.curT_updTile_updCur _
  refine ⟨_, he, fun j => ?_, hdone, hsame, ?_, s.onlyTile_updTile_updCur _⟩
  · rw [curT]
    exact Tile.routine_setHeld s.now k h s.curT j
  · rw [curT]
    refine Eq.trans ?_ (Tile.setHeld_rest s.now k h s.curT)
    exact congrArg (fun l => { s.curT.setHeld s.now k h with slots := l, routines := s.curT.routines }) (Tile.setHeld_slots s.now k h s.curT).symm

@[simp] theorem Slot.event_x (sl : Slot) (b : Nat) : (sl.event b).x = sl.x := by
  simp only [Slot.event]
  (repeat' split) <;> rfl

@[simp] theorem Slot.event_pc (sl : Slot) (b : Nat) : (sl.event b).pc = sl.pc := by
  simp only [Slot.event]
  (repeat' split) <;> rfl

@[simp] theorem Slot.event_loops (sl : Slot) (b : Nat) : (sl.event b).loops = sl.loops := by
  simp only [Slot.event]
  (repeat' split) <;> rfl

theorem tget_map {α : Type} (d : α) (f : α → α) (hd : f d = d) (l : Tbl α) (k : Nat) :
    tget d (l.map fun p => (p.1, f p.2)) k = f (tget d l k) := by
  induction l with
  | nil => exact hd.symm
  | cons p r ih =>
    obtain ⟨j, v⟩ := p
    by_cases hj : j = k <;> simp_all [tget]

/-- An event on a tile is an event on each of its slots. -/
theorem Tile.slot_event (t : Tile) (b u : Nat) : (t.event b).slot u = (t.slot u).event b :=
  tget_map Slot.fresh (fun sl : Slot => sl.event b) rfl t.slots u

theorem Tile.ready_of_vld {t : Tile} {i : Nat} (h : (t.routine i).vld = true) (now src : Nat) (arg : Word) :
    t.ready now src i arg = ({ t with routines := tset t.routines i ((t.routine i).ready now src arg),
                                      rmrg := if (t.routine i).rdy then t.rmrg + 1 else t.rmrg } : Tile).event 7 := by
  simp only [Tile.ready, h, if_true]

theorem Tile.routine_ready {t : Tile} {i : Nat} (h : (t.routine i).vld = true) (now src : Nat) (arg : Word) (k : Nat) :
    (t.ready now src i arg).routine k = if k = i then (t.routine i).ready now src arg else t.routine k := by
  rw [Tile.ready_of_vld h]
  exact tget_tset ..

/-- A routine made ready by an instruction: its argument is the new one unless a firing of the same cycle came from a higher source. -/
theorem Routine.ready_rest (r : Routine) (now : Nat) (arg : Word) :
    (r.ready now 0 arg).rdy = true ∧ (r.ready now 0 arg).mrg = (r.mrg || r.rdy) ∧
      (r.lastAt ≠ now ∨ r.lastBy = 0 → (r.ready now 0 arg).rarg = arg) ∧
      { r.ready now 0 arg with rdy := r.rdy, mrg := r.mrg, rarg := r.rarg, from_ := r.from_, lastAt := r.lastAt, lastBy := r.lastBy } = r := by
  refine ⟨rfl, rfl, fun h => if_neg fun hl => ?_, rfl⟩
  rcases h with hat | hby
  · exact hat hl.1
  · omega

theorem State.routineArg_eq (s : State) (a : Reg) : s.routineArg a = (s.xr a).toNat % 32 := by
  simp [State.routineArg, wf, nf]

theorem answers_rrdy {s : State} {a b : Reg} (h : (s.curT.routine (s.routineArg a)).vld = true) :
    Answers (exec (.rrdy a b) s) fun t =>
      (∀ k, t.curT.routine k = if k = s.routineArg a then (s.curT.routine (s.routineArg a)).ready s.now 0 (s.xr b) else s.curT.routine k) ∧
      (∀ r, t.xr r = s.xr r) ∧ s.cur.At t.cur (s.cur.pc + 4) true ∧ OnlyTile s t s.curTile := by
  have slot : (s.curT.ready s.now 0 (s.routineArg a) (s.xr b)).slot s.curSlot = s.cur.event 7 := by
    rw [Tile.ready_of_vld h]
    exact Tile.slot_event _ 7 s.curSlot
  refine ⟨_, rfl, fun k => ?_, fun r => ?_, ?_, s.onlyTile_updTile_updCur _⟩
  · rw [State.done, State.curT_updTile_updCur]
    exact Tile.routine_ready h ..
  · rw [State.xr, State.done, State.cur_updTile_updCur, slot]
    rw [Slot.complete_xr, Slot.xr, Slot.event_x]
    rfl
  · rw [State.done, State.cur_updTile_updCur, slot]
    simpa [Slot.At] using Slot.at_complete (s.cur.event 7) (s.cur.pc + 4) true

/-- Settles O33: the fields of a message, the pop of the inbox and the routine slots; each record is checked before anything is done. -/
theorem messageWords : Obligations.MessageWords := by
  intro s d a b
  refine ⟨argTraps_sendm s d a b, argTraps_inbox s d a, fun off hpair hat al husable hpoison => ?_, fun off hat al => ⟨fun hbox => ?_, ?_⟩, ?_,
    fun i h hi => ?_, fun hvld => ?_⟩
  · have harg := State.localArg_ok hat al
    have hbad := State.badGranule_none husable hpoison
    refine ⟨fun hdest => ⟨_, asks_sendm_invalid hpair harg hbad hdest, rfl, rfl⟩, fun dest hdest hdie =>
      ⟨_, asks_sendm hpair harg hbad hdest hdie, rfl, rfl, rfl, s.sendmReq_entry d a off⟩⟩
  · exact writesX_wr (by simp only [exec, execInbox, State.localArg_ok hat al, hbox])
  · exact fun e rest hbox husable => answers_inbox (State.localArg_ok hat al) hbox husable
  · rw [← Tile.inbq_eq]
    exact writesX_wr rfl
  · rcases hi with ⟨rfl, rfl⟩ | ⟨rfl, rfl⟩
    · exact answers_setHeld (by rw [← s.routineArg_eq a]; rfl)
    · exact answers_setHeld (by rw [← s.routineArg_eq a]; rfl)
  · rw [← s.routineArg_eq a] at hvld ⊢
    obtain ⟨t, he, hr, hx, hat, ho⟩ := answers_rrdy (b := b) hvld
    refine ⟨t, he, ?_, fun k hk => (hr k).trans (if_neg hk), hx, hat, ho⟩
    have mine := (hr (s.routineArg a)).trans (if_pos rfl)
    simp only [mine]
    exact Routine.ready_rest ..

end Sys2Proof.Machine
end

section
/-! Control registers read: MFC (O35). -/

open Sys2Proof

namespace Sys2Proof.Machine

/-! ### The two register spaces of MFC and MTC -/

theorem getLsbD_supervisor {n : BitVec 12} (h : 2048 ≤ n.toNat) : n.getLsbD 11 = true := by
  have lt := n.isLt
  rw [BitVec.getLsbD, Nat.testBit_eq_decide_div_mod_eq, decide_eq_true_eq]
  omega

theorem getLsbD_program {n : BitVec 12} (h : n.toNat < 2048) : n.getLsbD 11 = false := by
  rw [BitVec.getLsbD, Nat.testBit_eq_decide_div_mod_eq, decide_eq_false_iff_not]
  omega

section
variable {s : State} {d : Reg} {n : BitVec 12}

theorem exec_mfc_low (hn : 2048 ≤ n.toNat) (hp : s.cur.priv = false) : exec (.mfc d n) s = .next (s.trapPriv (.mfc d n)) := by
  simp only [exec, execMfc, getLsbD_supervisor hn, hp, Bool.not_false, Bool.and_self, if_true]

/-- What MFC does with what a read gives. -/
def State.mfcEnd (s : State) (d : Reg) (n : BitVec 12) : Option (Nat × State) → State
  | none => s.trapIll (.mfc d n)
  | some r => r.2.wr d (nw r.1) 4

theorem exec_mfc_user {o : Option (Nat × State)} (hn : n.toNat < 2048) (h : s.mfcUser n.toNat = o) :
    exec (.mfc d n) s = .next (s.mfcEnd d n o) := by
  simp only [exec, execMfc, getLsbD_program hn, Bool.false_and, Bool.false_eq_true, if_false, h]
  cases o <;> rfl

theorem exec_mfc_sup {o : Option (Nat × State)} (hn : 2048 ≤ n.toNat) (hp : s.cur.priv = true) (h : s.mfcSup n.toNat = o) :
    exec (.mfc d n) s = .next (s.mfcEnd d n o) := by
  simp only [exec, execMfc, getLsbD_supervisor hn, hp, Bool.not_true, Bool.and_false, Bool.false_eq_true, if_false, if_true, h]
  cases o <;> rfl

theorem exec_mfc_user_some {v : Nat} {s' : State} (hn : n.toNat < 2048) (h : s.mfcUser n.toNat = some (v, s')) :
    exec (.mfc d n) s = .next (s'.wr d (nw v) 4) := exec_mfc_user hn h

theorem writesX_mfcUser {v : Nat} (hn : n.toNat < 2048) (h : s.mfcUser n.toNat = some (v, s)) : WritesX (.mfc d n) s d (nw v) 4 :=
  writesX_wr (exec_mfc_user_some hn h)

theorem writesX_mfcSup {v : Nat} (hn : 2048 ≤ n.toNat) (hp : s.cur.priv = true) (h : s.mfcSup n.toNat = some (v, s)) :
    WritesX (.mfc d n) s d (nw v) 4 := writesX_wr (exec_mfc_sup hn hp h)

end

/-! ### Ranges of registers -/

theorem State.mfcUser_unassigned (s : State) {n : Nat} (h : (18 ≤ n ∧ n < 256) ∨ 352 ≤ n) : s.mfcUser n = none := by
  fun_cases State.mfcUser s n
  case case19 => rfl
  all_goals omega

theorem State.mfcSup_unassigned (s : State) {n : Nat} (h : n < 2112 ∨ 2211 ≤ n) : s.mfcSup n = none := by
  fun_cases State.mfcSup s n
  case case45 => rfl
  all_goals omega

theorem State.mfcUser_step (s : State) {n : Nat} (h : 8 ≤ n) (h' : n < 12) : s.mfcUser n = some (s.curT.stepCount (n - 8), s) := by
  fun_cases State.mfcUser s n
  case case9 => rfl
  all_goals omega

theorem State.mfcUser_routine (s : State) {n : Nat} (h : 256 ≤ n) (h' : n < 352) :
    s.mfcUser n = if n < 0x120 then some ((s.curT.routine (n - 0x100)).rent.toNat, s)
      else if n < 0x140 then some ((s.curT.routine (n - 0x120)).rarg.toNat, s) else some ((s.curT.routine (n - 0x140)).ctl, s) := by
  fun_cases State.mfcUser s n
  case case16 hn => rw [if_pos hn.2]
  case case17 _ hn => rw [if_neg (by omega), if_pos hn.2]
  case case18 => rw [if_neg (by omega), if_neg (by omega)]
  all_goals omega

/-! ### The words read -/

theorem writesX_mfcUser_word {s : State} {d : Reg} {n : BitVec 12} {v : Word} {k : Nat} (hn : n.toNat < 2048)
    (h : s.mfcUser n.toNat = some (k, s)) (hv : v = nw k) : WritesX (.mfc d n) s d v 4 := hv ▸ writesX_mfcUser hn h

theorem nw_toNat (w : Word) : nw w.toNat = w := BitVec.ofNat_toNat ..

theorem nw_toNat_of_narrow {k : Nat} (b : BitVec k) : nw b.toNat = b.setWidth 64 := by
  apply BitVec.eq_of_toNat_eq
  simp [nw]

theorem Slot.slotWord_eq (sl : Slot) (u : Nat) : sl.slotWord u = u + (match sl.home with | some h => h.2 * 2 ^ 8 | none => 2 ^ 15) := by
  unfold Slot.slotWord
  cases sl.home <;> rfl

theorem b2n_mul (b : Bool) (k : Nat) : b2n b * k = if b then k else 0 := by cases b <;> simp [b2n]

theorem b2n_eq (b : Bool) : b2n b = if b then 1 else 0 := rfl

theorem Routine.ctl_eq (r : Routine) : r.ctl = (if r.rdy then 1 else 0) + (if r.hld then 2 else 0) + (if r.run then 4 else 0) +
    (if r.mrg then 8 else 0) + (if r.vld then 16 else 0) := by
  rw [Routine.ctl, b2n_mul, b2n_mul, b2n_mul, b2n_mul, b2n_eq]

section
variable (s : State) (d : Reg)

theorem answers_mfc_wref : Answers (exec (.mfc d 0x00F#12) s) fun t =>
    (∀ r, t.xr r = if r = d ∧ d ≠ 0 then BitVec.ofNat 64 s.curT.wref else s.xr r) ∧ s.cur.At t.cur (s.cur.pc + 4) true ∧ t.curT.wref = 0 ∧
    { t.curT with slots := s.curT.slots, wref := s.curT.wref } = s.curT ∧ OnlyTile s t s.curTile := by
  have curT : ((s.updTile s.curTile fun x => { x with wref := 0 }).wr d (nw s.curT.wref) 4).curT = _ := s.curT_updTile_updCur _
  obtain ⟨hx, hat, -⟩ := wordWrote_updTile s (f := fun x => { x with wref := 0 }) rfl d (nw s.curT.wref) 4
  refine ⟨_, exec_mfc_user_some (by decide) rfl, hx, hat, ?_, ?_, s.onlyTile_updTile_updCur _⟩
  · rw [curT]
    rfl
  · rw [curT]
    rfl

theorem answers_mfc_rmrg : Answers (exec (.mfc d 0x011#12) s) fun t =>
    (∀ r, t.xr r = if r = d ∧ d ≠ 0 then BitVec.ofNat 64 s.curT.rmrg else s.xr r) ∧ s.cur.At t.cur (s.cur.pc + 4) true ∧ t.curT.rmrg = 0 ∧
    { t.curT with slots := s.curT.slots, rmrg := s.curT.rmrg } = s.curT ∧ OnlyTile s t s.curTile := by
  have curT : ((s.updTile s.curTile fun x => { x with rmrg := 0 }).wr d (nw s.curT.rmrg) 4).curT = _ := s.curT_updTile_updCur _
  obtain ⟨hx, hat, -⟩ := wordWrote_updTile s (f := fun x => { x with rmrg := 0 }) rfl d (nw s.curT.rmrg) 4
  refine ⟨_, exec_mfc_user_some (by decide) rfl, hx, hat, ?_, ?_, s.onlyTile_updTile_updCur _⟩
  · rw [curT]
    rfl
  · rw [curT]
    rfl

theorem answers_mfc_bkcf : Answers (exec (.mfc d 0x010#12) s) fun t => WordWrote s t d (BitVec.ofNat 64 (s.pen (penKey s.curTile)).bkcf) 4 ∧
    (∀ p, t.pen p = if p = penKey s.curTile then { s.pen p with bkcf := 0 } else s.pen p) ∧ { t with tiles := s.tiles, pens := s.pens } = s := by
  refine ⟨_, exec_mfc_user_some (by decide) rfl, wordWrote_wr rfl rfl rfl d _ 4, fun p => ?_, rfl⟩
  refine (tget_tset ..).trans ?_
  split
  · next hp => rw [hp]
  · rfl

end

theorem writesX_mfc_routine {s : State} {d : Reg} {n : BitVec 12} {v : Word} {r : Nat} (hr : r < 32)
    (hv : (n.toNat = 0x100 + r ∧ v = (s.curT.routine r).rent) ∨ (n.toNat = 0x120 + r ∧ v = (s.curT.routine r).rarg) ∨
      (n.toNat = 0x140 + r ∧ v = BitVec.ofNat 64 ((if (s.curT.routine r).rdy then 1 else 0) + (if (s.curT.routine r).hld then 2 else 0) +
        (if (s.curT.routine r).run then 4 else 0) + (if (s.curT.routine r).mrg then 8 else 0) + (if (s.curT.routine r).vld then 16 else 0)))) :
    WritesX (.mfc d n) s d v 4 := by
  rcases hv with ⟨hn, rfl⟩ | ⟨hn, rfl⟩ | ⟨hn, rfl⟩
  · refine writesX_mfcUser_word (by omega) ?_ (nw_toNat _).symm
    rw [s.mfcUser_routine (by omega) (by omega), if_pos (by omega), hn, Nat.add_sub_cancel_left]
  · refine writesX_mfcUser_word (by omega) ?_ (nw_toNat _).symm
    rw [s.mfcUser_routine (by omega) (by omega), if_neg (by omega), if_pos (by omega), hn, Nat.add_sub_cancel_left]
  · rw [← Routine.ctl_eq]
    refine writesX_mfcUser (by omega) ?_
    rw [s.mfcUser_routine (by omega) (by omega), if_neg (by omega), if_neg (by omega), hn, Nat.add_sub_cancel_left]

theorem writesX_mfc_sup {s : State} {d : Reg} {n : BitVec 12} {v : Word} (hp : s.cur.priv = true)
    (hv : (n = 0x861#12 ∧ v = BitVec.ofNat 64 (s.die (tDie s.curTile)).dthr) ∨ (n = 0x870#12 ∧ v = BitVec.ofNat 64 (s.die (tDie s.curTile)).wdog) ∨
      (n = 0x842#12 ∧ v = BitVec.ofNat 64 s.curT.sel.rmsel) ∨ (n = 0x862#12 ∧ v = BitVec.ofNat 64 s.curT.sel.qsel) ∨
      (n = 0x884#12 ∧ v = BitVec.ofNat 64 s.curT.sel.fbsel) ∨ (n = 0x88C#12 ∧ v = BitVec.ofNat 64 s.curT.sel.pksel) ∨
      (n = 0x88A#12 ∧ v = BitVec.ofNat 64 s.fbSvc) ∨ (n = 0x898#12 ∧ v = if (s.part (s.launch s.curT.lid).part).rlpol then 1 else 0) ∨
      ((n = 0x840#12 ∨ n = 0x867#12 ∨ n = 0x889#12 ∨ n = 0x88B#12 ∨ n = 0x895#12) ∧ v = 0)) :
    WritesX (.mfc d n) s d v 4 := by
  rcases hv with ⟨rfl, rfl⟩ | ⟨rfl, rfl⟩ | ⟨rfl, rfl⟩ | ⟨rfl, rfl⟩ | ⟨rfl, rfl⟩ | ⟨rfl, rfl⟩ | ⟨rfl, rfl⟩ | ⟨rfl, rfl⟩ | ⟨hn, rfl⟩
  case inr.inr.inr.inr.inr.inr.inr.inl =>
    have word : (if (s.part (s.launch s.curT.lid).part).rlpol then 1 else 0 : Word) = nw (b2n (s.part (s.launch s.curT.lid).part).rlpol) := by
      cases (s.part (s.launch s.curT.lid).part).rlpol <;> rfl
    rw [word]
    exact writesX_mfcSup (by decide) hp rfl
  case inr.inr.inr.inr.inr.inr.inr.inr =>
    rcases hn with rfl | rfl | rfl | rfl | rfl <;> exact writesX_mfcSup (v := 0) (by decide) hp rfl
  all_goals exact writesX_mfcSup (by decide) hp rfl

/-- Settles O35: the registers read one by one, the ranges of the routine slots and of the unassigned numbers as ranges. -/
theorem controlRegisterReads : Obligations.ControlRegisterReads := by
  intro s d n
  refine ⟨fun hn hp flk => ⟨_, exec_mfc_low hn hp, trapped_trap s _ _ _ flk⟩, fun hn flk => ⟨_, ?_, trapped_trap s _ _ _ flk⟩,
    fun hn hp flk => ⟨_, ?_, trapped_trap s _ _ _ flk⟩, fun v hv => ?_, ?_, ?_, ?_⟩
  · exact exec_mfc_user (by omega) (s.mfcUser_unassigned (by omega))
  · exact exec_mfc_sup (by omega) hp (s.mfcSup_unassigned (by omega))
  · rcases hv with ⟨rfl, rfl⟩ | ⟨rfl, rfl⟩ | ⟨rfl, rfl⟩ | ⟨rfl, rfl⟩ | ⟨rfl, rfl⟩ | ⟨rfl, rfl⟩ | ⟨rfl, rfl⟩ | ⟨rfl, rfl⟩ | ⟨h8, h12, rfl⟩ |
      ⟨rfl, rfl⟩ | ⟨rfl, rfl⟩ | ⟨rfl, rfl⟩ | ⟨r, hr, hr'⟩ | ⟨hp, hv⟩
    · exact writesX_mfcUser_word (by decide) rfl (nw_toNat _).symm
    · exact writesX_mfcUser_word (by decide) rfl (nw_toNat_of_narrow _).symm
    · exact writesX_mfcUser (by decide) rfl
    · exact writesX_mfcUser (by decide) rfl
    · exact writesX_mfcUser_word (by decide) rfl (by rw [Slot.slotWord_eq]; rfl)
    · exact writesX_mfcUser_word (by decide) rfl (by rw [b2n_mul]; rfl)
    · exact writesX_mfcUser (by decide) rfl
    · exact writesX_mfcUser (by decide) rfl
    · exact writesX_mfcUser (by omega) (s.mfcUser_step h8 h12)
    · exact writesX_mfcUser_word (by decide) rfl (nw_toNat_of_narrow _).symm
    · exact writesX_mfcUser_word (by decide) rfl (nw_toNat_of_narrow _).symm
    · exact writesX_mfcUser (by decide) rfl
    · exact writesX_mfc_routine hr hr'
    · exact writesX_mfc_sup hp hv
  · rintro rfl
    exact answers_mfc_wref s d
  · rintro rfl
    exact answers_mfc_rmrg s d
  · rintro rfl
    exact answers_mfc_bkcf s d

end Sys2Proof.Machine
end

section
/-! Control registers written: MTC (O36). -/

open Sys2Proof

namespace Sys2Proof.Machine

section
variable {s : State} {n : BitVec 12} {a : Reg}

/-- What MTC does with the outcome of a write. -/
def State.mtcEnd (s : State) (i : Instr) : MtcOut → State
  | .ill => s.trapIll i
  | .fixed => s.trapPriv i
  | .wait => s.block .poll
  | .ok s' => s'.done 4

theorem exec_mtc_low (hn : 2048 ≤ n.toNat) (hp : s.cur.priv = false) : exec (.mtc n a) s = .next (s.trapPriv (.mtc n a)) := by
  simp only [exec, execMtc, getLsbD_supervisor hn, hp, Bool.not_false, Bool.and_self, if_true]

theorem exec_mtc_user {o : MtcOut} (hn : n.toNat < 2048) (h : s.mtcUser n.toNat (s.xr a) = o) :
    exec (.mtc n a) s = .next (s.mtcEnd (.mtc n a) o) := by
  simp only [exec, execMtc, getLsbD_program hn, Bool.false_and, Bool.false_eq_true, if_false, h]
  cases o <;> rfl

theorem exec_mtc_sup {o : MtcOut} (hn : 2048 ≤ n.toNat) (hp : s.cur.priv = true) (h : s.mtcSup n.toNat (s.xr a) = o) :
    exec (.mtc n a) s = .next (s.mtcEnd (.mtc n a) o) := by
  simp only [exec, execMtc, getLsbD_supervisor hn, hp, Bool.not_true, Bool.and_false, Bool.false_eq_true, if_false, if_true, h]
  cases o <;> rfl

end

theorem exec_mtc_user_ok {s s' : State} {n : BitVec 12} {a : Reg} (hn : n.toNat < 2048) (h : s.mtcUser n.toNat (s.xr a) = .ok s') :
    exec (.mtc n a) s = .next (s'.done 4) := exec_mtc_user hn h

theorem exec_mtc_sup_ok {s s' : State} {n : BitVec 12} {a : Reg} (hn : 2048 ≤ n.toNat) (hp : s.cur.priv = true)
    (h : s.mtcSup n.toNat (s.xr a) = .ok s') : exec (.mtc n a) s = .next (s'.done 4) := exec_mtc_sup hn hp h

/-! ### Ranges of registers -/

theorem State.mtcUser_fixed (s : State) {n : Nat} (v : Word)
    (h : (1 ≤ n ∧ n ≤ 6) ∨ (8 ≤ n ∧ n ≤ 12) ∨ (14 ≤ n ∧ n ≤ 17) ∨ (256 ≤ n ∧ n < 320)) : s.mtcUser n v = .fixed := by
  fun_cases State.mtcUser s n v
  case case5 => rfl
  all_goals omega

theorem State.mtcUser_unassigned (s : State) {n : Nat} (v : Word) (h : (18 ≤ n ∧ n < 256) ∨ 352 ≤ n) : s.mtcUser n v = .ill := by
  fun_cases State.mtcUser s n v
  case case6 => rfl
  all_goals omega

theorem State.mtcUser_rctl (s : State) {r : Nat} (hr : r < 32) (v : Word) : s.mtcUser (0x140 + r) v =
    .ok (if v.getLsbD 3 then s.updTile s.curTile fun x => { x with routines := tset x.routines r { x.routine r with mrg := false } } else s) := by
  simp only [State.mtcUser]
  rw [if_neg (by omega), if_neg (by omega), if_neg (by omega), if_pos (by omega), Nat.add_sub_cancel_left]

theorem State.mtcSup_unassigned (s : State) {n : Nat} (v : Word) (h : n < 2112 ∨ 2211 ≤ n) : s.mtcSup n v = .ill := by
  fun_cases State.mtcSup s n v
  case case47 => rfl
  all_goals omega

theorem State.mtcSup_fixed (s : State) {n : BitVec 12} (v : Word)
    (h : n = 0x841#12 ∨ n = 0x843#12 ∨ n = 0x844#12 ∨ n = 0x850#12 ∨ n = 0x860#12 ∨ n = 0x866#12 ∨ n = 0x868#12 ∨ n = 0x871#12 ∨
      n = 0x883#12 ∨ (0x885 ≤ n.toNat ∧ n.toNat ≤ 0x888) ∨ n = 0x88E#12 ∨ n = 0x897#12 ∨ n = 0x899#12) : s.mtcSup n.toNat v = .fixed := by
  rcases h with rfl | rfl | rfl | rfl | rfl | rfl | rfl | rfl | rfl | hn | rfl | rfl | rfl
  case inr.inr.inr.inr.inr.inr.inr.inr.inr.inl =>
    obtain hn | hn | hn | hn : n.toNat = 0x885 ∨ n.toNat = 0x886 ∨ n.toNat = 0x887 ∨ n.toNat = 0x888 := by omega
    all_goals rw [hn]; rfl
  all_goals rfl

/-! ### c:STATUS and c:TMR -/

/-- A word that changes its own slot but not x, pc and the loops, and is done. -/
theorem done_updCur (s : State) {f : Slot → Slot} (hx : (f s.cur).x = s.cur.x) (hpc : (f s.cur).pc = s.cur.pc)
    (hl : (f s.cur).loops = s.cur.loops) (len : Nat) :
    ((s.updCur f).done len).cur = (f s.cur).complete (s.cur.pc + BitVec.ofNat 64 len) true ∧ (∀ r, ((s.updCur f).done len).xr r = s.xr r) ∧
      s.cur.At ((s.updCur f).done len).cur (s.cur.pc + BitVec.ofNat 64 len) true ∧ SameElsewhere s ((s.updCur f).done len) := by
  have cur : ((s.updCur f).done len).cur = (f s.cur).complete (s.cur.pc + BitVec.ofNat 64 len) true := by
    rw [State.done, State.cur_updCur, State.cur_updCur, hpc]
  refine ⟨cur, fun r => ?_, ?_, ?_⟩
  · rw [State.xr, cur, Slot.complete_xr, Slot.xr, hx]
    rfl
  · rw [cur]
    simpa [Slot.At, hl] using Slot.at_complete (f s.cur) (s.cur.pc + BitVec.ofNat 64 len) true
  · have once : (s.updCur f).done len = s.updCur fun sl => (f sl).complete ((f sl).pc + BitVec.ofNat 64 len) true :=
      s.updSlot_updSlot s.curTile s.curSlot f fun sl => sl.complete (sl.pc + BitVec.ofNat 64 len) true
    rw [once]
    exact State.sameElsewhere_updCur ..

theorem getLsbD_putField {w : Word} {lo n v j : Nat} (hj : j < 64) :
    (putField w lo n v).getLsbD j = if lo ≤ j ∧ j < lo + n then v.testBit (j - lo) else w.getLsbD j := by
  simp only [putField, BitVec.getLsbD_or, BitVec.getLsbD_and, BitVec.getLsbD_not, BitVec.getLsbD_ofNat, Nat.testBit_mul_two_pow,
    Nat.testBit_two_pow_sub_one, Nat.testBit_mod_two_pow, hj, decide_true, Bool.true_and]
  by_cases hlo : lo ≤ j
  · by_cases hn : j < lo + n
    · have inside : j - lo < n := by omega
      simp [hlo, hn, inside]
    · have outside : ¬ j - lo < n := by omega
      simp [hlo, hn, outside]
  · simp [hlo]

theorem testBit_wf (v : Word) (lo n j : Nat) : (wf v lo n).testBit j = (decide (j < n) && v.getLsbD (lo + j)) := by
  rw [wf, nf, Nat.testBit_mod_two_pow, Nat.testBit_div_two_pow, BitVec.getLsbD, Nat.add_comm]

/-- R243: bits 11..0 take the written ones, a 1 clears bit 13, and every other bit stays. -/
theorem Slot.statusWrite_getLsbD (sl : Slot) (v : Word) {j : Nat} (hj : j < 64) : (sl.statusWrite v).status.getLsbD j =
    if j < 12 then v.getLsbD j else if j = 13 then sl.status.getLsbD j && !v.getLsbD j else sl.status.getLsbD j := by
  have low : (putField sl.status 0 12 (wf v 0 12)).getLsbD j = if j < 12 then v.getLsbD j else sl.status.getLsbD j := by
    rw [getLsbD_putField hj, testBit_wf]
    by_cases h12 : j < 12 <;> simp [h12]
  simp only [Slot.statusWrite]
  split
  · next h13 =>
    rw [getLsbD_putField hj, low]
    by_cases he : j = 13
    · subst he
      simp [h13]
    · rw [if_neg (by omega), if_neg he]
  · next h13 =>
    rw [low]
    by_cases he : j = 13
    · subst he
      rw [Bool.not_eq_true] at h13
      rw [if_neg (by omega), if_neg (by omega), if_pos rfl, h13, Bool.not_false, Bool.and_true]
    · rw [if_neg he]

section
variable {s : State} {n : BitVec 12} {a : Reg}

theorem answers_mtc_status : Answers (exec (.mtc 0x000#12 a) s) fun t =>
    (∀ j < 64, t.cur.status.getLsbD j = if j < 12 then (s.xr a).getLsbD j else if j = 13 then s.cur.status.getLsbD j && !(s.xr a).getLsbD j
      else s.cur.status.getLsbD j) ∧
    (∀ r, t.xr r = s.xr r) ∧ s.cur.At t.cur (s.cur.pc + 4) true ∧ s.cur.SameButX { t.cur with status := s.cur.status } ∧ SameElsewhere s t := by
  obtain ⟨cur, hx, hat, hsame⟩ := done_updCur s (f := fun sl => sl.statusWrite (s.xr a)) rfl rfl rfl 4
  refine ⟨_, exec_mtc_user_ok (by decide) rfl, fun j hj => ?_, hx, hat, ?_, hsame⟩
  · rw [cur]
    exact Slot.statusWrite_getLsbD s.cur (s.xr a) hj
  · rw [cur]
    rfl

theorem answers_mtc_tmr : Answers (exec (.mtc 0x007#12 a) s) fun t =>
    t.cur.tmrEnd = (if s.xr a = 0 then 0 else s.now + (s.xr a).toNat) ∧ (∀ r, t.xr r = s.xr r) ∧ s.cur.At t.cur (s.cur.pc + 4) true ∧
    s.cur.SameButX { t.cur with tmrEnd := s.cur.tmrEnd } ∧ SameElsewhere s t := by
  obtain ⟨cur, hx, hat, hsame⟩ := done_updCur s (f := fun sl => sl.tmrWrite s.now (s.xr a).toNat) rfl rfl rfl 4
  refine ⟨_, exec_mtc_user_ok (by decide) rfl, ?_, hx, hat, ?_, hsame⟩
  · rw [cur]
    show (if (s.xr a).toNat = 0 then 0 else s.now + (s.xr a).toNat) = _
    by_cases h0 : s.xr a = 0
    · rw [h0]
      rfl
    · rw [if_neg h0, if_neg fun hz : (s.xr a).toNat = 0 => h0 (BitVec.eq_of_toNat_eq hz)]
  · rw [cur]
    rfl

theorem answers_mtc_chain : Answers (exec (.mtc 0x00D#12 a) s) fun t => t.curT.chain = (s.xr a).setWidth 4 ∧ WordDone s t 4 ∧
    s.cur.SameButX t.cur ∧ { t.curT with slots := s.curT.slots, chain := s.curT.chain } = s.curT ∧ OnlyTile s t s.curTile := by
  obtain ⟨hdone, hsame⟩ := wordDone_updTile s (f := fun x => { x with chain := BitVec.ofNat 4 (wf (s.xr a) 0 4) }) rfl 4
  have curT : ((s.updTile s.curTile fun x => { x with chain := BitVec.ofNat 4 (wf (s.xr a) 0 4) }).done 4).curT = _ := s.curT_updTile_updCur _
  refine ⟨_, exec_mtc_user_ok (by decide) rfl, ?_, hdone, hsame, ?_, s.onlyTile_updTile_updCur _⟩
  · rw [curT]
    apply BitVec.eq_of_toNat_eq
    simp [wf, nf, Tile.updSlot]
  · rw [curT]
    rfl

/-- MRG of a routine slot of the tile is cleared where a bit says so. -/
def Tile.clearMrg (r : Nat) (c : Bool) (t : Tile) : Tile :=
  if c then { t with routines := tset t.routines r { t.routine r with mrg := false } } else t

theorem Tile.clearMrg_slots (r : Nat) (c : Bool) (t : Tile) : (t.clearMrg r c).slots = t.slots := by cases c <;> rfl

theorem Tile.clearMrg_rest (r : Nat) (c : Bool) (t : Tile) : { t.clearMrg r c with slots := t.slots, routines := t.routines } = t := by
  cases c <;> rfl

theorem Tile.routine_clearMrg (r : Nat) (c : Bool) (t : Tile) (k : Nat) :
    (t.clearMrg r c).routine k = if k = r ∧ c = true then { t.routine k with mrg := false } else t.routine k := by
  cases c with
  | false => simp [Tile.clearMrg]
  | true =>
    refine (tget_tset ..).trans ?_
    by_cases hk : k = r <;> simp [hk, Tile.routine]

theorem answers_mtc_rctl {r : Nat} (hr : r < 32) (hn : n.toNat = 0x140 + r) : Answers (exec (.mtc n a) s) fun t =>
    (∀ k, t.curT.routine k = if k = r ∧ (s.xr a).getLsbD 3 = true then { s.curT.routine k with mrg := false } else s.curT.routine k) ∧
    WordDone s t 4 ∧ s.cur.SameButX t.cur ∧ { t.curT with slots := s.curT.slots, routines := s.curT.routines } = s.curT ∧
    OnlyTile s t s.curTile := by
  have write := s.mtcUser_rctl hr (s.xr a)
  rw [← hn] at write
  cases h3 : (s.xr a).getLsbD 3 with
  | true =>
    rw [h3, if_pos rfl] at write
    obtain ⟨hdone, hsame⟩ := wordDone_updTile s (Tile.clearMrg_slots r true s.curT) 4
    have curT : ((s.updTile s.curTile (Tile.clearMrg r true)).done 4).curT = _ := s.curT_updTile_updCur _
    refine ⟨_, exec_mtc_user_ok (by omega) write, fun k => ?_, hdone, hsame, ?_, s.onlyTile_updTile_updCur _⟩
    · exact (congrArg (fun tl : Tile => tl.routine k) curT).trans (Tile.routine_clearMrg r true s.curT k)
    · exact (congrArg (fun tl : Tile => { tl with slots := s.curT.slots, routines := s.curT.routines }) curT).trans
        (Tile.clearMrg_rest r true s.curT)
  | false =>
    rw [h3, if_neg Bool.false_ne_true] at write
    obtain ⟨hdone, hsame, -⟩ := wordDone_done (s := s) (u := s) rfl rfl rfl 4
    have curT : (s.done 4).curT = s.curT.updSlot s.curSlot fun sl => sl.complete (sl.pc + BitVec.ofNat 64 4) true := State.curT_updTile ..
    refine ⟨_, exec_mtc_user_ok (by omega) write, fun k => ?_, hdone, hsame, ?_, State.onlyTile_updTile ..⟩
    · rw [curT, if_neg fun hk => Bool.false_ne_true hk.2]
      rfl
    · rw [curT]
      rfl

theorem answers_mtc_die {f : Die → Die} (hn : 2048 ≤ n.toNat) (hp : s.cur.priv = true)
    (h : s.mtcSup n.toNat (s.xr a) = .ok (s.updDie (tDie s.curTile) f)) : Answers (exec (.mtc n a) s) fun t =>
      WordDone s t 4 ∧ s.cur.SameButX t.cur ∧ (∀ k, t.die k = if k = tDie s.curTile then f (s.die (tDie s.curTile)) else s.die k) ∧
      { t with tiles := s.tiles, dies := s.dies } = s ∧ ∀ k, (s.tile k).Same (t.tile k) := by
  obtain ⟨hdone, hsame, htiles⟩ := wordDone_done (s := s) (u := s.updDie (tDie s.curTile) f) rfl rfl rfl 4
  exact ⟨_, exec_mtc_sup_ok hn hp h, hdone, hsame, fun k => tget_tset .., rfl, htiles⟩

end

/-- Settles O36: the numbers that no write changes or that are unassigned as ranges, the writable registers one by one. -/
theorem controlRegisterWrites : Obligations.ControlRegisterWrites := by
  intro s n a
  refine ⟨fun hn hp flk => ⟨_, exec_mtc_low hn hp, trapped_trap s _ _ _ flk⟩, fun hn flk => ?_, fun hp hn flk => ?_, fun hn flk => ?_, ?_, ?_, ?_,
    fun r hr hn => answers_mtc_rctl hr hn, ?_, ?_, fun hp hn => ?_⟩
  · exact ⟨_, exec_mtc_user (by omega) (s.mtcUser_fixed _ hn), trapped_trap s _ _ _ flk⟩
  · have supervisor : 2048 ≤ n.toNat := by
      rcases hn with rfl | rfl | rfl | rfl | rfl | rfl | rfl | rfl | rfl | hn | rfl | rfl | rfl
      case inr.inr.inr.inr.inr.inr.inr.inr.inr.inl => omega
      all_goals decide
    exact ⟨_, exec_mtc_sup supervisor hp (s.mtcSup_fixed _ hn), trapped_trap s _ _ _ flk⟩
  · rcases hn with hn | hn | ⟨hp, hn⟩
    · exact ⟨_, exec_mtc_user (by omega) (s.mtcUser_unassigned _ (.inl hn)), trapped_trap s _ _ _ flk⟩
    · exact ⟨_, exec_mtc_user hn.2 (s.mtcUser_unassigned _ (.inr hn.1)), trapped_trap s _ _ _ flk⟩
    · exact ⟨_, exec_mtc_sup (by omega) hp (s.mtcSup_unassigned _ (by omega)), trapped_trap s _ _ _ flk⟩
  · rintro rfl
    exact answers_mtc_status
  · rintro rfl
    exact answers_mtc_tmr
  · rintro rfl
    exact answers_mtc_chain
  · rintro hp rfl
    have low : nf (s.xr a).toNat 0 7 = (s.xr a).toNat % 128 := by simp [nf]
    rw [← low]
    exact answers_mtc_die (n := 0x861#12) (by decide) hp rfl
  · rintro hp rfl
    have low : nf (s.xr a).toNat 0 32 = (s.xr a).toNat % 2 ^ 32 := by simp [nf]
    rw [← low]
    exact answers_mtc_die (n := 0x870#12) (by decide) hp rfl
  · rcases hn with ⟨rfl, busy⟩ | ⟨rfl, active⟩
    · exact waits_block (exec_mtc_sup (o := .wait) (by decide) hp (if_pos busy))
    · exact waits_block (exec_mtc_sup (o := .wait) (by decide) hp (if_pos active))

end Sys2Proof.Machine
end

section
/-! Launch words: LNCH, LSTAT, GRPQ and GRPSET (O34). -/

open Sys2Proof

namespace Sys2Proof.Machine

/-! ### LNCH -/

theorem State.paired1_of_not_paired {s : State} (h : s.paired s.curTile = false) (l : List Nat) (d : Reg) (act : State → Nat × State) :
    s.paired1 l d act = (act s).2.wr d (nw (act s).1) 4 := by
  simp [State.paired1, h]

theorem argTraps_lnch (s : State) (d a : Reg) : ArgTraps (.lnch d a) s (s.xr a) 64 64 :=
  argTraps_localArg fun c hc => by simp only [exec, execLnch, hc]

theorem waits_lnch {s : State} {d a : Reg} {off : Nat} (harg : s.localArg (s.xr a) 64 64 = .ok off)
    (hd : s.drained s.curTile s.curSlot = false) : Waits (.lnch d a) s :=
  waits_block (w := .poll) (by simp [exec, execLnch, harg, hd])

section
variable {s : State} {pkt : BitVec 512}

/-- The pushed child: the state, and the identifier it is given. -/
def State.pushChild (s : State) (pkt : BitVec 512) : State :=
  { (s.updLaunch s.freshLid fun _ => s.childLaunch s.curTile pkt).updDie (tDie s.curTile) fun x => { x with pool := x.pool ++ [s.freshLid] } with
    nextLid := if s.freshLid ≥ 0xFFFE then 1 else s.freshLid + 1 }

/-- A child's packet is one that can be launched. -/
def State.childOk (s : State) (pkt : BitVec 512) : Bool :=
  let c := s.childLaunch s.curTile pkt
  c.packetValid c.twin && c.childValid

theorem State.launchChild_invalid (h : s.childOk pkt = false) : s.launchChild s.curTile pkt = (3 * 2 ^ 16, s) :=
  if_pos (Bool.not_eq_true' _ ▸ h)

theorem State.launchChild_deep (h : s.childOk pkt = true) (hd : 8 ≤ (s.launch s.curT.lid).depth) :
    s.launchChild s.curTile pkt = (2 * 2 ^ 16, s) := by
  have deep : 8 < (s.childLaunch s.curTile pkt).depth := Nat.lt_succ_of_le hd
  refine (if_neg ?_).trans (if_pos deep)
  rw [Bool.not_eq_true', Bool.not_eq_false]
  exact h

theorem State.launchChild_full (h : s.childOk pkt = true) (hd : (s.launch s.curT.lid).depth < 8)
    (hf : 4096 ≤ (s.die (tDie s.curTile)).pool.length ∨ s.draining (tDie s.curTile) = true) :
    s.launchChild s.curTile pkt = (2 ^ 16, s) := by
  have shallow : ¬ 8 < (s.childLaunch s.curTile pkt).depth := Nat.not_lt.2 hd
  refine (if_neg ?_).trans ((if_neg shallow).trans (if_pos hf))
  rw [Bool.not_eq_true', Bool.not_eq_false]
  exact h

theorem State.launchChild_push (h : s.childOk pkt = true) (hd : (s.launch s.curT.lid).depth < 8)
    (hp : (s.die (tDie s.curTile)).pool.length < 4096) (hr : s.draining (tDie s.curTile) = false) :
    s.launchChild s.curTile pkt = (s.freshLid, s.pushChild pkt) := by
  have shallow : ¬ 8 < (s.childLaunch s.curTile pkt).depth := Nat.not_lt.2 hd
  have room : ¬ (4096 ≤ s.poolCount (tDie s.curTile) ∨ s.draining (tDie s.curTile) = true) := by
    rw [hr]
    exact fun hf => hf.elim (Nat.not_le.2 hp) Bool.false_ne_true
  refine (if_neg ?_).trans ((if_neg shallow).trans (if_neg room))
  rw [Bool.not_eq_true', Bool.not_eq_false]
  exact h

end

section
variable {s : State} {d a : Reg} {off : Nat} (hpair : s.paired s.curTile = false) (harg : s.localArg (s.xr a) 64 64 = .ok off)
  (hd : s.drained s.curTile s.curSlot = true) (hbad : s.badGranule s.curTile off 64 = none)
include hpair harg hd hbad

/-- LNCH once its record is good and its thread's work has drained. -/
theorem exec_lnch {v : Nat} {s' : State}
    (h : s.launchChild s.curTile (BitVec.ofNat 512 (readMem s.mem (s.sliceKey s.curTile off) 64)) = (v, s')) :
    exec (.lnch d a) s = .next (s'.wr d (nw v) 4) := by
  simp only [exec, execLnch, harg, hd, hbad, Bool.not_true, Bool.false_eq_true, if_false]
  rw [State.paired1_of_not_paired hpair]
  show Host.Outcome.next ((s.launchChild s.curTile (BitVec.ofNat 512 (readMem s.mem (s.sliceKey s.curTile off) 64))).2.wr d
    (nw (s.launchChild s.curTile (BitVec.ofNat 512 (readMem s.mem (s.sliceKey s.curTile off) 64))).1) 4) = _
  rw [h]

theorem answers_lnch_push {pkt : BitVec 512} (hpkt : pkt = BitVec.ofNat 512 (readMem s.mem (s.sliceKey s.curTile off) 64))
    (h : s.launchChild s.curTile pkt = (s.freshLid, s.pushChild pkt)) :
    Answers (exec (.lnch d a) s) fun t => ∃ id, WordWrote s t d (BitVec.ofNat 64 id) 4 ∧
      (∀ k, t.launch k = if k = id then s.childLaunch s.curTile pkt else s.launch k) ∧
      (s.childLaunch s.curTile pkt).depth = (s.launch s.curT.lid).depth + 1 ∧
      (s.childLaunch s.curTile pkt).prio = min (s.childLaunch s.curTile pkt).packPrio (s.launch s.curT.lid).prio ∧
      (s.childLaunch s.curTile pkt).st = .pending ∧
      (t.die (tDie s.curTile)).pool = (s.die (tDie s.curTile)).pool ++ [id] ∧ (∀ k, k ≠ tDie s.curTile → t.die k = s.die k) ∧
      { t with tiles := s.tiles, launches := s.launches, dies := s.dies, nextLid := s.nextLid } = s := by
  subst hpkt
  refine ⟨_, exec_lnch hpair harg hd hbad h, s.freshLid, wordWrote_wr rfl rfl rfl d _ 4, fun k => ?_, rfl, rfl, rfl, ?_, fun k hk => ?_, ?_⟩
  · exact tget_tset Launch.fresh s.launches s.freshLid k _
  · exact congrArg Die.pool (tget_tset_same ..)
  · exact tget_tset_ne _ _ _ hk
  · rfl

end

/-! ### LSTAT, GRPQ and GRPSET -/

theorem writesX_lstat (s : State) (d a : Reg) : ∃ st dep,
    WritesX (.lstat d a) s d (BitVec.ofNat 64 (st + dep * 2 ^ 8 + (s.die (tDie s.curTile)).pool.length * 2 ^ 16)) 4 ∧ st ≤ 3 ∧
      ((s.xr a).toNat % 65536 = 0xFFFF → st = 2 ∧ dep = (s.launch s.curT.lid).depth) := by
  have own : wf (s.xr a) 0 16 = (s.xr a).toNat % 65536 := by simp [wf, nf]
  refine ⟨_, _, writesX_wr rfl, ?_, fun h => ?_⟩
  · (repeat' split) <;> omega
  · rw [own]
    exact ⟨if_pos h, if_pos h⟩

theorem asks_group {s : State} {i : Instr} {set_ : Bool} {d : Reg} {x y : Word} (hpair : s.paired s.curTile = false)
    (h : exec i s = .next (s.grpSend set_ d x y)) :
    AsksWith (.table s.next) i s (.grp ⟨s.next, set_, s.curTile, s.curSlot, d, x, y, 0, false, none⟩) := by
  refine asksWith_send_block (n := 4) (h.trans ?_)
  have room : s.twinFull s.curTile = false := by simp [State.twinFull, hpair]
  simp only [State.grpSend, State.sendOut, hpair, room, Bool.false_eq_true, if_false]
  rfl

/-- Settles O34: LNCH by the outcomes of the push, in the order in which it checks them. -/
theorem launchWords : Obligations.LaunchWords := by
  intro s d a b hpair
  refine ⟨argTraps_lnch s d a, fun off hat al => ⟨waits_lnch (State.localArg_ok hat al), fun hd husable hpoison => ?_⟩, writesX_lstat s d a,
    asks_group hpair rfl, asks_group hpair rfl⟩
  have harg := State.localArg_ok hat al
  have hbad := State.badGranule_none husable hpoison
  refine ⟨fun hok => ?_, fun hok hdeep => ?_, fun hok hlow hfull => ?_, fun hok hlow hroom hrun => ?_⟩
  · exact writesX_wr (exec_lnch hpair harg hd hbad (State.launchChild_invalid hok))
  · exact writesX_wr (exec_lnch hpair harg hd hbad (State.launchChild_deep hok hdeep))
  · exact writesX_wr (exec_lnch hpair harg hd hbad (State.launchChild_full hok hlow hfull))
  · exact answers_lnch_push hpair harg hd hbad rfl (State.launchChild_push hok hlow hroom hrun)

end Sys2Proof.Machine
end

section
/-! Fetch and step: a LOCAL word that its line holds is the word a thread runs (O57). -/

open Sys2Proof

namespace Sys2Proof.Machine

/-! ### LOCAL addresses -/

/-- A LOCAL address is a number below 64 KiB, its own offset. -/
theorem decodeWin_eq_loc {a : Word} {off : Nat} : decodeWin a = some (.loc off) ↔ a.toNat = off ∧ off < 65536 := by
  have lt := a.isLt
  constructor
  · intro h
    unfold decodeWin at h
    split at h
    case h_1 hwin =>
      split at h
      · next hmid =>
        simp only [wf, nf] at hwin hmid
        have eq : wf a 0 16 = off := by simpa using h
        simp only [wf, nf] at eq
        omega
      · cases h
    case h_9 => cases h
    case h_8 => cases h
    all_goals
      split at h
      · cases h
      · cases h
  · rintro ⟨rfl, hoff⟩
    have hwin : wf a 56 8 = 0 := by simp only [wf, nf]; omega
    have hmid : wf a 16 40 = 0 := by simp only [wf, nf]; omega
    have low : wf a 0 16 = a.toNat := by simp only [wf, nf]; omega
    simp only [decodeWin, hwin, hmid, low, if_true]

theorem State.sliceKey_add (s : State) (t a b : Nat) : s.sliceKey t (a + b) = s.sliceKey t a + b := by
  simp only [State.sliceKey, lirekKey]
  omega

/-! ### The line and the word at a LOCAL pc -/

theorem drop_take_two {α : Type} (f : Nat → α) {o : Nat} (h : o + 2 ≤ 64) : (((List.range 64).map f).drop o).take 2 = [f o, f (o + 1)] := by
  refine List.ext_getElem (by simp; omega) fun n h1 h2 => ?_
  obtain rfl | rfl : n = 0 ∨ n = 1 := by
    have : n < 2 := h2
    omega
  · simp
  · simp

@[simp] theorem State.readLine_base (s : State) (k : Nat) (b : Word) : (s.readLine k b).base = b := by
  unfold State.readLine
  (repeat' split) <;> rfl

/-- The bytes of a LOCAL line, in their places. -/
theorem State.readLine_bytes (s : State) (k : Nat) {a : Word} {off : Nat} (h : decodeWin a = some (.loc off)) :
    (s.readLine k (lineBase a)).bytes = (List.range 64).map fun i => readByte s.mem (s.sliceKey k (off / 64 * 64) + i) := by
  obtain ⟨ha, hoff⟩ := decodeWin_eq_loc.1 h
  have base : decodeWin (lineBase a) = some (.loc (off / 64 * 64)) := by
    rw [decodeWin_eq_loc, lineBase, ha, nw, BitVec.toNat_ofNat]
    omega
  simp only [State.readLine, base, Option.bind_some, State.place, State.placeKey]

/-- A halfword of a line without poison, read at its LOCAL address. -/
theorem State.readLine_half {s : State} {k : Nat} {a b : Word} {off o : Nat} (ha : decodeWin a = some (.loc off)) (hb : b.toNat = off / 64 * 64 + o)
    (ho : o + 2 ≤ 64) (hp : (s.readLine k (lineBase a)).poison = []) :
    (s.readLine k (lineBase a)).half b =
      .ok [readByte s.mem (s.sliceKey k (off / 64 * 64 + o)), readByte s.mem (s.sliceKey k (off / 64 * 64 + o) + 1)] := by
  have place : b.toNat % 64 = o := by omega
  simp only [FetchLine.half, hp, place, s.readLine_bytes k ha, drop_take_two _ ho, State.sliceKey_add, Nat.add_assoc]
  rfl

/-! ### Decoding what was fetched -/

/-- A word whose first bit is clear decodes from its first halfword. -/
theorem decode_half {b0 b1 b2 b3 : Byte} {i : Instr} {rest : List Byte} (h : decode [b0, b1, b2, b3] = .ok (i, rest))
    (even : b0.getLsbD 0 = false) : decode [b0, b1] = .ok (i, []) := by
  have mod : b0.toNat % 2 = 0 := by
    rw [BitVec.getLsbD, Nat.testBit_zero, decide_eq_false_iff_not] at even
    omega
  simp only [decode, mod, if_true] at h ⊢
  cases hd : decode16 (b0.toNat + 256 * b1.toNat) with
  | error e => rw [hd] at h; cases h
  | ok j => rw [hd] at h; cases h; rfl

theorem decode_word {b0 b1 b2 b3 : Byte} {i : Instr} {rest : List Byte} (h : decode [b0, b1, b2, b3] = .ok (i, rest)) :
    ∃ r, decode (if b0.getLsbD 0 then [b0, b1] ++ [b2, b3] else [b0, b1]) = .ok (i, r) := by
  cases even : b0.getLsbD 0 with
  | true => exact ⟨rest, h⟩
  | false => exact ⟨[], decode_half h even⟩

section
variable {s : State} {k u off : Nat} (hline : (s.slot k u).line = none) (hpc : decodeWin (s.slot k u).pc = some (.loc off)) (heven : off % 2 = 0)
  (hin : off % 64 ≤ 60) (hres : off + 4 ≤ (s.launch (s.tile k).lid).slice) (hp : (s.readLine k (lineBase (s.slot k u).pc)).poison = [])
include hline hpc heven hin hres hp

/-- The fetch at a LOCAL pc inside the reservation and inside one good line gives that line and the word's bytes. -/
theorem State.fetch_local : s.fetch k u = .got (s.readLine k (lineBase (s.slot k u).pc))
    (if (readByte s.mem (s.sliceKey k off)).getLsbD 0 then
        [readByte s.mem (s.sliceKey k off), readByte s.mem (s.sliceKey k off + 1)] ++
          [readByte s.mem (s.sliceKey k off + 2), readByte s.mem (s.sliceKey k off + 3)]
      else [readByte s.mem (s.sliceKey k off), readByte s.mem (s.sliceKey k off + 1)]) := by
  obtain ⟨ha, hoff⟩ := decodeWin_eq_loc.1 hpc
  have aligned : (s.slot k u).pc.getLsbD 0 = false := by
    rw [BitVec.getLsbD, Nat.testBit_zero, decide_eq_false_iff_not]
    omega
  have next : ((s.slot k u).pc + 2).toNat = off + 2 := by
    rw [BitVec.toNat_add, ha]
    show (off + 2) % 2 ^ 64 = off + 2
    omega
  have hnext : decodeWin ((s.slot k u).pc + 2) = some (.loc (off + 2)) := decodeWin_eq_loc.2 ⟨next, by omega⟩
  have sameLine : lineBase ((s.slot k u).pc + 2) = lineBase (s.slot k u).pc := by
    rw [lineBase, lineBase, next, ha]
    exact congrArg (fun n => nw (n * 64)) (by omega)
  have fetchable : s.fetchable k (s.slot k u).pc = some 0 := by
    simp only [State.fetchable, hpc]
    exact if_pos (by omega)
  have fetchableNext : s.fetchable k ((s.slot k u).pc + 2) = some 0 := by
    simp only [State.fetchable, hnext]
    exact if_pos (by omega)
  have line : s.newLine k (s.slot k u).pc 0 = .got (s.readLine k (lineBase (s.slot k u).pc)) [] := by
    simp only [State.newLine, hpc, Option.bind_some, State.walkTo, State.lineHere, State.place, State.regionNx]
    rfl
  have split : off / 64 * 64 + off % 64 = off := by omega
  have first := State.readLine_half (b := (s.slot k u).pc) (o := off % 64) hpc (by omega) (by omega) hp
  have second := State.readLine_half (b := (s.slot k u).pc + 2) (o := off % 64 + 2) hpc (by rw [next]; omega) (by omega) hp
  rw [split] at first
  rw [← Nat.add_assoc, split, State.sliceKey_add] at second
  simp only [State.fetch, aligned, Bool.false_eq_true, if_false, fetchable, hline, line, State.wordFrom, first, fetchableNext, sameLine,
    State.readLine_base, if_true, second, ne_eq, not_true_eq_false, List.getElem?_cons_zero, Option.getD_some]
  split <;> rfl

/-- A word that may run at the thread's level and decodes is the one the thread runs. -/
theorem State.fetchDecode_local {i : Instr} {rest : List Byte}
    (hdec : decode [readByte s.mem (s.sliceKey k off), readByte s.mem (s.sliceKey k off + 1), readByte s.mem (s.sliceKey k off + 2),
      readByte s.mem (s.sliceKey k off + 3)] = .ok (i, rest)) (hpriv : privileged i = true → (s.slot k u).priv = true) :
    s.fetchDecode k u = .run (s.readLine k (lineBase (s.slot k u).pc)) i := by
  obtain ⟨r, hr⟩ := decode_word hdec
  have allowed : (privileged i && !(s.slot k u).priv) = false := by
    cases hi : privileged i with
    | false => rfl
    | true => simp [hpriv hi]
  simp only [State.fetchDecode, State.fetch_local hline hpc heven hin hres hp, hr, allowed, Bool.false_eq_true, if_false]

end

/-- What a thread of no flock runs at a boundary with nothing due: the word at its pc. -/
theorem State.actOf_run {s : State} {k u : Nat} {l : FetchLine} {i : Instr} (hr : (s.slot k u).refusals = []) (he : (s.slot k u).engErrs = [])
    (hx : (s.slot k u).fpx = none) (hf : (s.slot k u).fwd = none) (hk : (s.slot k u).flk = 0) (hd : s.fetchDecode k u = .run l i) :
    s.actOf k u true = some { tile := k, slot := u, instr := i, line := some l, pend := none, issues := true } := by
  simp [State.actOf, hr, he, hx, hf, hk, hd]

theorem step_of_thread {s : State} {a : Act} (hin : s.inputDue = none) (hhw : s.hwNext = none) (ht : s.threadNext = some a) :
    step s = finishWord a (exec a.instr (s.prepare a)) := by
  simp only [step, hin, hhw, ht]

/-- Settles O57: the thread's next act is the word that its line holds at its pc. -/
theorem stepRunsTheDecodedWord : Obligations.StepRunsTheDecodedWord := by
  intro s k u off i rest sl at_ line a hin hhw hnext hr he hx hf hk hline hpc heven hoff hres hp hdec hpriv
  simp only [at_, Nat.add_zero] at hdec
  have run := State.fetchDecode_local hline hpc heven hoff hres hp hdec hpriv
  exact step_of_thread hin hhw (hnext.trans (State.actOf_run hr he hx hf hk run))

end Sys2Proof.Machine
end

section
/-! Walks: departure, arrival, refusal, resume move and reissue (O38). -/

open Sys2Proof

namespace Sys2Proof.Machine

/-! ### The dwords of a walk message in the park area -/

/-- A part of what was written reads back as that part. -/
theorem readMem_writeMem_part (m : List Host.Cell) (k n v j l : Nat) (h : j + l ≤ n) :
    readMem (writeMem m k n v) (k + j) l = v / 256 ^ j % 256 ^ l := by
  rw [← readMem_writeMem m (k + j) l (v / 256 ^ j)]
  refine readMem_congr fun b hb hb' => ?_
  obtain ⟨i, rfl⟩ : ∃ i, b = k + j + i := ⟨b - (k + j), by omega⟩
  rw [readByte_writeMem_in _ _ _ _ i (by omega), Nat.add_assoc, readByte_writeMem_in _ _ _ _ (j + i) (by omega), Nat.div_div_eq_div_mul,
    ← Nat.pow_add]

theorem joinDwords_dword (l : List Nat) (i : Nat) : joinDwords l / 2 ^ (64 * i) % 2 ^ 64 = (l[i]?.getD 0) % 2 ^ 64 := by
  induction l generalizing i with
  | nil => simp [joinDwords]
  | cons d r ih =>
    cases i with
    | zero =>
      simp only [joinDwords, List.getElem?_cons_zero, Option.getD_some, Nat.mul_zero, Nat.pow_zero, Nat.div_one]
      omega
    | succ i =>
      rw [List.getElem?_cons_succ, ← ih i, Nat.mul_succ, Nat.add_comm (64 * i), Nat.pow_add, ← Nat.div_div_eq_div_mul]
      congr 2
      simp only [joinDwords]
      omega

/-- Dword i of a message of twenty dwords in storage. -/
theorem readMem_joinDwords (m : List Host.Cell) (k i : Nat) (l : List Nat) (hi : i < 20) :
    readMem (writeMem m k 160 (joinDwords l)) (k + 8 * i) 8 = (l[i]?.getD 0) % 2 ^ 64 := by
  rw [readMem_writeMem_part _ _ _ _ _ _ (by omega), ← joinDwords_dword]
  have base : (256 : Nat) ^ (8 * i) = 2 ^ (64 * i) := by
    rw [show (256 : Nat) = 2 ^ 8 from rfl, ← Nat.pow_mul]
    exact congrArg (2 ^ ·) (by omega)
  rw [base]
  rfl

theorem WalkCtx.dwords_pc (c : WalkCtx) (die odie : Nat) : (c.dwords die odie)[1]? = some c.pc.toNat := rfl

theorem WalkCtx.dwords_status (c : WalkCtx) (die odie : Nat) : (c.dwords die odie)[2]? = some c.status.toNat := rfl

theorem WalkCtx.dwords_x (c : WalkCtx) (die odie : Nat) {r : Nat} (h0 : 0 < r) (hr : r < 16) :
    (c.dwords die odie)[r + 2]? = some (c.x[r]'hr).toNat := by
  have regs : ((c.x.toList.drop 1).map fun w => w.toNat)[r + 2 - 3]? = some (c.x[r]'hr).toNat := by
    rw [List.getElem?_map, List.getElem?_drop, show 1 + (r + 2 - 3) = r by omega, Vector.getElem?_toList, Vector.getElem?_eq_getElem hr]
    rfl
  obtain ⟨hlen, -⟩ := List.getElem?_eq_some_iff.1 regs
  simp only [WalkCtx.dwords]
  rw [List.getElem?_append_left (by simp; omega), List.getElem?_append_left (by simp; omega), List.getElem?_append_right (by simp; omega)]
  exact regs

/-! ### Slots that change hands -/

/-- A slot that becomes free where nobody waits in the park area. -/
theorem State.freeSlot_of_parkq_nil {s : State} {t u : Nat} (h : (s.tile t).parkq = []) : s.freeSlot t u = s.updSlot t u Slot.freed := by
  have tile : (s.updSlot t u Slot.freed).tile t = (s.tile t).updSlot u Slot.freed := (State.tile_updTile ..).trans (if_pos rfl)
  have parkq : ((s.updSlot t u Slot.freed).tile t).parkq = [] := by
    rw [tile]
    exact h
  simp only [State.freeSlot, State.grant, parkq]
  split <;> rfl

theorem State.accept_slot {s : State} {t v : Nat} (h : (s.tile t).freeSlot = some v) (c : WalkCtx) :
    s.accept t c = some (s.updSlot t v fun sl => { sl.ofCtx { c with status := putField c.status 14 2 0 } with stopped := (s.tile t).held }) := by
  simp only [State.accept, h]

theorem State.accept_park {s : State} {t : Nat} (h : (s.tile t).freeSlot = none) (hp : (s.tile t).parkq.length < (s.tile t).parkCap) (c : WalkCtx) :
    s.accept t c = some (s.parkWrite t { c with status := putField c.status 14 2 0 }) := by
  simp only [State.accept, h]
  exact if_pos hp

theorem State.accept_full {s : State} {t : Nat} (h : (s.tile t).freeSlot = none) (hp : (s.tile t).parkCap ≤ (s.tile t).parkq.length) (c : WalkCtx) :
    s.accept t c = none := by
  simp only [State.accept, h]
  exact if_neg (Nat.not_lt.2 hp)

/-! ### Departure -/

theorem State.walkAddr_congr {s s' : State} {t u : Nat} (hw : (s'.slot t u).wait = (s.slot t u).wait) (hp : (s'.slot t u).pc = (s.slot t u).pc) :
    s'.walkAddr t u = s.walkAddr t u := by
  simp only [State.walkAddr, hw, hp]

/-- The slot of a thread of no flock, free of what a flock gave it, as its walk message is made. -/
def Slot.alone (sl : Slot) : Slot := { sl with stream := [], pend := none }

/-- The context a thread of no flock leaves with: of a WALK as completed, else at its pc (R16). -/
def State.departing (s : State) (t u dest : Nat) (e : Bool) : WalkCtx :=
  let b := s.updSlot t u Slot.alone
  b.ctxOf t u dest e false (if e then (s.slot t u).alone.complete ((s.slot t u).pc + 4) true else (s.slot t u).alone)

/-- The slot it leaves: OUT, with its context kept. -/
def Slot.departed (sl : Slot) : Slot := { sl.alone with st := .out, wait := .none, line := none, back := none }

section
variable {s : State} {dest : Nat} {e : Bool} (hw : s.walkWaiting s.ev.num s.ev.a = some (dest, e))
include hw

theorem exec_walkDepart_undrained (hd : s.drained s.ev.num s.ev.a = false) : exec .walkDepart s = .next s := by
  simp only [exec, execWalkDepart, hw, hd, Bool.false_eq_true, if_false]

theorem exec_walkDepart (hd : s.drained s.ev.num s.ev.a = true) (hf : (s.slot s.ev.num s.ev.a).flk = 0)
    (hb : (s.slot s.ev.num s.ev.a).back = none) :
    exec .walkDepart s = .next ((s.updSlot s.ev.num s.ev.a Slot.departed).send (routed (hops s.ev.num dest) 11)
      (.walk (s.departing s.ev.num s.ev.a dest e))) := by
  have slot : (s.updSlot s.ev.num s.ev.a Slot.alone).slot s.ev.num s.ev.a = (s.slot s.ev.num s.ev.a).alone :=
    (State.slot_updSlot ..).trans (if_pos ⟨rfl, rfl⟩)
  have back : (s.slot s.ev.num s.ev.a).alone.back = none := hb
  have free : s.leaveFlock s.ev.num s.ev.a 0 = s.updSlot s.ev.num s.ev.a Slot.alone := State.leaveFlock_free _ _ _ _ hf
  have once : (s.updSlot s.ev.num s.ev.a Slot.alone).updSlot s.ev.num s.ev.a
      (fun sl => { sl with st := .out, wait := .none, line := none, back := none }) = s.updSlot s.ev.num s.ev.a Slot.departed :=
    State.updSlot_updSlot ..
  simp only [exec, execWalkDepart, hw, hd, if_true, free, slot, back, once]
  rfl

theorem answers_walkDepart (hd : s.drained s.ev.num s.ev.a = true) (hf : (s.slot s.ev.num s.ev.a).flk = 0)
    (hb : (s.slot s.ev.num s.ev.a).back = none) : Answers (exec .walkDepart s) fun t =>
      ∃ c, Sent s t (.walk c) ∧ (c.dest, c.origin, c.origSlot, c.explicit, c.resume) = (dest, s.ev.num, s.ev.a, e, false) ∧
        (c.addr, c.code) = s.walkAddr s.ev.num s.ev.a ∧
        (c.x, c.lid, c.home) = ((s.slot s.ev.num s.ev.a).x, (s.slot s.ev.num s.ev.a).lid, (s.slot s.ev.num s.ev.a).home) ∧
        c.status = putField (s.slot s.ev.num s.ev.a).status 16 2 0 ∧
        (c.pc, c.loops) = (if e then loopAdvanceAux true (s.slot s.ev.num s.ev.a).loops false ((s.slot s.ev.num s.ev.a).pc + 4)
          else ((s.slot s.ev.num s.ev.a).pc, (s.slot s.ev.num s.ev.a).loops)) ∧
        (t.slot s.ev.num s.ev.a).st = .out ∧ (t.slot s.ev.num s.ev.a).xr = (s.slot s.ev.num s.ev.a).xr ∧
        (t.slot s.ev.num s.ev.a).pc = (s.slot s.ev.num s.ev.a).pc ∧
        { t with tiles := s.tiles, flight := s.flight, next := s.next, ctr := s.ctr } = s ∧
        ∀ k u, k ≠ s.ev.num ∨ u ≠ s.ev.a → t.slot k u = s.slot k u := by
  have alone : (s.updSlot s.ev.num s.ev.a Slot.alone).slot s.ev.num s.ev.a = (s.slot s.ev.num s.ev.a).alone :=
    (State.slot_updSlot ..).trans (if_pos ⟨rfl, rfl⟩)
  have left : (s.updSlot s.ev.num s.ev.a Slot.departed).slot s.ev.num s.ev.a = (s.slot s.ev.num s.ev.a).departed :=
    (State.slot_updSlot ..).trans (if_pos ⟨rfl, rfl⟩)
  refine ⟨_, exec_walkDepart hw hd hf hb, s.departing s.ev.num s.ev.a dest e, State.sent_send .., rfl, ?_, ?_, ?_, ?_, ?_, ?_, ?_, rfl,
    fun k u hk => ?_⟩
  · exact State.walkAddr_congr ((congrArg Slot.wait alone).trans rfl) ((congrArg Slot.pc alone).trans rfl)
  · cases e <;> rfl
  · cases e <;> rfl
  · cases e <;> rfl
  · exact congrArg Slot.st left
  · exact (congrArg Slot.xr left).trans rfl
  · exact (congrArg Slot.pc left).trans rfl
  · exact (State.slot_updSlot ..).trans (if_neg (by omega))

end

/-! ### Arrival -/

section
variable {s : State} {c : WalkCtx} (ha : s.arrived = some (.walk c))
include ha

theorem exec_walkArrival_refused {cause : Cause} (hr : s.walkRefusal c = some cause) :
    exec .walkArrival s = .next (s.taken.send (2 + 2 * hops c.origin c.dest) (.walkRefused c (some cause))) := by
  have taken : s.taken.walkRefusal c = some cause := hr
  simp only [exec, execWalkArrival, ha, taken]

theorem exec_walkArrival_full (hr : s.walkRefusal c = none) (hs : (s.tile c.dest).freeSlot = none)
    (hp : (s.tile c.dest).parkCap ≤ (s.tile c.dest).parkq.length) :
    exec .walkArrival s = .next (s.taken.send (2 + 2 * hops c.origin c.dest) (.walkRefused c none)) := by
  have taken : s.taken.walkRefusal c = none := hr
  have full : s.taken.accept c.dest c = none := State.accept_full (s := s.taken) hs hp c
  simp only [exec, execWalkArrival, ha, taken, full]

theorem exec_walkArrival_accepted {s' : State} (hr : s.walkRefusal c = none) (h : s.taken.accept c.dest c = some s') :
    exec .walkArrival s = .next (s'.freeSlot c.origin c.origSlot) := by
  have taken : s.taken.walkRefusal c = none := hr
  simp only [exec, execWalkArrival, ha, taken, h]

theorem exec_resumeMove_accepted {s' : State} (hr : s.walkRefusal c = none) (h : s.taken.accept c.dest c.applyAnswer = some s') :
    exec .resumeMove s = .next (s'.freeSlot c.origin c.origSlot) := by
  have taken : s.taken.walkRefusal c = none := hr
  simp only [exec, execResumeMove, ha, taken, h]

end

/-- A walker's context in a slot of one tile while its slot on another becomes free. -/
def State.walked (s : State) (t v : Nat) (f : Slot → Slot) (o u : Nat) : State := (s.taken.updSlot t v f).updSlot o u Slot.freed

section
variable {s : State} {t v o u : Nat} {f : Slot → Slot} (hne : t ≠ o)
include hne

theorem State.freeSlot_walked (hq : (s.tile o).parkq = []) : (s.taken.updSlot t v f).freeSlot o u = s.walked t v f o u := by
  refine State.freeSlot_of_parkq_nil ?_
  have tile : (s.taken.updSlot t v f).tile o = s.tile o := (State.tile_updTile ..).trans (if_neg hne.symm)
  rw [tile]
  exact hq

theorem State.slot_walked_dest : (s.walked t v f o u).slot t v = f (s.slot t v) := by
  rw [State.walked, State.slot_updSlot, if_neg fun h => hne h.1, State.slot_updSlot, if_pos ⟨rfl, rfl⟩]
  rfl

omit hne in
theorem State.slot_walked_origin : (s.walked t v f o u).slot o u = ((s.taken.updSlot t v f).slot o u).freed := by
  rw [State.walked, State.slot_updSlot, if_pos ⟨rfl, rfl⟩]

omit hne in
theorem State.slot_walked_other {k w : Nat} (h : k ≠ t ∨ w ≠ v) (h' : k ≠ o ∨ w ≠ u) : (s.walked t v f o u).slot k w = s.slot k w := by
  rw [State.walked, State.slot_updSlot, if_neg (by omega), State.slot_updSlot, if_neg (by omega)]
  rfl

end

theorem answers_walkArrival_slot {s : State} {c : WalkCtx} {v : Nat} (ha : s.arrived = some (.walk c)) (hr : s.walkRefusal c = none)
    (hne : c.dest ≠ c.origin) (hq : (s.tile c.origin).parkq = []) (hs : (s.tile c.dest).freeSlot = some v) :
    Answers (exec .walkArrival s) fun t =>
      (t.slot c.dest v).st = .run ∧ (t.slot c.dest v).x = c.x ∧
      ((t.slot c.dest v).pc, (t.slot c.dest v).loops, (t.slot c.dest v).lid, (t.slot c.dest v).home) = (c.pc, c.loops, c.lid, c.home) ∧
      (t.slot c.dest v).status = putField (putField c.status 14 2 0) 16 2 0 ∧ (∀ k, (t.slot c.dest v).kr k = 0) ∧
      ((t.slot c.dest v).cntN, (t.slot c.dest v).cntP, (t.slot c.dest v).cntF) = (0, 0, 0) ∧
      (t.slot c.origin c.origSlot).st = .free ∧ t.flight = s.taken.flight ∧ t.mem = s.mem ∧
      ∀ k u, (k ≠ c.dest ∨ u ≠ v) → (k ≠ c.origin ∨ u ≠ c.origSlot) → t.slot k u = s.slot k u := by
  have he := exec_walkArrival_accepted ha hr (State.accept_slot (s := s.taken) hs c)
  rw [State.freeSlot_walked hne hq] at he
  refine ⟨_, he, ?_, ?_, ?_, ?_, fun k => ?_, ?_, ?_, rfl, rfl, fun k u h h' => State.slot_walked_other h h'⟩
  case refine_7 => rw [State.slot_walked_origin]; rfl
  case refine_5 =>
    rw [State.slot_walked_dest hne]
    exact Vector.getElem_replicate ..
  all_goals rw [State.slot_walked_dest hne]; rfl

/-- The park entry of an accepted walker (R17): WST is 0b00, and no answer waits. -/
def WalkCtx.parked (c : WalkCtx) : WalkCtx := { c with status := putField c.status 14 2 0, resume := false }

/-- The numbers in a park entry. -/
def State.parkDwords (s : State) (c : WalkCtx) : List Nat := c.parked.dwords (s.logDie (tDie c.dest)) (s.logDie (tDie c.origin))

/-- A walker's entry in the park area of one tile while its slot on another becomes free. -/
def State.parkedWalk (s : State) (c : WalkCtx) (m : List Host.Cell) (p : List Nat) : State :=
  ({ s.taken with mem := m, poison := p }.updTile c.dest fun tl => { tl with parkq := tl.parkq ++ [c.parked] }).updSlot c.origin c.origSlot
    Slot.freed

section
variable {s : State} {c : WalkCtx} {m : List Host.Cell} {p : List Nat}

theorem State.tile_parkedWalk (hne : c.dest ≠ c.origin) :
    ((s.parkedWalk c m p).tile c.dest).parkq = (s.tile c.dest).parkq ++ [c.parked] := by
  rw [State.parkedWalk, State.updSlot, State.tile_updTile, if_neg hne, State.tile_updTile, if_pos rfl]
  rfl

theorem State.slot_parkedWalk {k u : Nat} (h : k ≠ c.origin ∨ u ≠ c.origSlot) : (s.parkedWalk c m p).slot k u = s.slot k u := by
  rw [State.parkedWalk, State.slot_updSlot, if_neg (by omega), State.slot, State.tile_updTile]
  split
  · next hk => rw [hk]; rfl
  · rfl

theorem State.slot_parkedWalk_origin : ((s.parkedWalk c m p).slot c.origin c.origSlot).st = .free := by
  rw [State.parkedWalk, State.slot_updSlot, if_pos ⟨rfl, rfl⟩]
  rfl

theorem State.store_eq (s : State) (k n v : Nat) : ∃ m p, m = writeMem s.mem k n v ∧ s.store k n v = { s with mem := m, poison := p } :=
  ⟨_, _, rfl, rfl⟩

/-- A walker that is accepted without a FREE slot: its 160 bytes are stored, and nothing else of the memory. -/
theorem exec_walkArrival_park (ha : s.arrived = some (.walk c)) (hr : s.walkRefusal c = none) (hne : c.dest ≠ c.origin)
    (hq : (s.tile c.origin).parkq = []) (hs : (s.tile c.dest).freeSlot = none) (hp : (s.tile c.dest).parkq.length < (s.tile c.dest).parkCap) :
    ∃ m p, m = writeMem s.mem (s.parkKey c.dest (s.tile c.dest).parkq.length) 160 (joinDwords (s.parkDwords c)) ∧
      exec .walkArrival s = .next (s.parkedWalk c m p) := by
  have parked : s.taken.parkWrite c.dest { c with status := putField c.status 14 2 0 } =
      (s.taken.store (s.parkKey c.dest (s.tile c.dest).parkq.length) 160 (joinDwords (s.parkDwords c))).updTile c.dest
        fun tl => { tl with parkq := tl.parkq ++ [c.parked] } := rfl
  obtain ⟨m, p, hm, hst⟩ := s.taken.store_eq (s.parkKey c.dest (s.tile c.dest).parkq.length) 160 (joinDwords (s.parkDwords c))
  have accepted := exec_walkArrival_accepted ha hr (State.accept_park (s := s.taken) hs hp c)
  rw [parked, hst] at accepted
  refine ⟨m, p, hm, accepted.trans (congrArg Host.Outcome.next (State.freeSlot_of_parkq_nil ?_))⟩
  rw [State.tile_updTile, if_neg hne.symm]
  exact hq

theorem answers_walkArrival_park (ha : s.arrived = some (.walk c)) (hr : s.walkRefusal c = none) (hne : c.dest ≠ c.origin)
    (hq : (s.tile c.origin).parkq = []) (hs : (s.tile c.dest).freeSlot = none) (hp : (s.tile c.dest).parkq.length < (s.tile c.dest).parkCap) :
    Answers (exec .walkArrival s) fun t =>
      (t.tile c.dest).parkq = (s.tile c.dest).parkq ++ [c.parked] ∧
      readMem t.mem (s.parkKey c.dest (s.tile c.dest).parkq.length + 8) 8 = c.pc.toNat ∧
      readMem t.mem (s.parkKey c.dest (s.tile c.dest).parkq.length + 16) 8 = (putField c.status 14 2 0).toNat ∧
      (∀ r : Reg, r ≠ 0 → readMem t.mem (s.parkKey c.dest (s.tile c.dest).parkq.length + 16 + 8 * r.toNat) 8 = (c.x[r.toNat]'r.isLt).toNat) ∧
      (∀ b, b < s.parkKey c.dest (s.tile c.dest).parkq.length ∨ s.parkKey c.dest (s.tile c.dest).parkq.length + 160 ≤ b →
        readByte t.mem b = readByte s.mem b) ∧
      (t.slot c.origin c.origSlot).st = .free ∧ t.flight = s.taken.flight ∧
      ∀ k u, (k ≠ c.origin ∨ u ≠ c.origSlot) → t.slot k u = s.slot k u := by
  obtain ⟨m, p, hm, he⟩ := exec_walkArrival_park ha hr hne hq hs hp
  have dword : ∀ i < 20, readMem m (s.parkKey c.dest (s.tile c.dest).parkq.length + 8 * i) 8 = ((s.parkDwords c)[i]?.getD 0) % 2 ^ 64 :=
    fun i hi => hm ▸ readMem_joinDwords _ _ _ _ hi
  have outside : ∀ b, b < s.parkKey c.dest (s.tile c.dest).parkq.length ∨ s.parkKey c.dest (s.tile c.dest).parkq.length + 160 ≤ b →
      readByte m b = readByte s.mem b := fun b hb => hm ▸ readByte_writeMem_out _ _ _ _ _ hb
  clear hm
  refine ⟨_, he, State.tile_parkedWalk hne, ?_, ?_, fun r h0 => ?_, outside, State.slot_parkedWalk_origin, rfl, fun k u h => State.slot_parkedWalk h⟩
  · exact (dword 1 (by omega)).trans (Nat.mod_eq_of_lt c.pc.isLt)
  · exact (dword 2 (by omega)).trans (Nat.mod_eq_of_lt (putField c.status 14 2 0).isLt)
  · have hr0 : 0 < r.toNat := Nat.pos_of_ne_zero fun h => h0 (BitVec.eq_of_toNat_eq h)
    have hr16 : r.toNat < 16 := r.isLt
    have key := dword (r.toNat + 2) (by omega)
    rw [State.parkDwords, c.parked.dwords_x _ _ hr0 hr16] at key
    rw [Nat.add_assoc, show 16 + 8 * r.toNat = 8 * (r.toNat + 2) by omega]
    exact key.trans (Nat.mod_eq_of_lt (c.x[r.toNat]'r.isLt).isLt)

end

/-! ### A resume move -/

/-- A held load's answer, applied to a context. -/
theorem WalkCtx.applyAnswer_load {c : WalkCtx} (h8 : c.desc.getLsbD 8 = false) (hc : wf c.desc 4 3 ≠ 4) :
    c.applyAnswer.x = (({ Slot.fresh with x := c.x, status := c.status } : Slot).setX (BitVec.ofNat 4 (wf c.desc 0 4))
      (extendLoad (wf c.desc 4 3) (c.desc.getLsbD 7) c.answer)).x := by
  simp only [WalkCtx.applyAnswer, h8, Bool.false_eq_true, if_false, Slot.loadResult, if_neg hc]

theorem Slot.xr_applyAnswer {c : WalkCtx} {sl : Slot} (hx : sl.x = c.applyAnswer.x) (h8 : c.desc.getLsbD 8 = false) (hc : wf c.desc 4 3 ≠ 4)
    (r : Reg) : sl.xr r = if r = 0 then 0 else if r = BitVec.ofNat 4 (wf c.desc 0 4) then
      extendLoad (wf c.desc 4 3) (c.desc.getLsbD 7) c.answer else c.x[r.toNat]'r.isLt := by
  have set := Slot.xr_setX ({ Slot.fresh with x := c.x, status := c.status } : Slot) (BitVec.ofNat 4 (wf c.desc 0 4)) r
    (extendLoad (wf c.desc 4 3) (c.desc.getLsbD 7) c.answer)
  have eq : sl.xr r = _ := Eq.trans (by rw [Slot.xr, Slot.xr, hx, WalkCtx.applyAnswer_load h8 hc]) set
  rw [eq, Slot.xr]
  by_cases h0 : r = 0
  · subst h0
    by_cases hd : (0 : Reg) = BitVec.ofNat 4 (wf c.desc 0 4)
    · rw [← hd]
      rfl
    · rw [if_neg fun h => hd h.1, if_pos rfl, if_pos rfl]
  · rw [if_neg h0]
    by_cases hd : r = BitVec.ofNat 4 (wf c.desc 0 4)
    · rw [if_pos ⟨hd, hd ▸ h0⟩, if_neg h0, if_pos hd]
    · rw [if_neg fun h => hd h.1, if_neg h0, if_neg hd]

theorem answers_resumeMove_slot {s : State} {c : WalkCtx} {v : Nat} (ha : s.arrived = some (.walk c)) (hr : s.walkRefusal c = none)
    (hne : c.dest ≠ c.origin) (hq : (s.tile c.origin).parkq = []) (hs : (s.tile c.dest).freeSlot = some v)
    (h8 : c.desc.getLsbD 8 = false) (hc : wf c.desc 4 3 ≠ 4) : Answers (exec .resumeMove s) fun t =>
      (t.slot c.dest v).st = .run ∧
      ((t.slot c.dest v).pc, (t.slot c.dest v).loops, (t.slot c.dest v).lid, (t.slot c.dest v).home) = (c.pc, c.loops, c.lid, c.home) ∧
      (∀ r : Reg, (t.slot c.dest v).xr r = if r = 0 then 0 else if r = BitVec.ofNat 4 (wf c.desc 0 4) then
        extendLoad (wf c.desc 4 3) (c.desc.getLsbD 7) c.answer else c.x[r.toNat]'r.isLt) ∧
      (t.slot c.origin c.origSlot).st = .free ∧ t.flight = s.taken.flight ∧ t.mem = s.mem := by
  have he := exec_resumeMove_accepted ha hr (State.accept_slot (s := s.taken) hs c.applyAnswer)
  rw [State.freeSlot_walked hne hq] at he
  refine ⟨_, he, ?_, ?_, Slot.xr_applyAnswer ?_ h8 hc, ?_, rfl, rfl⟩
  case refine_4 => rw [State.slot_walked_origin]; rfl
  all_goals rw [State.slot_walked_dest hne]; rfl

/-! ### A refused walk that returns -/

/-- What a walk that the park area refused leaves in its slot (R17): WST 0b01, a WALK completed, a load or fetch to be reissued. -/
def Slot.refused (e : Bool) (now : Nat) (sl : Slot) : Slot :=
  if e then (sl.complete (sl.pc + 4) true).setWst 1
  else { sl.setWst 1 with st := .run, wait := .reissue (now + 64), refusedWalk := true }

theorem State.slot_countWref (s : State) (t k u : Nat) : (s.updTile t Tile.countWref).slot k u = s.slot k u := by
  rw [State.slot, State.tile_updTile]
  split
  · next hk => rw [hk]; rfl
  · rfl

section
variable {s : State} {c : WalkCtx} (hres : c.resume = false) (hout : (s.slot c.origin c.origSlot).st = .out)
  (hf : s.fenced c.origin = false)
include hres hout hf

theorem exec_walkRefusalReturn (ha : s.arrived = some (.walkRefused c none)) : exec .walkRefusalReturn s =
    .next ((s.taken.updTile c.origin Tile.countWref).updSlot c.origin c.origSlot (Slot.refused c.explicit s.now)) := by
  have stays : ¬ ((s.taken.slot c.origin c.origSlot).st ≠ .out ∨ s.taken.fenced c.origin = true) := by
    rintro (h | h)
    · exact h hout
    · exact Bool.false_ne_true (hf.symm.trans h)
  simp only [exec, execWalkRefusalReturn, ha, if_neg stays, hres]
  cases c.explicit <;> rfl

theorem answers_walkRefusalReturn (ha : s.arrived = some (.walkRefused c none)) : Answers (exec .walkRefusalReturn s) fun t =>
    (t.tile c.origin).wref = (s.tile c.origin).wref + 1 ∧ (t.slot c.origin c.origSlot).xr = (s.slot c.origin c.origSlot).xr ∧
    (t.slot c.origin c.origSlot).st = .run ∧ (t.slot c.origin c.origSlot).status = putField (s.slot c.origin c.origSlot).status 14 2 1 ∧
    (if c.explicit then (t.slot c.origin c.origSlot).wait = .none ∧ ((t.slot c.origin c.origSlot).pc, (t.slot c.origin c.origSlot).loops) =
        loopAdvanceAux true (s.slot c.origin c.origSlot).loops false ((s.slot c.origin c.origSlot).pc + 4)
      else (t.slot c.origin c.origSlot).wait = .reissue (s.now + 64) ∧ (t.slot c.origin c.origSlot).pc = (s.slot c.origin c.origSlot).pc ∧
        (t.slot c.origin c.origSlot).loops = (s.slot c.origin c.origSlot).loops) ∧
    t.flight = s.taken.flight ∧ t.mem = s.mem ∧ ∀ k u, (k ≠ c.origin ∨ u ≠ c.origSlot) → t.slot k u = s.slot k u := by
  have slot : ((s.taken.updTile c.origin Tile.countWref).updSlot c.origin c.origSlot (Slot.refused c.explicit s.now)).slot c.origin c.origSlot =
      (s.slot c.origin c.origSlot).refused c.explicit s.now := by
    rw [State.slot_updSlot, if_pos ⟨rfl, rfl⟩, State.slot_countWref]
    rfl
  refine ⟨_, exec_walkRefusalReturn hres hout hf ha, ?_, ?_, ?_, ?_, ?_, rfl, rfl, fun k u hk => ?_⟩
  · rw [State.updSlot, State.tile_updTile, if_pos rfl, State.tile_updTile, if_pos rfl]
    rfl
  · rw [slot]
    cases c.explicit <;> rfl
  · rw [slot]
    cases c.explicit <;> rfl
  · rw [slot]
    cases c.explicit <;> rfl
  · rw [slot]
    cases c.explicit
    · exact ⟨rfl, rfl, rfl⟩
    · exact ⟨rfl, rfl⟩
  · rw [State.slot_updSlot, if_neg (by omega), State.slot_countWref]
    rfl

end

/-! ### A refusal that traps -/

theorem Cause.code_lt (c : Cause) : c.code < 256 := by cases c <;> decide

section
variable (c : Cause) (t slot die : Nat) (pc addr : Word) (tag lid detail : Nat)

theorem ef_trapEntry_code : ef (trapEntry c.code 0 (tRow t) (tCol t) slot die pc addr tag lid detail) 2 1 = c.code := by
  have hc := c.code_lt
  simp only [ef, nf, trapEntry, BitVec.toNat_ofNat]
  omega

theorem ef_trapEntry_addr : ef (trapEntry c.code 0 (tRow t) (tCol t) slot die pc addr tag lid detail) 16 8 = addr.toNat := by
  have hc := c.code_lt
  have hrow : tRow t < 128 := Nat.mod_lt _ (by decide)
  have hcol : tCol t < 160 := Nat.mod_lt _ (by decide)
  have hpc := pc.isLt
  have haddr := addr.isLt
  simp only [ef, nf, trapEntry, BitVec.toNat_ofNat]
  omega

theorem ef_trapEntry_detail : ef (trapEntry c.code 0 (tRow t) (tCol t) slot die pc addr tag lid detail) 28 4 = detail % 2 ^ 32 := by
  have hc := c.code_lt
  have hrow : tRow t < 128 := Nat.mod_lt _ (by decide)
  have hcol : tCol t < 160 := Nat.mod_lt _ (by decide)
  have hpc := pc.isLt
  have haddr := addr.isLt
  simp only [ef, nf, trapEntry, BitVec.toNat_ofNat]
  omega

end

/-- A trap of a thread of no flock sends no message. -/
theorem State.trapAt_flight {s : State} {t u : Nat} (h : (s.slot t u).flk = 0) (i : TrapInfo) : (s.trapAt t u i).flight = s.flight := by
  simp only [State.trapAt, State.leaveFlock_free _ _ _ _ h, State.keepMsg]
  (repeat' split) <;> rfl

theorem State.slot_keepMsg (s : State) (t u k v : Nat) :
    (s.keepMsg t u).slot k v = if k = t ∧ v = u then { s.slot t u with trapMsg := none } else s.slot k v := by
  cases hm : (s.slot t u).trapMsg with
  | none =>
    simp only [State.keepMsg, hm]
    split
    · next h => rw [h.1, h.2, ← hm]
    · rfl
  | some e =>
    simp only [State.keepMsg, hm]
    exact State.slot_updSlot ..

/-- A thread of no flock after a trap at program level, its message waiting in its slot (R40, R362). -/
def Slot.trapped (sl : Slot) (i : TrapInfo) (e : Entry) (n : Nat) : Slot :=
  { sl with stream := [], pend := none, st := .park, wait := .none, tag := (sl.tag + 1) % 65536, cause := i.cause.code, pc := i.resume,
            fwd := none, refusedWalk := false, idle := none, line := none, back := none, parkReq := false, trapMsg := some e, trapSeq := n }

/-- The slot with its waiting message kept by the die, before the entry proper. -/
def Slot.unsent (sl : Slot) : Slot := { sl with stream := [], pend := none, trapMsg := none }

theorem State.slot_trapAt {s : State} {t u : Nat} (h : (s.slot t u).flk = 0) (hp : (s.slot t u).priv = false) (i : TrapInfo) :
    ∃ seen die lid n, ∀ k v, (s.trapAt t u i).slot k v = if k = t ∧ v = u then (s.slot t u).trapped i
      (trapEntry i.cause.code i.mflags (tRow seen) (tCol seen) u die i.pc i.addr (((s.slot t u).tag + 1) % 65536) lid i.detail) n
      else s.slot k v := by
  have before : ∀ k v, ((s.leaveFlock t u 3).keepMsg t u).slot k v = if k = t ∧ v = u then (s.slot t u).unsent else s.slot k v :=
    fun k v => by
      rw [State.leaveFlock_free _ _ _ _ h, State.slot_keepMsg]
      split
      · rw [State.slot_updSlot, if_pos ⟨rfl, rfl⟩]
        rfl
      · next hk => rw [State.slot_updSlot, if_neg hk]
  simp only [State.trapAt]
  generalize (s.leaveFlock t u 3).keepMsg t u = b at before
  have entered : b.slot t u = (s.slot t u).unsent := (before t u).trans (if_pos ⟨rfl, rfl⟩)
  have low : (s.slot t u).unsent.priv = false := hp
  simp only [entered, low, Bool.false_eq_true, if_false]
  refine ⟨b.seenTile t, (b.launch (s.slot t u).lid).dieOwn (tDie t), (s.slot t u).lid, b.next, fun k v =>
    (State.slot_updSlot b t u k v _).trans ?_⟩
  simp only [entered, before, low, Bool.false_eq_true, if_false]
  split <;> rfl

/-- The entry of a thread whose walk was refused with a cause: at the access, or at the WALK, that asked for it. -/
def WalkCtx.trapInfo (c : WalkCtx) (x : Cause) (pc : Word) : TrapInfo :=
  { cause := x, pc := pc, resume := pc, addr := c.addr, detail := c.code, mflags := 0 }

section
variable {s : State} {c : WalkCtx} {x : Cause} (hres : c.resume = false) (hout : (s.slot c.origin c.origSlot).st = .out)
  (hf : s.fenced c.origin = false)
include hres hout hf

theorem exec_walkRefusalReturn_trap (ha : s.arrived = some (.walkRefused c (some x))) : exec .walkRefusalReturn s =
    .next ((s.taken.updSlot c.origin c.origSlot fun sl => { sl with st := .run }).trapAt c.origin c.origSlot
      (c.trapInfo x (s.slot c.origin c.origSlot).pc)) := by
  have stays : ¬ ((s.taken.slot c.origin c.origSlot).st ≠ .out ∨ s.taken.fenced c.origin = true) := by
    rintro (h | h)
    · exact h hout
    · exact Bool.false_ne_true (hf.symm.trans h)
  have pc : ((s.taken.updSlot c.origin c.origSlot fun sl => { sl with st := .run }).slot c.origin c.origSlot).pc =
      (s.slot c.origin c.origSlot).pc := by
    rw [State.slot_updSlot, if_pos ⟨rfl, rfl⟩]
    rfl
  simp only [exec, execWalkRefusalReturn, ha, if_neg stays, hres, Bool.false_eq_true, if_false, pc]
  rfl

theorem answers_walkRefusalReturn_trap (ha : s.arrived = some (.walkRefused c (some x))) (hk : (s.slot c.origin c.origSlot).flk = 0)
    (hp : (s.slot c.origin c.origSlot).priv = false) : Answers (exec .walkRefusalReturn s) fun t =>
      (t.slot c.origin c.origSlot).st = .park ∧ (t.slot c.origin c.origSlot).cause = x.code ∧
      (t.slot c.origin c.origSlot).pc = (s.slot c.origin c.origSlot).pc ∧ (t.slot c.origin c.origSlot).xr = (s.slot c.origin c.origSlot).xr ∧
      (t.slot c.origin c.origSlot).tag = ((s.slot c.origin c.origSlot).tag + 1) % 65536 ∧ t.flight = s.taken.flight ∧
      (∃ e, (t.slot c.origin c.origSlot).trapMsg = some e ∧ ef e 2 1 = x.code ∧ ef e 16 8 = c.addr.toNat ∧ ef e 28 4 = c.code % 2 ^ 32) ∧
      t.mem = s.mem ∧ ∀ k u, (k ≠ c.origin ∨ u ≠ c.origSlot) → t.slot k u = s.slot k u := by
  have running : (s.taken.updSlot c.origin c.origSlot fun sl => { sl with st := .run }).slot c.origin c.origSlot =
      { s.slot c.origin c.origSlot with st := .run } := (State.slot_updSlot ..).trans (if_pos ⟨rfl, rfl⟩)
  have flk : ((s.taken.updSlot c.origin c.origSlot fun sl => { sl with st := .run }).slot c.origin c.origSlot).flk = 0 :=
    (congrArg Slot.flk running).trans hk
  have low : ((s.taken.updSlot c.origin c.origSlot fun sl => { sl with st := .run }).slot c.origin c.origSlot).priv = false :=
    (congrArg Slot.priv running).trans hp
  obtain ⟨seen, die, lid, n, slots⟩ := State.slot_trapAt flk low (c.trapInfo x (s.slot c.origin c.origSlot).pc)
  have trapped := (slots c.origin c.origSlot).trans (if_pos ⟨rfl, rfl⟩)
  rw [running] at trapped
  refine ⟨_, exec_walkRefusalReturn_trap hres hout hf ha, congrArg Slot.st trapped, (congrArg Slot.cause trapped).trans rfl, (congrArg Slot.pc trapped).trans rfl,
    (congrArg Slot.xr trapped).trans rfl, (congrArg Slot.tag trapped).trans rfl, State.trapAt_flight flk _, ⟨_, (congrArg Slot.trapMsg trapped).trans rfl, ?_, ?_, ?_⟩,
    State.trapAt_mem .., fun k u h => ?_⟩
  · exact ef_trapEntry_code ..
  · exact ef_trapEntry_addr ..
  · exact ef_trapEntry_detail ..
  · rw [slots, if_neg (by omega), State.slot_updSlot, if_neg (by omega)]
    rfl

end

/-! ### Reissue -/

theorem answers_walkReissue {s : State} {n : Nat} (h : (s.slot s.ev.num s.ev.a).wait = .reissue n) :
    Answers (exec .walkReissue s) fun t =>
      (t.slot s.ev.num s.ev.a).wait = (if n ≤ s.now then .none else .reissue n) ∧
      { t.slot s.ev.num s.ev.a with wait := (s.slot s.ev.num s.ev.a).wait } = s.slot s.ev.num s.ev.a ∧ OnlySlot s t s.ev.num s.ev.a := by
  refine ⟨_, rfl, ?_, ?_, State.onlySlot_updSlot ..⟩
  · rw [State.slot_updSlot, if_pos ⟨rfl, rfl⟩, h]
    dsimp only
    split
    · rfl
    · exact h
  · rw [State.slot_updSlot, if_pos ⟨rfl, rfl⟩, h]
    dsimp only
    split <;> rw [← h]

/-- Settles O38: each way a walk leaves, arrives, is refused, comes back or is issued again, one lemma above each. -/
theorem walkSteps : Obligations.WalkSteps := by
  intro s
  refine ⟨fun _ _ hw hd => exec_walkDepart_undrained hw hd, fun _ _ hw hd hf hb => answers_walkDepart hw hd hf hb,
    fun c ha => ⟨fun _ hr => ?_, fun hr hs hp => ?_, fun hr hne hq => ⟨fun _ hs => ?_, fun hs hp => ?_⟩, fun hr hne hq _ hs h8 hc => ?_⟩,
    fun c cause ha hres hout hf => ⟨?_, ?_⟩, fun _ h => answers_walkReissue h⟩
  · exact ⟨_, exec_walkArrival_refused ha hr, State.sent_send .., rfl, rfl⟩
  · exact ⟨_, exec_walkArrival_full ha hr hs hp, State.sent_send .., rfl, rfl⟩
  · exact answers_walkArrival_slot ha hr hne hq hs
  · exact answers_walkArrival_park ha hr hne hq hs hp
  · exact answers_resumeMove_slot ha hr hne hq hs h8 hc
  · rintro rfl
    exact answers_walkRefusalReturn hres hout hf ha
  · rintro x rfl hk hp
    exact answers_walkRefusalReturn_trap hres hout hf ha hk hp

end Sys2Proof.Machine
end

section
/-! Integer division: quotients and remainders with the borderline cases of R49 (O2). -/

open Sys2Proof

namespace Sys2Proof.Machine

theorem udivW_eq (a b : Word) : udivW a b = if b = 0 then BitVec.allOnes 64 else BitVec.ofNat 64 (a.toNat / b.toNat) := by
  rw [udivW, BitVec.udiv_def]

theorem uremW_eq (a b : Word) : uremW a b = if b = 0 then a else BitVec.ofNat 64 (a.toNat % b.toNat) := by
  rw [uremW, BitVec.umod_def]

/-- Settles O2: each word is its division of two registers, the signed ones as R49 writes them and the unsigned ones on numbers. -/
theorem integerDivision : Obligations.IntegerDivision := by
  intro s d a b
  refine ⟨writesX_wr rfl, ?_, writesX_wr rfl, ?_⟩
  · rw [← udivW_eq]
    exact writesX_wr rfl
  · rw [← uremW_eq]
    exact writesX_wr rfl

end Sys2Proof.Machine
end

section
/-! Rounding: the multiple of the unit that each mode of R53 chooses (O24). -/

open Sys2Proof

namespace Sys2Proof.Machine

section
variable {k : Nat} (hk : 0 < k) (rm : Nat) (s : Bool) (m : Nat) (q : Int)
include hk

/-! ### What is chosen k bits above the last bit, by mode -/

theorem roundAt_exact : (roundAt rm s m (q - k) q).2 = (m % 2 ^ k == 0) := by
  simp [roundAt, hk.ne']

theorem roundAt_nearest : (roundAt 0 s m (q - k) q).1 =
    if 2 ^ k < 2 * (m % 2 ^ k) ∨ 2 * (m % 2 ^ k) = 2 ^ k ∧ m / 2 ^ k % 2 = 1 then m / 2 ^ k + 1 else m / 2 ^ k := by
  simp [roundAt, hk.ne']

/-- RTZ, RUP below zero and RDN above it drop the bits below the unit. -/
theorem roundAt_inward (h : rm = 1 ∨ (rm = 2 ∧ s = true) ∨ (rm = 3 ∧ s = false)) : (roundAt rm s m (q - k) q).1 = m / 2 ^ k := by
  rcases h with rfl | ⟨rfl, rfl⟩ | ⟨rfl, rfl⟩ <;> simp [roundAt, hk.ne']

/-- RUP above zero and RDN below it go to the next multiple when a bit below the unit is set. -/
theorem roundAt_outward (h : (rm = 2 ∧ s = false) ∨ (rm = 3 ∧ s = true)) :
    (roundAt rm s m (q - k) q).1 = if m % 2 ^ k = 0 then m / 2 ^ k else m / 2 ^ k + 1 := by
  rcases h with ⟨rfl, rfl⟩ | ⟨rfl, rfl⟩ <;> simp [roundAt, hk.ne']

end

/-! ### Multiples of a unit about a number -/

section
variable (m u : Nat) (hu : 0 < u)

include hu

theorem nearest_multiple {z : Nat}
    (hz : z = if u < 2 * (m % u) ∨ 2 * (m % u) = u ∧ m / u % 2 = 1 then m / u + 1 else m / u) :
    2 * (z * u) ≤ 2 * m + u ∧ 2 * m ≤ 2 * (z * u) + u ∧ ((2 * (z * u) = 2 * m + u ∨ 2 * m = 2 * (z * u) + u) → z % 2 = 0) := by
  have split := Nat.div_add_mod' m u
  have rest := Nat.mod_lt m hu
  subst hz
  split
  · rw [Nat.succ_mul (m / u)]
    omega
  · omega

theorem inward_multiple : m / u * u ≤ m ∧ m < m / u * u + u := by
  have split := Nat.div_add_mod' m u
  have rest := Nat.mod_lt m hu
  omega

theorem outward_multiple {z : Nat} (hz : z = if m % u = 0 then m / u else m / u + 1) : m ≤ z * u ∧ z * u < m + u := by
  have split := Nat.div_add_mod' m u
  have rest := Nat.mod_lt m hu
  subst hz
  split
  · omega
  · rw [Nat.succ_mul (m / u)]
    omega

end

/-- Settles O24: each mode by the multiple it chooses, and that multiple by its distance from the number. -/
theorem roundingModes : Obligations.RoundingModes := by
  intro s m k q rm _ hk
  have unit : 0 < 2 ^ k := Nat.two_pow_pos k
  refine ⟨?_, ?_, fun h => ?_, fun h => outward_multiple m _ unit (roundAt_outward hk rm s m q h)⟩
  · rw [roundAt_exact hk, beq_iff_eq, Nat.dvd_iff_mod_eq_zero]
  · rintro rfl
    exact nearest_multiple m _ unit (roundAt_nearest hk s m q)
  · simp only [roundAt_inward hk rm s m q h]
    exact inward_multiple m _ unit

end Sys2Proof.Machine
end

section
/-! Special operands: NaNs, infinities, zeros and overflow (O25). -/

open Sys2Proof

namespace Sys2Proof.Machine

section
variable (f : Fmt) (rm : Nat) {a b : FpVal}

/-! ### NaN operands (R51) -/

theorem FpVal.eq_nan_of_isNan (h : a.isNan) : ∃ g, a = .nan g := by
  cases a with
  | nan g => exact ⟨g, rfl⟩
  | _ => cases h

theorem nanOf_pair (a b : FpVal) : nanOf f [a, b] = (qnan f, if a.isSnan || b.isSnan then 16 else 0) := by
  simp only [nanOf, flIf, List.any_cons, List.any_nil, Bool.or_false]
  rfl

theorem fpAddV_nan (h : a.isNan ∨ b.isNan) : fpAddV f rm a b = nanOf f [a, b] := by
  obtain ha | hb := h
  · obtain ⟨_, rfl⟩ := FpVal.eq_nan_of_isNan ha
    rfl
  · obtain ⟨_, rfl⟩ := FpVal.eq_nan_of_isNan hb
    cases a <;> rfl

theorem fpDiv_nan (h : a.isNan ∨ b.isNan) : fpDiv f rm a b = nanOf f [a, b] := by
  obtain ha | hb := h
  · obtain ⟨_, rfl⟩ := FpVal.eq_nan_of_isNan ha
    rfl
  · obtain ⟨_, rfl⟩ := FpVal.eq_nan_of_isNan hb
    cases a <;> rfl

theorem fpMul_nan (h : a.isNan ∨ b.isNan) : fpMul f rm a b = nanOf f [a, b] := by
  rw [fpMul, if_pos (by simpa using h)]

/-! ### An exact zero sum (R52) -/

theorem sInt_not (s : Bool) (m : Nat) : sInt (!s) m = -sInt s m := by
  cases s <;> simp [sInt]

theorem dyAdd_neg (i e : Int) : (dyAdd i e (-i) e).1 = 0 := by
  simp only [dyAdd]
  ring

theorem zeroSign_opposite (s : Bool) : zeroSign rm s (!s) = decide (rm = 3) := by
  cases s <;> rfl

theorem fpAddV_opposite (s : Bool) (n : Nat) (e : Int) : fpAddV f rm (.fin s n e) (.fin (!s) n e) = (zeroBits f (decide (rm = 3)), 0) := by
  simp only [fpAddV, sInt_not, dyAdd_neg, roundInt, if_true, zeroSign_opposite]
  rfl

/-! ### Signs and zeros of a division and a root -/

theorem fpDiv_zero {m : Nat} (h : 0 < m) (s : Bool) (e g : Int) : fpDiv f rm (.fin s m e) (.fin false 0 g) = (infBits f s, 8) := by
  simp only [fpDiv, if_true, if_neg h.ne', Bool.bne_false]
  rfl

theorem fpSqrt_neg {m : Nat} (h : 0 < m) (e : Int) : fpSqrt f rm (.fin true m e) = (qnan f, 16) := by
  simp only [fpSqrt, if_true, if_neg h.ne']
  rfl

theorem fpRsq_neg {m : Nat} (h : 0 < m) (e : Int) : fpRsq f rm (.fin true m e) = (qnan f, 16) := by
  simp only [fpRsq, if_true, if_neg h.ne']
  rfl

/-! ### Opposite infinities and overflow (R52, R54) -/

theorem fpAddV_inf_opposite (s : Bool) : fpAddV f rm (.inf s) (.inf !s) = (qnan f, 16) := by
  cases s <;> rfl

theorem overflowBits_of_not_sat (hf : f.sat = false) (hrm : rm < 4) (s : Bool) : overflowBits f rm s =
    if rm = 0 ∨ (rm = 2 ∧ s = false) ∨ (rm = 3 ∧ s = true) then infBits f s else maxBits f s := by
  obtain rfl | rfl | rfl | rfl : rm = 0 ∨ rm = 1 ∨ rm = 2 ∨ rm = 3 := by omega
  all_goals cases s <;> simp [overflowBits, hf]

end

/-- No format of R45 saturates. -/
theorem precFmt_sat (p : BitVec 2) : (precFmt p).sat = false := by
  revert p
  decide

/-- Settles O25: NaN operands first, then the invalid operations, the division by zero, the zero sum, overflow and R62's table. -/
theorem floatingSpecialResults : Obligations.FloatingSpecialResults := by
  intro p rm a b s m n e g hrm hm
  refine ⟨fun h => ?_, fpAddV_inf_opposite _ rm s, rfl, rfl, rfl, fpSqrt_neg _ rm hm e, fpDiv_zero _ rm hm s e g,
    fpAddV_opposite _ rm s n e, overflowBits_of_not_sat _ rm (precFmt_sat p) hrm s, rfl, rfl, rfl, rfl, rfl, fpRsq_neg _ rm hm e⟩
  rw [fpAddV_nan _ rm h, fpMul_nan _ rm h, fpDiv_nan _ rm h, nanOf_pair]
  exact ⟨rfl, rfl, rfl⟩

end Sys2Proof.Machine
end

section
/-! Floating-point words: how each ends, with its operands in its precision and its mode (O22). -/

open Sys2Proof

namespace Sys2Proof.Machine

/-! ### The flags of the status word -/

/-- FLAGS stands below the thread's flock field. -/
theorem Slot.orFlags_flk (sl : Slot) (fl : Fl) : (sl.orFlags fl).flk = sl.flk := by
  refine congrArg BitVec.toNat (BitVec.eq_of_getLsbD_eq fun j hj => ?_)
  have outside : ¬ (0 ≤ 16 + j ∧ 16 + j < 0 + 5) := by omega
  simp only [Slot.orFlags, Slot.setFlags, BitVec.getLsbD_extractLsb', getLsbD_putField (show 16 + j < 64 by omega), if_neg outside]

@[simp] theorem Slot.orFlags_loops (sl : Slot) (fl : Fl) : (sl.orFlags fl).loops = sl.loops := rfl

/-! ### The end of a word (R57) -/

theorem State.fpEnd_masked {s : State} {fl : Fl} (h : fl &&& s.cur.enable = 0) (d : Reg) (v : Word) :
    s.fpEnd d v fl = (s.updCur fun sl => sl.orFlags fl).wr d v 4 := if_neg (not_not.2 h)

theorem State.fpEnd_enabled {s : State} {fl : Fl} (h : fl &&& s.cur.enable ≠ 0) (d : Reg) (v : Word) :
    s.fpEnd d v fl = (s.updCur fun sl => sl.orFlags fl).trap .fpx 0 fl.toNat := if_pos h

section
variable (s : State) (d : Reg) (v : Word) (fl : Fl)

theorem State.cur_fpEnd_masked : ((s.updCur fun sl => sl.orFlags fl).wr d v 4).cur =
    ((s.cur.orFlags fl).setX d v).complete (s.cur.pc + 4) true := by
  rw [State.wr, State.cur_updCur, State.cur_updCur]
  rfl

/-- A word whose raised flags are all masked writes x[d] and FLAGS and nothing else. -/
theorem wroteX_fpEnd_masked :
    let t := (s.updCur fun sl => sl.orFlags fl).wr d v 4
    (∀ r, t.xr r = if r = d ∧ d ≠ 0 then v else s.xr r) ∧ s.cur.At t.cur (s.cur.pc + 4) true ∧
      t.cur.status = putField s.cur.status 0 5 (s.cur.flags ||| fl).toNat ∧
      s.cur.SameButX { t.cur with status := s.cur.status } ∧ SameElsewhere s t := by
  have cur := s.cur_fpEnd_masked d v fl
  refine ⟨fun r => ?_, ?_, ?_, ?_, ?_⟩
  · rw [State.xr, cur, Slot.complete_xr, Slot.xr_setX]
    rfl
  · rw [cur]
    simpa [Slot.At] using Slot.at_complete ((s.cur.orFlags fl).setX d v) (s.cur.pc + 4) true
  · rw [cur, Slot.complete_status, Slot.setX_status]
    rfl
  · rw [cur, Slot.setX]
    split <;> rfl
  · have once : (s.updCur fun sl => sl.orFlags fl).wr d v 4 = s.updCur fun sl => ((sl.orFlags fl).setX d v).complete (sl.pc + 4) true :=
      s.updSlot_updSlot ..
    rw [once]
    exact State.sameElsewhere_updCur ..

theorem trapped_fpEnd_enabled (flk : s.cur.flk = 0) : Trapped (s.updCur fun sl => sl.orFlags fl)
    ((s.updCur fun sl => sl.orFlags fl).trap .fpx 0 fl.toNat) .fpx s.cur.pc 0 fl.toNat := by
  have free : (s.updCur fun sl => sl.orFlags fl).cur.flk = 0 := by rw [State.cur_updCur, Slot.orFlags_flk, flk]
  have pc : (s.updCur fun sl => sl.orFlags fl).cur.pc = s.cur.pc := by rw [State.cur_updCur]; rfl
  have trapped := trapped_trap (s.updCur fun sl => sl.orFlags fl) .fpx 0 fl.toNat free
  rwa [pc] at trapped

end

/-- The usual end of a scalar FP word (State.fpEnd). -/
theorem fpEnds_fpEnd {i : Instr} {s : State} {d : Reg} {v : Word} {fl : Fl} (h : exec i s = .next (s.fpEnd d v fl)) : FpEnds i s d v fl :=
  ⟨fun masked => ⟨_, h, State.fpEnd_masked masked d v ▸ wroteX_fpEnd_masked s d v fl⟩,
   fun enabled flk => ⟨_, h, State.fpEnd_enabled enabled d v ▸ trapped_fpEnd_enabled s fl flk⟩⟩

/-- The same with a result's bits and flags (State.fp). -/
theorem fpEnds_fp {i : Instr} {s : State} {d : Reg} {r : Nat × Fl} (h : exec i s = s.fp d r) : FpEnds i s d (BitVec.ofNat 64 r.1) r.2 :=
  fpEnds_fpEnd h

theorem fpEnds_fcmp {i : Instr} {s : State} {c : Nat} {d a b : Reg} {p : BitVec 2} (h : exec i s = s.fcmp c d a b p) :
    FpEnds i s d (if (fpCmp c (fpOp p (s.xr a)) (fpOp p (s.xr b))).1 then 1 else 0) (fpCmp c (fpOp p (s.xr a)) (fpOp p (s.xr b))).2 :=
  fpEnds_fpEnd h

/-! ### The integer of ICVTF -/

theorem sx_eq_toInt (w v : Nat) : sx w v = (BitVec.ofNat w v).toInt := by
  rw [BitVec.toInt_eq_toNat_cond, BitVec.toNat_ofNat]
  rfl

theorem intOperand_eq (t v : Nat) : (if intSigned t then sx (intWidth t) v else Int.ofNat (v % 2 ^ intWidth t)) =
    if t < 4 then (BitVec.ofNat (8 * 2 ^ (t % 4)) v).toInt else ((v % 2 ^ (8 * 2 ^ (t % 4)) : Nat) : Int) := by
  simp only [intSigned, decide_eq_true_eq, sx_eq_toInt]
  rfl

/-- Settles O22: every word is one of the three ends above. -/
theorem floatingArithmeticWords : Obligations.FloatingArithmeticWords := by
  intro s d a b y r p q ty
  refine ⟨fpEnds_fp rfl, fpEnds_fp rfl, fpEnds_fp rfl, fpEnds_fp rfl, fpEnds_fp rfl, fpEnds_fp rfl, fpEnds_fp rfl, fpEnds_fp rfl,
    fpEnds_fp rfl, fpEnds_fp rfl, fpEnds_fp rfl, fpEnds_fp rfl, fpEnds_fp rfl, fpEnds_fp rfl, fpEnds_fp rfl, ?_, fpEnds_fpEnd rfl,
    fpEnds_fcmp rfl, fpEnds_fcmp rfl, fpEnds_fcmp rfl, fpEnds_fcmp rfl, fpEnds_fcmp rfl⟩
  rw [← intOperand_eq]
  exact fpEnds_fp rfl

end Sys2Proof.Machine
end

section
/-! Compact integer words: the effect of their 32-bit forms, two bytes on (O5). -/

open Sys2Proof

namespace Sys2Proof.Machine

/-! ### Shifts as numbers -/

theorem shiftLeft_eq_ofNat (x : Word) (n : Nat) : x <<< n = BitVec.ofNat 64 (x.toNat * 2 ^ n) := by
  rw [← Nat.shiftLeft_eq]
  rfl

theorem ushiftRight_eq_ofNat (x : Word) (n : Nat) : x >>> n = BitVec.ofNat 64 (x.toNat / 2 ^ n) := by
  rw [← Nat.shiftRight_eq_div_pow, ← BitVec.toNat_ushiftRight, BitVec.ofNat_toNat, BitVec.setWidth_eq]

theorem sshiftRight_eq_ofInt (x : Word) (n : Nat) : x.sshiftRight n = BitVec.ofInt 64 (x.toInt / 2 ^ n) := by
  rw [BitVec.sshiftRight, Int.shiftRight_eq_div_pow]
  norm_cast

/-- Settles O5: each word ends in a write of x[d] or in a bare advance, and its shifts are multiplications and divisions by a power of two. -/
theorem compactIntegerWords : Obligations.CompactIntegerWords := by
  intro s d b i4 n i6 x y sh
  refine ⟨writesX_wr rfl, writesX_wr rfl, writesX_wr rfl, writesX_wr rfl, writesX_wr rfl, ?sll, ?srl, ?sra, writesX_wr rfl, writesX_wr rfl,
    ?slli, ?srli, writesX_wr rfl, movesPc_complete rfl, movesPc_complete rfl⟩
  case sll =>
    rw [← shiftLeft_eq_ofNat]
    exact writesX_wr rfl
  case srl =>
    rw [← ushiftRight_eq_ofNat]
    exact writesX_wr rfl
  case sra =>
    rw [← sshiftRight_eq_ofInt]
    exact writesX_wr rfl
  case slli =>
    rw [← shiftLeft_eq_ofNat]
    exact writesX_wr rfl
  case srli =>
    rw [← ushiftRight_eq_ofNat]
    exact writesX_wr rfl

end Sys2Proof.Machine
end

section
/-! Packed words: an opcode and operands at places of their own, and how their fields read (O59). -/

open Sys2Proof

namespace Sys2Proof

/-! ### A field of a sum -/

section
variable {w m p q n : Nat} (x : BitVec n)

theorem field_add_above (y : Nat) (h : m % (p * q) = 0) : (w + y * m) / p % q = w / p % q := by
  obtain ⟨t, rfl⟩ := Nat.dvd_of_mod_eq_zero h
  obtain rfl | hp := p.eq_zero_or_pos
  · simp only [Nat.div_zero]
  · rw [show y * (p * q * t) = p * (q * (y * t)) by ring, Nat.add_mul_div_left _ _ hp, Nat.add_mul_mod_self_left]

variable (hm : m ≠ 0) (clear : w / m % 2 ^ n = 0)
include hm clear

theorem field_add_here : (w + x.toNat * m) / m % 2 ^ n = x.toNat := by
  rw [Nat.add_mul_div_right _ _ (Nat.pos_of_ne_zero hm), Nat.add_mod, clear, Nat.zero_add, Nat.mod_mod, Nat.mod_eq_of_lt x.isLt]

/-- Into clear bits an operand is added without a carry. -/
theorem field_add_below (h : p % (m * 2 ^ n) = 0) : (w + x.toNat * m) / p = w / p := by
  obtain ⟨t, rfl⟩ := Nat.dvd_of_mod_eq_zero h
  have noCarry : (w / m + x.toNat) / 2 ^ n = w / m / 2 ^ n := by
    rw [← Nat.div_add_mod (w / m) (2 ^ n), clear, Nat.add_zero, Nat.mul_add_div (Nat.two_pow_pos n), Nat.div_eq_of_lt x.isLt,
      Nat.mul_div_cancel_left _ (Nat.two_pow_pos n), Nat.add_zero]
  simp only [← Nat.div_div_eq_div_mul, Nat.add_mul_div_right _ _ (Nat.pos_of_ne_zero hm), noCarry]

end

/-! ### Operands and their layout -/

/-- Operands, each at a place: the weight of its lowest bit. The index is their layout, the weight and the width of each. -/
inductive Operands : List (Nat × Nat) → Type
  | none : Operands []
  | put {s : List (Nat × Nat)} {n : Nat} (os : Operands s) (x : BitVec n) (m : Nat) : Operands ((m, n) :: s)

/-- The word of an opcode and operands. -/
def packed (c : Nat) {s : List (Nat × Nat)} : Operands s → Nat
  | .none => c
  | .put os x m => packed c os + x.toNat * m

/-- The operand of n bits at a place. -/
def Operands.at {s : List (Nat × Nat)} (os : Operands s) (p n : Nat) : BitVec n :=
  match os with
  | .none => 0
  | .put (n := k) os x m => if h : m = p ∧ k = n then x.cast h.2 else os.at p n

/-- The field of q values at a place lies below or above an operand of a layout. -/
def apart (p q : Nat) (f : Nat × Nat) : Bool := f.1 % (p * q) == 0 || p % (f.1 * 2 ^ f.2) == 0

/-- The operands of a layout lie apart from each other, in bits that the opcode leaves clear. -/
def fits (c : Nat) : List (Nat × Nat) → Bool
  | [] => true
  | f :: s => f.1 != 0 && c / f.1 % 2 ^ f.2 == 0 && s.all (apart f.1 (2 ^ f.2)) && fits c s

theorem fits_cons {c m n : Nat} {s : List (Nat × Nat)} :
    fits c ((m, n) :: s) = true ↔ m ≠ 0 ∧ c / m % 2 ^ n = 0 ∧ s.all (apart m (2 ^ n)) = true ∧ fits c s = true := by
  simp only [fits, Bool.and_eq_true, bne_iff_ne, beq_iff_eq, and_assoc]

/-- A field apart from every operand is the opcode's. -/
theorem packed_fixed {c p q : Nat} {s : List (Nat × Nat)} {os : Operands s} (hf : fits c s = true) (ha : s.all (apart p q) = true) :
    packed c os / p % q = c / p % q := by
  induction os generalizing p q with
  | none => rfl
  | put os x m ih =>
    obtain ⟨hm, hc, hs, hf⟩ := fits_cons.1 hf
    rw [List.all_cons, Bool.and_eq_true] at ha
    obtain ⟨hx, hrest⟩ := ha
    rw [← ih hf hrest, packed]
    simp only [apart, Bool.or_eq_true, beq_iff_eq] at hx
    obtain above | below := hx
    · exact field_add_above _ above
    · rw [field_add_below x hm ((ih hf hs).trans hc) below]

/-- The field of an operand is the operand. -/
theorem packed_operand {c p k : Nat} {s : List (Nat × Nat)} {os : Operands s} (hf : fits c s = true) (hk : (p, k) ∈ s) :
    packed c os / p % 2 ^ k = (os.at p k).toNat := by
  induction os with
  | none => cases hk
  | put os x m ih =>
    obtain ⟨hm, hc, hs, hf⟩ := fits_cons.1 hf
    have clear := (packed_fixed (os := os) hf hs).trans hc
    rw [packed, Operands.at]
    split
    case isTrue h =>
      obtain ⟨rfl, rfl⟩ := h
      exact field_add_here x hm clear
    case isFalse h =>
      have inner := (List.mem_cons.1 hk).resolve_left fun e => h ⟨(congrArg Prod.fst e).symm, (congrArg Prod.snd e).symm⟩
      have away := List.all_eq_true.1 hs _ inner
      rw [← ih hf inner]
      simp only [apart, Bool.or_eq_true, beq_iff_eq] at away
      obtain below | above := away
      · rw [field_add_below x hm clear below]
      · exact field_add_above _ above

/-! ### The decoder's readings of a packed word -/

theorem toNat_bits (w lo n : Nat) : (bits w lo n).toNat = fld w lo n := BitVec.toNat_ofNat ..

section
variable {w c : Nat} {s : List (Nat × Nat)} {os : Operands s} (e : w = packed c os) {lo n : Nat}
include e

theorem fixed_field (h : (fits c s && s.all (apart (2 ^ lo) (2 ^ n))) = true) : fld w lo n = c / 2 ^ lo % 2 ^ n := by
  rw [Bool.and_eq_true] at h
  exact e ▸ packed_fixed h.1 h.2

theorem operand_field (h : (fits c s && s.contains (2 ^ lo, n)) = true) : fld w lo n = (os.at (2 ^ lo) n).toNat := by
  rw [Bool.and_eq_true, List.contains_iff_mem] at h
  exact e ▸ packed_operand h.1 h.2

theorem operand_bits (h : (fits c s && s.contains (2 ^ lo, n)) = true) : bits w lo n = os.at (2 ^ lo) n :=
  BitVec.eq_of_toNat_eq ((toNat_bits ..).trans (operand_field e h))

end

end Sys2Proof
end

section
/-! Decoding what is encoded: each word through the decoder of its major (O59). -/

open Sys2Proof

namespace Sys2Proof

/-! ### An encoded word as a packed one -/

theorem packed_opcode {c n m : Nat} (x : BitVec n) :
    no_index (OfNat.ofNat c) + x.toNat * m = packed (OfNat.ofNat c) (Operands.none.put x m) := rfl

theorem packed_put {c n m : Nat} {s : List (Nat × Nat)} (os : Operands s) (x : BitVec n) :
    packed c os + x.toNat * m = packed c (os.put x m) := rfl

/-! Branch offsets, the count of LOOPI and control register numbers stand in two parts. -/

section
variable {n : Nat}

theorem toNat_div_16 (x : BitVec (n + 4)) : x.toNat / 16 = (x.extractLsb' 4 n).toNat := by
  have fits : x.toNat / 16 < 2 ^ n := Nat.div_lt_of_lt_mul (by rw [Nat.mul_comm]; exact Nat.pow_add 2 n 4 ▸ x.isLt)
  rw [BitVec.extractLsb'_toNat, Nat.shiftRight_eq_div_pow, Nat.mod_eq_of_lt fits]

theorem toNat_div_256 (x : BitVec (n + 8)) : x.toNat / 256 = (x.extractLsb' 8 n).toNat := by
  have fits : x.toNat / 256 < 2 ^ n := Nat.div_lt_of_lt_mul (by rw [Nat.mul_comm]; exact Nat.pow_add 2 n 8 ▸ x.isLt)
  rw [BitVec.extractLsb'_toNat, Nat.shiftRight_eq_div_pow, Nat.mod_eq_of_lt fits]

theorem toNat_mod_16 (x : BitVec n) : x.toNat % 16 = (x.extractLsb' 0 4).toNat := by
  rw [BitVec.extractLsb'_toNat, Nat.shiftRight_zero]

theorem toNat_mod_256 (x : BitVec n) : x.toNat % 256 = (x.extractLsb' 0 8).toNat := by
  rw [BitVec.extractLsb'_toNat, Nat.shiftRight_zero]

theorem ofNat_parts_16 (x : BitVec (n + 4)) :
    BitVec.ofNat (n + 4) ((x.extractLsb' 4 n).toNat * 16 + (x.extractLsb' 0 4).toNat) = x := by
  rw [← toNat_div_16, ← toNat_mod_16, Nat.div_add_mod', BitVec.ofNat_toNat, BitVec.setWidth_eq]

theorem ofNat_parts_256 (x : BitVec (n + 8)) :
    BitVec.ofNat (n + 8) ((x.extractLsb' 8 n).toNat * 256 + (x.extractLsb' 0 8).toNat) = x := by
  rw [← toNat_div_256, ← toNat_mod_256, Nat.div_add_mod', BitVec.ofNat_toNat, BitVec.setWidth_eq]

end

/-! ### The families of words

In each case the word is packed, the decoders select by fields of its opcode, and the operands are read back. The bounds name the rows of
the opcode table where a family begins and ends. -/

theorem accept_eq_ok {fixed : Bool} {i j : Instr} (hf : fixed = true) (hj : j = i) (hi : wellFormed i = true) : accept fixed j = .ok i := by
  simp only [accept, hf, hj, hi, if_true]

section
variable {i : Instr} {w : Nat} (e : w = encodeWord i) (hw : wellFormed i = true)
include e hw

theorem decode32_integer (hi : i.ctorIdx < (Instr.beq 0 0 0).ctorIdx) : decode32 w = .ok i := by
  cases i <;> simp only [Instr.ctorIdx, Nat.reduceLT] at hi
  all_goals
    simp only [encodeWord, packed_opcode, packed_put] at e
    simp (disch := decide) only [decode32, decodeIntReg, decodeShiftImm, decodeKReg, decodeBitField, fixed_field e, operand_bits e,
      Nat.reducePow, Nat.div_one, Nat.reduceDiv, Nat.reduceMod]
    exact accept_eq_ok rfl rfl hw

/-- Control and memory words. The order of a and b tells BEQ from BNE (R83). -/
theorem decode32_control_memory (lo : (Instr.beq 0 0 0).ctorIdx ≤ i.ctorIdx) (hi : i.ctorIdx < (Instr.fadd 0 0 0 0 0 0).ctorIdx) :
    decode32 w = .ok i := by
  cases i <;> simp only [Instr.ctorIdx, Nat.reduceLT, Nat.reduceLeDiff] at lo hi
  all_goals
    simp only [encodeWord, toNat_div_16, toNat_mod_16, packed_opcode, packed_put] at e
    simp (disch := decide) only [decode32, decodeControl, decodeLoad, decodeLoadU, decodeStore, decodeWaitWalk, decodeAtomic,
      fixed_field e, operand_field e, operand_bits e, Nat.reducePow, Nat.div_one, Nat.reduceDiv, Nat.reduceMod, Nat.lt_irrefl, if_false]
  case beq a b o =>
    have accepted := accept_eq_ok rfl (congrArg (Instr.beq a b) (ofNat_parts_16 o)) hw
    have order : a.toNat < b.toNat ∨ a = 0#4 ∧ b = 0#4 := by
      simpa only [wellFormed, Bool.or_eq_true, Bool.and_eq_true, decide_eq_true_eq, beq_iff_eq] using hw
    obtain lt | ⟨rfl, rfl⟩ := order
    · exact (if_pos lt).trans accepted
    · exact accepted
  case bne a b o =>
    have lt : b.toNat < a.toNat := of_decide_eq_true hw
    exact (if_neg lt.asymm).trans ((if_pos lt).trans (accept_eq_ok rfl (congrArg (Instr.bne a b) (ofNat_parts_16 o)) hw))
  case blt a b o => exact accept_eq_ok rfl (congrArg (Instr.blt a b) (ofNat_parts_16 o)) hw
  case bge a b o => exact accept_eq_ok rfl (congrArg (Instr.bge a b) (ofNat_parts_16 o)) hw
  case bltu a b o => exact accept_eq_ok rfl (congrArg (Instr.bltu a b) (ofNat_parts_16 o)) hw
  case bgeu a b o => exact accept_eq_ok rfl (congrArg (Instr.bgeu a b) (ofNat_parts_16 o)) hw
  case loopi l n => exact accept_eq_ok rfl (congrArg (Instr.loopi l) (ofNat_parts_16 n)) hw
  all_goals exact accept_eq_ok rfl rfl hw

theorem decode32_float (lo : (Instr.fadd 0 0 0 0 0 0).ctorIdx ≤ i.ctorIdx) (hi : i.ctorIdx < (Instr.vadd 0 0 0 0 0).ctorIdx) :
    decode32 w = .ok i := by
  cases i <;> simp only [Instr.ctorIdx, Nat.reduceLT, Nat.reduceLeDiff] at lo hi
  all_goals
    simp only [encodeWord, packed_opcode, packed_put] at e
    simp (disch := decide) only [decode32, decodeFpArith, decodeFpConv, fixed_field e, operand_bits e, Nat.reducePow, Nat.div_one,
      Nat.reduceDiv, Nat.reduceMod]
    exact accept_eq_ok rfl rfl hw

theorem decode32_vector (lo : (Instr.vadd 0 0 0 0 0).ctorIdx ≤ i.ctorIdx) (hi : i.ctorIdx < (Instr.mldb 0 0 0).ctorIdx) :
    decode32 w = .ok i := by
  cases i <;> simp only [Instr.ctorIdx, Nat.reduceLT, Nat.reduceLeDiff] at lo hi
  all_goals
    simp only [encodeWord, packed_opcode, packed_put] at e
    simp (disch := decide) only [decode32, decodeVecElem, decodeVecReduce, decodeVecMove, decodeSequencer, fixed_field e, operand_bits e,
      Nat.reducePow, Nat.div_one, Nat.reduceDiv, Nat.reduceMod]
    exact accept_eq_ok rfl rfl hw

/-- Matrix, drover, stream, hurdle, message, launch and system words. -/
theorem decode32_engine_system (lo : (Instr.mldb 0 0 0).ctorIdx ≤ i.ctorIdx) (hi : i.ctorIdx < (Instr.addC 0 0).ctorIdx) :
    decode32 w = .ok i := by
  cases i <;> simp only [Instr.ctorIdx, Nat.reduceLT, Nat.reduceLeDiff] at lo hi
  all_goals
    simp only [encodeWord, toNat_div_256, toNat_mod_256, packed_opcode, packed_put] at e
    simp (disch := decide) only [decode32, decodeMatrix, decodeDrover, decodeStream, decodeHurdle, decodeMessage, decodeLaunch, decodeSystem,
      fixed_field e, operand_field e, operand_bits e, Nat.reducePow, Nat.div_one, Nat.reduceDiv, Nat.reduceMod]
  case mfc d n => exact accept_eq_ok rfl (congrArg (Instr.mfc d) (ofNat_parts_256 n)) hw
  case mtc n a => exact accept_eq_ok rfl (congrArg (Instr.mtc · a) (ofNat_parts_256 n)) hw
  all_goals exact accept_eq_ok rfl rfl hw

/-- The last rows with a 32-bit word are those without an operand: one number each. -/
theorem decode32_of_encodeWord (h4 : wordBytes i = 4) : decode32 w = .ok i := by
  obtain integer | h1 := Nat.lt_or_ge i.ctorIdx (Instr.beq 0 0 0).ctorIdx
  · exact decode32_integer e hw integer
  obtain control | h2 := Nat.lt_or_ge i.ctorIdx (Instr.fadd 0 0 0 0 0 0).ctorIdx
  · exact decode32_control_memory e hw h1 control
  obtain float | h3 := Nat.lt_or_ge i.ctorIdx (Instr.vadd 0 0 0 0 0).ctorIdx
  · exact decode32_float e hw h2 float
  obtain vector | h5 := Nat.lt_or_ge i.ctorIdx (Instr.mldb 0 0 0).ctorIdx
  · exact decode32_vector e hw h3 vector
  obtain system | h6 := Nat.lt_or_ge i.ctorIdx (Instr.addC 0 0).ctorIdx
  · exact decode32_engine_system e hw h5 system
  clear h1 h2 h3 h5
  cases i <;> simp only [Instr.ctorIdx, wordBytes, Nat.reduceEqDiff, Nat.reduceLeDiff, ge_iff_le] at h4 h6
  all_goals exact e ▸ rfl

theorem decode16_of_encodeWord (h2 : wordBytes i = 2) : decode16 w = .ok i := by
  cases i <;> simp only [wordBytes, Nat.reduceEqDiff] at h2
  case nopC | exitC | yieldC | sevC | vsyncC | splitC | rejoinC | joinC => exact e ▸ rfl
  all_goals
    simp only [encodeWord, packed_opcode, packed_put] at e
    simp (disch := decide) only [decode16, decodeCompactA, decodeCompactB, decodeCompactC, decodeCompactD, fixed_field e, operand_bits e,
      Nat.reducePow, Nat.div_one, Nat.reduceDiv, Nat.reduceMod]
    exact accept_eq_ok rfl rfl hw

end

/-! ### Sizes -/

theorem encodeWord_lt (i : Instr) : encodeWord i < 2 ^ 32 := by
  cases i <;> simp only [encodeWord, Nat.reducePow, Nat.reduceLT] <;> omega

theorem encodeWord_lt_of_compact {i : Instr} (h : wordBytes i = 2) : encodeWord i < 2 ^ 16 := by
  cases i <;> simp only [wordBytes, Nat.reduceEqDiff] at h
  all_goals simp only [encodeWord, Nat.reducePow, Nat.reduceLT] <;> omega

theorem wordBytes_of_hasWord {i : Instr} (h : hasWord i = true) : wordBytes i = 2 ∨ wordBytes i = 4 := by
  cases i <;> simp only [hasWord, Bool.false_eq_true] at h
  all_goals simp only [wordBytes, Nat.reduceEqDiff, or_true, or_false]

end Sys2Proof
end

section
/-! The round trip on bytes (O59) and the words of the spec's examples (O56). -/

open Sys2Proof

namespace Sys2Proof

/-! ### Bytes -/

theorem length_leBytes : ∀ n v : Nat, (leBytes n v).length = n
  | 0, _ => rfl
  | n + 1, v => congrArg (· + 1) (length_leBytes n (v / 256))

/-- R76: bit 0 of a word tells its length. -/
theorem odd_of_decode32 {w : Nat} {i : Instr} (h : decode32 w = .ok i) : w % 2 = 1 := by
  have bit : fld w 0 7 % 2 = w % 2 := by simp only [fld]; omega
  unfold decode32 at h
  split at h
  case h_38 => cases h
  all_goals omega

theorem even_of_decode16 {w : Nat} {i : Instr} (h : decode16 w = .ok i) : w % 2 = 0 := by
  have bit : fld w 0 6 % 2 = w % 2 := by simp only [fld]; omega
  unfold decode16 at h
  split at h
  case h_13 => cases h
  all_goals omega

theorem decode_leBytes_two {w : Nat} (even : w % 2 = 0) (lt : w < 2 ^ 16) (rest : List Byte) :
    decode (leBytes 2 w ++ rest) = (decode16 w).map (·, rest) := by
  have low : w % 2 ^ 8 % 2 = 0 := by omega
  have value : w % 2 ^ 8 + 256 * (w / 256 % 2 ^ 8) = w := by omega
  simp only [leBytes, List.cons_append, List.nil_append, decode, BitVec.toNat_ofNat, low, value, if_true]

theorem decode_leBytes_four {w : Nat} (odd : w % 2 = 1) (lt : w < 2 ^ 32) (rest : List Byte) :
    decode (leBytes 4 w ++ rest) = (decode32 w).map (·, rest) := by
  have low : ¬ w % 2 ^ 8 % 2 = 0 := by omega
  have value : w % 2 ^ 8 + 256 * (w / 256 % 2 ^ 8) + 65536 * (w / 256 / 256 % 2 ^ 8) + 16777216 * (w / 256 / 256 / 256 % 2 ^ 8) = w := by omega
  simp only [leBytes, List.cons_append, List.nil_append, decode, BitVec.toNat_ofNat, low, value, if_false]

/-! ### Every word -/

theorem decode_encode {i : Instr} (h : hasWord i = true) (hw : wellFormed i = true) (rest : List Byte) :
    decode (encode i ++ rest) = .ok (i, rest) := by
  obtain h2 | h4 := wordBytes_of_hasWord h
  · have decoded := decode16_of_encodeWord rfl hw h2
    rw [encode, h2, decode_leBytes_two (even_of_decode16 decoded) (encodeWord_lt_of_compact h2), decoded]
    rfl
  · have decoded := decode32_of_encodeWord rfl hw h4
    rw [encode, h4, decode_leBytes_four (odd_of_decode32 decoded) (encodeWord_lt i), decoded]
    rfl

/-- Settles O59: the word is read by the decoder of its major, from as many bytes as bit 0 tells. -/
theorem decodeOfEncode : Obligations.DecodeOfEncode := fun _ rest h hw =>
  ⟨decode_encode h hw rest, length_leBytes .., wordBytes_of_hasWord h⟩

theorem leBytes_four (v : Nat) : leBytes 4 v = leBytes 2 v ++ leBytes 2 (v / 256 / 256) := rfl

/-- A word as the opcode table numbers its bits decodes to the instruction it encodes. -/
theorem decodeTableWord_of_encodeWord {i : Instr} {n v : Nat} (h : hasWord i = true) (hw : wellFormed i = true) (hn : n = 8 * wordBytes i)
    (hv : v = encodeWord i) : decodeTableWord n v = some i := by
  obtain h2 | h4 := wordBytes_of_hasWord h
  · have decoded := decode_encode h hw (leBytes 2 (encodeWord i / 256 / 256))
    rw [encode, h2] at decoded
    rw [decodeTableWord, hv, hn, h2, Nat.mod_eq_of_lt (encodeWord_lt_of_compact h2), leBytes_four, decoded]
  · have decoded := decode_encode h hw []
    rw [encode, h4, List.append_nil] at decoded
    rw [decodeTableWord, hv, hn, h4, Nat.mod_eq_of_lt (encodeWord_lt i), decoded]

/-- Settles O56: each word is the encoding of its instruction; the two illegal ones are refused. -/
theorem wordsDecode : Obligations.WordsDecode := by
  unfold Obligations.WordsDecode
  and_intros
  on_goal -1 => rfl
  on_goal -1 => rfl
  all_goals exact decodeTableWord_of_encodeWord rfl rfl rfl rfl

end Sys2Proof
end

section
/-! Own-slot words: words whose effect stays in their thread's slot, and the fields of its status word. -/

open Sys2Proof

namespace Sys2Proof.Machine

/-! ### Fields of the status word -/

theorem extractLsb'_putField_same (w : Word) {lo n : Nat} (h : lo + n ≤ 64) (v : Nat) :
    (putField w lo n v).extractLsb' lo n = BitVec.ofNat n v := by
  refine BitVec.eq_of_getLsbD_eq fun j hj => ?_
  rw [BitVec.getLsbD_extractLsb', getLsbD_putField (by omega), if_pos (by omega), Nat.add_sub_cancel_left, BitVec.getLsbD_ofNat]

theorem extractLsb'_putField_apart (w : Word) {lo n lo' n' : Nat} (h : lo' + n' ≤ 64) (apart : lo' + n' ≤ lo ∨ lo + n ≤ lo') (v : Nat) :
    (putField w lo n v).extractLsb' lo' n' = w.extractLsb' lo' n' := by
  refine BitVec.eq_of_getLsbD_eq fun j hj => ?_
  rw [BitVec.getLsbD_extractLsb', BitVec.getLsbD_extractLsb', getLsbD_putField (by omega), if_neg (by omega)]

@[simp] theorem Slot.setEvt_evt (sl : Slot) (v : BitVec 8) : (sl.setEvt v).evt = v :=
  (extractLsb'_putField_same _ (by decide) _).trans (by rw [BitVec.ofNat_toNat, BitVec.setWidth_eq])

@[simp] theorem Slot.setEvt_flags (sl : Slot) (v : BitVec 8) : (sl.setEvt v).flags = sl.flags :=
  extractLsb'_putField_apart _ (by decide) (by decide) _

theorem Slot.setFlk_flk (sl : Slot) (v : Nat) : (sl.setFlk v).flk = v % 4 :=
  congrArg BitVec.toNat (extractLsb'_putField_same sl.status (by decide : 16 + 2 ≤ 64) v)

/-! ### Ends of a word -/

/-- A completed word's pc passes through the loop entries, whatever else its slot has changed. -/
theorem Slot.at_complete_of_loops {a b : Slot} (h : b.loops = a.loops) (w : Word) (q : Bool) : a.At (b.complete w q) w q :=
  ⟨rfl, rfl, by rw [← h]; rfl⟩

theorem State.xr_of_x {s t : State} (h : t.cur.x = s.cur.x) (r : Reg) : t.xr r = s.xr r := by
  rw [State.xr, State.xr, Slot.xr, Slot.xr, h]

section
variable {s : State} {i : Instr}

/-- A change of the executing thread's own slot that leaves x. -/
theorem ownSlot_updCur {f : Slot → Slot} (hx : (f s.cur).x = s.cur.x) :
    (s.updCur f).cur = f s.cur ∧ (∀ r, (s.updCur f).xr r = s.xr r) ∧ SameElsewhere s (s.updCur f) :=
  ⟨State.cur_updCur .., State.xr_of_x (by rw [State.cur_updCur, hx]), State.sameElsewhere_updCur ..⟩

/-- The usual end of a word, its value in another form. -/
theorem writesX_wr_of_eq {d : Reg} {u v : Word} {len : Nat} (e : u = v)
    (h : exec i s = .next (s.wr d u len)) : WritesX i s d v len :=
  e ▸ writesX_wr h

theorem answers_block {w : Wait} (h : exec i s = .next (s.block w)) : Answers (exec i s) fun u =>
    u.cur.st = .block ∧ u.cur.wait = w ∧ u.cur.pc = s.cur.pc ∧ SameElsewhere s u := by
  have cur : (s.block w).cur = { s.cur with st := .block, wait := w } := State.cur_updCur ..
  exact ⟨_, h, by rw [cur], by rw [cur], by rw [cur], State.sameElsewhere_updCur ..⟩

theorem movesPc_done (h : exec i s = .next (s.done len)) : MovesPc i s (s.cur.pc + BitVec.ofNat 64 len) true :=
  movesPc_complete h

end

end Sys2Proof.Machine
end

section
/-! Two-source integer words: comparisons, minima and maxima, rotations and high products as R112 writes them (O1). -/

open Sys2Proof

namespace Sys2Proof.Machine

/-! ### Comparisons as numbers -/

theorem tw_eq_ite {b : Bool} {p : Prop} [Decidable p] (h : b = true ↔ p) : tw b = if p then 1 else 0 := by
  by_cases hp : p
  · rw [if_pos hp, h.2 hp]
    rfl
  · rw [if_neg hp, Bool.eq_false_iff.2 (mt h.1 hp)]
    rfl

/-- A choice between two words, as the same choice between their signed values. -/
theorem ite_eq_ofInt (x y : Word) {c : Bool} {p : Prop} [Decidable p] (h : c = true ↔ p) :
    (if c then x else y) = BitVec.ofInt 64 (if p then x.toInt else y.toInt) := by
  rw [apply_ite (BitVec.ofInt 64), BitVec.ofInt_toInt, BitVec.ofInt_toInt]
  exact if_congr h rfl rfl

theorem ite_eq_ofNat (x y : Word) {c : Bool} {p : Prop} [Decidable p] (h : c = true ↔ p) :
    (if c then x else y) = BitVec.ofNat 64 (if p then x.toNat else y.toNat) := by
  rw [apply_ite (BitVec.ofNat 64), BitVec.ofNat_toNat, BitVec.ofNat_toNat, BitVec.setWidth_eq, BitVec.setWidth_eq]
  exact if_congr h rfl rfl

theorem not_slt_iff (x y : Word) : (!x.slt y) = true ↔ y.toInt ≤ x.toInt := by
  rw [Bool.not_eq_true', Bool.eq_false_iff, Ne, BitVec.slt_iff_toInt_lt, not_lt]

theorem not_ult_iff (x y : Word) : (!x.ult y) = true ↔ y.toNat ≤ x.toNat := by
  rw [Bool.not_eq_true', Bool.eq_false_iff, Ne, BitVec.ult_iff_lt, BitVec.lt_def, not_lt]

theorem minW_eq_ofInt (x y : Word) : (if x.slt y then x else y) = BitVec.ofInt 64 (min x.toInt y.toInt) := by
  rw [min_def_lt]
  exact ite_eq_ofInt x y BitVec.slt_iff_toInt_lt

theorem maxW_eq_ofInt (x y : Word) : (if x.slt y then y else x) = BitVec.ofInt 64 (max x.toInt y.toInt) := by
  rw [max_def_lt]
  exact ite_eq_ofInt y x BitVec.slt_iff_toInt_lt

theorem minuW_eq_ofNat (x y : Word) : (if x.ult y then x else y) = BitVec.ofNat 64 (min x.toNat y.toNat) := by
  rw [min_def_lt]
  exact ite_eq_ofNat x y BitVec.ult_iff_lt

theorem maxuW_eq_ofNat (x y : Word) : (if x.ult y then y else x) = BitVec.ofNat 64 (max x.toNat y.toNat) := by
  rw [max_def_lt]
  exact ite_eq_ofNat y x BitVec.ult_iff_lt

/-! ### Rotations and products -/

theorem rotateLeft_eq_shifts (x y : Word) :
    x.rotateLeft (y.toNat % 64) = x <<< (y.toNat % 64) ||| x >>> (64 - y.toNat % 64) := by
  rw [BitVec.rotateLeft_def, Nat.mod_mod]

theorem rotateRight_eq_shifts (x y : Word) :
    x.rotateRight (y.toNat % 64) = x >>> (y.toNat % 64) ||| x <<< (64 - y.toNat % 64) := by
  rw [BitVec.rotateRight_def, Nat.mod_mod]

theorem mul_eq_ofNat (x y : Word) : x * y = BitVec.ofNat 64 (x.toNat * y.toNat) := by
  rw [BitVec.ofNat_mul, BitVec.ofNat_toNat, BitVec.ofNat_toNat, BitVec.setWidth_eq, BitVec.setWidth_eq]

/-- Bits 127..64 of a product are its quotient by 2^64, modulo 2^64. -/
theorem mulHigh_eq_ofInt (p q : Int) : mulHigh p q = BitVec.ofInt 64 (p * q / 2 ^ 64) := by
  apply BitVec.eq_of_toNat_eq
  simp only [mulHigh, nw, wrapTo, BitVec.toNat_ofNat, BitVec.toNat_ofInt, Int.ofNat_eq_natCast]
  push_cast
  omega

theorem mulHigh_natCast (m n : Nat) : mulHigh (Int.ofNat m) (Int.ofNat n) = BitVec.ofNat 64 (m * n / 2 ^ 64) := by
  rw [mulHigh_eq_ofInt, ← BitVec.ofInt_natCast]
  push_cast
  rfl

/-- Settles O1: each word is one write of x[d], its value rewritten into R112's form. -/
theorem integerRegisterWords : Obligations.IntegerRegisterWords := by
  intro s d a b x y sh
  exact ⟨writesX_wr rfl, writesX_wr rfl, writesX_wr rfl, writesX_wr rfl, writesX_wr rfl, writesX_wr rfl, writesX_wr rfl,
    writesX_wr_of_eq (shiftLeft_eq_ofNat x sh) rfl, writesX_wr_of_eq (ushiftRight_eq_ofNat x sh) rfl,
    writesX_wr_of_eq (sshiftRight_eq_ofInt x sh) rfl, writesX_wr_of_eq (rotateLeft_eq_shifts x y) rfl,
    writesX_wr_of_eq (rotateRight_eq_shifts x y) rfl, writesX_wr_of_eq (tw_eq_ite BitVec.slt_iff_toInt_lt) rfl,
    writesX_wr_of_eq (tw_eq_ite BitVec.ult_iff_lt) rfl, writesX_wr_of_eq (tw_eq_ite beq_iff_eq) rfl,
    writesX_wr_of_eq (tw_eq_ite bne_iff_ne) rfl, writesX_wr_of_eq (minW_eq_ofInt x y) rfl,
    writesX_wr_of_eq (maxW_eq_ofInt x y) rfl, writesX_wr_of_eq (minuW_eq_ofNat x y) rfl,
    writesX_wr_of_eq (maxuW_eq_ofNat x y) rfl, writesX_wr_of_eq (mul_eq_ofNat x y) rfl,
    writesX_wr_of_eq (mulHigh_eq_ofInt x.toInt y.toInt) rfl, writesX_wr_of_eq (mulHigh_natCast x.toNat y.toNat) rfl,
    writesX_wr_of_eq (mulHigh_eq_ofInt x.toInt y.toNat) rfl⟩

end Sys2Proof.Machine
end

section
/-! Immediate and bit-field words: fields of a word, extended and inserted (O4). -/

open Sys2Proof

namespace Sys2Proof.Machine

/-- A number read as two's complement and extended. -/
theorem sextW_eq (n : Nat) (a : Word) : sextW n a = (a.setWidth n).signExtend 64 := by
  rw [sextW, sx_eq_toInt, BitVec.ofNat_toNat, BitVec.signExtend]

theorem zextW_eq (n : Nat) (a : Word) : zextW n a = (a.setWidth n).setWidth 64 := by
  rw [zextW, nw, ← BitVec.toNat_setWidth, BitVec.ofNat_toNat]

/-- An immediate moved up 16 bits is a multiple of 2^16. -/
theorem imm_shiftLeft {n : Nat} (i : BitVec n) : imm i <<< 16 = BitVec.ofInt 64 (i.toInt * 2 ^ 16) := by
  rw [imm, BitVec.signExtend, BitVec.shiftLeft_eq_mul_twoPow, BitVec.ofInt_mul]
  rfl

/-- The bits pos+len-1..pos of a word, as a word. -/
theorem nw_bfField (x : Word) (pos len : Nat) : nw (bfField x pos len) = (x.extractLsb' pos len).setWidth 64 := by
  rw [nw, bfField, nf, ← Nat.shiftRight_eq_div_pow, ← BitVec.extractLsb'_toNat, BitVec.ofNat_toNat]

theorem sextW_bfField (x : Word) (pos : Nat) {len : Nat} (h : len ≤ 64) :
    sextW len (nw (bfField x pos len)) = (x.extractLsb' pos len).signExtend 64 := by
  rw [sextW_eq, nw_bfField, BitVec.setWidth_setWidth_of_le _ h, BitVec.setWidth_eq]

/-- A field inserted over another one. -/
theorem getLsbD_bfi (x y : Word) {pos len j : Nat} (hj : j < 64) : (putField x pos len (bfField y 0 len)).getLsbD j =
    if pos ≤ j ∧ j < pos + len then y.getLsbD (j - pos) else x.getLsbD j := by
  have field : bfField y 0 len = wf y 0 len := rfl
  rw [getLsbD_putField hj, field, testBit_wf, Nat.zero_add]
  split
  · next inside => rw [decide_eq_true (by omega), Bool.true_and]
  · rfl

/-- Settles O4: the immediate words as they stand, the shifts as products and quotients, and the fields bit by bit. -/
theorem immediateAndFieldWords : Obligations.ImmediateAndFieldWords := by
  intro s d a i n l p x m len
  refine ⟨writesX_wr rfl, writesX_wr rfl, writesX_wr rfl, writesX_wr rfl, writesX_wr_of_eq (tw_eq_ite BitVec.slt_iff_toInt_lt) rfl,
    writesX_wr_of_eq (shiftLeft_eq_ofNat x n.toNat) rfl, writesX_wr_of_eq (ushiftRight_eq_ofNat x n.toNat) rfl,
    writesX_wr_of_eq (sshiftRight_eq_ofInt x n.toNat) rfl, writesX_wr_of_eq (imm_shiftLeft i) rfl,
    writesX_wr_of_eq (congrArg (s.cur.pc + ·) (imm_shiftLeft i)) rfl, fun fits => ?_⟩
  exact ⟨writesX_wr_of_eq (sextW_bfField x p.toNat (by omega)) rfl, writesX_wr_of_eq (nw_bfField x p.toNat len) rfl,
    _, writesX_wr rfl, fun j hj => getLsbD_bfi (s.xr d) x hj⟩

end Sys2Proof.Machine
end

section
/-! One-source integer words: counts, mirrored bits and bytes, extensions and choices (O3). -/

open Sys2Proof

namespace Sys2Proof.Machine

/-! ### Counts -/

/-- The zero bits above the highest 1. -/
theorem clz_spec {x : Word} (h : x ≠ 0) : 64 - bitLen x.toNat < 64 ∧ x.getLsbD (63 - (64 - bitLen x.toNat)) ∧
    ∀ j, 63 - (64 - bitLen x.toNat) < j → x.getLsbD j = false := by
  have nonzero : x.toNat ≠ 0 := mt (fun hx => BitVec.eq_of_toNat_eq hx) h
  have top : x.toNat.log2 < 64 := (Nat.log2_lt nonzero).2 x.isLt
  have place : 63 - (64 - bitLen x.toNat) = x.toNat.log2 := by rw [bitLen, if_neg nonzero]; omega
  rw [place]
  refine ⟨by rw [bitLen, if_neg nonzero]; omega, Nat.testBit_log2 nonzero, fun j hj => ?_⟩
  exact Nat.testBit_lt_two_pow (Nat.lt_log2_self.trans_le (Nat.pow_le_pow_right (by omega) hj))

/-- The bits below the first 1 are 0, and there is a 1 where the count stops. -/
theorem ctzAux_spec : ∀ n v : Nat, ctzAux v n ≤ n ∧ (∀ j < ctzAux v n, v.testBit j = false) ∧
    (ctzAux v n < n → v.testBit (ctzAux v n) = true)
  | 0, v => ⟨le_rfl, fun j hj => absurd hj (Nat.not_lt_zero j), fun h => absurd h (Nat.not_lt_zero 0)⟩
  | n + 1, v => by
    obtain ⟨le, below, stop⟩ := ctzAux_spec n (v / 2)
    rw [ctzAux]
    split
    · next odd => exact ⟨Nat.zero_le _, fun j hj => absurd hj (Nat.not_lt_zero j), fun _ => by rw [Nat.testBit_zero, odd]; rfl⟩
    · next even =>
      rw [Nat.add_comm 1]
      refine ⟨by omega, fun j hj => ?_, fun h => ?_⟩
      · cases j with
        | zero => rw [Nat.testBit_zero]; exact decide_eq_false even
        | succ j => rw [Nat.testBit_succ]; exact below j (by omega)
      · rw [Nat.testBit_succ]
        exact stop (by omega)

theorem ctz_spec {x : Word} (h : x ≠ 0) : ctzAux x.toNat 64 < 64 ∧ x.getLsbD (ctzAux x.toNat 64) ∧
    ∀ j, j < ctzAux x.toNat 64 → x.getLsbD j = false := by
  obtain ⟨-, below, stop⟩ := ctzAux_spec 64 x.toNat
  have lt : ctzAux x.toNat 64 < 64 := by
    by_contra all
    exact h (BitVec.eq_of_getLsbD_eq fun j hj => (below j (by omega)).trans BitVec.getLsbD_zero.symm)
  exact ⟨lt, stop lt, below⟩

theorem popcAux_eq_countP : ∀ n v : Nat, popcAux v n = (List.range n).countP v.testBit
  | 0, _ => rfl
  | n + 1, v => by
    have shifted : v.testBit ∘ Nat.succ = (v / 2).testBit := funext fun j => Nat.testBit_succ v j
    rw [popcAux, popcAux_eq_countP n, List.range_succ_eq_map, List.countP_cons, List.countP_map, shifted, Nat.add_comm,
      Nat.testBit_zero]
    congr 1
    rcases Nat.mod_two_eq_zero_or_one v with h | h <;> simp [h]

/-! ### Mirrored bits and bytes -/

/-- The n low bits of v come out mirrored below what was there. -/
theorem testBit_brevAux : ∀ n v acc i : Nat, (brevAux v n acc).testBit i = if i < n then v.testBit (n - 1 - i) else acc.testBit (i - n)
  | 0, _, _, _ => rfl
  | n + 1, v, acc, i => by
    rw [brevAux, testBit_brevAux n]
    rcases Nat.lt_trichotomy i n with lt | rfl | gt
    · rw [if_pos lt, if_pos (by omega), Nat.testBit_div_two]
      congr 1
      omega
    · rw [if_neg (lt_irrefl i), if_pos (Nat.lt_succ_self i), Nat.sub_self, Nat.add_sub_cancel, Nat.sub_self, Nat.testBit_zero,
        Nat.testBit_zero]
      congr 1
      rw [Nat.mul_add_mod, Nat.mod_mod]
    · obtain ⟨k, rfl⟩ : ∃ k, i = n + 1 + k := ⟨i - (n + 1), by omega⟩
      have half : (2 * acc + v % 2) / 2 = acc := by omega
      rw [if_neg (by omega), if_neg (by omega), show n + 1 + k - n = k + 1 by omega, Nat.testBit_succ, half, Nat.add_sub_cancel_left]

theorem getLsbD_brevW (x : Word) {i : Nat} (hi : i < 64) : (brevW x).getLsbD i = x.getLsbD (63 - i) := by
  rw [brevW, nw, BitVec.getLsbD_ofNat, decide_eq_true hi, Bool.true_and, testBit_brevAux, if_pos hi]
  rfl

theorem testBit_ofBytes : ∀ (l : List Byte) (j i : Nat), i < 8 → (ofBytes l).testBit (8 * j + i) = (l[j]?.getD 0).getLsbD i
  | [], j, i, _ => by simp [ofBytes]
  | b :: r, j, i, hi => by
    have number : ofBytes (b :: r) = 2 ^ 8 * ofBytes r + b.toNat := Nat.add_comm ..
    rw [number, Nat.testBit_two_pow_mul_add _ b.isLt]
    cases j with
    | zero => rw [if_pos (by omega), Nat.mul_zero, Nat.zero_add]; rfl
    | succ j =>
      rw [if_neg (by omega), show 8 * (j + 1) + i - 8 = 8 * j + i by omega, testBit_ofBytes r j i hi, List.getElem?_cons_succ]

theorem getElem?_toBytes : ∀ (n v j : Nat), j < n → (toBytes n v)[j]? = some (BitVec.ofNat 8 (v / 2 ^ (8 * j)))
  | n + 1, v, 0, _ => by simp [toBytes, leBytes]
  | n + 1, v, j + 1, h => by
    have tail : toBytes (n + 1) v = BitVec.ofNat 8 v :: toBytes n (v / 2 ^ 8) := rfl
    rw [tail, List.getElem?_cons_succ, getElem?_toBytes n _ j (by omega), Nat.div_div_eq_div_mul, ← pow_add, Nat.mul_succ, Nat.add_comm 8]

theorem getLsbD_bswapW (x : Word) {j i : Nat} (hj : j < 8) (hi : i < 8) :
    (bswapW x).getLsbD (8 * j + i) = x.getLsbD (8 * (7 - j) + i) := by
  have size : (toBytes 8 x.toNat).length = 8 := rfl
  rw [bswapW, nw, BitVec.getLsbD_ofNat, decide_eq_true (by omega), Bool.true_and, testBit_ofBytes _ _ _ hi,
    List.getElem?_reverse (by omega), size, getElem?_toBytes 8 _ _ (by omega), Option.getD_some, BitVec.getLsbD_ofNat,
    decide_eq_true hi, Bool.true_and, Nat.testBit_div_two_pow, Nat.add_comm i]
  rfl

/-! ### CSEL -/

/-- CSEL whose condition k tells p of x[c]. -/
theorem writesX_csel {s : State} {d c a b : Reg} {k : BitVec 2} {p : Prop} [Decidable p] (h : cselCond k (s.xr c) = true ↔ p) :
    WritesX (.csel d c a b k) s d (if p then s.xr a else s.xr b) 4 :=
  writesX_wr_of_eq (if_congr h rfl rfl) rfl

/-- Settles O3: each word is one write of x[d], its value told by the lemma on its operation. -/
theorem oneSourceIntegerWords : Obligations.OneSourceIntegerWords := by
  intro s d c a b w x
  refine ⟨⟨_, writesX_wr rfl, ?clz⟩, ⟨_, writesX_wr rfl, ?ctz⟩, writesX_wr_of_eq (congrArg nw (popcAux_eq_countP 64 x.toNat)) rfl,
    ⟨_, writesX_wr rfl, fun i hi => getLsbD_brevW x hi⟩, ⟨_, writesX_wr rfl, fun j hj i hi => getLsbD_bswapW x hj hi⟩,
    fun _ => ⟨writesX_wr_of_eq (sextW_eq _ x) rfl, writesX_wr_of_eq (zextW_eq _ x) rfl⟩, writesX_wr rfl,
    writesX_csel bne_iff_ne, writesX_csel beq_iff_eq, writesX_csel BitVec.slt_iff_toInt_lt, writesX_csel (not_slt_iff (s.xr c) 0)⟩
  case clz =>
    split
    · next zero => rw [show s.xr a = 0 from zero]; rfl
    · next nonzero => exact clz_spec nonzero
  case ctz =>
    split
    · next zero => rw [show s.xr a = 0 from zero]; rfl
    · next nonzero => exact ctz_spec nonzero

end Sys2Proof.Machine
end

section
/-! Control words: branches, jumps and hardware loops (O7 to O10). -/

open Sys2Proof

namespace Sys2Proof.Machine

/-! ### Branches -/

/-- A displacement counts halfwords, signed. -/
theorem disp_eq_ofInt {n : Nat} (o : BitVec n) : disp o = BitVec.ofInt 64 (2 * o.toInt) := by
  rw [disp, disp.i64, BitVec.signExtend, mul_comm, BitVec.ofInt_mul]
  rfl

/-- A branch whose condition is p goes to its target where p holds, and is sequential where not. -/
theorem movesPc_branch {i : Instr} {s : State} {n len : Nat} {o : BitVec n} {c seq : Bool} {p : Prop} [Decidable p]
    (hc : c = true ↔ p) (hseq : seq = true ↔ ¬ p) (h : exec i s = s.branch c (disp o) len) :
    MovesPc i s (if p then s.cur.pc + BitVec.ofInt 64 (2 * o.toInt) else s.cur.pc + BitVec.ofNat 64 len) seq := by
  by_cases hp : p
  · rw [if_pos hp, Bool.eq_false_iff.2 fun hs => hseq.1 hs hp, ← disp_eq_ofInt]
    exact movesPc_complete (by rw [h, State.branch, hc.2 hp]; rfl)
  · rw [if_neg hp, hseq.2 hp]
    exact movesPc_complete (by rw [h, State.branch, Bool.eq_false_iff.2 (mt hc.1 hp)]; rfl)

/-- Settles O7: every branch is `movesPc_branch` with its condition. -/
theorem branchWords : Obligations.BranchWords := by
  intro s a b o o6 x y pc to_ toC
  exact ⟨movesPc_branch beq_iff_eq decide_eq_true_iff rfl,
    movesPc_branch bne_iff_ne (decide_eq_true_iff.trans not_not.symm) rfl,
    movesPc_branch BitVec.slt_iff_toInt_lt decide_eq_true_iff rfl,
    movesPc_branch (not_slt_iff x y) decide_eq_true_iff rfl,
    movesPc_branch BitVec.ult_iff_lt decide_eq_true_iff rfl,
    movesPc_branch (not_ult_iff x y) decide_eq_true_iff rfl,
    movesPc_branch beq_iff_eq decide_eq_true_iff rfl,
    movesPc_branch bne_iff_ne (decide_eq_true_iff.trans not_not.symm) rfl⟩

/-! ### Jumps -/

/-- A word that links and jumps (State.setX, then State.jump). -/
theorem links_jump {i : Instr} {s : State} {d : Reg} {v w : Word} (h : exec i s = .next ((s.setX d v).jump w)) : Links i s d v w := by
  have once : (s.setX d v).jump w = s.updCur fun sl => (sl.setX d v).complete w false := s.updSlot_updSlot ..
  have cur : ((s.setX d v).jump w).cur = (s.cur.setX d v).complete w false := by rw [once, State.cur_updCur]
  refine ⟨_, h, fun r => ?_, ?_, ?_, ?_⟩
  · rw [State.xr, cur, Slot.complete_xr, Slot.xr_setX]
    rfl
  · rw [cur]
    exact Slot.at_complete_of_loops (Slot.setX_loops ..) ..
  · rw [cur]
    exact Slot.sameButX_complete ..
  · rw [once]
    exact State.sameElsewhere_updCur ..

/-- A jump that links x0 links nothing. -/
theorem movesPc_of_links_zero {i : Instr} {s : State} {v w : Word} (h : Links i s 0 v w) : MovesPc i s w false := by
  obtain ⟨t, ht, hx, rest⟩ := h
  exact ⟨t, ht, fun r => (hx r).trans (if_neg fun hr => hr.2 rfl), rest⟩

theorem links_jalrTo {i : Instr} {s : State} {d : Reg} {w : Word} {len : Nat} (even : w.getLsbD 0 = false)
    (h : exec i s = .next (s.jalrTo d w len)) : Links i s d (s.cur.pc + BitVec.ofNat 64 len) w :=
  links_jump (by rw [h, State.jalrTo, even]; rfl)

theorem traps_jalrTo {i : Instr} {s : State} {d : Reg} {w : Word} {len : Nat} (odd : w.getLsbD 0 = true) (flk : s.cur.flk = 0)
    (h : exec i s = .next (s.jalrTo d w len)) : Traps i s .align w 0 :=
  ⟨_, by rw [h, State.jalrTo, if_pos odd], trapped_trap s .align w 0 flk⟩

/-- Settles O8: a jump links and goes to its target, and one to an odd target traps. -/
theorem jumpWords : Obligations.JumpWords := by
  intro s d r o o9 o10 pc to_
  have target : s.xr r + disp o9 = to_ := congrArg (s.xr r + ·) (disp_eq_ofInt o9)
  have jalr : exec (.jalr d r o9) s = .next (s.jalrTo d to_ 4) := by rw [← target]; rfl
  refine ⟨?_, ?_, fun even => links_jalrTo even jalr, fun even => movesPc_of_links_zero (links_jalrTo even rfl),
    fun odd flk => traps_jalrTo odd flk jalr, fun odd flk => traps_jalrTo odd flk rfl⟩
  · rw [← disp_eq_ofInt]
    exact links_jump rfl
  · rw [← disp_eq_ofInt]
    exact movesPc_complete rfl

/-! ### Loop entries -/

/-- Once an entry holds the next pc, the entries outside it stay. -/
theorem loopAdvanceAux_held (seq : Bool) : ∀ (l : List LoopEntry) (next : Word), loopAdvanceAux seq l true next = (next, l)
  | [], _ => rfl
  | e :: r, next => by rw [loopAdvanceAux, if_pos rfl, loopAdvanceAux_held seq r next]

theorem loopAdvanceAux_again {seq : Bool} {e : LoopEntry} {next : Word} (h : seq = true ∧ next = e.stop ∧ 1 < e.remaining.toNat)
    (r : List LoopEntry) : loopAdvanceAux seq (e :: r) false next = (e.start, { e with remaining := e.remaining - 1 } :: r) := by
  obtain ⟨hs, hn, hr⟩ := h
  rw [loopAdvanceAux, if_neg Bool.false_ne_true, if_pos (by simp [hs, hn, hr]), loopAdvanceAux_held]

theorem loopAdvanceAux_inside {seq : Bool} {e : LoopEntry} {next : Word} (h : ¬ (seq = true ∧ next = e.stop ∧ 1 < e.remaining.toNat))
    (hin : e.start.toNat ≤ next.toNat ∧ next.toNat < e.stop.toNat) (r : List LoopEntry) :
    loopAdvanceAux seq (e :: r) false next = (next, e :: r) := by
  rw [loopAdvanceAux, if_neg Bool.false_ne_true, if_neg (by simpa [and_assoc] using h), if_pos (decide_eq_true hin), loopAdvanceAux_held]

theorem loopAdvanceAux_left {seq : Bool} {e : LoopEntry} {next : Word} (h : ¬ (seq = true ∧ next = e.stop ∧ 1 < e.remaining.toNat))
    (hout : ¬ (e.start.toNat ≤ next.toNat ∧ next.toNat < e.stop.toNat)) (r : List LoopEntry) :
    loopAdvanceAux seq (e :: r) false next = loopAdvanceAux seq r false next := by
  rw [loopAdvanceAux, if_neg Bool.false_ne_true, if_neg (by simpa [and_assoc] using h), if_neg (by simpa using hout)]

/-- Settles O9: the entries are walked from the innermost, each in one of the three ways above. -/
theorem loopAdvance : Obligations.LoopAdvance := by
  intro a next seq b
  have walked : ∀ l, a.loops = l → b.pc = (loopAdvanceAux seq l false next).1 ∧ b.loops = (loopAdvanceAux seq l false next).2 := by
    rintro l rfl
    exact ⟨rfl, rfl⟩
  refine ⟨fun bare => walked [] bare, fun e r held => ?_⟩
  obtain ⟨pc, loops⟩ := walked _ held
  split
  · next again => rw [loopAdvanceAux_again again r] at pc loops; exact ⟨pc, loops⟩
  · next once =>
    split
    · next inside => rw [loopAdvanceAux_inside once inside r] at pc loops; exact ⟨pc, loops⟩
    · next outside =>
      rw [loopAdvanceAux_left once outside r] at pc loops
      exact Prod.ext pc loops

/-! ### LOOP and LOOPI -/

/-- The end of the body of a loop of len halfwords that starts after the executing word. -/
def State.loopStop (s : State) (len : Nat) : Word := s.cur.pc + 4 + BitVec.ofNat 64 (2 * len)

/-- No room for a new entry, or one held that ends before it would (R122). -/
def State.loopBad (s : State) (len : Nat) : Prop :=
  2 ≤ s.cur.loops.length ∨ ∃ e ∈ s.cur.loops, e.stop.toNat < (s.loopStop len).toNat

/-- What loop_start does where the new entry fits: a loop of no passes is skipped, another one entered (R122). -/
def State.loopEnter (s : State) (n len : Nat) : State :=
  if n = 0 then s.updCur fun sl => sl.complete (s.loopStop len) true
  else s.updCur fun sl =>
    ({ sl with loops := { start := s.cur.pc + 4, stop := s.loopStop len, remaining := BitVec.ofNat 32 n } :: sl.loops }).complete
      (s.cur.pc + 4) true

section
variable {s : State} {i : Instr} {n len : Nat}

theorem State.loopStart_full (h : 2 ≤ s.cur.loops.length) : s.loopStart n len i = s.trapIll i := by
  match hl : s.cur.loops with
  | [] | [_] => simp [hl] at h
  | _ :: _ :: _ => simp only [State.loopStart, hl]

theorem State.loopStart_room (h : ¬ 2 ≤ s.cur.loops.length) : s.loopStart n len i =
    if (s.cur.loops.any fun e => decide (e.stop.toNat < (s.loopStop len).toNat)) then s.trapIll i
    else s.loopEnter n len := by
  match hl : s.cur.loops with
  | [] | [_] => simp only [State.loopStart, State.loopEnter, State.loopStop, hl] <;> rfl
  | _ :: _ :: r => exact absurd (by simp [hl]) h

theorem State.loopStart_bad (h : s.loopBad len) : s.loopStart n len i = s.trapIll i := by
  by_cases full : 2 ≤ s.cur.loops.length
  · exact State.loopStart_full full
  · obtain ⟨e, he, early⟩ := h.resolve_left full
    rw [State.loopStart_room full, if_pos (List.any_eq_true.2 ⟨e, he, decide_eq_true early⟩)]

theorem State.loopStart_good (h : ¬ s.loopBad len) : s.loopStart n len i = s.loopEnter n len := by
  obtain ⟨room, late⟩ := not_or.1 h
  rw [State.loopStart_room room, if_neg fun early => late ?_]
  obtain ⟨e, he, hd⟩ := List.any_eq_true.1 early
  exact ⟨e, he, of_decide_eq_true hd⟩

end

/-- What loop_start leaves, for a word of either form. -/
theorem loopStart_spec {s : State} {i : Instr} {n len : Nat} (h : exec i s = .next (s.loopStart n len i)) :
    (s.loopBad len → s.cur.flk = 0 → Traps i s .ill (BitVec.ofNat 64 (encodeWord i)) 0) ∧
    (¬ s.loopBad len → n = 0 → MovesPc i s (s.loopStop len) true) ∧
    (¬ s.loopBad len → n ≠ 0 → Answers (exec i s) fun t =>
      (∀ r, t.xr r = s.xr r) ∧ SameElsewhere s t ∧ s.cur.SameButX t.cur ∧
      { s.cur with loops := { start := s.cur.pc + 4, stop := s.loopStop len, remaining := BitVec.ofNat 32 n } :: s.cur.loops }.At t.cur
        (s.cur.pc + 4) true) := by
  refine ⟨fun bad flk => ⟨_, by rw [h, State.loopStart_bad bad]; rfl, trapped_trap s _ _ _ flk⟩,
    fun good zero => movesPc_complete (by rw [h, State.loopStart_good good, State.loopEnter, if_pos zero]), fun good passes => ?_⟩
  refine ⟨_, by rw [h, State.loopStart_good good, State.loopEnter, if_neg passes], fun r => ?_, State.sameElsewhere_updCur .., ?_, ?_⟩
  · rw [State.xr, State.cur_updCur]
    rfl
  · rw [State.cur_updCur]
    rfl
  · rw [State.cur_updCur]
    exact Slot.at_complete ..

/-- Settles O10: both words are loop_start, LOOP with the low half of a register as its count. -/
theorem loopWords : Obligations.LoopWords := by
  intro s c l13 l5 n12 start i n len form
  have meaning : exec i s = .next (s.loopStart n len i) := by
    obtain ⟨rfl, rfl, rfl⟩ | ⟨rfl, rfl, rfl⟩ := form
    · have count : wf (s.xr c) 0 32 = (s.xr c).toNat % 2 ^ 32 := by rw [wf, nf, pow_zero, Nat.div_one]
      rw [← count]
      rfl
    · rfl
  exact loopStart_spec meaning

end Sys2Proof.Machine
end

section
/-! Event words: WFE, SEV, YIELD, IDLE and EXIT (O12). -/

open Sys2Proof

namespace Sys2Proof.Machine

section
variable {s : State} {i : Instr} {len : Nat}

/-! ### WFE (R131) -/

theorem answers_wfe_set {d : Reg} (h : exec i s = .next (s.doWfe d len)) (set : s.cur.evt ≠ 0) : Answers (exec i s) fun t =>
    (∀ r, t.xr r = if r = d ∧ d ≠ 0 then s.cur.evt.setWidth 64 else s.xr r) ∧ t.cur.evt = 0 ∧ t.cur.flags = s.cur.flags ∧
      s.cur.At t.cur (s.cur.pc + BitVec.ofNat 64 len) true ∧ SameElsewhere s t := by
  have once : s.doWfe d len = s.updCur fun sl => ((sl.setEvt 0).setX d (s.cur.evt.setWidth 64)).complete (sl.pc + BitVec.ofNat 64 len) true :=
    (if_neg set).trans (s.updSlot_updSlot ..)
  have cur : (s.doWfe d len).cur = ((s.cur.setEvt 0).setX d (s.cur.evt.setWidth 64)).complete (s.cur.pc + BitVec.ofNat 64 len) true := by
    rw [once, State.cur_updCur]
  have status : (s.doWfe d len).cur.status = (s.cur.setEvt 0).status := by rw [cur, Slot.complete_status, Slot.setX_status]
  refine ⟨_, h, fun r => ?_, ?_, ?_, ?_, ?_⟩
  · rw [State.xr, cur, Slot.complete_xr, Slot.xr_setX]
    rfl
  · rw [Slot.evt, status]
    exact Slot.setEvt_evt ..
  · rw [Slot.flags, status]
    exact Slot.setEvt_flags ..
  · rw [cur]
    exact Slot.at_complete_of_loops (Slot.setX_loops ..) ..
  · rw [once]
    exact State.sameElsewhere_updCur ..

theorem answers_wfe_none {d : Reg} (h : exec i s = .next (s.doWfe d len)) (clear : s.cur.evt = 0) : Answers (exec i s) fun t =>
    t.cur.st = .sleep ∧ t.cur.pc = s.cur.pc ∧ (∀ r, t.xr r = s.xr r) ∧ t.cur.status = s.cur.status ∧ SameElsewhere s t := by
  obtain ⟨cur, hx, other⟩ := ownSlot_updCur (s := s) (f := fun sl => { sl with st := .sleep, idle := none, wait := .none }) rfl
  exact ⟨_, h.trans (congrArg Host.Outcome.next (if_pos clear)), by rw [cur], by rw [cur], hx, by rw [cur], other⟩

/-! ### SEV (R132) -/

/-- A resident thread has the event's bit set, awake or asleep. -/
theorem Slot.event_evt {sl : Slot} (free : sl.st ≠ .free) (out : sl.st ≠ .out) (b : Nat) :
    (sl.event b).evt = sl.evt ||| BitVec.ofNat 8 (2 ^ b) := by
  have bits := sl.setEvt_evt (sl.evt ||| BitVec.ofNat 8 (2 ^ b))
  simp only [Slot.event, free, out, or_self, if_false]
  (repeat' split) <;> exact bits

theorem State.slot_event_done (s : State) (b len u : Nat) : ((s.event s.curTile b).done len).slot s.curTile u =
    if u = s.curSlot then (s.cur.event b).complete (s.cur.pc + BitVec.ofNat 64 len) true else (s.slot s.curTile u).event b := by
  have tile := s.curT_updTile_updCur (f := fun tl => tl.event b) fun sl => sl.complete (sl.pc + BitVec.ofNat 64 len) true
  refine (congrArg (Tile.slot · u) tile).trans ?_
  simp only [Tile.slot_updSlot, Tile.slot_event]
  split
  · rw [Slot.event_pc]
    rfl
  · rfl

theorem answers_sev (h : exec i s = .next ((s.event s.curTile 0).done len)) : Answers (exec i s) fun t =>
    (∀ u ∈ s.curT.slots, (s.slot s.curTile u.1).st ≠ .free → (s.slot s.curTile u.1).st ≠ .out →
      (t.slot s.curTile u.1).evt.getLsbD 0 = true) ∧ (∀ r, t.xr r = s.xr r) ∧ ∀ k, readByte t.mem k = readByte s.mem k := by
  refine ⟨_, h, fun u _ free out => ?_, State.xr_of_x ?_, fun _ => rfl⟩
  · have evt : (((s.event s.curTile 0).done len).slot s.curTile u.1).evt = ((s.slot s.curTile u.1).event 0).evt := by
      rw [State.slot_event_done]
      split
      · next own => rw [own]; rfl
      · rfl
    rw [evt, Slot.event_evt free out, BitVec.getLsbD_or]
    exact Bool.or_true _
  · refine (congrArg Slot.x (s.slot_event_done 0 len s.curSlot)).trans ?_
    rw [if_pos rfl]
    exact Slot.event_x ..

/-! ### YIELD (R133) -/

/-- What YIELD notes in its slot: the other running slots, and until when they go first. -/
def State.yielding (s : State) (sl : Slot) : Slot :=
  { sl with yieldTo := s.now + 8, yieldWait := (List.range 8).filter fun u => u != s.curSlot && (s.curT.slot u).st == .run }

theorem answers_yield (h : exec i s = .next (s.doYield len)) : Answers (exec i s) fun t =>
    t.cur.yieldTo = s.now + 8 ∧ (∀ u, u ∈ t.cur.yieldWait ↔ u < 8 ∧ u ≠ s.curSlot ∧ (s.slot s.curTile u).st = .run) ∧
      (∀ r, t.xr r = s.xr r) ∧ s.cur.At t.cur (s.cur.pc + BitVec.ofNat 64 len) true ∧ SameElsewhere s t := by
  obtain ⟨cur, hx, hat, other⟩ := done_updCur s (f := s.yielding) rfl rfl rfl len
  refine ⟨_, h, ?_, fun u => ?_, hx, hat, other⟩
  · exact congrArg Slot.yieldTo cur
  · refine (Iff.of_eq (congrArg (u ∈ Slot.yieldWait ·) cur)).trans ?_
    exact List.mem_filter.trans (and_congr List.mem_range (by rw [Bool.and_eq_true, bne_iff_ne, beq_iff_eq]; rfl))

/-! ### IDLE (R239) -/

theorem movesPc_idle_new (first : s.cur.idle = none) (new : s.cur.evtNew ≠ 0) : MovesPc .idle s (s.cur.pc + 4) true :=
  movesPc_complete (by simp only [exec, execIdle, first]; exact congrArg Host.Outcome.next (if_pos new))

theorem movesPc_idle_woken {b : BitVec 8} (sampled : s.cur.idle = some b) (woken : s.cur.evt &&& ~~~b ≠ 0) :
    MovesPc .idle s (s.cur.pc + 4) true :=
  movesPc_complete (by simp only [exec, execIdle, sampled]; exact congrArg Host.Outcome.next (if_neg woken))

theorem answers_idle_sleeps (first : s.cur.idle = none) (old : s.cur.evtNew = 0) : Answers (exec .idle s) fun t =>
    t.cur.st = .sleep ∧ t.cur.idle = some s.cur.evt ∧ t.cur.pc = s.cur.pc ∧ t.cur.status = s.cur.status ∧ SameElsewhere s t := by
  obtain ⟨cur, -, other⟩ := ownSlot_updCur (s := s) (f := fun sl => { sl with st := .sleep, idle := some sl.evt, wait := .none }) rfl
  refine ⟨_, ?_, by rw [cur], by rw [cur], by rw [cur], by rw [cur], other⟩
  simp only [exec, execIdle, first]
  exact congrArg Host.Outcome.next (if_neg (not_not.2 old))

/-! ### EXIT (R134) -/

/-- A thread of no flock that drains after its EXIT. -/
def Slot.exiting (sl : Slot) : Slot := { sl.setEvt 0 with stream := [], pend := none, loops := [], wait := .exit, st := .run, fwd := none }

theorem answers_exit (h : exec i s = .next (s.doExit len)) (flk : s.cur.flk = 0) : Answers (exec i s) fun t =>
    t.cur.st = .run ∧ t.cur.wait = .exit ∧ t.cur.loops = [] ∧ t.cur.evt = 0 ∧ (∀ r, t.xr r = s.xr r) ∧ SameElsewhere s t := by
  have once : s.doExit len = s.updCur Slot.exiting := by
    simp only [State.doExit, flk, Nat.zero_ne_one, decide_false, Bool.false_and, Bool.false_eq_true, if_false,
      State.leaveFlock_free s s.curTile s.curSlot 0 flk]
    exact s.updSlot_updSlot ..
  obtain ⟨cur, hx, other⟩ := ownSlot_updCur (s := s) (f := Slot.exiting) rfl
  refine ⟨_, h.trans (congrArg Host.Outcome.next once), by rw [cur]; rfl, by rw [cur]; rfl, by rw [cur]; rfl, ?_, hx, other⟩
  rw [cur]
  exact Slot.setEvt_evt ..

end

/-- Settles O12: each word is one operation in its two lengths. -/
theorem eventWords : Obligations.EventWords := by
  intro s d wfe_ sev_ yield_ exit_ len form next
  have meaning : exec wfe_ s = .next (s.doWfe d len) ∧ exec sev_ s = .next ((s.event s.curTile 0).done len) ∧
      exec yield_ s = .next (s.doYield len) ∧ exec exit_ s = .next (s.doExit len) := by
    obtain ⟨rfl, rfl, rfl, rfl, rfl⟩ | ⟨rfl, rfl, rfl, rfl, rfl⟩ := form <;> exact ⟨rfl, rfl, rfl, rfl⟩
  obtain ⟨wfe, sev, yield, exit⟩ := meaning
  exact ⟨answers_wfe_set wfe, answers_wfe_none wfe, answers_sev sev, answers_yield yield, movesPc_idle_new, answers_idle_sleeps,
    fun _ => movesPc_idle_woken, answers_exit exit⟩

end Sys2Proof.Machine
end

section
/-! Flock words: GANG, JOIN, SPLIT and REJOIN by the role of their thread (O11). -/

open Sys2Proof

namespace Sys2Proof.Machine

/-! ### GANG (R125) -/

section
variable {s : State} {d : Reg}

theorem writesX_gang_member (c r : BitVec 3) (flk : s.cur.flk ≠ 0) : WritesX (.gang d c r) s d 2 4 :=
  writesX_wr (congrArg Host.Outcome.next (if_pos flk))

theorem writesX_gang_shape {c r : BitVec 3} (flk : s.cur.flk = 0) (fits : s.gangFits s.curTile (r.toNat + 1) (c.toNat + 1) = false) :
    WritesX (.gang d c r) s d 1 4 :=
  writesX_wr (congrArg Host.Outcome.next ((if_neg (not_not.2 flk)).trans (if_pos (by rw [fits]; rfl))))

/-- The rectangle is the group's and the launch's, so GANG looks for a flock on its tiles. -/
theorem exec_gang_fits {c r : BitVec 3} (flk : s.cur.flk = 0) (fits : s.gangFits s.curTile (r.toNat + 1) (c.toNat + 1) = true) :
    exec (.gang d c r) s = .next (
      if ((s.curTile :: s.gangTiles s.curTile (r.toNat + 1) (c.toNat + 1)).any fun m => (s.tile m).carriesFlock) then s.wr d 3 4
      else (s.formFlock s.curTile s.curSlot (r.toNat + 1) (c.toNat + 1) d).getD
        (s.block (.gang (r.toNat + 1) (c.toNat + 1) (s.now + 65536) d))) := by
  refine congrArg Host.Outcome.next ((if_neg (not_not.2 flk)).trans ((if_neg ?_).trans ?_))
  · rw [fits]
    exact Bool.false_ne_true
  · cases s.formFlock s.curTile s.curSlot (r.toNat + 1) (c.toNat + 1) d <;> rfl

theorem writesX_gang_taken {c r : BitVec 3} (flk : s.cur.flk = 0) (fits : s.gangFits s.curTile (r.toNat + 1) (c.toNat + 1) = true)
    (taken : (s.tile s.curTile).carriesFlock = true) : WritesX (.gang d c r) s d 3 4 := by
  refine writesX_wr ((exec_gang_fits flk fits).trans (congrArg Host.Outcome.next (if_pos ?_)))
  rw [List.any_cons, taken, Bool.true_or]

/-- The bellwether of a flock that forms at its GANG. -/
def Slot.leads (sl : Slot) (b : Nat × Nat) (d : Reg) : Slot :=
  { ((sl.setX d 0).setFlk 1).complete (sl.pc + 4) true with flock := some b, pend := none }

theorem State.formFlock_alone {t u : Nat} (alone : s.gangTiles t 1 1 = []) (untaken : (s.tile t).carriesFlock = false) :
    s.formFlock t u 1 1 d = some (s.updSlot t u fun _ => (s.slot t u).leads (t, u) d) := by
  simp only [State.formFlock, alone, List.any_cons, List.any_nil, untaken, Bool.or_false, Bool.false_eq_true, if_false, List.all_nil,
    if_true, List.foldl_nil]
  rfl

theorem answers_gang_alone (flk : s.cur.flk = 0) (fits : s.gangFits s.curTile 1 1 = true) (alone : s.gangTiles s.curTile 1 1 = [])
    (untaken : (s.tile s.curTile).carriesFlock = false) : Answers (exec (.gang d 0 0) s) fun u =>
      u.cur.flk = 1 ∧ u.cur.flock = some (s.curTile, s.curSlot) ∧ (∀ r, u.xr r = if r = d then 0 else s.xr r) ∧
      s.cur.At u.cur (s.cur.pc + 4) true ∧ SameElsewhere s u := by
  have formed : exec (.gang d 0 0) s = .next (s.updCur fun _ => s.cur.leads (s.curTile, s.curSlot) d) := by
    refine (exec_gang_fits (c := 0) (r := 0) flk fits).trans (congrArg Host.Outcome.next ((if_neg ?_).trans ?_))
    · show ¬ (s.curTile :: s.gangTiles s.curTile 1 1).any _ = true
      rw [alone, List.any_cons, untaken]
      exact Bool.false_ne_true
    · show (s.formFlock s.curTile s.curSlot 1 1 d).getD _ = _
      rw [State.formFlock_alone alone untaken]
      rfl
  have cur : (s.updCur fun _ => s.cur.leads (s.curTile, s.curSlot) d).cur = s.cur.leads (s.curTile, s.curSlot) d := State.cur_updCur ..
  refine ⟨_, formed, ?_, ?_, fun r => ?_, ?_, State.sameElsewhere_updCur ..⟩
  · rw [cur]
    exact Slot.setFlk_flk _ 1
  · rw [cur]
    rfl
  · rw [State.xr, cur]
    refine (Slot.xr_setX s.cur d r 0).trans ?_
    by_cases hr : r = d
    · rw [if_pos hr]
      by_cases hd : d = 0
      · rw [if_neg fun h => h.2 hd, hr, hd]
        rfl
      · rw [if_pos ⟨hr, hd⟩]
    · rw [if_neg fun h => hr h.1, if_neg hr]
      rfl
  · rw [cur]
    exact Slot.at_complete_of_loops (b := (s.cur.setX d 0).setFlk 1) (Slot.setX_loops ..) ..

end

/-! ### JOIN (R126) -/

theorem tget_mem {α : Type} (d : α) (t : Tbl α) (k : Nat) : tget d t k = d ∨ (k, tget d t k) ∈ t := by
  induction t with
  | nil => exact .inl rfl
  | cons p r ih =>
    obtain ⟨j, v⟩ := p
    simp only [tget]
    split
    · next e => exact .inr (e ▸ List.mem_cons_self)
    · exact ih.imp_right (List.mem_cons_of_mem _)

/-- No slot of the machine waits in GANG. -/
def State.NoGang (s : State) : Prop := ∀ k ∈ s.tiles, ∀ u ∈ k.2.slots, ∀ a b n e, u.2.wait ≠ .gang a b n e

theorem State.noGang_tile {s : State} (h : s.NoGang) (k : Nat) : ∀ u ∈ (s.tile k).slots, ∀ a b n e, u.2.wait ≠ .gang a b n e := by
  obtain fresh | listed := tget_mem Tile.fresh s.tiles k
  · rw [State.tile, fresh]
    exact fun u hu => absurd hu List.not_mem_nil
  · exact h _ listed

theorem State.noGang_updSlot {s : State} (h : s.NoGang) {t u : Nat} {f : Slot → Slot}
    (hf : ∀ a b n e, (f (s.slot t u)).wait ≠ .gang a b n e) : (s.updSlot t u f).NoGang := by
  intro k hk v hv
  obtain rfl | old := mem_tset hk
  · obtain rfl | old := mem_tset hv
    · exact hf
    · exact State.noGang_tile h t v old
  · exact h k old v hv

theorem State.tryGangs_of_noGang {s : State} (h : s.NoGang) : s.tryGangs = s := by
  have waiting : (s.tiles.map fun p => p.2.slots.filterMap fun q => match q.2.wait with
      | .gang r c _ d => if q.2.stopped then none else some (p.1, q.1, r, c, d)
      | _ => none).flatten = [] := by
    refine List.flatten_eq_nil_iff.2 fun l hl => ?_
    obtain ⟨p, hp, rfl⟩ := List.mem_map.1 hl
    refine List.filterMap_eq_nil_iff.2 fun q hq => ?_
    split
    · next r c n d hw => exact absurd hw (h p hp q hq r c n d)
    · rfl
  exact congrArg (List.foldl (fun s g => (s.formFlock g.1 g.2.1 g.2.2.1 g.2.2.2.1 g.2.2.2.2).getD s) s) waiting

section
variable {s : State} {i : Instr} {len : Nat}

theorem movesPc_join_member (h : exec i s = .next (s.doJoin len)) (flk : s.cur.flk ≠ 0) :
    MovesPc i s (s.cur.pc + BitVec.ofNat 64 len) true :=
  movesPc_done (h.trans (congrArg Host.Outcome.next (if_pos flk)))

theorem answers_join (h : exec i s = .next (s.doJoin len)) (flk : s.cur.flk = 0) (noGang : s.NoGang) : Answers (exec i s) fun u =>
    u.cur.st = .block ∧ u.cur.wait = .join len ∧ u.cur.pc = s.cur.pc ∧ SameElsewhere s u :=
  answers_block (h.trans (congrArg Host.Outcome.next ((if_neg (not_not.2 flk)).trans
    (State.tryGangs_of_noGang (State.noGang_updSlot noGang fun _ _ _ _ => Wait.noConfusion)))))

/-! ### SPLIT and REJOIN outside a flock, in a follower and in a detached follower (R128, R129) -/

theorem State.doSplit_outside (flk : s.cur.flk = 0 ∨ s.cur.flk = 2) : s.doSplit len = s.done len := by
  rcases flk with flk | flk <;> simp only [State.doSplit, flk]

theorem State.doRejoin_outside (flk : s.cur.flk = 0 ∨ s.cur.flk = 2) : s.doRejoin len = s.done len := by
  rcases flk with flk | flk <;> simp only [State.doRejoin, flk]

theorem waits_split_full (h : exec i s = .next (s.doSplit len)) (flk : s.cur.flk = 1)
    (full : s.flockFull (s.curTile, s.curSlot) = true) : Waits i s :=
  waits_block (w := .poll) (h.trans (by simp only [State.doSplit, flk, full, if_true]))

theorem answers_split_detached (h : exec i s = .next (s.doSplit len)) (flk : s.cur.flk = 3) : Answers (exec i s) fun u =>
    u.cur.flk = 0 ∧ u.cur.flock = none ∧ (∀ r, u.xr r = s.xr r) ∧ s.cur.At u.cur (s.cur.pc + BitVec.ofNat 64 len) true ∧
      SameElsewhere s u := by
  obtain ⟨cur, hx, hat, other⟩ := done_updCur s (f := fun sl => { sl.setFlk 0 with flock := none, notices := [] }) rfl rfl rfl len
  exact ⟨_, h.trans (by simp only [State.doSplit, flk]), (congrArg Slot.flk cur).trans (Slot.setFlk_flk _ 0),
    (congrArg Slot.flock cur).trans rfl, hx, hat, other⟩

theorem State.doRejoin_found {n : Word × Nat} (flk : s.cur.flk = 3) (found : s.cur.notices.find? (fun n => n.1 == s.cur.pc) = some n) :
    s.doRejoin len =
      if n.2 = s.now then (s.updCur fun sl => { sl.setFlk 2 with stream := [], notices := [] }).done len else s.done len := by
  simp only [State.doRejoin, flk, found]

theorem State.doRejoin_lost (flk : s.cur.flk = 3) (lost : s.cur.notices.find? (fun n => n.1 == s.cur.pc) = none) :
    s.doRejoin len = s.block (.rejoin len) := by
  simp only [State.doRejoin, flk, lost]

/-- The notice that a detached follower's REJOIN finds. -/
theorem exists_notice (kept : ∃ n ∈ s.cur.notices, n.1 = s.cur.pc) : ∃ n ∈ s.cur.notices, n.1 = s.cur.pc ∧
    s.cur.notices.find? (fun n => n.1 == s.cur.pc) = some n := by
  obtain ⟨m, hm, at_⟩ := kept
  obtain ⟨n, found⟩ := Option.isSome_iff_exists.1 (List.find?_isSome (p := fun n => n.1 == s.cur.pc).2 ⟨m, hm, beq_iff_eq.2 at_⟩)
  have here : (n.1 == s.cur.pc) = true := List.find?_some (p := fun n : Word × Nat => n.1 == s.cur.pc) found
  exact ⟨n, List.mem_of_find?_eq_some found, beq_iff_eq.1 here, found⟩

theorem movesPc_rejoin_kept (h : exec i s = .next (s.doRejoin len)) (flk : s.cur.flk = 3) (kept : ∃ n ∈ s.cur.notices, n.1 = s.cur.pc)
    (old : ∀ n ∈ s.cur.notices, n.1 = s.cur.pc → n.2 ≠ s.now) : MovesPc i s (s.cur.pc + BitVec.ofNat 64 len) true := by
  obtain ⟨n, hn, at_, found⟩ := exists_notice kept
  exact movesPc_done (h.trans (congrArg Host.Outcome.next ((State.doRejoin_found flk found).trans (if_neg (old n hn at_)))))

theorem answers_rejoin_attaches (h : exec i s = .next (s.doRejoin len)) (flk : s.cur.flk = 3)
    (kept : ∃ n ∈ s.cur.notices, n.1 = s.cur.pc) (new : ∀ n ∈ s.cur.notices, n.1 = s.cur.pc → n.2 = s.now) :
    Answers (exec i s) fun u => u.cur.flk = 2 ∧ u.cur.flock = s.cur.flock ∧ u.cur.stream = [] ∧ (∀ r, u.xr r = s.xr r) ∧
      s.cur.At u.cur (s.cur.pc + BitVec.ofNat 64 len) true ∧ SameElsewhere s u := by
  obtain ⟨n, hn, at_, found⟩ := exists_notice kept
  obtain ⟨cur, hx, hat, other⟩ := done_updCur s (f := fun sl => { sl.setFlk 2 with stream := [], notices := [] }) rfl rfl rfl len
  exact ⟨_, h.trans (congrArg Host.Outcome.next ((State.doRejoin_found flk found).trans (if_pos (new n hn at_)))),
    (congrArg Slot.flk cur).trans (Slot.setFlk_flk _ 2), (congrArg Slot.flock cur).trans rfl, (congrArg Slot.stream cur).trans rfl,
    hx, hat, other⟩

theorem answers_rejoin_waits (h : exec i s = .next (s.doRejoin len)) (flk : s.cur.flk = 3) (silent : ∀ n ∈ s.cur.notices, n.1 ≠ s.cur.pc) :
    Answers (exec i s) fun u => u.cur.st = .block ∧ u.cur.wait = .rejoin len ∧ u.cur.pc = s.cur.pc ∧ SameElsewhere s u := by
  have lost : s.cur.notices.find? (fun n => n.1 == s.cur.pc) = none :=
    List.find?_eq_none.2 fun n hn at_ => silent n hn (beq_iff_eq.1 at_)
  exact answers_block (h.trans (congrArg Host.Outcome.next (State.doRejoin_lost flk lost)))

/-! ### REJOIN of a bellwether (R128) -/

theorem State.foldl_send {α : Type} (m : State → α → Msg) : ∀ (l : List α) (s : State),
    let t := l.foldl (fun s a => s.send 1 (m s a)) s
    t.flight.length = s.flight.length + l.length ∧ t.tiles = s.tiles ∧ t.curTile = s.curTile ∧ t.curSlot = s.curSlot
  | [], _ => ⟨rfl, rfl, rfl, rfl⟩
  | a :: l, s => by
    obtain ⟨count, tiles, tile, slot⟩ := State.foldl_send m l (s.send 1 (m s a))
    refine ⟨count.trans ?_, tiles, tile, slot⟩
    simp only [State.send, List.length_append, List.length_cons, List.length_nil]
    omega

theorem answers_rejoin_bellwether (h : exec i s = .next (s.doRejoin len)) (flk : s.cur.flk = 1) : Answers (exec i s) fun u =>
    u.flight.length = s.flight.length + (s.followers (s.curTile, s.curSlot)).length ∧
      s.cur.At u.cur (s.cur.pc + BitVec.ofNat 64 len) true := by
  obtain ⟨count, tiles, tile, slot⟩ := State.foldl_send (fun (s' : State) (f : Nat × Nat) => .notice s'.curTile s'.curSlot f.1 f.2 s.cur.pc)
    (s.followers (s.curTile, s.curSlot)) s
  obtain ⟨⟨hat, -⟩, -⟩ := wordDone_done tiles tile slot len
  have notifies : s.doRejoin len = ((s.followers (s.curTile, s.curSlot)).foldl (fun s' f =>
      s'.send 1 (.notice s'.curTile s'.curSlot f.1 f.2 s.cur.pc)) s).done len := by simp only [State.doRejoin, flk]
  exact ⟨_, h.trans (congrArg Host.Outcome.next notifies), count, hat⟩

end

/-! ### SPLIT of a bellwether (R129) -/

section
variable {s : State} {b : Nat × Nat}

/-- Every visible member of a flock but its bellwether is among the followers. -/
theorem State.mem_followers {k v : Nat} (member : (s.slot k v).flock = some b) (other : (k, v) ≠ b) : (k, v) ∈ s.followers b := by
  have none_fresh : Slot.fresh.flock ≠ some b := fun h => nomatch h
  have tile : (k, s.tile k) ∈ s.tiles := (tget_mem Tile.fresh s.tiles k).resolve_left fun fresh => by
    rw [State.slot, State.tile, fresh] at member
    exact none_fresh member
  have slot : (v, s.slot k v) ∈ (s.tile k).slots := (tget_mem Slot.fresh (s.tile k).slots v).resolve_left fun fresh => by
    rw [State.slot, Tile.slot, fresh] at member
    exact none_fresh member
  refine List.mem_flatten.2 ⟨_, List.mem_map.2 ⟨_, tile, rfl⟩, List.mem_filterMap.2 ⟨_, slot, if_pos ?_⟩⟩
  rw [Bool.and_eq_true, beq_iff_eq, bne_iff_ne]
  exact ⟨member, other⟩

theorem State.not_mem_followers : b ∉ s.followers b := by
  intro hb
  obtain ⟨l, hl, hb⟩ := List.mem_flatten.1 hb
  obtain ⟨p, -, rfl⟩ := List.mem_map.1 hl
  obtain ⟨q, -, hq⟩ := List.mem_filterMap.1 hb
  split at hq
  · next h =>
    rw [Bool.and_eq_true, bne_iff_ne] at h
    exact h.2 (Option.some.inj hq)
  · exact nomatch hq

end

/-- A member's slot once a word is forwarded to it: an attached one has it at the end of its stream (R127). -/
def Slot.forwarded (w : FwdWord) (now : Nat) (m : Slot) : Slot :=
  if m.flk = 2 then { m with stream := m.stream ++ [{ w with at_ := now + 1 }] } else m

theorem State.foldl_forwarded (w : FwdWord) : ∀ (l : List (Nat × Nat)) (s : State), l.Nodup →
    let t := l.foldl (fun s f => s.updSlot f.1 f.2 (Slot.forwarded w s.now)) s
    ∀ k v, t.slot k v = if (k, v) ∈ l then (s.slot k v).forwarded w s.now else s.slot k v
  | [], s, _ => fun _ _ => (if_neg List.not_mem_nil).symm
  | f :: l, s, h => by
    obtain ⟨new, nodup⟩ := List.nodup_cons.1 h
    have slots := State.foldl_forwarded w l (s.updSlot f.1 f.2 (Slot.forwarded w s.now)) nodup
    refine fun k v => (slots k v).trans ?_
    rw [State.slot_updSlot]
    by_cases first : (k, v) = f
    · subst first
      rw [if_neg new, if_pos ⟨rfl, rfl⟩, if_pos List.mem_cons_self]
    · have apart : ¬ (k = f.1 ∧ v = f.2) := fun h => first (Prod.ext h.1 h.2)
      rw [if_neg apart]
      exact if_congr (by simp [first]) rfl rfl

theorem State.slot_dissolve (s : State) (t u k v : Nat) : (s.dissolve t u).slot k v = (s.slot k v).dissolve (t, u) := by
  have tile := tget_map Tile.fresh (fun tl : Tile => { tl with slots := tl.slots.map fun q => (q.1, q.2.dissolve (t, u)) }) rfl s.tiles k
  refine (congrArg (Tile.slot · v) tile).trans ?_
  exact tget_map Slot.fresh (Slot.dissolve (t, u)) rfl (s.tile k).slots v

/-- A member that has forwarded words left leaves its flock and keeps them; another one takes FLK 0. -/
theorem Slot.dissolve_member {b : Nat × Nat} {sl : Slot} (member : sl.flock = some b) :
    (sl.dissolve b).flock = none ∧
      if sl.streaming then (sl.dissolve b).flk = sl.flk ∧ (sl.dissolve b).stream = sl.stream else (sl.dissolve b).flk = 0 := by
  rw [Slot.dissolve, if_pos member]
  by_cases streaming : sl.streaming = true
  · rw [if_pos streaming, if_pos streaming]
    exact ⟨rfl, rfl, rfl⟩
  · rw [if_neg streaming, if_neg streaming]
    dsimp only
    split <;> exact ⟨rfl, Slot.setFlk_flk sl 0⟩

/-- A follower with a word forwarded to it leaves its flock and keeps the word; a member not attached takes FLK 0. -/
theorem Slot.dissolve_forwarded {b : Nat × Nat} {sl : Slot} (member : sl.flock = some b) (w : FwdWord) (now : Nat) :
    ((sl.forwarded w now).dissolve b).flock = none ∧
      if sl.flk = 2 then
        ((sl.forwarded w now).dissolve b).flk = 2 ∧ ((sl.forwarded w now).dissolve b).stream = sl.stream ++ [{ w with at_ := now + 1 }]
      else ((sl.forwarded w now).dissolve b).flk = 0 := by
  by_cases attached : sl.flk = 2
  · have told : sl.forwarded w now = { sl with stream := sl.stream ++ [{ w with at_ := now + 1 }] } := if_pos attached
    have streaming : (sl.forwarded w now).streaming = true := by
      have nonempty : (sl.stream ++ [{ w with at_ := now + 1 }]).isEmpty = false := by simp
      have flk : (sl.forwarded w now).flk = 2 := by rw [told]; exact attached
      rw [Slot.streaming, flk, told, nonempty]
      rfl
    obtain ⟨left, rest⟩ := Slot.dissolve_member (sl := sl.forwarded w now) (by rw [told]; exact member)
    rw [if_pos streaming] at rest
    rw [if_pos attached]
    refine ⟨left, rest.1.trans ?_, rest.2.trans ?_⟩
    · rw [told]; exact attached
    · rw [told]
  · have untold : sl.forwarded w now = sl := if_neg attached
    have idle : ¬ sl.streaming = true := by simp [Slot.streaming, attached]
    obtain ⟨left, rest⟩ := Slot.dissolve_member member
    rw [if_neg idle] at rest
    rw [untold, if_neg attached]
    exact ⟨left, rest⟩

/-- A word that is done changes nothing of a slot's part in its flock. -/
theorem State.slot_done (s : State) (len k v : Nat) : ((s.done len).slot k v).flock = (s.slot k v).flock ∧
    ((s.done len).slot k v).flk = (s.slot k v).flk ∧ ((s.done len).slot k v).stream = (s.slot k v).stream := by
  have slot := s.slot_updSlot s.curTile s.curSlot k v fun sl => sl.complete (sl.pc + BitVec.ofNat 64 len) true
  refine slot ▸ ?_
  split
  · next own => rw [own.1, own.2]; exact ⟨rfl, rfl, rfl⟩
  · exact ⟨rfl, rfl, rfl⟩

/-- The word that the executing bellwether's SPLIT forwards (R129). -/
def State.splitWord (s : State) (len : Nat) : FwdWord :=
  { instr := if len = 2 then .splitC else .split, pc := s.cur.pc,
    next := (s.cur.advanceTo (s.cur.pc + BitVec.ofNat 64 len) true).pc, at_ := 0 }

theorem State.slot_endFlock {s : State} (nodup : (s.followers (s.curTile, s.curSlot)).Nodup) (len k v : Nat) :
    (s.endFlock len).slot k v = (if (k, v) ∈ s.followers (s.curTile, s.curSlot) then (s.slot k v).forwarded (s.splitWord len) s.now
      else s.slot k v).dissolve (s.curTile, s.curSlot) := by
  rw [← State.foldl_forwarded (s.splitWord len) _ s nodup]
  exact State.slot_dissolve ..

theorem answers_split_bellwether {s : State} {i : Instr} {len : Nat} (hi : exec i s = .next (s.doSplit len))
    (word : i = if len = 2 then .splitC else .split) (flk : s.cur.flk = 1) (room : s.flockFull (s.curTile, s.curSlot) = false)
    (nodup : (s.followers (s.curTile, s.curSlot)).Nodup) : Answers (exec i s) fun u =>
      ∀ k v, (s.slot k v).flock = some (s.curTile, s.curSlot) → (u.slot k v).flock = none ∧
        if (s.slot k v).flk = 2 ∧ (k, v) ≠ (s.curTile, s.curSlot) then
          (u.slot k v).flk = 2 ∧ ∃ w : FwdWord, (u.slot k v).stream = (s.slot k v).stream ++ [w] ∧ w.instr = i ∧ w.pc = s.cur.pc ∧
            w.at_ = s.now + 1
        else (u.slot k v).flk = 0 := by
  have ended : s.doSplit len = (s.endFlock len).done len := by simp only [State.doSplit, flk, room, Bool.false_eq_true, if_false]
  refine ⟨_, hi.trans (congrArg Host.Outcome.next ended), fun k v member => ?_⟩
  obtain ⟨flock, role, stream⟩ := (s.endFlock len).slot_done len k v
  rw [flock, role, stream, State.slot_endFlock nodup]
  by_cases own : (k, v) = (s.curTile, s.curSlot)
  · have bellwether : (s.slot k v).flk = 1 := by rw [(Prod.mk.inj own).1, (Prod.mk.inj own).2]; exact flk
    have idle : ¬ (s.slot k v).streaming = true := by simp [Slot.streaming, bellwether]
    obtain ⟨left, rest⟩ := Slot.dissolve_member member
    rw [if_neg idle] at rest
    rw [if_neg (own ▸ State.not_mem_followers), if_neg fun h => h.2 own]
    exact ⟨left, rest⟩
  · obtain ⟨left, rest⟩ := Slot.dissolve_forwarded member (s.splitWord len) s.now
    rw [if_pos (State.mem_followers member own)]
    refine ⟨left, ?_⟩
    by_cases attached : (s.slot k v).flk = 2
    · rw [if_pos attached] at rest
      rw [if_pos ⟨attached, own⟩]
      exact ⟨rest.1, _, rest.2, word.symm, rfl, rfl⟩
    · rw [if_neg attached] at rest
      rw [if_neg fun h => attached h.1]
      exact rest

/-- Settles O11: each word by the role of its thread, in its two lengths. -/
theorem flockWords : Obligations.FlockWords := by
  intro s d c r t
  refine ⟨writesX_gang_member c r, writesX_gang_shape, writesX_gang_taken, answers_gang_alone,
    fun join_ split_ rejoin_ len form => ?_⟩
  have meaning : exec join_ s = .next (s.doJoin len) ∧ exec split_ s = .next (s.doSplit len) ∧
      exec rejoin_ s = .next (s.doRejoin len) ∧ split_ = if len = 2 then .splitC else .split := by
    obtain ⟨rfl, rfl, rfl, rfl⟩ | ⟨rfl, rfl, rfl, rfl⟩ := form <;> exact ⟨rfl, rfl, rfl, rfl⟩
  obtain ⟨join, split, rejoin, word⟩ := meaning
  exact ⟨movesPc_join_member join, answers_join join,
    fun flk => ⟨movesPc_done (split.trans (congrArg Host.Outcome.next (State.doSplit_outside flk))),
      movesPc_done (rejoin.trans (congrArg Host.Outcome.next (State.doRejoin_outside flk)))⟩,
    waits_split_full split, answers_split_bellwether split word, answers_split_detached split, movesPc_rejoin_kept rejoin,
    answers_rejoin_attaches rejoin, answers_rejoin_waits rejoin, answers_rejoin_bellwether rejoin⟩

end Sys2Proof.Machine
end

section
/-! Sign and class: FABS, FNEG, FSGNJ and FCLASS on the bits of a datum (O23). -/

open Sys2Proof

namespace Sys2Proof.Machine

/-! ### Fields of a number -/

theorem nf_one (v i : Nat) : nf v i 1 = b2n (v.testBit i) := by
  rw [nf, Nat.testBit_eq_decide_div_mod_eq, pow_one]
  rcases Nat.mod_two_eq_zero_or_one (v / 2 ^ i) with h | h <;> simp [h, b2n]

theorem nb_eq_testBit (v i : Nat) : nb v i = v.testBit i := by
  rw [nb, Nat.testBit_eq_decide_div_mod_eq]
  rfl

theorem nf_mod_two_pow (v : Nat) {lo n w : Nat} (h : lo + n ≤ w) : nf (v % 2 ^ w) lo n = nf v lo n := by
  apply Nat.eq_of_testBit_eq
  intro j
  simp only [nf, Nat.testBit_mod_two_pow, Nat.testBit_div_two_pow]
  by_cases hj : j < n
  · rw [decide_eq_true (by omega : j + lo < w), Bool.true_and]
  · rw [decide_eq_false hj, Bool.false_and, Bool.false_and]

/-! ### The sign bit -/

/-- A magnitude of k bits under a sign bit. -/
theorem getLsbD_signed (x : Word) (b : Bool) {k j : Nat} (hj : j < 64) :
    (nw (nf x.toNat 0 k + b2n b * 2 ^ k)).getLsbD j = if j < k then x.getLsbD j else decide (j = k) && b := by
  have magnitude : nf x.toNat 0 k < 2 ^ k := Nat.mod_lt _ (Nat.two_pow_pos k)
  have order : nf x.toNat 0 k + b2n b * 2 ^ k = 2 ^ k * b2n b + nf x.toNat 0 k := by rw [Nat.add_comm, Nat.mul_comm]
  rw [nw, BitVec.getLsbD_ofNat, decide_eq_true hj, Bool.true_and, order, Nat.testBit_two_pow_mul_add _ magnitude]
  split
  · next low => rw [nf, Nat.testBit_mod_two_pow, decide_eq_true low, Bool.true_and, pow_zero, Nat.div_one]; rfl
  · next high =>
    have sign : (b2n b).testBit (j - k) = (decide (j - k = 0) && b) := by
      cases b
      · exact (Nat.zero_testBit _).trans (Bool.and_false _).symm
      · rw [Bool.and_true, Bool.eq_iff_iff, decide_eq_true_iff]
        exact Nat.testBit_one_eq_true_iff_self_eq_zero
    rw [sign, decide_eq_decide.2 (by omega : j - k = 0 ↔ j = k)]

/-- Every scalar precision has fraction bits and infinities. -/
theorem precFmt_fraction (p : BitVec 2) : 0 < (precFmt p).fb ∧ (precFmt p).noInf = false := by
  revert p
  decide

theorem signAt_succ (p : BitVec 2) : signAt p + 1 = (precFmt p).width := by
  rw [signAt, Fmt.width]
  omega

/-- A word that leaves the magnitude of x[a] under a sign bit. -/
theorem writesX_signed {i : Instr} {s : State} {d a : Reg} {p : BitVec 2} {n : Nat} {top : Bool} (hn : n = b2n top)
    (h : exec i s = .next (s.wr d (nw (nf (s.xr a).toNat 0 (signAt p) + n * 2 ^ signAt p)) 4)) :
    ∃ v : Word, WritesX i s d v 4 ∧ ∀ j < 64, v.getLsbD j =
      if j + 1 < (precFmt p).width then (s.xr a).getLsbD j else decide (j + 1 = (precFmt p).width) && top := by
  refine ⟨_, writesX_wr h, fun j hj => ?_⟩
  rw [hn, getLsbD_signed _ _ hj, ← signAt_succ, decide_eq_decide.2 (Nat.succ_inj (a := j) (b := signAt p))]
  exact if_congr Nat.succ_lt_succ_iff.symm rfl rfl

/-! ### The class -/

/-- R139's mask from the sign, exponent and fraction fields of a datum. -/
def classBits (f : Fmt) (neg : Bool) (e m : Nat) : Word :=
  if e = 2 ^ f.eb - 1 then
    (if m = 0 then (if neg then 0x001 else 0x080) else if m / 2 ^ (f.fb - 1) = 0 then 0x100 else 0x200)
  else if e = 0 then (if m = 0 then (if neg then 0x008 else 0x010) else (if neg then 0x004 else 0x020))
  else (if neg then 0x002 else 0x040)

/-- Whether the top fraction bit is clear. -/
theorem not_nb_top {m n : Nat} (hn : 0 < n) (hm : m < 2 ^ n) : (!nb m (n - 1)) = true ↔ m / 2 ^ (n - 1) = 0 := by
  have bit : m / 2 ^ (n - 1) < 2 := by
    rw [Nat.div_lt_iff_lt_mul (Nat.two_pow_pos _), ← pow_succ', Nat.sub_add_cancel hn]
    exact hm
  rw [nb, Bool.not_eq_true', beq_eq_false_iff_ne]
  generalize m / 2 ^ (n - 1) = q at bit
  omega

theorem fpClass_unpack {f : Fmt} (inf : f.noInf = false) (hfb : 0 < f.fb) (v : Nat) :
    nw (fpClass f (unpack f v)) = classBits f (v.testBit (f.eb + f.fb)) (nf v f.fb f.eb) (nf v 0 f.fb) := by
  have frac : nf v 0 f.fb < 2 ^ f.fb := Nat.mod_lt _ (Nat.two_pow_pos _)
  simp only [unpack, nb_eq_testBit v, inf, Bool.false_eq_true, not_false_eq_true, and_true, false_and, if_false, classBits]
  generalize v.testBit (f.eb + f.fb) = neg
  split
  · split
    · cases neg <;> rfl
    · exact (apply_ite nw _ _ _).trans (if_congr (not_nb_top hfb frac) rfl rfl)
  · split
    · simp only [fpClass, if_pos frac]
      split <;> cases neg <;> rfl
    · have unit : 0 < 2 ^ f.fb := Nat.two_pow_pos _
      simp only [fpClass]
      rw [if_neg (by omega), if_neg (by omega)]
      cases neg <;> rfl

theorem fpClass_fpOp (p : BitVec 2) (x : Word) : nw (fpClass (precFmt p) (fpOp p x)) =
    classBits (precFmt p) (x.getLsbD ((precFmt p).width - 1)) (nf x.toNat (precFmt p).fb (precFmt p).eb) (nf x.toNat 0 (precFmt p).fb) := by
  obtain ⟨hfb, inf⟩ := precFmt_fraction p
  have top : (precFmt p).eb + (precFmt p).fb = (precFmt p).width - 1 := by rw [Fmt.width]; omega
  have inside : (precFmt p).width - 1 < (precFmt p).width := by rw [Fmt.width]; omega
  rw [fpOp, fpClass_unpack inf hfb, nf_mod_two_pow _ (by rw [Fmt.width]; omega), nf_mod_two_pow _ (by rw [Fmt.width]; omega), top,
    Nat.testBit_mod_two_pow, decide_eq_true inside, Bool.true_and]
  rfl

/-- Settles O23: a magnitude under a sign bit, and the class of the datum's three fields. -/
theorem floatingSignAndClass : Obligations.FloatingSignAndClass := by
  intro s d a b p f w x bits neg e m
  have notSign : 1 - nf x.toNat (signAt p) 1 = b2n (!neg) := by
    show 1 - nf x.toNat (signAt p) 1 = b2n (!x.toNat.testBit (signAt p))
    rw [nf_one]
    cases x.toNat.testBit (signAt p) <;> rfl
  refine ⟨writesX_signed (n := 0) rfl ?_, writesX_signed notSign rfl, writesX_signed (nf_one ..) rfl, ?_⟩
  · rw [Nat.zero_mul, Nat.add_zero]
    rfl
  · refine writesX_wr_of_eq ?_ rfl
    have frac : m = nf x.toNat 0 f.fb := by rw [nf, pow_zero, Nat.div_one]
    rw [fpClass_fpOp, ← frac]
    rfl

end Sys2Proof.Machine
end

section
/-! Thread ends and starts: a drained EXIT, a ready routine, and the traps at a boundary (O39). -/

open Sys2Proof

namespace Sys2Proof.Machine

/-! ### The end of a thread (R134) -/

section
variable (s : State)

theorem Tile.routine_congr {a b : Tile} (h : a.routines = b.routines) (i : Nat) : a.routine i = b.routine i :=
  congrArg (fun l => tget Routine.fresh l i) h

theorem State.routine_updSlot (t u k i : Nat) (f : Slot → Slot) : ((s.updSlot t u f).tile k).routine i = (s.tile k).routine i := by
  refine Tile.routine_congr ?_ i
  rw [State.updSlot, State.tile_updTile]
  split
  · next e => rw [e]; rfl
  · rfl

/-- Only the RUN bit of the named routine, and from when the selector sees it, change. -/
theorem State.tile_clearRun (h : Option (Nat × Nat)) (k : Nat) :
    (s.clearRun h).tile k = { s.tile k with routines := ((s.clearRun h).tile k).routines } := by
  cases h with
  | none => rfl
  | some p =>
    rw [State.clearRun, State.tile_updTile]
    split
    · next e => rw [e]
    · rfl

theorem State.slot_clearRun (h : Option (Nat × Nat)) (k u : Nat) : (s.clearRun h).slot k u = s.slot k u := by
  refine Tile.slot_congr ?_ u
  rw [State.tile_clearRun]

theorem State.routine_clearRun (h : Option (Nat × Nat)) (k i : Nat) : ((s.clearRun h).tile k).routine i =
    if h = some (k, i) then { (s.tile k).routine i with run := false, from_ := s.now + 1 } else (s.tile k).routine i := by
  cases h with
  | none => rfl
  | some p =>
    obtain ⟨t, j⟩ := p
    rw [State.clearRun, State.tile_updTile]
    by_cases hk : k = t
    · subst hk
      rw [if_pos rfl, Tile.routine_tset]
      by_cases hi : i = j
      · subst hi
        simp
      · have other : ¬ some (k, j) = some (k, i) := by simp [Ne.symm hi]
        rw [if_neg hi, if_neg other]
    · have other : ¬ some (t, j) = some (k, i) := by simp [Ne.symm hk]
      rw [if_neg hk, if_neg other]

theorem State.clearRun_tiles (h : Option (Nat × Nat)) : { s.clearRun h with tiles := s.tiles } = s := by
  cases h <;> rfl

end

theorem exec_exitSlotFree_stays {s : State} (h : (s.slot s.ev.num s.ev.a).wait ≠ .exit ∨ s.drained s.ev.num s.ev.a = false) :
    exec .exitSlotFree s = .next s :=
  congrArg Host.Outcome.next (if_neg fun both => h.elim (fun w => w both.1) fun d => Bool.false_ne_true (d.symm.trans both.2))

theorem answers_exitSlotFree {s : State} (hw : (s.slot s.ev.num s.ev.a).wait = .exit) (hd : s.drained s.ev.num s.ev.a = true)
    (hq : (s.tile s.ev.num).parkq = []) : Answers (exec .exitSlotFree s) fun t =>
      (t.slot s.ev.num s.ev.a).st = .free ∧ (t.slot s.ev.num s.ev.a).tag = (s.slot s.ev.num s.ev.a).tag ∧
      (∀ h i, (s.slot s.ev.num s.ev.a).home = some (h, i) → ((t.tile h).routine i).run = false) ∧
      (∀ k i, (s.slot s.ev.num s.ev.a).home ≠ some (k, i) → (t.tile k).routine i = (s.tile k).routine i) ∧
      { t with tiles := s.tiles } = s ∧ ∀ k u, k ≠ s.ev.num ∨ u ≠ s.ev.a → t.slot k u = s.slot k u := by
  generalize home : (s.slot s.ev.num s.ev.a).home = h
  have queue : ((s.clearRun h).tile s.ev.num).parkq = [] := by rw [State.tile_clearRun]; exact hq
  have freed : ((s.clearRun h).updSlot s.ev.num s.ev.a Slot.freed).slot s.ev.num s.ev.a = (s.slot s.ev.num s.ev.a).freed := by
    rw [State.slot_updSlot, if_pos ⟨rfl, rfl⟩, State.slot_clearRun]
  refine ⟨(s.clearRun h).updSlot s.ev.num s.ev.a Slot.freed, ?_, by rw [freed]; rfl, by rw [freed]; rfl, ?_, ?_, ?_, ?_⟩
  · rw [← State.freeSlot_of_parkq_nil queue, ← home]
    exact congrArg Host.Outcome.next (if_pos ⟨hw, hd⟩)
  · intro k i hk
    rw [State.routine_updSlot, State.routine_clearRun, if_pos hk]
  · intro k i hk
    rw [State.routine_updSlot, State.routine_clearRun, if_neg hk]
  · exact s.clearRun_tiles h
  · intro k u hk
    rw [State.slot_updSlot, if_neg (by omega), State.slot_clearRun]

/-! ### The start of a routine (R19, R21) -/

theorem Slot.xr_start (sl : Slot) (rent rarg : Word) (i lid t : Nat) (priv : Bool) (r : Reg) :
    (sl.start rent rarg i lid t priv).xr r = if r = 1 then rarg else if r = 2 then nw i else 0 := by
  have fresh : ∀ q : Reg, Slot.fresh.xr q = 0 := by decide
  rw [Slot.start, Slot.xr_setX, Slot.xr_setX]
  by_cases one : r = 1
  · subst one
    rfl
  · by_cases two : r = 2
    · subst two
      rfl
    · rw [if_neg fun h => two h.1, if_neg fun h => one h.1, if_neg one, if_neg two]
      exact fresh r

/-- What ROUTINE_START leaves of its tile: the routine i in the slot u, and running. -/
def Tile.started (tl : Tile) (i u t : Nat) (priv : Bool) : Tile :=
  { tl.updSlot u fun sl => sl.start (tl.routine i).rent (tl.routine i).rarg i tl.lid t priv with
    routines := tset tl.routines i { tl.routine i with rdy := false, run := true } }

theorem Tile.slot_started (tl : Tile) (i u t : Nat) (priv : Bool) (v : Nat) : (tl.started i u t priv).slot v =
    if v = u then (tl.slot u).start (tl.routine i).rent (tl.routine i).rarg i tl.lid t priv else tl.slot v :=
  Tile.slot_updSlot tl u v fun sl => sl.start (tl.routine i).rent (tl.routine i).rarg i tl.lid t priv

theorem exec_routineStart {s : State} {i u : Nat} (hs : (s.tile s.ev.num).startable s.now = some i)
    (hf : (s.tile s.ev.num).freeSlot = some u) (hq : (s.tile s.ev.num).parkq = []) (hh : (s.tile s.ev.num).held = false) :
    exec .routineStart s =
      .next (s.updTile s.ev.num fun tl => tl.started i u s.ev.num (s.launch (s.tile s.ev.num).lid).supervisor) := by
  simp only [exec, execRoutineStart, hs, hf, hq, hh]
  rfl

theorem answers_routineStart {s : State} {i u : Nat} (hs : (s.tile s.ev.num).startable s.now = some i)
    (hf : (s.tile s.ev.num).freeSlot = some u) (hq : (s.tile s.ev.num).parkq = []) (hh : (s.tile s.ev.num).held = false) :
    Answers (exec .routineStart s) fun t =>
      (t.slot s.ev.num u).st = .run ∧ (t.slot s.ev.num u).pc = ((s.tile s.ev.num).routine i).rent ∧
      (t.slot s.ev.num u).lid = (s.tile s.ev.num).lid ∧ (t.slot s.ev.num u).home = some (s.ev.num, i) ∧
      (∀ r, (t.slot s.ev.num u).xr r =
        if r = 1 then ((s.tile s.ev.num).routine i).rarg else if r = 2 then BitVec.ofNat 64 i else 0) ∧
      (t.slot s.ev.num u).status = (if (s.launch (s.tile s.ev.num).lid).supervisor then BitVec.ofNat 64 (2 ^ 12) else 0) ∧
      (∀ j, (t.tile s.ev.num).routine j =
        if j = i then { (s.tile s.ev.num).routine i with rdy := false, run := true } else (s.tile s.ev.num).routine j) ∧
      OnlyTile s t s.ev.num ∧ ∀ v, v ≠ u → t.slot s.ev.num v = s.slot s.ev.num v := by
  refine ⟨_, exec_routineStart hs hf hq hh, ?_⟩
  have tile := (State.tile_updTile s s.ev.num s.ev.num fun tl => tl.started i u s.ev.num (s.launch (s.tile s.ev.num).lid).supervisor).trans
    (if_pos rfl)
  generalize s.launch (s.tile s.ev.num).lid = l at tile
  have slots := fun v => (congrArg (Tile.slot · v) tile).trans (Tile.slot_started ..)
  have new := (slots u).trans (if_pos rfl)
  simp only [State.slot, new]
  refine ⟨rfl, rfl, rfl, rfl, fun r => Slot.xr_start .., rfl, fun j => ?_, State.onlyTile_updTile .., fun v hv => ?_⟩
  · rw [tile]
    exact Tile.routine_tset ..
  · rw [slots, if_neg hv]

/-! ### Traps at a boundary (R154, R174, R58, R101) -/

/-- What a trap message names: cause, FLAGS byte, pc, ADDR and DETAIL (R362). -/
def NamesTrap (e : Entry) (i : TrapInfo) : Prop :=
  ef e 2 1 = i.cause.code ∧ ef e 3 1 = i.mflags ∧ ef e 8 8 = i.pc.toNat ∧ ef e 16 8 = i.addr.toNat ∧ ef e 28 4 = i.detail % 2 ^ 32

theorem namesTrap_trapEntry (i : TrapInfo) (hm : i.mflags < 256) (t slot die tag lid : Nat) :
    NamesTrap (trapEntry i.cause.code i.mflags (tRow t) (tCol t) slot die i.pc i.addr tag lid i.detail) i := by
  have hc := i.cause.code_lt
  have hrow : tRow t < 128 := Nat.mod_lt _ (by decide)
  have hcol : tCol t < 160 := Nat.mod_lt _ (by decide)
  have hpc := i.pc.isLt
  have haddr := i.addr.isLt
  simp only [NamesTrap, ef, nf, trapEntry, BitVec.toNat_ofNat]
  refine ⟨?_, ?_, ?_, ?_, ?_⟩ <;> omega

section
variable {s : State} {t u : Nat} (h : (s.slot t u).flk = 0) (i : TrapInfo)
include h

theorem State.trapAt_curTile : (s.trapAt t u i).curTile = s.curTile := by
  simp only [State.trapAt, State.leaveFlock_free _ _ _ _ h, State.keepMsg]
  (repeat' split) <;> rfl

theorem State.trapAt_curSlot : (s.trapAt t u i).curSlot = s.curSlot := by
  simp only [State.trapAt, State.leaveFlock_free _ _ _ _ h, State.keepMsg]
  (repeat' split) <;> rfl

theorem State.slot_leaveFlock_keepMsg (k v : Nat) :
    ((s.leaveFlock t u 3).keepMsg t u).slot k v = if k = t ∧ v = u then (s.slot t u).unsent else s.slot k v := by
  rw [State.leaveFlock_free _ _ _ _ h, State.slot_keepMsg]
  split
  · rw [State.slot_updSlot, if_pos ⟨rfl, rfl⟩]
    rfl
  · next hk => rw [State.slot_updSlot, if_neg hk]

/-- The slots after a trap at any level: at supervisor level the message does not wait in the slot (R40, R362). -/
theorem State.slot_trapAt_level (hm : i.mflags < 256) : ∃ e n, NamesTrap e i ∧ ∀ k v, (s.trapAt t u i).slot k v =
    if k = t ∧ v = u then { (s.slot t u).trapped i e n with trapMsg := if (s.slot t u).priv then none else some e } else s.slot k v := by
  have before := State.slot_leaveFlock_keepMsg h
  simp only [State.trapAt]
  generalize (s.leaveFlock t u 3).keepMsg t u = b at before
  have entered : b.slot t u = (s.slot t u).unsent := (before t u).trans (if_pos ⟨rfl, rfl⟩)
  rw [entered]
  refine ⟨_, b.next, namesTrap_trapEntry i hm (b.seenTile t) u ((b.launch (s.slot t u).lid).dieOwn (tDie t)) (((s.slot t u).tag + 1) % 65536)
    (s.slot t u).lid, fun k v => ?_⟩
  have after (f : Slot → Slot) : (b.updSlot t u f).slot k v = if k = t ∧ v = u then f (s.slot t u).unsent else s.slot k v := by
    rw [State.slot_updSlot, entered, before]
    split <;> rfl
  split <;> exact after _

end

/-- From s to t the executing thread, its slot then sl, is parked by a trap, and nothing else has changed. -/
structure ParkedBy (s t : State) (sl : Slot) (i : TrapInfo) : Prop where
  st_eq : t.cur.st = .park
  cause_eq : t.cur.cause = i.cause.code
  pc_eq : t.cur.pc = i.resume
  tag_eq : t.cur.tag = (sl.tag + 1) % 65536
  x_eq : t.cur.x = sl.x
  refusals_eq : t.cur.refusals = sl.refusals
  engErrs_eq : t.cur.engErrs = sl.engErrs
  fpx_eq : t.cur.fpx = sl.fpx
  message : sl.priv = false → ∃ e, t.cur.trapMsg = some e ∧ NamesTrap e i
  other_eq : ∀ k u, k ≠ s.curTile ∨ u ≠ s.curSlot → t.slot k u = s.slot k u
  mem_eq : t.mem = s.mem

/-- A trap at a boundary, once what caused it has left the thread's slot. -/
theorem parkedBy_trapAt {s : State} {f : Slot → Slot} {i : TrapInfo} (flk : (f s.cur).flk = 0) (hm : i.mflags < 256) :
    ParkedBy s ((s.updCur f).trapAt s.curTile s.curSlot i) (f s.cur) i := by
  have cur : (s.updCur f).slot s.curTile s.curSlot = f s.cur := State.cur_updCur s f
  have free : ((s.updCur f).slot s.curTile s.curSlot).flk = 0 := (congrArg Slot.flk cur).trans flk
  obtain ⟨e, n, names, slots⟩ := State.slot_trapAt_level free i hm
  rw [cur] at slots
  have parked : ((s.updCur f).trapAt s.curTile s.curSlot i).cur =
      { (f s.cur).trapped i e n with trapMsg := if (f s.cur).priv then none else some e } := by
    rw [State.cur, State.trapAt_curTile free, State.trapAt_curSlot free]
    exact (slots _ _).trans (if_pos ⟨rfl, rfl⟩)
  obtain ⟨-, -, -, other⟩ := s.sameElsewhere_updCur f
  constructor
  case message => exact fun low => ⟨e, by rw [parked, low]; rfl, names⟩
  case other_eq => exact fun k u hk => (slots k u).trans ((if_neg (by omega)).trans (other k u hk))
  case mem_eq => exact State.trapAt_mem ..
  all_goals rw [parked]; rfl

section
variable {s : State} (flk : s.cur.flk = 0)
include flk

/-- The trap of a refusal held (R154). -/
def RefusalRec.trapInfo (r : RefusalRec) (pc : Word) : TrapInfo :=
  { cause := r.cause, pc := pc, resume := pc, addr := refAddr r.cause r.addr, detail := sizeCode r.size, mflags := 2 + b2n r.overflow * 4 }

omit flk in
theorem exec_refusalTrap {r : RefusalRec} {rest : List RefusalRec} (hr : s.cur.refusals = r :: rest) : exec .refusalTrap s =
    .next ((s.updCur fun sl => { sl with refusals := rest }).trapAt s.curTile s.curSlot (r.trapInfo s.cur.pc)) := by
  have pc : (s.updCur fun sl => { sl with refusals := rest }).cur.pc = s.cur.pc := by rw [State.cur_updCur]
  simp only [exec, execRefusalTrap, hr, pc, RefusalRec.trapInfo]

theorem answers_refusalTrap {r : RefusalRec} {rest : List RefusalRec} (hr : s.cur.refusals = r :: rest) (hc : r.cause ≠ .poison) :
    Answers (exec .refusalTrap s) fun t =>
      t.cur.st = .park ∧ t.cur.cause = r.cause.code ∧ t.cur.pc = s.cur.pc ∧ t.cur.refusals = rest ∧ (∀ x, t.xr x = s.xr x) ∧
      t.cur.tag = (s.cur.tag + 1) % 65536 ∧ (s.cur.priv = false → ∃ e, t.cur.trapMsg = some e ∧ ef e 16 8 = r.addr.toNat ∧
        ef e 8 8 = s.cur.pc.toNat ∧ ef e 2 1 = r.cause.code ∧ ef e 3 1 = 2 + (if r.overflow then 4 else 0)) ∧
      (∀ k u, k ≠ s.curTile ∨ u ≠ s.curSlot → t.slot k u = s.slot k u) ∧ t.mem = s.mem := by
  have flags : 2 + b2n r.overflow * 4 = 2 + (if r.overflow then 4 else 0) := by cases r.overflow <;> rfl
  have small : 2 + b2n r.overflow * 4 < 256 := by cases r.overflow <;> decide
  have parked := parkedBy_trapAt (f := fun sl => { sl with refusals := rest }) (i := r.trapInfo s.cur.pc) flk small
  refine ⟨_, exec_refusalTrap hr, parked.st_eq, parked.cause_eq, parked.pc_eq, parked.refusals_eq, State.xr_of_x parked.x_eq, parked.tag_eq,
    fun low => ?_, parked.other_eq, parked.mem_eq⟩
  obtain ⟨e, waits, code, mflags, pc, addr, -⟩ := parked.message low
  exact ⟨e, waits, addr.trans (congrArg BitVec.toNat (if_neg hc)), pc, code, mflags.trans flags⟩

/-- The trap of flags that an earlier word raised (R58, R159). -/
def deferredFpx (resume pc : Word) (fl : Fl) (engine : Bool) : TrapInfo :=
  { cause := .fpx, pc := pc, resume := resume, addr := 0, detail := fl.toNat, mflags := b2n engine * 8 }

omit flk in
theorem exec_deferredFpxTrap {pc : Word} {fl : Fl} {en : Bool} (hf : s.cur.fpx = some (pc, fl, en)) : exec .deferredFpxTrap s =
    .next ((s.updCur fun sl => { sl with fpx := none }).trapAt s.curTile s.curSlot (deferredFpx s.cur.pc pc fl en)) := by
  have resume : (s.updCur fun sl => { sl with fpx := none }).cur.pc = s.cur.pc := by rw [State.cur_updCur]
  simp only [exec, execDeferredFpxTrap, hf, resume, deferredFpx]

theorem answers_deferredFpxTrap {pc : Word} {fl : Fl} {en : Bool} (hf : s.cur.fpx = some (pc, fl, en)) :
    Answers (exec .deferredFpxTrap s) fun t =>
      t.cur.st = .park ∧ t.cur.cause = 15 ∧ t.cur.pc = s.cur.pc ∧ t.cur.fpx = none ∧ (∀ x, t.xr x = s.xr x) ∧
      (s.cur.priv = false → ∃ e, t.cur.trapMsg = some e ∧ ef e 8 8 = pc.toNat ∧ ef e 28 4 = fl.toNat ∧ ef e 2 1 = 15) ∧
      (∀ k u, k ≠ s.curTile ∨ u ≠ s.curSlot → t.slot k u = s.slot k u) ∧ t.mem = s.mem := by
  have small : b2n en * 8 < 256 := by cases en <;> decide
  have flags : fl.toNat % 2 ^ 32 = fl.toNat := Nat.mod_eq_of_lt (fl.isLt.trans (by decide))
  have parked := parkedBy_trapAt (f := fun sl => { sl with fpx := none }) (i := deferredFpx s.cur.pc pc fl en) flk small
  refine ⟨_, exec_deferredFpxTrap hf, parked.st_eq, parked.cause_eq, parked.pc_eq, parked.fpx_eq, State.xr_of_x parked.x_eq,
    fun low => ?_, parked.other_eq, parked.mem_eq⟩
  obtain ⟨e, waits, code, -, pc, -, detail⟩ := parked.message low
  exact ⟨e, waits, pc, detail.trans flags, code⟩

/-- The trap of an engine's error (R174, R197). -/
def EngineErr.trapInfo (e : EngineErr) (resume : Word) : TrapInfo :=
  { cause := e.cause, pc := e.pc, resume := resume, addr := e.addr, detail := 0, mflags := 8 }

omit flk in
theorem exec_engineTrap {e : EngineErr} (he : s.cur.engErrs = [e]) : exec .engineTrap s =
    .next ((s.updCur fun sl => { sl with engErrs := sl.engErrs.erase e }).trapAt s.curTile s.curSlot (e.trapInfo s.cur.pc)) := by
  have resume : (s.updCur fun sl => { sl with engErrs := sl.engErrs.erase e }).cur.pc = s.cur.pc := by rw [State.cur_updCur]
  cases hm : e.matrix <;>
    simp only [exec, execEngineTrap, he, List.find?_cons, List.find?_nil, List.head?_cons, hm, Bool.not_false, Bool.not_true, resume,
      EngineErr.trapInfo]

theorem answers_engineTrap {e0 : EngineErr} (he : s.cur.engErrs = [e0]) : Answers (exec .engineTrap s) fun t =>
      t.cur.st = .park ∧ t.cur.cause = e0.cause.code ∧ t.cur.pc = s.cur.pc ∧ t.cur.engErrs = [] ∧ (∀ x, t.xr x = s.xr x) ∧
      (s.cur.priv = false → ∃ e, t.cur.trapMsg = some e ∧ ef e 8 8 = e0.pc.toNat ∧ ef e 16 8 = e0.addr.toNat ∧ ef e 3 1 = 8) ∧
      (∀ k u, k ≠ s.curTile ∨ u ≠ s.curSlot → t.slot k u = s.slot k u) ∧ t.mem = s.mem := by
  have parked := parkedBy_trapAt (f := fun sl => { sl with engErrs := sl.engErrs.erase e0 }) (i := e0.trapInfo s.cur.pc) flk (by decide : 8 < 256)
  have cleared : s.cur.engErrs.erase e0 = [] := by rw [he, List.erase_cons_head]
  refine ⟨_, exec_engineTrap he, parked.st_eq, parked.cause_eq, parked.pc_eq, parked.engErrs_eq.trans cleared, State.xr_of_x parked.x_eq,
    fun low => ?_, parked.other_eq, parked.mem_eq⟩
  obtain ⟨e, waits, -, mflags, pc, addr, -⟩ := parked.message low
  exact ⟨e, waits, pc, addr, mflags⟩

theorem answers_decodeTrap {c : Cause} {w : Word} (hd : s.fetchDecode s.curTile s.curSlot = .trap c w) :
    Answers (exec .decodeTrap s) fun t => Trapped s t c s.cur.pc w 0 :=
  ⟨_, by simp only [exec, execDecodeTrap, hd], trapped_trap s c w 0 flk⟩

end

/-- Settles O39: the end of a thread, the start of a routine and the four traps at a boundary. -/
theorem threadStartAndEnd : Obligations.ThreadStartAndEnd := by
  intro s t0 u0 sl tl
  exact ⟨exec_exitSlotFree_stays, answers_exitSlotFree, fun _ _ => answers_routineStart, fun flk =>
    ⟨fun _ _ => answers_refusalTrap flk, fun _ _ _ => answers_deferredFpxTrap flk, fun _ => answers_engineTrap flk,
      fun _ _ => answers_decodeTrap flk⟩⟩

end Sys2Proof.Machine
end

section
/-! Sequencer entries: room, what an entering word leaves, and what an entry captures (R169, R170). -/

open Sys2Proof

namespace Sys2Proof.Machine

/-! ### A word that changes its tile and its own slot -/

section
variable (s : State) {f : Tile → Tile} {g : Slot → Slot} (hf : (f s.curT).slots = s.curT.slots)
include hf

/-- The slot of a word that changes its tile beside the slots, then its own slot, and is done. -/
theorem State.cur_done_updCur_updTile (hpc : (g s.cur).pc = s.cur.pc) (len : Nat) :
    (((s.updTile s.curTile f).updCur g).done len).cur = (g s.cur).complete (s.cur.pc + BitVec.ofNat 64 len) true := by
  rw [State.done, State.cur_updCur, s.cur_updTile_updCur_of_slots g hf, hpc]

theorem wordDone_updCur_updTile (hx : (g s.cur).x = s.cur.x) (hpc : (g s.cur).pc = s.cur.pc) (hl : (g s.cur).loops = s.cur.loops)
    (len : Nat) : WordDone s (((s.updTile s.curTile f).updCur g).done len) len := by
  have cur := s.cur_done_updCur_updTile hf hpc len
  refine ⟨?_, fun r => ?_, fun u hu => ?_⟩
  · rw [cur]
    simpa [Slot.At, hl] using Slot.at_complete (g s.cur) (s.cur.pc + BitVec.ofNat 64 len) true
  · rw [State.xr, cur, Slot.complete_xr, Slot.xr, hx]
    rfl
  · exact (State.slot_updSlot ..).trans ((if_neg (by simp [hu])).trans (s.slot_updTile_updCur_of_ne g hf hu))

end

theorem State.updCur_done (s : State) (g : Slot → Slot) (len : Nat) :
    (s.updCur g).done len = s.updCur fun sl => (g sl).complete ((g sl).pc + BitVec.ofNat 64 len) true :=
  s.updSlot_updSlot s.curTile s.curSlot g fun sl => sl.complete (sl.pc + BitVec.ofNat 64 len) true

/-- The tile of such a word, but for its slots. -/
theorem State.curT_done_updCur_updTile (s : State) (f : Tile → Tile) (g : Slot → Slot) (len : Nat) :
    { (((s.updTile s.curTile f).updCur g).done len).curT with slots := (f s.curT).slots } = f s.curT := by
  rw [State.updCur_done, State.curT_updTile_updCur]
  rfl

theorem State.onlyTile_done_updCur_updTile (s : State) (f : Tile → Tile) (g : Slot → Slot) (len : Nat) :
    OnlyTile s (((s.updTile s.curTile f).updCur g).done len) s.curTile := by
  rw [State.updCur_done]
  exact s.onlyTile_updTile_updCur _

/-! ### Waiting for room, and entering -/

theorem State.cur_block (s : State) (w : Wait) : (s.block w).cur = { s.cur with st := .block, wait := w } := s.cur_updCur _

/-- A word that waits leaves its thread in BLOCK at its own pc, and what it waits for. -/
theorem blocks_block (s : State) (w : Wait) :
    (s.block w).cur.st = .block ∧ (s.block w).cur.wait = w ∧ (s.block w).cur.pc = s.cur.pc ∧ SameElsewhere s (s.block w) := by
  rw [State.cur_block]
  exact ⟨rfl, rfl, rfl, s.sameElsewhere_updCur _⟩

/-- Making room changes nothing of the tile but its entries. -/
theorem Tile.seqRoom_rest {t tl : Tile} (h : t.seqRoom = some tl) : tl = { t with seq := tl.seq } := by
  unfold Tile.seqRoom at h
  split at h
  · cases h
    rfl
  · obtain ⟨e, -, rfl⟩ := Option.map_eq_some_iff.1 h
    rfl

/-- The tile as an entry enters, with the next number. -/
def Tile.entering (e : SeqEntry) (tl : Tile) : Tile := { tl with seq := tl.seq ++ [{ e with num := tl.seqNext }], seqNext := tl.seqNext + 1 }

/-- The slot of the thread whose entry of a number has entered. -/
def Slot.repeats (n : Nat) (sl : Slot) : Slot := { sl with repeatSet := n :: sl.repeatSet }

/-- From s to t the executing word is done and its entry stands behind those of tl, the tile with room, under the next number; nothing but
the sequencer and the thread's slot has changed. -/
def Entered (s t : State) (tl : Tile) (P : SeqEntry → Prop) : Prop :=
  (∃ e, t.curT.seq = tl.seq ++ [e] ∧ e.num = s.curT.seqNext ∧ P e ∧ t.cur.repeatSet = e.num :: s.cur.repeatSet) ∧
  t.curT.seqNext = s.curT.seqNext + 1 ∧ WordDone s t 4 ∧ s.cur.SameButX { t.cur with repeatSet := s.cur.repeatSet } ∧
  { t.curT with slots := s.curT.slots, seq := s.curT.seq, seqNext := s.curT.seqNext } = s.curT ∧ OnlyTile s t s.curTile

theorem State.enterSeq_full {s : State} (h : s.curT.seqRoom = none) (e : SeqEntry) : s.enterSeq e = s.block (.entry e) := by
  simp only [State.enterSeq, h]

theorem State.enterSeq_room {s : State} {tl : Tile} (h : s.curT.seqRoom = some tl) (e : SeqEntry) :
    s.enterSeq e = ((s.updTile s.curTile fun _ => tl.entering e).updCur (Slot.repeats tl.seqNext)).done 4 := by
  simp only [State.enterSeq, h]
  rfl

theorem entered_enterSeq {s : State} {tl : Tile} {P : SeqEntry → Prop} (h : s.curT.seqRoom = some tl) (e : SeqEntry)
    (hP : P { e with num := s.curT.seqNext }) : Entered s (s.enterSeq e) tl P := by
  have rest := Tile.seqRoom_rest h
  have next : tl.seqNext = s.curT.seqNext := by rw [rest]
  have slots : (tl.entering e).slots = s.curT.slots := by
    show tl.slots = _
    rw [rest]
  rw [State.enterSeq_room h, next]
  have tile := s.curT_done_updCur_updTile (fun _ => tl.entering e) (Slot.repeats s.curT.seqNext) 4
  have cur := s.cur_done_updCur_updTile (f := fun _ => tl.entering e) (g := Slot.repeats s.curT.seqNext) slots rfl 4
  refine ⟨⟨_, (congrArg Tile.seq tile).trans (by rw [← next]; rfl), rfl, hP, by rw [cur]; rfl⟩,
    (congrArg Tile.seqNext tile).trans (congrArg (· + 1) next), wordDone_updCur_updTile s slots rfl rfl rfl 4, by rw [cur]; rfl, ?_,
    s.onlyTile_done_updCur_updTile ..⟩
  have same := congrArg (fun t : Tile => { t with slots := s.curT.slots, seq := s.curT.seq, seqNext := s.curT.seqNext }) tile
  refine same.trans ?_
  rw [Tile.entering, rest]

end Sys2Proof.Machine
end

section
/-! Vector words: the checks at issue and the entry of a word that passes them (O26). -/

open Sys2Proof

namespace Sys2Proof.Machine

/-- Every vector word but VFILL into a queue is issued by vec_issue (R169). -/
theorem exec_of_vecOf {i : Instr} {w : VW} (h : vecOf i = some w) (hq : ∀ d a t, i = .vfill d a t → d.toNat < 8) (s : State) :
    exec i s = .next (s.vecIssue i w) := by
  cases i
  case vfill d a t =>
    cases h
    exact if_neg (Nat.not_le.2 (hq d a t rfl))
  all_goals cases h <;> rfl

/-- What a vector word captures of the registers: k1 for VXCHG, x[a] for VFILL. -/
def State.vecVal (s : State) (w : VW) : Word := if w.fn = .xchg then s.cur.kr 1 else if w.fn = .fill then s.xr (BitVec.ofNat 4 w.a) else 0

/-- The members a vector word exchanges with: those of the entry k1 names for VXCHG, and nobody for another word. -/
def State.vecWho (s : State) (w : VW) : Option (List (Option Nat) × Nat) :=
  if w.fn = .xchg then s.xchgMembers s.curTile ((s.vecVal w).toNat % 256) else some ([], 0)

/-- The first footprint that is outside or misaligned (R169). -/
def State.vecBounds (s : State) (w : VW) : Option (Cause × Nat) := shapeTrap (s.launch s.curT.lid).parkBase (s.curT.vops w).shaped

/-- The checks of a vector word in their order, and the entry of one that passes. -/
def State.vecChecked (s : State) (i : Instr) (w : VW) : State :=
  if (s.curT.vops w).typesOk = false then s.trapIll i else
  match s.vecWho w with
  | none => s.trap .window 0 0
  | some (ms, _) =>
    if (s.curT.vops w).countsOk ms.length = false then s.trapIll i
    else if (s.curT.vops w).chainOk s s.curTile s.curT.chain = false then s.trap .window 0 0
    else match s.vecBounds w with
      | some (c, a) => s.trap c (nw a) 0
      | none => s.enterSeq (s.newEntry i (s.curT.vops w) (s.vecVal w) [] 0)

theorem State.vecIssue_entry {s : State} {e : SeqEntry} (h : s.cur.wait = .entry e) (i : Instr) (w : VW) :
    s.vecIssue i w = s.enterSeq e := by
  simp only [State.vecIssue, h]

/-- R169's checks, once the word does not wait for an entry. -/
theorem State.vecIssue_checked {s : State} (h : ∀ e, s.cur.wait ≠ .entry e) (i : Instr) (w : VW) : s.vecIssue i w = s.vecChecked i w := by
  have low (v : Word) : wf v 0 8 = v.toNat % 256 := by simp [wf, nf]
  by_cases hx : w.fn = .xchg
  · simp only [State.vecIssue, State.vecChecked, State.vecWho, State.vecVal, State.vecBounds, low, hx, Bool.not_eq_true', if_true] <;> rfl
  · by_cases hf : w.fn = .fill
    · simp only [State.vecIssue, State.vecChecked, State.vecWho, State.vecVal, State.vecBounds, hf, Bool.not_eq_true', reduceCtorEq, if_true,
        if_false] <;> rfl
    · simp only [State.vecIssue, State.vecChecked, State.vecWho, State.vecVal, State.vecBounds, hx, hf, Bool.not_eq_true', if_false] <;> rfl

/-- The word, its place and its operands, as an entry holds them from the issue on (R169, R170). -/
def Captured (s : State) (i : Instr) (w : VW) (e : SeqEntry) : Prop :=
  e.instr = i ∧ e.pc = s.cur.pc ∧ e.slot = s.curSlot ∧ e.lid = s.cur.lid ∧ e.recD = (s.curT.vops w).rd ∧ e.recA = (s.curT.vops w).ra ∧
    e.recB = (s.curT.vops w).rb ∧ e.val = s.vecVal w ∧ e.chain = s.curT.chain ∧ e.st = .wait

theorem captured_newEntry (s : State) (i : Instr) (w : VW) (n : Nat) :
    Captured s i w { s.newEntry i (s.curT.vops w) (s.vecVal w) [] 0 with num := n } :=
  ⟨rfl, rfl, rfl, rfl, rfl, rfl, rfl, rfl, rfl, rfl⟩

section
variable {s : State} {i : Instr} {w : VW} (hv : vecOf i = some w) (hq : ∀ d a t, i = .vfill d a t → d.toNat < 8)
include hv hq

/-- A word that waits for an entry enters with what it captured, as soon as there is room. -/
theorem answers_waiting {e : SeqEntry} (h : s.cur.wait = .entry e) :
    (s.curT.seqRoom = none → Answers (exec i s) fun t =>
      t.cur.st = .block ∧ t.cur.wait = .entry e ∧ t.cur.pc = s.cur.pc ∧ SameElsewhere s t) ∧
    ∀ tl, s.curT.seqRoom = some tl → Answers (exec i s) fun t => Entered s t tl fun x => x = { e with num := s.curT.seqNext } := by
  have run : exec i s = .next (s.enterSeq e) := by rw [exec_of_vecOf hv hq, State.vecIssue_entry h]
  refine ⟨fun full => ⟨_, run, ?_⟩, fun tl room => ⟨_, run, entered_enterSeq room e rfl⟩⟩
  rw [State.enterSeq_full full]
  exact blocks_block s _

variable (hw : ∀ e, s.cur.wait ≠ .entry e)
include hw

theorem exec_vecChecked : exec i s = .next (s.vecChecked i w) := by rw [exec_of_vecOf hv hq, State.vecIssue_checked hw]

theorem traps_types (ht : (s.curT.vops w).typesOk = false) (flk : s.cur.flk = 0) : Traps i s .ill (wordOf i) 0 :=
  ⟨_, (exec_vecChecked hv hq hw).trans (congrArg _ (if_pos ht)), trapped_trap s _ _ _ flk⟩

variable (ht : (s.curT.vops w).typesOk = true)
include ht

theorem traps_membership (hm : s.vecWho w = none) (flk : s.cur.flk = 0) : Traps i s .window 0 0 :=
  ⟨_, by rw [exec_vecChecked hv hq hw, State.vecChecked, ht, hm]; rfl, trapped_trap s _ _ _ flk⟩

variable {ms : List (Option Nat)} {j : Nat} (hm : s.vecWho w = some (ms, j))
include hm

theorem traps_counts (hc : (s.curT.vops w).countsOk ms.length = false) (flk : s.cur.flk = 0) : Traps i s .ill (wordOf i) 0 :=
  ⟨_, by rw [exec_vecChecked hv hq hw, State.vecChecked, ht, hm]; exact congrArg _ (if_pos hc), trapped_trap s _ _ _ flk⟩

variable (hc : (s.curT.vops w).countsOk ms.length = true)
include hc

theorem traps_chain (hn : (s.curT.vops w).chainOk s s.curTile s.curT.chain = false) (flk : s.cur.flk = 0) : Traps i s .window 0 0 :=
  ⟨_, by simp only [exec_vecChecked hv hq hw, State.vecChecked, ht, hm, hc, hn, reduceCtorEq, if_true, if_false], trapped_trap s _ _ _ flk⟩

variable (hn : (s.curT.vops w).chainOk s s.curTile s.curT.chain = true)
include hn

theorem traps_bounds {c : Cause} {x : Nat} (hb : s.vecBounds w = some (c, x)) (flk : s.cur.flk = 0) :
    Traps i s c (BitVec.ofNat 64 x) 0 :=
  ⟨_, by simp only [exec_vecChecked hv hq hw, State.vecChecked, ht, hm, hc, hn, hb, reduceCtorEq, if_false]; rfl, trapped_trap s _ _ _ flk⟩

/-- A word that has passed its checks enters with what it captures now, or waits with it. -/
theorem answers_passed (hb : s.vecBounds w = none) :
    (s.curT.seqRoom = none → Answers (exec i s) fun t => t.cur.st = .block ∧ t.cur.pc = s.cur.pc ∧ SameElsewhere s t ∧
      ∃ e, t.cur.wait = .entry e ∧ Captured s i w e) ∧
    ∀ tl, s.curT.seqRoom = some tl → Answers (exec i s) fun t => Entered s t tl (Captured s i w) := by
  have run : exec i s = .next (s.enterSeq (s.newEntry i (s.curT.vops w) (s.vecVal w) [] 0)) := by
    simp only [exec_vecChecked hv hq hw, State.vecChecked, ht, hm, hc, hn, hb, reduceCtorEq, if_false]
  refine ⟨fun full => ⟨_, run, ?_⟩, fun tl room => ⟨_, run, entered_enterSeq room _ (captured_newEntry s i w _)⟩⟩
  rw [State.enterSeq_full full]
  obtain ⟨st, wait, pc, same⟩ := blocks_block s (.entry (s.newEntry i (s.curT.vops w) (s.vecVal w) [] 0))
  exact ⟨st, pc, same, _, wait, captured_newEntry s i w 0⟩

end

/-- Settles O26: the checks of a vector word one after the other, and the entry of one that passes them all. -/
theorem vectorWordsIssue : Obligations.VectorWordsIssue := by
  refine ⟨fun d a b r t => rfl, fun s i w hv hq => ?_⟩
  intro o val who bounds enters captured
  refine ⟨fun e he => answers_waiting hv hq he, fun hw => ⟨traps_types hv hq hw, traps_membership hv hq hw, fun ms j ht hm =>
    ⟨traps_counts hv hq hw ht hm, traps_chain hv hq hw ht hm, fun hc hn => ⟨fun c x => traps_bounds hv hq hw ht hm hc hn, fun hb => ?_,
      fun tl hb => ?_⟩⟩⟩⟩
  · exact (answers_passed hv hq hw ht hm hc hn hb).1
  · exact (answers_passed hv hq hw ht hm hc hn hb).2 tl

end Sys2Proof.Machine
end

section
/-! Sequencer words: VSHAPE, VLOOP, VSYNC and VFILL into a queue (O27). -/

open Sys2Proof

namespace Sys2Proof.Machine

/-! ### VSHAPE (R165) -/

theorem State.sliceRead_ok {s : State} {t off n : Nat} (hu : (s.tile t).unusable = false)
    (hp : poisonIn s.poison (s.sliceKey t off) n = none) : s.sliceRead t off n = .ok (readMem s.mem (s.sliceKey t off) n) := by
  simp only [State.sliceRead, hu, hp, Bool.false_eq_true, if_false]
  rfl

theorem argTraps_vshape (s : State) (d : BitVec 3) (a : Reg) : ArgTraps (.vshape d a) s (s.xr a) 32 32 :=
  argTraps_localArg fun c hc => by simp only [exec, execVshape, hc]

section
variable {s : State} {d : BitVec 3} {a : Reg} {off : Nat} (harg : s.localArg (s.xr a) 32 32 = .ok off) (hu : s.curT.unusable = false)
  (hp : poisonIn s.poison (s.sliceKey s.curTile off) 32 = none)
include harg hu hp

/-- VSHAPE takes the record of its 32 bytes where it is valid. -/
theorem exec_vshape {r : Rec} (hr : r = BitVec.ofNat 256 (readMem s.mem (s.sliceKey s.curTile off) 32)) : exec (.vshape d a) s =
    .next (if r.valid then (s.updTile s.curTile fun t => { t with h := tset t.h d.toNat r }).done 4 else s.trapIll (.vshape d a)) := by
  subst hr
  simp only [exec, execVshape, harg, State.sliceRead_ok hu hp]

theorem answers_vshape {r : Rec} (hr : r = BitVec.ofNat 256 (readMem s.mem (s.sliceKey s.curTile off) 32)) (hv : r.valid = true) :
    Answers (exec (.vshape d a) s) fun t => (∀ k, t.curT.hrec k = if k = d.toNat then r else s.curT.hrec k) ∧ WordDone s t 4 ∧
      s.cur.SameButX t.cur ∧ { t.curT with slots := s.curT.slots, h := s.curT.h } = s.curT ∧ OnlyTile s t s.curTile := by
  obtain ⟨done, same⟩ := wordDone_updTile s (f := fun t => { t with h := tset t.h d.toNat r }) rfl 4
  have tile : ((s.updTile s.curTile fun t => { t with h := tset t.h d.toNat r }).done 4).curT = _ := s.curT_updTile_updCur _
  refine ⟨_, (exec_vshape harg hu hp hr).trans (congrArg _ (if_pos hv)), fun k => ?_, done, same, ?_, s.onlyTile_updTile_updCur _⟩
  · rw [tile]
    exact tget_tset ..
  · rw [tile]
    rfl

end

/-! ### VLOOP (R171) -/

/-- The numbers of the thread's entries that a VLOOP can name, the newest first. -/
def State.loopHeld (s : State) : List Nat := s.cur.repeatSet.filter fun i => s.curT.seq.any fun e => e.num == i

/-- The set of a VLOOP of n words, the oldest first. -/
def State.loopSet (s : State) (n : Nat) : List Nat := (s.loopHeld.take n).reverse

/-- The footprints of each word of the set lie inside the reservation at the first and at the last of c repetitions. -/
def State.loopFits (s : State) (set : List Nat) (c : Nat) : Bool :=
  (s.curT.seq.filter fun e => set.contains e.num).all fun e => e.repeatFits (s.launch s.curT.lid).parkBase c

/-- The thread has a repeat entry. -/
def State.loopBusy (s : State) : Bool := s.curT.seq.any fun e => e.isRepeat && e.slot == s.curSlot

/-- The repeat entry of a VLOOP (R171). -/
def State.loopEntry (s : State) (a n : BitVec 4) (c : Nat) : SeqEntry :=
  { s.newEntry (.vloop a n) { w := { fn := .add, d := 0, a := 0, b := 0, r := 0, t := 0 }, rd := 0, ra := 0, rb := 0 } 0
      (s.loopSet (n.toNat + 1)) c with num := s.curT.seqNext }

section
variable {s : State} {a n : BitVec 4}

theorem exec_vloop : exec (.vloop a n) s = .next (
    if (s.xr a).toNat % 65536 = 0 then s.done 4
    else if s.loopHeld.length < n.toNat + 1 then s.trapIll (.vloop a n)
    else if !s.loopFits (s.loopSet (n.toNat + 1)) ((s.xr a).toNat % 65536) then s.trap .window 0 0
    else if s.loopBusy then s.block .poll
    else ((s.updTile s.curTile fun t => { t with seq := t.seq ++ [s.loopEntry a n ((s.xr a).toNat % 65536)], seqNext := t.seqNext + 1 }).updCur
      fun sl => { sl with repeatSet := [] }).done 4) := by
  have low : wf (s.xr a) 0 16 = (s.xr a).toNat % 65536 := by simp [wf, nf]
  rw [← low]
  rfl

variable (hc : (s.xr a).toNat % 65536 ≠ 0)
include hc

theorem traps_vloop (hh : s.loopHeld.length < n.toNat + 1) (flk : s.cur.flk = 0) : Traps (.vloop a n) s .ill (wordOf (.vloop a n)) 0 :=
  ⟨_, by rw [exec_vloop, if_neg hc, if_pos hh]; rfl, trapped_trap s _ _ _ flk⟩

variable (hh : n.toNat + 1 ≤ s.loopHeld.length) (hfit : s.loopFits (s.loopSet (n.toNat + 1)) ((s.xr a).toNat % 65536) = true)
include hh hfit

theorem waits_vloop (hb : s.loopBusy = true) : Waits (.vloop a n) s :=
  waits_block (w := .poll) (by rw [exec_vloop, if_neg hc, if_neg (Nat.not_lt.2 hh), hfit, hb]; rfl)

theorem answers_vloop (hb : s.loopBusy = false) : Answers (exec (.vloop a n) s) fun t =>
    (∃ e, t.curT.seq = s.curT.seq ++ [e] ∧ e.set = s.loopSet (n.toNat + 1) ∧ e.count = (s.xr a).toNat % 65536 ∧ e.instr = .vloop a n ∧
      e.st = .wait) ∧ t.cur.repeatSet = [] ∧ WordDone s t 4 ∧ OnlyTile s t s.curTile := by
  refine ⟨_, by rw [exec_vloop, if_neg hc, if_neg (Nat.not_lt.2 hh), hfit, hb]; rfl, ⟨s.loopEntry a n _, ?_, rfl, rfl, rfl, rfl⟩, ?_, ?_,
    s.onlyTile_done_updCur_updTile ..⟩
  · exact congrArg Tile.seq (s.curT_done_updCur_updTile _ _ 4)
  · rw [s.cur_done_updCur_updTile rfl rfl]
    rfl
  · exact wordDone_updCur_updTile s rfl rfl rfl rfl 4

end

/-! ### VSYNC (R172) -/

section
variable {s : State} {i : Instr} {len : Nat} (h : (i = .vsync ∧ len = 4) ∨ (i = .vsyncC ∧ len = 2))
include h

theorem exec_vsync : exec i s =
    .next (if s.curT.seq.any fun e => e.slot == s.curSlot && e.st != .done then s.block .poll else s.done len) := by
  rcases h with ⟨rfl, rfl⟩ | ⟨rfl, rfl⟩ <;> rfl

theorem waits_vsync (hb : ∃ e ∈ s.curT.seq, e.slot = s.curSlot ∧ e.st ≠ .done) : Waits i s :=
  waits_block ((exec_vsync h).trans (congrArg _ (if_pos (by simpa using hb))))

theorem movesPc_vsync (hd : ∀ e ∈ s.curT.seq, e.slot = s.curSlot → e.st = .done) : MovesPc i s (s.cur.pc + BitVec.ofNat 64 len) true :=
  movesPc_complete ((exec_vsync h).trans (congrArg _ (if_neg (by simpa using hd))))

end

/-! ### VFILL into a queue (R180, R34) -/

/-- The tile after a push, where the queue has room. -/
theorem Tile.qPush_room {t : Tile} {q : Nat} (h : (t.queue q).length < 8) (v : Nat) : ∃ t', t.qPush q v = some t' ∧
    (∀ k, t'.queue k = if k = q then t.queue q ++ [BitVec.ofNat 128 v] else t.queue k) ∧
    ∀ u, t'.slot u = t.slot u ∨ t'.slot u = (t.slot u).event 5 := by
  have room : ¬ 8 ≤ (t.queue q).length := Nat.not_le.2 h
  simp only [Tile.qPush, room, if_false]
  by_cases empty : (t.queue q).isEmpty = true
  · rw [if_pos empty]
    exact ⟨_, rfl, fun k => tget_tset .., fun u => .inr (Tile.slot_event _ 5 u)⟩
  · rw [if_neg empty]
    exact ⟨_, rfl, fun k => tget_tset .., fun u => .inl rfl⟩

section
variable {s : State} {d a t : BitVec 4} (hd : 8 ≤ d.toNat)
include hd

theorem waits_vfill (hf : 8 ≤ (s.curT.queue (d.toNat - 8)).length) : Waits (.vfill d a t) s :=
  waits_block (w := .queue (d.toNat - 8)) (by simp only [exec, execVfill, hd, Tile.qPush, hf, if_true])

theorem answers_vfill (hr : (s.curT.queue (d.toNat - 8)).length < 8) : Answers (exec (.vfill d a t) s) fun u =>
    (∀ k, u.curT.queue k = if k = d.toNat - 8 then s.curT.queue k ++ [BitVec.ofNat 128 (s.xr a).toNat] else s.curT.queue k) ∧
    (∀ r, u.xr r = s.xr r) ∧ s.cur.At u.cur (s.cur.pc + 4) true ∧ OnlyTile s u s.curTile := by
  obtain ⟨tl, push, queues, slots⟩ := Tile.qPush_room hr (s.xr a).toNat
  have run : exec (.vfill d a t) s = .next ((s.updTile s.curTile fun _ => tl).done 4) := by
    simp only [exec, execVfill, hd, push, if_true]
  have cur : ((s.updTile s.curTile fun _ => tl).done 4).cur = (tl.slot s.curSlot).complete ((tl.slot s.curSlot).pc + 4) true :=
    s.cur_updTile_updCur ..
  have kept : (tl.slot s.curSlot).x = s.cur.x ∧ (tl.slot s.curSlot).pc = s.cur.pc ∧ (tl.slot s.curSlot).loops = s.cur.loops := by
    rcases slots s.curSlot with same | event
    · rw [same]
      exact ⟨rfl, rfl, rfl⟩
    · rw [event]
      exact ⟨Slot.event_x .., Slot.event_pc .., Slot.event_loops ..⟩
  obtain ⟨hx, hpc, hl⟩ := kept
  refine ⟨_, run, fun k => ?_, State.xr_of_x (by rw [cur]; exact hx), ?_, s.onlyTile_updTile_updCur _⟩
  · rw [State.done, State.curT_updTile_updCur]
    refine (queues k).trans ?_
    split
    · next hk => rw [hk]
    · rfl
  · rw [cur, hpc]
    simpa [Slot.At, hl] using Slot.at_complete (tl.slot s.curSlot) (s.cur.pc + 4) true

end

/-- Settles O27: each word by its own checks in their order, and what its last case leaves. -/
theorem sequencerWords : Obligations.SequencerWords := by
  intro s d3 a n d4 ty
  refine ⟨argTraps_vshape s d3 a, fun off hat al hu hp => ?_, ⟨fun hc => ?_, traps_vloop, fun hc hh hfit => ?_⟩, fun i len h =>
    ⟨waits_vsync h, movesPc_vsync h⟩, fun hd => ⟨waits_vfill hd, answers_vfill hd⟩⟩
  · have harg := State.localArg_ok hat al
    exact ⟨fun hv flk => ⟨_, (exec_vshape harg hu hp rfl).trans (congrArg _ (if_neg (by simp [hv]))), trapped_trap s _ _ _ flk⟩,
      answers_vshape harg hu hp rfl⟩
  · exact movesPc_complete (by rw [exec_vloop, if_pos hc]; rfl)
  · exact ⟨waits_vloop hc hh hfit, answers_vloop hc hh hfit⟩

end Sys2Proof.Machine
end

section
/-! Engine steps: the flags of a word that completes after its thread's EXIT reach more than the tile (refutes O42). -/

open Sys2Proof

namespace Sys2Proof.Machine

/-- An enabled flag of a thread that only drains becomes an FPX message of no thread (R58, log 80). -/
theorem State.mergeFlags_draining {s : State} {t u lid : Nat} {fl : Fl} (live : (s.slot t u).st ≠ .free) (own : (s.slot t u).lid = lid)
    (drains : (s.slot t u).wait = .exit) (enabled : fl &&& (s.slot t u).enable ≠ 0#5) (pc : Word) :
    s.mergeFlags t u lid pc fl = s.tileMsg Cause.fpx.code t 0 lid fl.toNat := by
  have known : ¬ ((s.slot t u).st = .free ∨ (s.slot t u).lid ≠ lid) := by simp [live, own]
  rw [State.mergeFlags, if_neg known, if_pos drains, if_pos enabled]

/-- A message about a tile takes a number of its own. -/
theorem State.tileMsg_next (s : State) (code t : Nat) (addr : Word) (lid detail : Nat) : (s.tileMsg code t addr lid detail).next = s.next + 1 := rfl

/-- A finished vector word's entry. -/
def SeqEntry.finished (e : SeqEntry) : SeqEntry :=
  { e with prog := Progress.fresh, ready := 0, xcOut := false, xcGot := 0, xcBad := false, st := .done }

theorem SeqEntry.after_word {e : SeqEntry} (h : e.isRepeat = false) : e.after = some e.finished := by
  have word : ({ e with prog := Progress.fresh, ready := 0, xcOut := false, xcGot := 0, xcBad := false } : SeqEntry).isRepeat = false := h
  simp only [SeqEntry.after, word, Bool.not_false, if_true]
  rfl

theorem Tile.seqWord_word {e : SeqEntry} (h : e.isRepeat = false) (tl : Tile) : tl.seqWord e = some (e, 0) := by
  simp only [Tile.seqWord, h, Bool.false_eq_true, if_false]

/-- The entry of a finished vector word is DONE, and its flags go to the thread that issued it. -/
theorem exec_seqEntryComplete_word {s : State} {e : SeqEntry} (finished : s.seqFinished s.ev.num = true)
    (head : (s.tile s.ev.num).seqHead = some e) (word : e.isRepeat = false) : exec .seqEntryComplete s =
      .next ((s.updTile s.ev.num fun tl => tl.putSeq e.finished).mergeFlags s.ev.num e.slot e.lid e.pc e.prog.flags) := by
  simp only [exec, execSeqEntryComplete, finished, head, Tile.seqWord_word word, SeqEntry.after_word word, if_true]
  rfl

theorem State.slot_putSeq (s : State) (t u : Nat) (e : SeqEntry) : (s.updTile t fun tl => tl.putSeq e).slot t u = s.slot t u :=
  Tile.slot_congr (congrArg Tile.slots ((State.tile_updTile ..).trans (if_pos rfl))) u

/-- A word that completes with an enabled flag after its thread's EXIT sends a message, which a change of one tile does not. -/
theorem not_onlyTile_seqEntryComplete {s t : State} {e : SeqEntry} (finished : s.seqFinished s.ev.num = true)
    (head : (s.tile s.ev.num).seqHead = some e) (word : e.isRepeat = false) (live : (s.slot s.ev.num e.slot).st ≠ .free)
    (own : (s.slot s.ev.num e.slot).lid = e.lid) (drains : (s.slot s.ev.num e.slot).wait = .exit)
    (enabled : e.prog.flags &&& (s.slot s.ev.num e.slot).enable ≠ 0#5) (run : exec .seqEntryComplete s = .next t) :
    ¬ OnlyTile s t s.ev.num := by
  have slot := s.slot_putSeq s.ev.num e.slot e.finished
  rw [exec_seqEntryComplete_word finished head word, State.mergeFlags_draining] at run
  · cases run
    intro only
    have next : s.next + 1 = s.next := congrArg State.next only.1
    omega
  all_goals rwa [slot]

/-- A VADD of single precision whose results are written, with flag IV raised. -/
def flaggedEntry : SeqEntry :=
  { num := 0, instr := .vadd 0 1 2 0 12, pc := 0xFC, slot := 0, lid := 1, recD := 0, recA := 0, recB := 0, val := 0, chain := 0, st := .run,
    prog := { Progress.fresh with flags := flIV }, err := none, xcOut := false, xcGot := 0, xcBad := false, set := [], count := 0, kNow := 0,
    pos := 0, ready := 1 }

/-- The thread that issued it has enabled IV and executed EXIT, and waits for its vector work. -/
def drainingState : State :=
  State.reset.updTile 0 fun tl =>
    { tl.updSlot 0 fun sl => { sl with st := .block, wait := .exit, lid := 1, status := putField 0 5 5 flIV.toNat } with seq := [flaggedEntry] }

/-- Refutes O42: a completing word's enabled flag, of a thread that has executed EXIT and drains, joins the queue of its die as an FPX message of
no thread (log 80), where the statement lets nothing outside the tile change. -/
theorem not_engineSteps : ¬ Obligations.EngineSteps := by
  intro h
  obtain ⟨-, -, completes, -⟩ := h drainingState
  obtain ⟨t, run, -, -, -, only, -⟩ := completes flaggedEntry (by decide) (by decide) (by decide)
  exact not_onlyTile_seqEntryComplete (by decide) (by decide : _ = some flaggedEntry) (by decide) (by decide) (by decide) (by decide)
    (by decide) run only

end Sys2Proof.Machine
end

section
/-! Matrix words: the checks of a command at issue and its entry, and MWGT, MSTAT, MPOLL and MWAIT (O28). -/

open Sys2Proof

namespace Sys2Proof.Machine

theorem wf_zero (w : Word) (n : Nat) : wf w 0 n = w.toNat % 2 ^ n := by simp [wf, nf]

/-! ### Entering (R189) -/

/-- The tile as a command enters, with the next ticket. -/
def Tile.enteringCmd (c : MCmd) (tl : Tile) : Tile :=
  { tl with mq := tl.mq ++ [{ c with ticket := tl.mI }], mI := (tl.mI + 1) % 65536, mC := if tl.mq.isEmpty then tl.mI else tl.mC }

theorem State.enterCmd_full {s : State} (h : 8 ≤ s.curT.mq.length) (c : MCmd) : s.enterCmd c = s.block (.command c) := by
  simp only [State.enterCmd, h, if_true]

theorem State.enterCmd_room {s : State} (h : s.curT.mq.length < 8) (c : MCmd) : s.enterCmd c =
    ((s.updTile s.curTile (Tile.enteringCmd c)).updCur fun sl => { sl with lastTicket := s.curT.mI }).done 4 := by
  simp only [State.enterCmd, Nat.not_le.2 h, if_false]
  rfl

/-- From s to t the executing word is done and its command stands at the end of its tile's queue under the next ticket, the thread's last one;
nothing but the queue and the thread's slot has changed. -/
def EnteredCmd (s t : State) (c : MCmd) : Prop :=
  t.curT.mq = s.curT.mq ++ [{ c with ticket := s.curT.mI }] ∧ t.curT.mI = (s.curT.mI + 1) % 65536 ∧ t.cur.lastTicket = s.curT.mI ∧
  WordDone s t 4 ∧ s.cur.SameButX { t.cur with lastTicket := s.cur.lastTicket } ∧
  { t.curT with slots := s.curT.slots, mq := s.curT.mq, mI := s.curT.mI, mC := s.curT.mC } = s.curT ∧ OnlyTile s t s.curTile

theorem enteredCmd_enterCmd {s : State} (h : s.curT.mq.length < 8) (c : MCmd) : EnteredCmd s (s.enterCmd c) c := by
  rw [State.enterCmd_room h]
  have tile := s.curT_done_updCur_updTile (Tile.enteringCmd c) (fun sl => { sl with lastTicket := s.curT.mI }) 4
  have cur := s.cur_done_updCur_updTile (f := Tile.enteringCmd c) (g := fun sl => { sl with lastTicket := s.curT.mI }) rfl rfl 4
  refine ⟨congrArg Tile.mq tile, congrArg Tile.mI tile, by rw [cur]; rfl, wordDone_updCur_updTile s rfl rfl rfl rfl 4, by rw [cur]; rfl, ?_,
    s.onlyTile_done_updCur_updTile ..⟩
  exact congrArg (fun t : Tile => { t with slots := s.curT.slots, mq := s.curT.mq, mI := s.curT.mI, mC := s.curT.mC }) tile

/-- A word whose meaning is a command's entry waits with the command while eight are outstanding, and enters else. -/
theorem enters_enterCmd {s : State} {i : Instr} {c : MCmd} (h : exec i s = .next (s.enterCmd c)) :
    (8 ≤ s.curT.mq.length → exec i s = .next (s.block (.command c))) ∧
    (s.curT.mq.length < 8 → Answers (exec i s) fun t => EnteredCmd s t c) :=
  ⟨fun full => by rw [h, State.enterCmd_full full], fun room => ⟨_, h, enteredCmd_enterCmd room c⟩⟩

/-! ### The checks of a command (R191) -/

/-- The command words, with the d and a records they name. -/
def CommandWord (s : State) (i : Instr) (d3 a3 : BitVec 3) (x r : BitVec 2) (tr : BitVec 1) (D A : Option Rec) : Prop :=
  (i = .mldb a3 x tr ∧ D = none ∧ A = some (s.curT.hrec a3.toNat)) ∨
  (i = .mma d3 a3 ∧ D = some (s.curT.hrec d3.toNat) ∧ A = some (s.curT.hrec a3.toNat)) ∨
  (i = .mmap d3 a3 ∧ D = some (s.curT.hrec d3.toNat) ∧ A = some (s.curT.hrec a3.toNat)) ∨
  (i = .mzro d3 ∧ D = some (s.curT.hrec d3.toNat) ∧ A = none) ∨
  (i = .mrnd d3 a3 r ∧ D = some (s.curT.hrec d3.toNat) ∧ A = some (s.curT.hrec a3.toNat))

/-- A chain source is named where no upstream neighbour is of the launch. -/
def State.chainless (s : State) (A : Option Rec) : Bool := A.map Rec.kind == some 3 && (s.chainUp s.curTile s.curT.chain).isNone

theorem State.chainless_iff {s : State} {A : Option Rec} :
    s.chainless A = true ↔ (∃ v, A = some v ∧ v.kind = 3) ∧ s.chainUp s.curTile s.curT.chain = none := by
  simp [State.chainless]

/-- What a command captures of its operands (R189). -/
def State.newCmd (s : State) (i : Instr) (D A : Option Rec) : MCmd :=
  { ticket := 0, instr := i, pc := s.cur.pc, slot := s.curSlot, lid := s.cur.lid, recD := D.getD 0, recA := A.getD 0, chain := s.curT.chain,
    steps := 0, row := [], flags := 0, err := none, finished := false, ready := 0 }

/-- The checks of a command in their order, and the entry of one that passes. -/
def State.cmdChecked (s : State) (i : Instr) (D A : Option Rec) : State :=
  if mIll i (D.getD 0) (A.getD 0) then s.trapIll i
  else if s.chainless A then s.trap .window 0 0
  else match shapeTrap (s.launch s.curT.lid).parkBase (D.toList ++ A.toList) with
    | some (c, x) => s.trap c (nw x) 0
    | none => s.enterCmd (s.newCmd i D A)

theorem State.mCmd_command {s : State} {c : MCmd} (h : s.cur.wait = .command c) (i : Instr) : s.mCmd i = s.enterCmd c := by
  simp only [State.mCmd, h]

theorem State.mCmd_checked {s : State} (h : ∀ c, s.cur.wait ≠ .command c) (i : Instr) : s.mCmd i =
    s.cmdChecked i ((mRecs i).1.map fun k => s.curT.hrec k.toNat) ((mRecs i).2.map fun k => s.curT.hrec k.toNat) := by
  unfold State.mCmd State.cmdChecked
  split
  · next c hc => exact absurd hc (h c)
  · rfl

section
variable {s : State} {i : Instr} {d3 a3 : BitVec 3} {x r : BitVec 2} {tr : BitVec 1} {D A : Option Rec}
  (word : CommandWord s i d3 a3 x r tr D A)
include word

theorem exec_commandWord : exec i s = .next (s.mCmd i) ∧ D = (mRecs i).1.map (fun k => s.curT.hrec k.toNat) ∧
    A = (mRecs i).2.map fun k => s.curT.hrec k.toNat := by
  rcases word with ⟨rfl, rfl, rfl⟩ | ⟨rfl, rfl, rfl⟩ | ⟨rfl, rfl, rfl⟩ | ⟨rfl, rfl, rfl⟩ | ⟨rfl, rfl, rfl⟩ <;> exact ⟨rfl, rfl, rfl⟩

theorem exec_command {c : MCmd} (h : s.cur.wait = .command c) : exec i s = .next (s.enterCmd c) := by
  rw [(exec_commandWord word).1, State.mCmd_command h]

variable (hw : ∀ c, s.cur.wait ≠ .command c)
include hw

theorem exec_cmdChecked : exec i s = .next (s.cmdChecked i D A) := by
  obtain ⟨run, hD, hA⟩ := exec_commandWord word
  rw [run, State.mCmd_checked hw, ← hD, ← hA]

theorem traps_mIll (ill : mIll i (D.getD 0) (A.getD 0) = true) (flk : s.cur.flk = 0) : Traps i s .ill (wordOf i) 0 :=
  ⟨_, (exec_cmdChecked word hw).trans (congrArg _ (if_pos ill)), trapped_trap s _ _ _ flk⟩

variable (ok : mIll i (D.getD 0) (A.getD 0) = false)
include ok

theorem traps_chainless (hc : s.chainless A = true) (flk : s.cur.flk = 0) : Traps i s .window 0 0 :=
  ⟨_, by rw [exec_cmdChecked word hw, State.cmdChecked, ok, hc]; rfl, trapped_trap s _ _ _ flk⟩

variable (hc : s.chainless A = false)
include hc

theorem traps_cmdBounds {c : Cause} {y : Nat} (hb : shapeTrap (s.launch s.curT.lid).parkBase (D.toList ++ A.toList) = some (c, y))
    (flk : s.cur.flk = 0) : Traps i s c (BitVec.ofNat 64 y) 0 :=
  ⟨_, by rw [exec_cmdChecked word hw, State.cmdChecked, ok, hc, hb]; rfl, trapped_trap s _ _ _ flk⟩

theorem exec_enterCmd (hb : shapeTrap (s.launch s.curT.lid).parkBase (D.toList ++ A.toList) = none) :
    exec i s = .next (s.enterCmd (s.newCmd i D A)) := by
  rw [exec_cmdChecked word hw, State.cmdChecked, ok, hc, hb]
  rfl

end

/-! ### MWGT, MSTAT, MPOLL and MWAIT (R196) -/

theorem answers_mwgt (s : State) (w : BitVec 4) : Answers (exec (.mwgt w) s) fun t => t.curT.mWgt = w.toNat ∧ WordDone s t 4 ∧
    s.cur.SameButX t.cur ∧ { t.curT with slots := s.curT.slots, mWgt := s.curT.mWgt } = s.curT ∧ OnlyTile s t s.curTile := by
  obtain ⟨done, same⟩ := wordDone_updTile s (f := fun t => { t with mWgt := w.toNat }) rfl 4
  have tile : ((s.updTile s.curTile fun t => { t with mWgt := w.toNat }).done 4).curT = _ := s.curT_updTile_updCur _
  refine ⟨_, rfl, ?_, done, same, ?_, s.onlyTile_updTile_updCur _⟩
  · exact congrArg Tile.mWgt tile
  · exact congrArg (fun t : Tile => { t with slots := s.curT.slots, mWgt := s.curT.mWgt }) tile

/-- MSTAT's description of a B slot. -/
def slotDescription : Option BBlock → Nat
  | none => 0
  | some b => b.kk + b.nn * 2 ^ 11 + b.cls * 2 ^ 27 + b.xch * 2 ^ 30 + b2n b.tr * 2 ^ 32

theorem writesX_mstat (s : State) (d : Reg) :
    WritesX (.mstat d) s d (BitVec.ofNat 64 (slotDescription s.curT.bslot + s.curT.mWgt * 2 ^ 36)) 4 := by
  apply writesX_wr
  simp only [exec, execMstat, slotDescription]
  cases s.curT.bslot <;> rfl

theorem State.mOwn_iff (s : State) : s.mOwn = true ↔ ∃ c ∈ s.curT.mq, c.slot = s.curSlot := by simp [State.mOwn]

theorem exec_mwait (s : State) (a : Reg) : exec (.mwait a) s = .next (
    if (if (s.xr a).getLsbD 63 then s.mOwn else s.curT.outstanding ((s.xr a).toNat % 65536)) then s.block .poll else s.done 4) := by
  have low : wf (s.xr a) 0 16 = (s.xr a).toNat % 65536 := wf_zero ..
  rw [← low]
  rfl

/-- Settles O28: the checks of a command one after the other and the entry of one that passes them, then the words on the unit's state. -/
theorem matrixWords : Obligations.MatrixWords := by
  intro s i d3 a3 x r tr w d a
  refine ⟨?_, answers_mwgt s w, ?_, ?_, ?_⟩
  · intro D A word chainBad bounds enters
    refine ⟨fun e he => enters_enterCmd (exec_command word he), fun hw => ⟨traps_mIll word hw, fun ok => ⟨fun hc => ?_, fun hc => ?_⟩⟩⟩
    · exact traps_chainless word hw ok (State.chainless_iff.2 hc)
    · have chained : s.chainless A = false := Bool.eq_false_iff.2 fun h => hc (State.chainless_iff.1 h)
      exact ⟨fun c y hb => traps_cmdBounds word hw ok chained hb, fun hb =>
        ⟨s.newCmd i D A, rfl, rfl, rfl, rfl, rfl, rfl, rfl, rfl, enters_enterCmd (exec_enterCmd word hw ok chained hb)⟩⟩
  · have h := writesX_mstat s d
    cases hb : s.curT.bslot with
    | none => simpa only [hb, slotDescription] using h
    | some b => simpa only [hb, slotDescription, b2n_mul, Nat.one_mul] using h
  · refine writesX_wr_of_eq (congrArg (BitVec.ofNat 64) ?_) rfl
    rw [b2n_mul]
    simp only [State.mOwn_iff]
  · intro busy
    have iff : (if (s.xr a).getLsbD 63 then s.mOwn else s.curT.outstanding ((s.xr a).toNat % 65536)) = true ↔ busy := by
      by_cases own : (s.xr a).getLsbD 63 = true
      · simp only [busy, own, if_true]
        exact s.mOwn_iff
      · simp only [busy, own]
        exact decide_eq_true_iff
    exact ⟨fun hb => waits_block ((exec_mwait s a).trans (congrArg _ (if_pos (iff.2 hb)))),
      fun hb => movesPc_complete ((exec_mwait s a).trans (congrArg _ (if_neg (mt iff.1 hb))))⟩

end Sys2Proof.Machine
end

section
/-! Drover words: shadow registers, submitted jobs, and the words on one job and on the stream registers (O29). -/

open Sys2Proof

namespace Sys2Proof.Machine

/-! ### Tables and pens -/

theorem tget?_tset {α : Type} (t : Tbl α) (k j : Nat) (v : α) : tget? (tset t k v) j = if j = k then some v else tget? t j := by
  induction t with
  | nil => simp [tset, tget?, eq_comm]
  | cons p r ih =>
    obtain ⟨i, w⟩ := p
    by_cases hik : i = k
    · subst hik
      by_cases hj : j = i <;> simp [tset, tget?, hj, Ne.symm]
    · by_cases hk : k < i
      · simp [tset, tget?, hik, hk, eq_comm (a := k)]
      · by_cases hij : i = j
        · subst hij
          simp [tset, tget?, hik, hk]
        · simp [tset, tget?, hik, hk, hij, ih]

theorem tget?_terase {α : Type} (t : Tbl α) (k j : Nat) : tget? (terase t k) j = if j = k then none else tget? t j := by
  induction t with
  | nil => simp [terase, tget?]
  | cons p r ih =>
    obtain ⟨i, w⟩ := p
    rw [terase] at ih ⊢
    by_cases hik : i = k
    · subst hik
      by_cases hj : j = i
      · simpa [hj] using ih
      · simp [tget?, ih, hj, Ne.symm hj]
    · by_cases hij : i = j
      · subst hij
        simp [tget?, hik]
      · simp [tget?, hik, hij, ih]

theorem State.pen_updPen (s : State) (p q : Nat) (f : Pen → Pen) : (s.updPen p f).pen q = if q = p then f (s.pen p) else s.pen q :=
  tget_tset ..

/-- A word that changes one pen and writes x[d]. -/
theorem answers_updPen_wr {s : State} {i : Instr} {p : Nat} {f : Pen → Pen} {d : Reg} {v : Word}
    (h : exec i s = .next ((s.updPen p f).wr d v 4)) : Answers (exec i s) fun t => t.pen p = f (s.pen p) ∧ WordWrote s t d v 4 ∧
      (∀ q, q ≠ p → t.pen q = s.pen q) ∧ { t with tiles := s.tiles, pens := s.pens } = s :=
  ⟨_, h, (s.pen_updPen p p f).trans (if_pos rfl), wordWrote_wr rfl rfl rfl d v 4, fun q hq => (s.pen_updPen p q f).trans (if_neg hq), rfl⟩

/-! ### DSET (R203) -/

theorem answers_dset (s : State) (a n : BitVec 4) : Answers (exec (.dset a n) s) fun t =>
    t.cur.shadow = s.cur.shadow.set n.toNat (s.xr a) n.isLt ∧ (∀ r, t.xr r = s.xr r) ∧ s.cur.At t.cur (s.cur.pc + 4) true ∧
    s.cur.SameButX { t.cur with shadow := s.cur.shadow } ∧ SameElsewhere s t := by
  have run : exec (.dset a n) s = .next (s.updCur fun sl =>
      { sl with shadow := sl.shadow.set n.toNat (sl.xr a) n.isLt }.complete (sl.pc + 4) true) := congrArg _ (s.updCur_done _ 4)
  obtain ⟨cur, xr, same⟩ := ownSlot_updCur (s := s)
    (f := fun sl => { sl with shadow := sl.shadow.set n.toNat (sl.xr a) n.isLt }.complete (sl.pc + 4) true) rfl
  refine ⟨_, run, by rw [cur]; rfl, xr, ?_, by rw [cur]; rfl, same⟩
  rw [cur]
  exact Slot.at_complete_of_loops rfl _ _

/-! ### DGO and DMCST (R200, R204, R208) -/

section
variable {s : State} {i : Instr} {d a b : Reg} {st : Nat} {j : Job}

/-- The submitting words, with their status and job. -/
def SubmitWord (s : State) (i : Instr) (d a b : Reg) (st : Nat) (j : Job) : Prop :=
  (i = .dgo d ∧ st = s.dgoStatus s.curTile s.cur (s.curT.hrec ((s.cur.sh 3).toNat % 8)) ∧
    j = s.dgoJob s.curTile s.curSlot s.cur (s.curT.hrec ((s.cur.sh 3).toNat % 8))) ∨
  (i = .dmcst d a b ∧ (st, j) = s.dmcst s.curTile s.curSlot s.cur (s.xr a) (s.xr b))

/-- The job of a submitting word waits in the queue with the addresses and the argument of its thread. -/
theorem SubmitWord.job (word : SubmitWord s i d a b st j) : j.st = .queued ∧ j.arg = s.cur.sh 4 ∧
    (i = .dgo d → j.src = s.cur.sh 0 ∧ j.dst = s.cur.sh 1) ∧ (i = .dmcst d a b → j.src = s.xr a ∧ j.dst = s.xr b ∧ j.bytes = 256) := by
  rcases word with ⟨rfl, -, rfl⟩ | ⟨rfl, h⟩
  · exact ⟨rfl, rfl, fun _ => ⟨rfl, rfl⟩, nofun⟩
  · obtain ⟨-, rfl⟩ := Prod.mk.inj h
    exact ⟨rfl, rfl, nofun, fun _ => ⟨rfl, rfl, rfl⟩⟩

/-- The pen has no room for another job. -/
def State.penFull (s : State) (p : Nat) : Prop := 32 ≤ ((s.keptJobs p).filter Job.outstanding).length

variable (hpair : s.paired s.curTile = false)
include hpair

theorem State.jobPen_of_not_paired : s.jobPen s.curTile = penKey s.curTile := by simp [State.jobPen, hpair]

variable (word : SubmitWord s i d a b st j)
include word

theorem exec_submit : exec i s = .next ((s.launchJob s.curTile st j).2.wr d (nw (s.launchJob s.curTile st j).1) 4) := by
  rcases word with ⟨rfl, rfl, rfl⟩ | ⟨rfl, h⟩
  · have layout : wf (s.cur.sh 3) 0 3 = (s.cur.sh 3).toNat % 8 := wf_zero ..
    rw [← layout]
    exact congrArg Host.Outcome.next (State.paired1_of_not_paired hpair ..)
  · obtain ⟨rfl, rfl⟩ := Prod.mk.inj h
    exact congrArg Host.Outcome.next (State.paired1_of_not_paired hpair ..)

theorem exec_submit_accept (ok : st = 0) : exec i s =
    .next ((s.acceptJob (penKey s.curTile) j).2.wr d (nw (s.acceptJob (penKey s.curTile) j).1) 4) := by
  have launch : s.launchJob s.curTile st j = s.acceptJob (penKey s.curTile) j := by
    rw [State.launchJob, if_neg (not_not_intro ok), State.jobPen_of_not_paired hpair]
  rw [exec_submit hpair word, launch]

theorem writesX_submit_refused (bad : st ≠ 0) : WritesX i s d (BitVec.ofNat 64 (st * 2 ^ 16)) 4 :=
  writesX_wr (by rw [exec_submit hpair word, State.launchJob, if_pos bad]; rfl)

theorem writesX_submit_full (ok : st = 0) (full : s.penFull (penKey s.curTile)) : WritesX i s d (BitVec.ofNat 64 (2 ^ 16)) 4 := by
  have accept : s.acceptJob (penKey s.curTile) j = (2 ^ 16, s) := if_pos full
  exact writesX_wr (by rw [exec_submit_accept hpair word ok, accept]; rfl)

theorem answers_submit (ok : st = 0) (room : ¬ s.penFull (penKey s.curTile)) : Answers (exec i s) fun t =>
    ∃ k, (t.pen (penKey s.curTile)).jobs = s.keptJobs (penKey s.curTile) ++ [{ j with xid := k }] ∧ WordWrote s t d (BitVec.ofNat 64 k) 4 ∧
      (∀ q, q ≠ penKey s.curTile → t.pen q = s.pen q) ∧ { t with tiles := s.tiles, pens := s.pens } = s := by
  have accept : s.acceptJob (penKey s.curTile) j = (freeXid (s.keptJobs (penKey s.curTile)) 65535 (s.pen (penKey s.curTile)).nextXid, _) :=
    if_neg room
  have run := exec_submit_accept hpair word ok
  rw [accept] at run
  obtain ⟨t, run, pen, rest⟩ := answers_updPen_wr run
  exact ⟨t, run, _, congrArg Pen.jobs pen, rest⟩

end

/-! ### DPOLL, DWAIT and DKILL (R207) -/

/-- What DPOLL reports of a job. -/
def Job.report (j : Job) : Nat :=
  match j.st with
  | .kept => 0
  | .queued => 1 + j.landed % 2 ^ 32 * 2 ^ 32
  | .running => 2 + j.landed % 2 ^ 32 * 2 ^ 32
  | .placing => 3 + j.status * 2 ^ 8 + j.landed % 2 ^ 32 * 2 ^ 32

theorem Job.report_eq (j : Job) : j.report =
    if j.st = .kept then 0 else j.st.code + (if j.st = .placing then j.status * 2 ^ 8 else 0) + j.landed % 2 ^ 32 * 2 ^ 32 := by
  unfold Job.report
  cases j.st <;> rfl

theorem JobState.code_eq_zero_iff (x : JobState) : x.code = 0 ↔ x = .kept := by cases x <;> decide

theorem State.myJob_eq {s : State} (hpair : s.paired s.curTile = false) (x : Nat) :
    s.myJob s.curTile x = ((s.pen (penKey s.curTile)).job x).bind fun j => if j.tile = s.curTile then some j else none := by
  simp [State.myJob, State.jobPen, State.jobTile, hpair]

section
variable {s : State} {d : Reg} {d3 : BitVec 3} {a : Reg}

theorem writesX_dpoll {o : Option Job} (hjob : s.myJob s.curTile ((s.xr a).toNat % 65536) = o) :
    WritesX (.dpoll d a) s d (BitVec.ofNat 64 ((o.map Job.report).getD 0)) 4 := by
  apply writesX_wr
  have low : wf (s.xr a) 0 16 = (s.xr a).toNat % 65536 := wf_zero ..
  simp only [exec, execDpoll, low, hjob]
  cases o with
  | none => rfl
  | some j => simp only [Option.map_some, Option.getD_some, Job.report_eq]; rfl

theorem exec_dwait {o : Option Job} (hjob : s.myJob s.curTile ((s.xr a).toNat % 65536) = o) :
    exec (.dwait a) s = .next (if Job.stateCode o = 0 then s.done 4 else s.block .poll) := by
  have low : wf (s.xr a) 0 16 = (s.xr a).toNat % 65536 := wf_zero ..
  simp only [exec, execDwait, low, hjob]

section
variable (hjob : s.myJob s.curTile ((s.xr a).toNat % 65536) = none)
include hjob

theorem exec_dkill_unknown : exec (.dkill d a) s = .next (s.wr d 0 4) := by
  have low : wf (s.xr a) 0 16 = (s.xr a).toNat % 65536 := wf_zero ..
  simp only [exec, execDkill, low, hjob]
  rfl

theorem exec_sbind_unknown : exec (.sbind d3 a) s = .next (s.trapIll (.sbind d3 a)) := by
  have low : wf (s.xr a) 0 16 = (s.xr a).toNat % 65536 := wf_zero ..
  simp only [exec, execSbind, low, hjob]

end

section
variable {j : Job} (hjob : s.myJob s.curTile ((s.xr a).toNat % 65536) = some j) (hpair : s.paired s.curTile = false)
include hjob hpair

theorem exec_dkill : exec (.dkill d a) s =
    .next ((s.updPen (penKey s.curTile) fun pn => pn.updJob ((s.xr a).toNat % 65536) Job.kill).wr d (nw j.st.code) 4) := by
  have low : wf (s.xr a) 0 16 = (s.xr a).toNat % 65536 := wf_zero ..
  simp only [exec, execDkill, low, hjob, State.jobPen_of_not_paired hpair]
  rfl

theorem exec_sbind : exec (.sbind d3 a) s = .next (
    if j.strm && (j.st != .kept || s.jobUsed (penKey s.curTile) j) then
      (s.updTile s.curTile fun tl => { tl with sreg := tset tl.sreg d3.toNat ⟨penKey s.curTile, (s.xr a).toNat % 65536, 0⟩ }).done 4
    else s.trapIll (.sbind d3 a)) := by
  have low : wf (s.xr a) 0 16 = (s.xr a).toNat % 65536 := wf_zero ..
  simp only [exec, execSbind, low, hjob, State.jobPen_of_not_paired hpair]

theorem answers_dkill : Answers (exec (.dkill d a) s) fun t => WordWrote s t d (BitVec.ofNat 64 j.st.code) 4 ∧
    (t.pen (penKey s.curTile)).jobs =
      (s.pen (penKey s.curTile)).jobs.map (fun k => if k.xid = (s.xr a).toNat % 65536 then k.kill else k) ∧
    (∀ q, q ≠ penKey s.curTile → t.pen q = s.pen q) ∧ { t with tiles := s.tiles, pens := s.pens } = s := by
  obtain ⟨t, run, pen, wrote, rest⟩ := answers_updPen_wr (exec_dkill (d := d) hjob hpair)
  exact ⟨t, run, wrote, congrArg Pen.jobs pen, rest⟩

end

end

/-! ### SBIND and SUNB (R209) -/

/-- A word whose one effect is on the stream registers of its tile. -/
theorem answers_sreg {s : State} {i : Instr} {f : Tbl Binding → Tbl Binding} {g : Nat → Option Binding}
    (h : exec i s = .next ((s.updTile s.curTile fun tl => { tl with sreg := f tl.sreg }).done 4)) (hg : ∀ k, tget? (f s.curT.sreg) k = g k) :
    Answers (exec i s) fun t => (∀ k, tget? t.curT.sreg k = g k) ∧ WordDone s t 4 ∧ s.cur.SameButX t.cur ∧
      { t.curT with slots := s.curT.slots, sreg := s.curT.sreg } = s.curT ∧ OnlyTile s t s.curTile := by
  obtain ⟨done, same⟩ := wordDone_updTile s (f := fun tl => { tl with sreg := f tl.sreg }) rfl 4
  have tile : ((s.updTile s.curTile fun tl => { tl with sreg := f tl.sreg }).done 4).curT = _ := s.curT_updTile_updCur _
  refine ⟨_, h, fun k => ?_, done, same, ?_, s.onlyTile_updTile_updCur _⟩
  · rw [tile]
    exact hg k
  · exact congrArg (fun tl : Tile => { tl with slots := s.curT.slots, sreg := s.curT.sreg }) tile

/-- Settles O29: the submitting words by their status and the pen's room, the words on a job by the job found, and the stream registers. -/
theorem droverWords : Obligations.DroverWords := by
  intro s d a b n d3 t0 p sl x
  refine ⟨answers_dset s a n, fun hpair i st j word => ⟨writesX_submit_refused hpair word, writesX_submit_full hpair word, fun ok room => ?_⟩,
    fun hpair j hjob own => ?_, fun hpair hjob => ?_, answers_sreg rfl fun k => tget?_terase ..⟩
  · obtain ⟨queued, arg, dgo, dmcst⟩ := SubmitWord.job word
    obtain ⟨t, run, k, jobs, wrote, pens, rest⟩ := answers_submit hpair word ok (Nat.not_le.2 room)
    exact ⟨t, run, k, jobs, queued, arg, dgo, dmcst, wrote, pens, rest⟩
  · have mine : s.myJob s.curTile x = some j := by
      rw [State.myJob_eq hpair]
      exact (congrArg (Option.bind · _) hjob).trans (if_pos own)
    refine ⟨writesX_dpoll mine, fun live => waits_block ((exec_dwait mine).trans (congrArg _ (if_neg ?_))),
      fun kept => movesPc_complete ((exec_dwait mine).trans (congrArg _ (if_pos ?_))), answers_dkill mine hpair, fun strm live => ?_,
      fun strm flk => ⟨_, (exec_sbind mine hpair).trans (congrArg _ (if_neg (by simp [strm]))), trapped_trap s _ _ _ flk⟩⟩
    · exact mt (JobState.code_eq_zero_iff _).1 live
    · exact (JobState.code_eq_zero_iff _).2 kept
    · exact answers_sreg (f := fun r => tset r d3.toNat ⟨p, x, 0⟩) ((exec_sbind mine hpair).trans (congrArg _ (if_pos (by simp [strm, live]))))
        fun k => tget?_tset ..
  · have unknown : s.myJob s.curTile x = none := by
      rw [State.myJob_eq hpair]
      exact congrArg (Option.bind · _) hjob
    exact ⟨writesX_dpoll unknown, movesPc_complete (exec_dwait unknown), writesX_wr (exec_dkill_unknown unknown),
      fun flk => ⟨_, exec_sbind_unknown unknown, trapped_trap s _ _ _ flk⟩⟩

end Sys2Proof.Machine
end

section
/-! Counter words: ACARM, ACRD, ACDIS and ACCHN (O30). -/

open Sys2Proof

namespace Sys2Proof.Machine

/-- The request of a counter word (R211). -/
def State.ctrRequest (s : State) (fn : Nat) (d : Reg) (index arg : Nat) : CtrReq := ⟨fn, s.curTile, s.curSlot, d, index, arg, 0, none⟩

theorem asks_ctrSend {s : State} {i : Instr} {fn : Nat} {d : Reg} {index arg : Nat} (hpair : s.paired s.curTile = false)
    (h : exec i s = .next (s.ctrSend fn d index arg)) : Asks i s (.ctr (s.ctrRequest fn d index arg)) := by
  refine asksWith_send_block (n := 4) (h.trans ?_)
  simp only [State.ctrSend, State.twinFull_of_not_paired hpair, State.sendOut, hpair, Bool.false_eq_true, if_false]
  rfl

theorem argTraps_acarm (s : State) (d a b : Reg) : ArgTraps (.acarm d a b) s (s.xr b) 32 32 :=
  argTraps_localArg fun c hc => by simp only [exec, execAcarm, hc]

/-- ACARM once its record is good. -/
theorem exec_acarm {s : State} {d a b : Reg} {off : Nat} (harg : s.localArg (s.xr b) 32 32 = .ok off)
    (hbad : s.badGranule s.curTile off 32 = none) : exec (.acarm d a b) s =
      .next (s.ctrSend 0 d ((s.xr a).toNat % 65536) (readMem s.mem (s.sliceKey s.curTile off) 32)) := by
  simp only [exec, execAcarm, harg, hbad, wf_zero]
  rfl

/-- Settles O30: each word sends its request, ACARM after the checks of its record. -/
theorem counterWords : Obligations.CounterWords := by
  intro s d a b hpair
  have index : wf (s.xr a) 0 16 = (s.xr a).toNat % 65536 := wf_zero ..
  have amount : wf (s.xr b) 0 48 = (s.xr b).toNat % 2 ^ 48 := wf_zero ..
  refine ⟨argTraps_acarm s d a b, fun off hat al hu hp => ?_, ?_, ?_, ?_⟩
  · exact asks_ctrSend hpair (exec_acarm (State.localArg_ok hat al) (State.badGranule_none hu hp))
  · exact asks_ctrSend hpair (by rw [← index]; rfl)
  · exact asks_ctrSend hpair (by rw [← index]; rfl)
  · exact asks_ctrSend hpair (by rw [← index, ← amount]; rfl)

end Sys2Proof.Machine
end

section
/-! Job steps: a job of one unit starts, a finished one turns to placing, and its completion enters the inbox (O43). -/

open Sys2Proof

namespace Sys2Proof.Machine

/-! ### A job of a pen -/

theorem Pen.job_updJob {p : Pen} {x : Nat} {f : Job → Job} (hf : ∀ j, (f j).xid = j.xid) : (p.updJob x f).job x = (p.job x).map f := by
  simp only [Pen.job, Pen.updJob]
  induction p.jobs with
  | nil => rfl
  | cons j js ih =>
    by_cases hj : j.xid = x
    · simp [hj, hf]
    · simpa [hj, List.find?_cons] using ih

theorem State.job_updJob {s : State} {p x : Nat} {f : Job → Job} {j : Job} (hf : ∀ j, (f j).xid = j.xid) (h : (s.pen p).job x = some j) :
    ((s.updJob p x f).pen p).job x = some (f j) := by
  rw [State.updJob, State.pen_updPen, if_pos rfl, Pen.job_updJob hf, h]
  rfl

theorem State.pen_updJob_of_ne {s : State} {p q : Nat} (h : q ≠ p) (x : Nat) (f : Job → Job) : (s.updJob p x f).pen q = s.pen q :=
  (State.pen_updPen ..).trans (if_neg h)

/-! ### A job of one unit (R202) -/

/-- A job with no layout whose bytes end before the first boundary of its destination. -/
structure Job.OneUnit (j : Job) : Prop where
  layout : j.lside = 0
  some_byte : 1 ≤ j.bytes
  short : j.bytes ≤ 16 - j.dst.toNat % 16

theorem Job.OneUnit.min_head {j : Job} (h : j.OneUnit) : min j.bytes j.head = j.bytes := Nat.min_eq_left h.short

theorem Job.OneUnit.units {j : Job} (h : j.OneUnit) : j.units = 1 := by
  have bytes : j.bytes ≠ 0 := Nat.one_le_iff_ne_zero.1 h.some_byte
  simp [Job.units, h.layout, bytes, h.min_head]

theorem Job.OneUnit.unit_zero {j : Job} (h : j.OneUnit) : j.unit 0 = (j.src, j.dst, j.bytes) := by
  simp [Job.unit, h.layout, h.min_head, nw]

/-! ### Requests of a job (R143, R202) -/

theorem readMem_lt (m : List Host.Cell) (k n : Nat) : readMem m k n < 256 ^ n := by
  induction n generalizing k with
  | zero => exact Nat.one_pos
  | succ n ih =>
    have byte := (readByte m k).isLt
    have rest := ih (k + 1)
    simp only [readMem, Nat.pow_succ]
    omega

/-- A request that stays in the package sets out for its controller. -/
theorem State.forward_req {s : State} {r : Req} (pod : ∀ i o, decodeWin r.addr ≠ some (.pod i o))
    (system : ∀ q i o, decodeWin r.addr ≠ some (.system q i o)) (t min : Nat) : s.forward t min (.req r) = s.send min (.req r) := by
  unfold State.forward
  dsimp only
  split
  · next i o h => exact absurd h (pod i o)
  · next q i o h => exact absurd h (system q i o)
  · rfl

section
variable {s : State} {p x : Nat} {j : Job} (hjob : (s.pen p).job x = some j)
include hjob

/-- A write inside one 16-byte unit is one store. -/
theorem State.jobWrite_unit {dst : Word} {n : Nat} (fits : n ≤ 16 - dst.toNat % 16) (v elem : Nat) : s.jobWrite p x dst n v elem =
    (s.updJob p x fun j => { j with open_ := j.open_ + 1 }).jobSend j (s.jobReq p j .store dst dst n (v % 2 ^ (8 * n)) 0 n elem) := by
  have all : to16 dst n = n := Nat.min_eq_left fits
  simp only [State.jobWrite, hjob, all, Nat.lt_irrefl, if_false]

/-- A unit of the own slice is read at once and written. -/
theorem State.jobUnit_own {i n off : Nat} {src dst : Word} (unit : j.unit i = (src, dst, n)) (hsrc : decodeWin src = some (.loc off))
    (husable : (s.tile j.tile).unusable = false) (hpoison : poisonIn s.poison (s.sliceKey j.tile off) n = none) : s.jobUnit p x i =
      (s.updJob p x fun j => { j with next := i + 1 }).jobWrite p x dst n (readMem s.mem (s.sliceKey j.tile off) n) i := by
  have place : (decodeWin src).bind (State.place (s.updJob p x fun j => { j with next := i + 1 }) j.tile) = some (.slice j.tile off) := by
    rw [hsrc]
    rfl
  have read := State.sliceRead_ok (s := s.updJob p x fun j => { j with next := i + 1 }) husable hpoison
  simp only [State.jobUnit, hjob, unit, place, if_true, read]
  rfl

end

theorem State.jobSend_mesh {s : State} {j : Job} {r : Req} {pl : Place} (place : (decodeWin r.addr).bind (s.place j.tile) = some pl)
    (pod : ∀ i o, decodeWin r.addr ≠ some (.pod i o)) (system : ∀ q i o, decodeWin r.addr ≠ some (.system q i o)) :
    s.jobSend j r = s.send (s.reqTime j.tile pl) (.req r) := by
  simp only [State.jobSend, place, State.forward_req pod system]

/-! ### DROVER_JOB_START (R200, R202) -/

/-- A queued job of one unit in its own slice, as the drover takes it. -/
structure StartsUnit (s : State) (p : Nat) (j : Job) (off : Nat) : Prop where
  job : (s.pen p).job j.xid = some j
  one : j.OneUnit
  mcast : j.mcast = []
  killed : j.killed = false
  poisoned : j.poisoned = false
  next : j.next = 0
  src : decodeWin j.src = some (.loc off)
  usable : (s.tile j.tile).unusable = false
  clean : poisonIn s.poison (s.sliceKey j.tile off) j.bytes = none

/-- The job once it runs, once its unit is read, and with its store open. -/
def Job.running (j : Job) : Job := { j with st := .running }
def Job.read (j : Job) : Job := { j with next := 1 }
def Job.opened (j : Job) : Job := { j with open_ := j.open_ + 1 }

/-- The pen's state after a job's one unit has been read. -/
def State.unitRead (s : State) (p : Nat) (j : Job) : State := (s.updJob p j.xid Job.running).updJob p j.xid Job.read

/-- The store of a job's one unit. -/
def State.unitReq (s : State) (p : Nat) (j : Job) (off : Nat) : Req :=
  (s.unitRead p j).jobReq p j.running.read .store j.dst j.dst j.bytes (readMem s.mem (s.sliceKey j.tile off) j.bytes % 2 ^ (8 * j.bytes)) 0 j.bytes 0

section
variable {s : State} {j : Job} {off : Nat} (h : StartsUnit s s.ev.num j off)
include h

theorem StartsUnit.running_job : ((s.updJob s.ev.num j.xid Job.running).pen s.ev.num).job j.xid = some j.running :=
  State.job_updJob (fun _ => rfl) h.job

theorem StartsUnit.read_job : ((s.unitRead s.ev.num j).pen s.ev.num).job j.xid = some j.running.read :=
  State.job_updJob (fun _ => rfl) h.running_job

theorem StartsUnit.issues : j.issued = false := by
  simp [Job.issued, h.killed, h.poisoned, h.mcast, h.one.units, h.next]

theorem exec_droverJobStart (pick : s.droverPick s.ev.num = some j) {pl : Place}
    (place : (decodeWin j.dst).bind (s.place j.tile) = some pl) (pod : ∀ i o, decodeWin j.dst ≠ some (.pod i o))
    (system : ∀ q i o, decodeWin j.dst ≠ some (.system q i o)) : exec .droverJobStart s =
      .next (((s.unitRead s.ev.num j).updJob s.ev.num j.xid Job.opened).send (s.reqTime j.tile pl) (.req (s.unitReq s.ev.num j off))) := by
  have start : exec .droverJobStart s = .next ((s.updJob s.ev.num j.xid Job.running).jobUnit s.ev.num j.xid 0) := by
    simp only [exec, execDroverJobStart, pick, h.issues, h.mcast, h.next, List.isEmpty_nil, Bool.false_eq_true, if_false, if_true]
    rfl
  have unit : j.running.unit 0 = (j.src, j.dst, j.bytes) := h.one.unit_zero
  rw [start, State.jobUnit_own h.running_job unit h.src h.usable h.clean]
  exact congrArg Host.Outcome.next ((State.jobWrite_unit h.read_job h.one.short _ 0).trans (State.jobSend_mesh place pod system))

theorem answers_droverJobStart (pick : s.droverPick s.ev.num = some j) {pl : Place}
    (place : (decodeWin j.dst).bind (s.place j.tile) = some pl) (pod : ∀ i o, decodeWin j.dst ≠ some (.pod i o))
    (system : ∀ q i o, decodeWin j.dst ≠ some (.system q i o)) : Answers (exec .droverJobStart s) fun t =>
      (∃ r, Sent s t (.req r) ∧ r.acc = .store ∧ r.who = .job s.ev.num j.xid ∧ r.addr = j.dst ∧ r.size = j.bytes ∧
        r.data = readMem s.mem (s.sliceKey j.tile off) j.bytes) ∧
      (∃ j', (t.pen s.ev.num).job j.xid = some j' ∧ j'.st = .running ∧ j'.next = 1 ∧ j'.open_ = j.open_ + 1) ∧
      (∀ q, q ≠ s.ev.num → t.pen q = s.pen q) ∧ { t with pens := s.pens, flight := s.flight, next := s.next, ctr := s.ctr } = s := by
  have data : readMem s.mem (s.sliceKey j.tile off) j.bytes % 2 ^ (8 * j.bytes) = readMem s.mem (s.sliceKey j.tile off) j.bytes :=
    Nat.mod_eq_of_lt (by rw [Nat.pow_mul]; exact readMem_lt ..)
  refine ⟨_, exec_droverJobStart h pick place pod system, ⟨s.unitReq s.ev.num j off, ?_, rfl, rfl, rfl, rfl, data⟩,
    ⟨j.running.read.opened, State.job_updJob (fun _ => rfl) h.read_job, rfl, rfl, rfl⟩, fun q hq => ?_, rfl⟩
  · exact ((s.unitRead s.ev.num j).updJob s.ev.num j.xid Job.opened).sent_send ..
  · exact (State.pen_updJob_of_ne hq ..).trans ((State.pen_updJob_of_ne hq ..).trans (State.pen_updJob_of_ne hq ..))

end

/-! ### The completion entry (R206) -/

theorem Job.status_le (j : Job) : j.status ≤ 3 := by
  unfold Job.status
  (repeat' split) <;> omega

/-- A field of an entry's first dword. -/
theorem nf_mkEntry_low (a b c d : Nat) {lo n : Nat} (h : lo + n ≤ 64) : nf (mkEntry a b c d).toNat lo n = nf a lo n := by
  have low : (mkEntry a b c d).toNat % 2 ^ 64 = a % 2 ^ 64 := by
    simp only [mkEntry, BitVec.toNat_ofNat]
    omega
  rw [← nf_mod_two_pow _ h, low, nf_mod_two_pow _ h]

theorem ef_mkEntry_second (a b c d : Nat) : ef (mkEntry a b c d) 8 8 = b % 2 ^ 64 := by
  simp only [ef, nf, mkEntry, BitVec.toNat_ofNat]
  omega

theorem ef_mkEntry_last (a b c d : Nat) : ef (mkEntry a b c d) 24 8 = d % 2 ^ 64 := by
  simp only [ef, nf, mkEntry, BitVec.toNat_ofNat]
  omega

theorem b2n_le (b : Bool) : b2n b ≤ 1 := by cases b <;> decide

theorem b2n_inj {a b : Bool} (h : b2n a = b2n b) : a = b := by
  revert h
  cases a <;> cases b <;> decide

section
variable {j : Job} (hxid : j.xid < 65536) (hslot : j.hslot < 32)
include hxid hslot

/-- The fields of the first dword: KIND, job identifier, status, handler and its valid bit. -/
theorem Job.entry_fields : ef j.entry 0 2 = 2 ∧ ef j.entry 2 2 = j.xid ∧ ef j.entry 4 1 = j.status ∧ nf j.entry.toNat 40 5 = j.hslot ∧
    j.entry.getLsbD 47 = j.hval := by
  have status := j.status_le
  have valid := b2n_le j.hval
  refine ⟨(nf_mkEntry_low _ _ _ _ (by decide)).trans ?_, (nf_mkEntry_low _ _ _ _ (by decide)).trans ?_,
    (nf_mkEntry_low _ _ _ _ (by decide)).trans ?_, (nf_mkEntry_low _ _ _ _ (by decide)).trans ?_,
    b2n_inj ((nf_one ..).symm.trans ((nf_mkEntry_low _ _ _ _ (by decide)).trans ?_))⟩ <;> simp only [nf] <;> omega

end

/-! ### DROVER_COMPLETION_PLACE (R206, R226) -/

theorem Tile.inbox_ready (t : Tile) (now src i : Nat) (arg : Word) : (t.ready now src i arg).inbox = t.inbox := by
  unfold Tile.ready
  dsimp only
  split <;> rfl

/-- An entry stands at the end of the inbox it is placed in. -/
theorem Tile.inbox_place (t : Tile) (now : Nat) (e : Entry) (arg : Word) : (t.place now e arg).inbox = t.inbox ++ [e] := by
  unfold Tile.place
  dsimp only
  split
  · exact Tile.inbox_ready ..
  · rfl

/-- A placed entry whose handler is valid readies the handler's routine with the argument. -/
theorem Tile.routine_place {t : Tile} {now k : Nat} {e : Entry} {arg : Word} (valid : e.getLsbD 47 = true) (kind : nf e.toNat 0 16 ≠ 5)
    (slot : nf e.toNat 40 5 = k) (vld : (t.routine k).vld = true) (fresh : (t.routine k).lastAt ≠ now) :
    ((t.place now e arg).routine k).rdy = true ∧ ((t.place now e arg).routine k).rarg = arg := by
  have asks : (e.getLsbD 47 && nf e.toNat 0 16 != 5) = true := by simp [valid, kind]
  have vld' : (({ t with inbox := t.inbox ++ [e] } : Tile).event 1 |>.routine k).vld = true := vld
  simp only [Tile.place, asks, if_true, slot]
  rw [Tile.routine_ready vld', if_pos rfl]
  exact ⟨rfl, if_neg fun h => fresh h.1⟩

/-- The completion of a job of one copy, not a stream's, enters the inbox of its tile and leaves its pen. -/
theorem exec_droverCompletionPlace {s : State} {j : Job} (found : (s.pen s.ev.num).jobs.find? s.placeable = some j)
    (one : s.copies j.tile = [j.tile]) (strm : j.strm = false) : exec .droverCompletionPlace s =
      .next ((s.placeInbox j.tile j.entry j.arg).updPen s.ev.num fun pn => { pn with jobs := pn.jobs.filter fun k => k.xid != j.xid }) := by
  simp only [exec, execDroverCompletionPlace, found, one, strm, List.foldl_cons, List.foldl_nil, Bool.false_eq_true, if_false]

section
variable {s : State} (t : Nat) (e : Entry) (arg : Word)

theorem State.tile_placeInbox : (s.placeInbox t e arg).tile t = (s.tile t).place s.now e arg := (State.tile_updTile ..).trans (if_pos rfl)

theorem State.tile_placeInbox_of_ne {k : Nat} (h : k ≠ t) : (s.placeInbox t e arg).tile k = s.tile k :=
  (State.tile_updTile ..).trans (if_neg h)

end

theorem answers_droverCompletionPlace {s : State} {j : Job} (found : (s.pen s.ev.num).jobs.find? s.placeable = some j)
    (one : s.copies j.tile = [j.tile]) (strm : j.strm = false) (hxid : j.xid < 65536) (hslot : j.hslot < 32) :
    Answers (exec .droverCompletionPlace s) fun t =>
      (∃ e, (t.tile j.tile).inbox = (s.tile j.tile).inbox ++ [e] ∧ ef e 0 2 = 2 ∧ ef e 2 2 = j.xid ∧ ef e 4 1 = j.status ∧
        ef e 8 8 = j.landed % 2 ^ 64 ∧ ef e 24 8 = j.arg.toNat) ∧
      (j.hval = true → ((s.tile j.tile).routine j.hslot).vld = true → ((s.tile j.tile).routine j.hslot).lastAt ≠ s.now →
        ((t.tile j.tile).routine j.hslot).rdy = true ∧ ((t.tile j.tile).routine j.hslot).rarg = j.arg) ∧
      (t.pen s.ev.num).jobs = (s.pen s.ev.num).jobs.filter (fun k => k.xid != j.xid) ∧ (∀ q, q ≠ s.ev.num → t.pen q = s.pen q) ∧
      { t with tiles := s.tiles, pens := s.pens } = s ∧ ∀ k, k ≠ j.tile → t.tile k = s.tile k := by
  obtain ⟨kind, xid, status, handler, valid⟩ := Job.entry_fields hxid hslot
  have placed : ((s.placeInbox j.tile j.entry j.arg).tile j.tile) = _ := State.tile_placeInbox ..
  refine ⟨_, exec_droverCompletionPlace found one strm, ⟨j.entry, ?_, kind, xid, status, ef_mkEntry_second .., ?_⟩, fun hval vld fresh => ?_, ?_,
    fun q hq => (State.pen_updPen ..).trans (if_neg hq), rfl, fun k hk => State.tile_placeInbox_of_ne _ _ _ hk⟩
  · exact (congrArg Tile.inbox placed).trans (Tile.inbox_place ..)
  · exact (ef_mkEntry_last ..).trans (Nat.mod_eq_of_lt j.arg.isLt)
  · have ready := Tile.routine_place (arg := j.arg) (valid.trans hval) (by rw [show nf j.entry.toNat 0 16 = 2 from kind]; decide) handler vld fresh
    rw [← placed] at ready
    exact ready
  · exact congrArg Pen.jobs ((State.pen_updPen ..).trans (if_pos rfl))

/-! ### DROVER_JOB_COMPLETE (R205) -/

theorem answers_droverJobComplete {s : State} {j : Job} (found : (s.pen s.ev.num).jobs.find? Job.finished = some j) :
    Answers (exec .droverJobComplete s) fun t =>
      (t.pen s.ev.num).jobs = (s.pen s.ev.num).jobs.map (fun k => if k.xid = j.xid then { k with st := .placing } else k) ∧
      (∀ q, q ≠ s.ev.num → t.pen q = s.pen q) ∧ { t with pens := s.pens } = s := by
  have run : exec .droverJobComplete s = .next (s.updJob s.ev.num j.xid fun j => { j with st := .placing }) := by
    simp only [exec, execDroverJobComplete, found]
  exact ⟨_, run, congrArg Pen.jobs ((State.pen_updPen ..).trans (if_pos rfl)), fun q hq => State.pen_updJob_of_ne hq .., rfl⟩

/-- Settles O43: a step without its job changes nothing; the start, the end and the placing of one job each have their lemma above. -/
theorem jobSteps : Obligations.JobSteps := by
  intro s p jobs
  refine ⟨fun none => ?_, fun j off pl pick job _ mcast layout killed poisoned next byte short src place pod system usable clean => ?_,
    fun none => ?_, fun j => answers_droverJobComplete, fun none => ?_, fun j => answers_droverCompletionPlace⟩
  · simp only [exec, execDroverJobStart]
    rw [none]
  · exact answers_droverJobStart ⟨job, ⟨layout, byte, short⟩, mcast, killed, poisoned, next, src, usable, clean⟩ pick place pod system
  · simp only [exec, execDroverJobComplete]
    rw [none]
  · simp only [exec, execDroverCompletionPlace]
    rw [none]

end Sys2Proof.Machine
end

section
/-! Counter steps: an addition that leaves its entry below its total gives no hop count (refutes O44). -/

open Sys2Proof

namespace Sys2Proof.Machine

/-- Only the addition that brings COUNT to TOTAL causes the firing (R298, log 110): one that leaves the entry below it clears the hop count. -/
theorem Counter.add_hop_below {c : Counter} {n hop : Nat} (hn : n ≠ 0) (armed : c.st = 1) (below : c.count + n < c.total) :
    (c.add n hop).hop = 0 := by
  have counts : ¬ (n = 0 ∨ (c.st ≠ 1 ∧ c.st ≠ 2)) := by simp [hn, armed]
  have short : c.count < c.total := by omega
  rw [Counter.add, if_neg counts]
  simp only [short, below, if_true]

/-- An addition that arrives at an entry of its launch is added to it. -/
theorem exec_counterAddition {s : State} {k lid n hop : Nat} {c : Counter} (arrived : s.arrived = some (.ctrAdd k lid n hop))
    (listed : tget? s.counters k = some c) (own : (s.counter k).lid = lid) :
    exec .counterAddition s = .next (s.taken.updCounter k fun c => c.add n hop) := by
  have reaches : ((tget? s.counters k).isSome && (s.counter k).lid == lid) = true := by simp [listed, own]
  simp only [exec, execCounterAddition, arrived, reaches, if_true]

theorem State.counter_updCounter (s : State) (k j : Nat) (f : Counter → Counter) :
    (s.updCounter k f).counter j = if j = k then f (s.counter k) else s.counter j := tget_tset ..

/-- An armed entry of launch 1 with total 2, which an addition of 1 with hop count 1 reaches. -/
def additionBelowTotal : State :=
  { (State.reset.updCounter 0 fun c => { c with st := 1, total := 2, lid := 1 }) with flight := [{ num := 0, due := 1, msg := .ctrAdd 0 1 1 1 }] }

/-- Refutes O44: an addition of 1 with hop count 1 to an armed entry of count 0 and total 2 leaves its hop count 0, since it does not bring COUNT
to TOTAL (R298, log 110), where the statement raises it to 1. -/
theorem not_counterSteps : ¬ Obligations.CounterSteps := by
  intro h
  obtain ⟨-, -, -, -, -, addition, -⟩ := h additionBelowTotal
  have arrived : additionBelowTotal.arrived = some (.ctrAdd 0 1 1 1) := by decide
  have listed : tget? additionBelowTotal.counters 0 = some (additionBelowTotal.counter 0) := by decide
  obtain ⟨t, run, entry, -, -⟩ := (addition 0 1 1 1 arrived).2 _ listed (by decide) (by decide) (by decide)
  rw [exec_counterAddition arrived listed (by decide)] at run
  cases run
  have raised : (additionBelowTotal.taken.updCounter 0 fun c => c.add 1 1).counter 0 = (additionBelowTotal.counter 0).add 1 1 :=
    (State.counter_updCounter ..).trans (if_pos rfl)
  have below : ((additionBelowTotal.counter 0).add 1 1).hop = 0 := Counter.add_hop_below (by decide) (by decide) (by decide)
  have claimed : ((additionBelowTotal.counter 0).add 1 1).hop = 1 := congrArg Counter.hop (raised.symm.trans entry)
  omega

end Sys2Proof.Machine
end

section
/-! Hurdle words: arrivals, and what a tile reads and sets of its hurdles and timetables (O31, O32). -/

open Sys2Proof

namespace Sys2Proof.Machine

/-! ### Reading one tile after an update -/

theorem State.tile_updTile_same (s : State) (t : Nat) (f : Tile → Tile) : (s.updTile t f).tile t = f (s.tile t) :=
  (State.tile_updTile ..).trans (if_pos rfl)

theorem State.slot_updSlot_same (s : State) (t u : Nat) (f : Slot → Slot) : (s.updSlot t u f).slot t u = f (s.slot t u) :=
  (State.slot_updSlot ..).trans (if_pos ⟨rfl, rfl⟩)

section
variable (s : State) {t : Nat} {f : Tile → Tile} (lid : (f (s.tile t)).lid = (s.tile t).lid)
include lid

theorem State.paired_updTile_same (solo : (f (s.tile t)).solo = (s.tile t).solo) : (s.updTile t f).paired t = s.paired t := by
  simp only [State.paired, State.tile_updTile_same, lid, solo]
  rfl

theorem State.seenTile_updTile_same (twin : (f (s.tile t)).twin = (s.tile t).twin) : (s.updTile t f).seenTile t = s.seenTile t := by
  simp only [State.seenTile, State.tile_updTile_same, lid, twin]
  rfl

end

/-! ### An arrival at a tile (R218) -/

/-- A tile that arrives: ARR is set, and at the launch's own top level (top) the running hash of its superstep starts again (R330). -/
def Tile.arriving (key : Nat) (drop top : Bool) (tl : Tile) : Tile :=
  { tl with hur := tset tl.hur key { tl.hurd key with arr := true, drop := drop }, twinRun := if top then 0 else tl.twinRun }

theorem Tile.hurd_arriving (key : Nat) (drop top : Bool) (tl : Tile) (k : Nat) :
    (tl.arriving key drop top).hurd k = if k = key then { tl.hurd k with arr := true, drop := drop } else tl.hurd k := by
  refine (tget_tset ..).trans ?_
  split
  · next h => rw [h]
  · rfl

/-- A tile's own contribution to a phase. -/
def State.contribution (s : State) (t : Nat) (op : Option Nat) (val : Word) (abort : Nat) (drop : Bool) : Contrib :=
  { tile := some (s.seenTile t), far := none, counter := none, op := op, val := val, abort := abort, drop := drop }

/-- A state with one more message in flight, and its counts of messages and of free values moved on. -/
def State.sending (s : State) (f : Flight) (n c : Nat) : State := { s with flight := s.flight ++ [f], next := n, ctr := c }

theorem State.sendOut_unpaired {s : State} {t : Nat} (h : s.paired t = false) (min : Nat) (l : List Nat) (m : Msg) :
    s.sendOut t min l m = s.forward t min m := by
  simp only [State.sendOut, h, Bool.false_eq_true, if_false]

/-- A state whose count of free values has moved on. -/
def State.drawn (s : State) (c : Nat) : State := { s with ctr := c }

/-- The way up takes a time, and at level 3 a free value. -/
theorem State.upTime_eq (s : State) (d : Nat) : ∃ n c, s.upTime d = (n, s.drawn c) := by
  unfold State.upTime
  split
  · exact ⟨_, _, rfl⟩
  · exact ⟨_, _, rfl⟩

section
variable {s : State} {t key : Nat} (u dom : Nat) (op : Option Nat) (val : Word) (abort : Nat) (drop : Bool)

theorem State.arriveNow_over (h : ((s.tile t).hurd key).arr = true ∨ ((s.tile t).hurd key).drop = true) :
    s.arriveNow t u key dom op val abort drop = none := by
  simp only [State.arriveNow, Bool.or_eq_true, h, if_true]

variable (hpair : s.paired t = false) (arr : ((s.tile t).hurd key).arr = false) (dropped : ((s.tile t).hurd key).drop = false)
include hpair arr dropped

theorem State.arriveNow_made : ∃ top f n c, f.msg = .hurArrive dom (s.contribution t op val abort drop) ∧ s.now ≤ f.due ∧
    s.arriveNow t u key dom op val abort drop = some ((s.updTile t (Tile.arriving key drop top)).sending f n c) := by
  have open_ : ¬ (((s.tile t).hurd key).arr || ((s.tile t).hurd key).drop) = true := by simp [arr, dropped]
  have start : (s.updTile t fun tl => { tl with hur := tset tl.hur key { (s.tile t).hurd key with arr := true, drop := drop } }) =
      s.updTile t (Tile.arriving key drop false) := rfl
  have seen := s.seenTile_updTile_same (t := t) (f := Tile.arriving key drop false) rfl rfl
  have pair := (s.paired_updTile_same (t := t) (f := Tile.arriving key drop false) rfl rfl).trans hpair
  have again := s.updTile_updTile t (Tile.arriving key drop false) fun tl => { tl with twinRun := 0 }
  simp only [State.arriveNow, if_neg open_, start, seen]
  obtain ⟨n, c, up⟩ := (s.updTile t (Tile.arriving key drop false)).upTime_eq dom
  simp only [up]
  rw [State.sendOut_unpaired (s := (s.updTile t (Tile.arriving key drop false)).drawn c) pair]
  split
  · exact ⟨true, ⟨s.next, s.now + n, .hurArrive dom (s.contribution t op val abort drop)⟩, s.next + 1, c, rfl, Nat.le_add_right _ _,
      congrArg (fun x : State => some (x.sending _ _ _)) again⟩
  · exact ⟨false, _, _, _, rfl, Nat.le_add_right _ _, rfl⟩

theorem State.finishArrive_made : ∃ top f n c, f.msg = .hurArrive dom (s.contribution t op val abort drop) ∧ s.now ≤ f.due ∧
    s.finishArrive t u key dom op val abort drop =
      ((s.updTile t (Tile.arriving key drop top)).updSlot t u fun sl => sl.complete (sl.pc + 4) true).sending f n c := by
  obtain ⟨top, f, n, c, msg, due, made⟩ := State.arriveNow_made u dom op val abort drop hpair arr dropped
  exact ⟨top, f, n, c, msg, due, by rw [State.finishArrive, made]; rfl⟩

end

theorem State.finishArrive_over {s : State} {t key : Nat} (h : ((s.tile t).hurd key).arr = true ∨ ((s.tile t).hurd key).drop = true)
    (u dom : Nat) (op : Option Nat) (val : Word) (abort : Nat) (drop : Bool) : s.finishArrive t u key dom op val abort drop =
      s.trapAt t u { cause := .hover, pc := (s.slot t u).pc, resume := (s.slot t u).pc, addr := 0, detail := domDetail dom, mflags := 0 } := by
  rw [State.finishArrive, State.arriveNow_over u dom op val abort drop h]

/-! ### The arriving words -/

section
variable {s : State} {i : Instr} {m : BitVec 1} {l : Nat} {op : Option Nat} {val : Word} {abort : Nat} {drop : Bool}
  (run : exec i s = .next (s.hurWord m l op val abort drop))
include run

theorem traps_hurWord (none_ : s.hurDom m l = none) (flk : s.cur.flk = 0) : Traps i s .window 0 0 :=
  ⟨_, run.trans (by rw [State.hurWord, none_]), trapped_trap s _ _ _ flk⟩

variable {key dom : Nat} (named : s.hurDom m l = some (key, dom)) (hpair : s.paired s.curTile = false)
include named hpair

theorem exec_hurWord : exec i s = .next (
    if s.drained s.curTile s.curSlot then s.finishArrive s.curTile s.curSlot key dom op val abort drop
    else s.block (.arrive dom drop op val abort)) := by
  rw [run, State.hurWord, named]
  simp only [State.twinFull_of_not_paired hpair, Bool.false_eq_true, if_false]

theorem answers_hurWord_waits (busy : s.drained s.curTile s.curSlot = false) : Answers (exec i s) fun t =>
    t.cur.st = .block ∧ t.cur.wait = .arrive dom drop op val abort ∧ t.cur.pc = s.cur.pc ∧ (∀ r, t.xr r = s.xr r) ∧ SameElsewhere s t := by
  obtain ⟨st, wait, pc, other⟩ := blocks_block s (.arrive dom drop op val abort)
  refine ⟨_, (exec_hurWord run named hpair).trans (by rw [busy]; rfl), st, wait, pc, State.xr_of_x ?_, other⟩
  rw [State.cur_block]

variable (drained : s.drained s.curTile s.curSlot = true)
include drained

theorem traps_hurWord_over (late : (s.curT.hurd key).arr = true ∨ (s.curT.hurd key).drop = true) (flk : s.cur.flk = 0) :
    Traps i s .hover 0 (domDetail dom) := by
  refine ⟨_, (exec_hurWord run named hpair).trans ?_, trapped_trap s _ _ _ flk⟩
  rw [if_pos drained, State.finishArrive_over late]
  rfl

theorem answers_hurWord (arr : (s.curT.hurd key).arr = false) (dropped : (s.curT.hurd key).drop = false) : Answers (exec i s) fun t =>
    Sent s t (.hurArrive dom (s.contribution s.curTile op val abort drop)) ∧
    (∀ k, t.curT.hurd k = if k = key then { s.curT.hurd k with arr := true, drop := drop } else s.curT.hurd k) ∧
    WordDone s t 4 ∧ s.cur.SameButX t.cur ∧
    { t.curT with slots := s.curT.slots, hur := s.curT.hur, twinRun := s.curT.twinRun } = s.curT ∧
    { t with tiles := s.tiles, flight := s.flight, next := s.next, ctr := s.ctr } = s ∧ ∀ j, j ≠ s.curTile → t.tile j = s.tile j := by
  obtain ⟨top, f, n, c, msg, due, made⟩ := State.finishArrive_made s.curSlot dom op val abort drop hpair arr dropped
  obtain ⟨done, same⟩ := wordDone_updTile s (f := Tile.arriving key drop top) rfl 4
  have curT := s.curT_updTile_updCur (f := Tile.arriving key drop top) fun sl => sl.complete (sl.pc + 4) true
  obtain ⟨-, others⟩ := s.onlyTile_updTile_updCur (f := Tile.arriving key drop top) fun sl => sl.complete (sl.pc + 4) true
  refine ⟨((s.updTile s.curTile (Tile.arriving key drop top)).done 4).sending f n c, (exec_hurWord run named hpair).trans (by rw [if_pos drained, made]; rfl),
    ⟨f, rfl, msg, due⟩, fun k => ?_, done, same, ?_, rfl, others⟩
  · exact (congrArg (Tile.hurd · k) curT).trans (Tile.hurd_arriving key drop top s.curT k)
  · exact congrArg (fun tl : Tile => { tl with slots := s.curT.slots, hur := s.curT.hur, twinRun := s.curT.twinRun }) curT

end

/-- Settles O31: each of the ten words is one arrival, checked, delayed or made at once. -/
theorem hurdleArrivals : Obligations.HurdleArrivals := by
  intro s i a b m l op val abort drop hpair word
  have run : exec i s = .next (s.hurWord m l.toNat op val abort drop) := by
    rcases word with ⟨rfl, rfl, rfl, harv⟩ | ⟨rfl, rfl, rfl, ⟨rfl, rfl⟩ | ⟨rfl, rfl⟩⟩
    · have low : (s.xr b).toNat % 256 = wf (s.xr b) 0 8 := (wf_zero (s.xr b) 8).symm
      rw [low]
      rcases harv with ⟨rfl, rfl⟩ | ⟨rfl, rfl⟩ | ⟨rfl, rfl⟩ | ⟨rfl, rfl⟩ | ⟨rfl, rfl⟩ | ⟨rfl, rfl⟩ | ⟨rfl, rfl⟩ | ⟨rfl, rfl⟩ <;> rfl
    · rfl
    · rfl
  exact ⟨traps_hurWord run, fun key dom named => ⟨answers_hurWord_waits run named hpair, fun drained =>
    ⟨traps_hurWord_over run named hpair drained, answers_hurWord run named hpair drained⟩⟩⟩

/-! ### HWT and HQRY (R221, R222) -/

section
variable {s : State} {d : Reg} {m : BitVec 1} {l : BitVec 2}

theorem traps_hwt (none_ : s.hurDom m l.toNat = none) (flk : s.cur.flk = 0) : Traps (.hwt d m l) s .window 0 0 :=
  ⟨_, by rw [exec, execHwt, none_], trapped_trap s _ _ _ flk⟩

theorem traps_hqry (none_ : s.hurDom m l.toNat = none) (flk : s.cur.flk = 0) : Traps (.hqry d m l) s .window 0 0 :=
  ⟨_, by rw [exec, execHqry, none_], trapped_trap s _ _ _ flk⟩

variable {key dom : Nat} (named : s.hurDom m l.toNat = some (key, dom))
include named

/-- HWT that waits already goes on when a release has come since. -/
theorem exec_hwt_again {n : Nat} (waiting : s.cur.wait = .release n) : exec (.hwt d m l) s = .next (
    if (s.curT.hurd key).rels = n then s.block (.release n) else s.wr d (s.curT.hurd key).value 4) := by
  simp only [exec, execHwt, named, waiting]

/-- HWT that begins waits where an arrival is pending. -/
theorem exec_hwt_first (fresh : ∀ n, s.cur.wait ≠ .release n) : exec (.hwt d m l) s = .next (
    if (s.curT.hurd key).arr then s.block (.release (s.curT.hurd key).rels) else s.wr d (s.curT.hurd key).value 4) := by
  simp only [exec, execHwt, named]

theorem answers_hwt_waits (fresh : ∀ n, s.cur.wait ≠ .release n) (arr : (s.curT.hurd key).arr = true) :
    Answers (exec (.hwt d m l) s) fun t => t.cur.st = .block ∧ t.cur.wait = .release (s.curT.hurd key).rels ∧ t.cur.pc = s.cur.pc ∧
      (∀ r, t.xr r = s.xr r) ∧ SameElsewhere s t := by
  obtain ⟨st, wait, pc, other⟩ := blocks_block s (.release (s.curT.hurd key).rels)
  refine ⟨_, (exec_hwt_first named fresh).trans (by rw [if_pos arr]), st, wait, pc, State.xr_of_x ?_, other⟩
  rw [State.cur_block]

theorem writesX_hqry : WritesX (.hqry d m l) s d (BitVec.ofNat 64 ((s.curT.hurd key).abort.toNat +
    (if (s.curT.hurd key).arr then 2 ^ 8 else 0) + (if (s.curT.hurd key).drop then 2 ^ 9 else 0) + (if (s.curT.hurd key).mix then 2 ^ 10 else 0) +
    (if (s.curT.hurd key).none_ then 2 ^ 11 else 0) + (s.curT.hurd key).op % 16 * 2 ^ 12 + (s.curT.hurd key).rels % 2 ^ 32 * 2 ^ 16)) 4 := by
  refine writesX_wr ?_
  simp only [exec, execHqry, named, b2n_mul]
  rfl

end

/-! ### HXEND, TTGO and TTSTS (R223 to R225) -/

/-- A phase word with one bit cleared. -/
theorem getLsbD_clearPhase (x : BitVec 4) (l n : Nat) : (x &&& ~~~(BitVec.ofNat 4 (2 ^ l))).getLsbD n = (x.getLsbD n && decide (n ≠ l)) := by
  rw [BitVec.getLsbD_and, BitVec.getLsbD_not, BitVec.getLsbD_ofNat, Nat.testBit_two_pow]
  by_cases low : n < 4
  · simp [low, eq_comm]
  · simp [BitVec.getLsbD_of_ge x n (Nat.le_of_not_lt low)]

/-- A tile whose exchange phase of a level has ended. -/
def Tile.endPhase (l : Nat) (tl : Tile) : Tile := { tl with phase := tl.phase &&& ~~~(BitVec.ofNat 4 (2 ^ l)) }

theorem answers_hxend (s : State) (l : BitVec 1) : Answers (exec (.hxend l) s) fun t =>
    (∀ n < 4, t.curT.phaseBit n = (s.curT.phaseBit n && decide (n ≠ 2 + l.toNat))) ∧ WordDone s t 4 ∧ s.cur.SameButX t.cur ∧
    { t.curT with slots := s.curT.slots, phase := s.curT.phase } = s.curT ∧ OnlyTile s t s.curTile := by
  obtain ⟨done, same⟩ := wordDone_updTile s (f := Tile.endPhase (2 + l.toNat)) rfl 4
  have curT : ((s.updTile s.curTile (Tile.endPhase (2 + l.toNat))).done 4).curT = (s.curT.endPhase (2 + l.toNat)).updSlot s.curSlot _ :=
    s.curT_updTile_updCur _
  refine ⟨_, rfl, fun n _ => ?_, done, same, ?_, s.onlyTile_updTile_updCur _⟩
  · exact (congrArg (Tile.phaseBit · n) curT).trans (getLsbD_clearPhase ..)
  · exact congrArg (fun tl : Tile => { tl with slots := s.curT.slots, phase := s.curT.phase }) curT

/-- A tile that selects a timetable of a level. -/
def Tile.selectTt (lvl x : Nat) (tl : Tile) : Tile := { tl with tt := tset tl.tt lvl { tl.tts lvl with sel := x } }

theorem Tile.tts_selectTt (lvl x : Nat) (tl : Tile) (n : Nat) :
    (tl.selectTt lvl x).tts n = if n = lvl then { tl.tts n with sel := x } else tl.tts n := by
  refine (tget_tset ..).trans ?_
  split
  · next h => rw [h]
  · rfl

/-- Timetable 255, or one the launch's image holds. -/
def State.ttHeld (s : State) (lvl x : Nat) : Prop := x = 255 ∨ ∃ e ∈ (s.launch s.curT.lid).tts, e.1 / (128 * 160) = lvl * 256 + x

theorem State.ttHeld_iff (s : State) (lvl x : Nat) :
    (x == 255 || (s.launch s.curT.lid).tts.any fun p => p.1 / (128 * 160) == lvl * 256 + x) = true ↔ s.ttHeld lvl x := by
  simp only [Bool.or_eq_true, beq_iff_eq, List.any_eq_true, State.ttHeld]

section
variable {s : State} {a : Reg} {l : BitVec 1}

theorem answers_ttgo (held : s.ttHeld l.toNat (wf (s.xr a) 0 8)) : Answers (exec (.ttgo a l) s) fun t =>
    (t.curT.tts l.toNat).sel = wf (s.xr a) 0 8 ∧
    (∀ n, t.curT.tts n = if n = l.toNat then { s.curT.tts n with sel := wf (s.xr a) 0 8 } else s.curT.tts n) ∧ WordDone s t 4 ∧
    s.cur.SameButX t.cur ∧ { t.curT with slots := s.curT.slots, tt := s.curT.tt } = s.curT ∧ OnlyTile s t s.curTile := by
  obtain ⟨done, same⟩ := wordDone_updTile s (f := Tile.selectTt l.toNat (wf (s.xr a) 0 8)) rfl 4
  have curT : ((s.updTile s.curTile (Tile.selectTt l.toNat (wf (s.xr a) 0 8))).done 4).curT =
    (s.curT.selectTt l.toNat (wf (s.xr a) 0 8)).updSlot s.curSlot _ := s.curT_updTile_updCur _
  have tts := fun n => (congrArg (Tile.tts · n) curT).trans (s.curT.tts_selectTt l.toNat (wf (s.xr a) 0 8) n)
  refine ⟨_, ?_, ?_, tts, done, same, ?_, s.onlyTile_updTile_updCur _⟩
  · simp only [exec, execTtgo, (s.ttHeld_iff ..).2 held, if_true]
    rfl
  · rw [tts, if_pos rfl]
  · exact congrArg (fun tl : Tile => { tl with slots := s.curT.slots, tt := s.curT.tt }) curT

theorem traps_ttgo (held : ¬ s.ttHeld l.toNat (wf (s.xr a) 0 8)) (flk : s.cur.flk = 0) : Traps (.ttgo a l) s .window 0 0 :=
  ⟨_, by simp only [exec, execTtgo, mt (s.ttHeld_iff ..).1 held, Bool.false_eq_true, if_false], trapped_trap s _ _ _ flk⟩

end

/-- Settles O32: HWT by whether its thread waits already, and each other word by its one effect. -/
theorem hurdleQueries : Obligations.HurdleQueries := by
  intro s d a m l1 l
  refine ⟨fun none_ flk => ⟨traps_hwt none_ flk, traps_hqry none_ flk⟩, fun key dom named => ⟨fun n waiting => ⟨fun same => ?_, fun new => ?_⟩,
    fun fresh => ⟨answers_hwt_waits named fresh, fun clear => ?_⟩, writesX_hqry named⟩, answers_hxend s l1, ?_, ?_⟩
  · exact waits_block ((exec_hwt_again named waiting).trans (by rw [if_pos same]))
  · exact writesX_wr ((exec_hwt_again named waiting).trans (by rw [if_neg new]))
  · exact writesX_wr ((exec_hwt_first named fresh).trans (by rw [clear]; rfl))
  · have low : (s.xr a).toNat % 256 = wf (s.xr a) 0 8 := (wf_zero (s.xr a) 8).symm
    rw [low]
    exact ⟨answers_ttgo, traps_ttgo⟩
  · refine writesX_wr ?_
    simp only [exec, execTtsts, b2n_mul]
    rfl

end Sys2Proof.Machine
end

section
/-! Supervisor words on other threads: ERET of a parked thread and PARK of another one (O14). -/

open Sys2Proof

namespace Sys2Proof.Machine

/-! ### Another slot changes and the word is done -/

theorem State.keepMsg_curTile (s : State) (t u : Nat) : (s.keepMsg t u).curTile = s.curTile := by
  simp only [State.keepMsg]
  split <;> rfl

theorem State.keepMsg_curSlot (s : State) (t u : Nat) : (s.keepMsg t u).curSlot = s.curSlot := by
  simp only [State.keepMsg]
  split <;> rfl

/-- A word that has changed another slot than its thread's, and is done. -/
theorem State.done_of_other {s x : State} {k u : Nat} (tile : x.curTile = s.curTile) (slot : x.curSlot = s.curSlot)
    (own : x.slot s.curTile s.curSlot = s.cur) (other : k ≠ s.curTile ∨ u ≠ s.curSlot) :
    (x.done 4).slot k u = x.slot k u ∧ (∀ r, (x.done 4).xr r = s.xr r) ∧ s.cur.At (x.done 4).cur (s.cur.pc + 4) true := by
  have before : x.cur = s.cur := by rw [State.cur, tile, slot, own]
  have cur : (x.done 4).cur = s.cur.complete (s.cur.pc + 4) true := by
    rw [← before]
    exact State.cur_updCur ..
  refine ⟨(State.slot_updSlot ..).trans (if_neg ?_), State.xr_of_x ?_, ?_⟩
  · rw [tile, slot]
    omega
  · rw [cur]
    rfl
  · rw [cur]
    exact Slot.at_complete ..

/-! ### ERET (R241) -/

section
variable {s : State} {k u : Nat}

theorem exec_eret (priv : s.cur.priv = true) (named : s.named (s.cur.kr 1) = [(k, u)]) :
    exec .eret s = .next ((s.eretAt (s.cur.kr 1) k u).done 4) := by
  simp only [exec, execEret, priv, if_true, named, List.foldl_cons, List.foldl_nil]

theorem State.eretAt_other_tag {d : Word} (tag : (s.slot k u).tag ≠ wf d 32 16) : s.eretAt d k u = s := by
  unfold State.eretAt
  exact if_pos (.inr tag)

theorem State.eretAt_parked {d : Word} (st : (s.slot k u).st = .park) (tag : (s.slot k u).tag = wf d 32 16)
    (skip : d.getLsbD 20 = false) (stop : d.getLsbD 21 = false) :
    s.eretAt d k u = ((s.dropHeld k u).keepMsg k u).updSlot k u fun sl => sl.eret sl.pc := by
  have parked : ¬ ((s.slot k u).st ≠ .park ∨ (s.slot k u).tag ≠ wf d 32 16) := by simp [st, tag]
  simp only [State.eretAt, if_neg parked, skip, stop, Bool.false_eq_true, if_false]

theorem answers_eret (priv : s.cur.priv = true) (named : s.named (s.cur.kr 1) = [(k, u)]) (other : k ≠ s.curTile ∨ u ≠ s.curSlot)
    (st : (s.slot k u).st = .park) (skip : (s.cur.kr 1).getLsbD 20 = false) (stop : (s.cur.kr 1).getLsbD 21 = false)
    (tag : (s.slot k u).tag = wf (s.cur.kr 1) 32 16) : Answers (exec .eret s) fun t =>
      (t.slot k u).st = .run ∧ (t.slot k u).pc = (s.slot k u).pc ∧ (∀ r, (t.slot k u).xr r = (s.slot k u).xr r) ∧
      (t.slot k u).status = (s.slot k u).status ∧ (∀ r, t.xr r = s.xr r) ∧ s.cur.At t.cur (s.cur.pc + 4) true := by
  have kept := (s.dropHeld k u).slot_keepMsg k u
  have back : (s.eretAt (s.cur.kr 1) k u).slot k u = { s.slot k u with trapMsg := none }.eret (s.slot k u).pc := by
    rw [State.eretAt_parked st tag skip stop, State.slot_updSlot_same, kept, if_pos ⟨rfl, rfl⟩]
    rfl
  have own : (s.eretAt (s.cur.kr 1) k u).slot s.curTile s.curSlot = s.cur := by
    rw [State.eretAt_parked st tag skip stop, State.slot_updSlot, if_neg (by omega), kept, if_neg (by omega)]
    rfl
  have tile : (s.eretAt (s.cur.kr 1) k u).curTile = s.curTile := by
    rw [State.eretAt_parked st tag skip stop]
    exact (s.dropHeld k u).keepMsg_curTile k u
  have slot : (s.eretAt (s.cur.kr 1) k u).curSlot = s.curSlot := by
    rw [State.eretAt_parked st tag skip stop]
    exact (s.dropHeld k u).keepMsg_curSlot k u
  obtain ⟨after, x, at_⟩ := State.done_of_other tile slot own other
  rw [back] at after
  exact ⟨_, exec_eret priv named, by rw [after]; rfl, by rw [after]; rfl, fun r => by rw [after]; rfl, by rw [after]; rfl, x, at_⟩

/-! ### PARK of another thread (R242) -/

theorem exec_park_other {a : Reg} (priv : s.cur.priv = true) (notOwn : s.xr a ≠ BitVec.allOnes 64) (named : s.named (s.xr a) = [(k, u)])
    (other : k ≠ s.curTile ∨ u ≠ s.curSlot) : exec (.park a) s = .next ((s.parkOther k u).done 4) := by
  have ne : (k, u) ≠ (s.curTile, s.curSlot) := fun h => by
    obtain ⟨hk, hu⟩ := Prod.mk.inj h
    omega
  have away : [(k, u)].filter (· != (s.curTile, s.curSlot)) = [(k, u)] := by simp [ne]
  have absent : [(k, u)].contains (s.curTile, s.curSlot) = false := by simp [ne.symm]
  simp only [exec, execPark, if_neg notOwn, priv, named, away, absent, Bool.not_true, Bool.false_eq_true, if_false, List.foldl_cons,
    List.foldl_nil]

/-- What PARK reports of a thread that another one parks. -/
def State.parkInfo (s : State) (k u : Nat) : TrapInfo :=
  { cause := .park, pc := (s.slot k u).pc, resume := (s.slot k u).pc, addr := 0, detail := 0, mflags := 0 }

theorem State.parkOther_sleeping (st : (s.slot k u).st = .sleep) (wait : (s.slot k u).wait = .none) (back : (s.slot k u).back = none) :
    s.parkOther k u = s.trapAt k u (s.parkInfo k u) := by
  simp only [State.parkOther, st, wait, back, reduceCtorEq, if_false]
  rfl

theorem answers_park_other {a : Reg} (priv : s.cur.priv = true) (notOwn : s.xr a ≠ BitVec.allOnes 64) (named : s.named (s.xr a) = [(k, u)])
    (other : k ≠ s.curTile ∨ u ≠ s.curSlot) (st : (s.slot k u).st = .sleep) (flk : (s.slot k u).flk = 0)
    (wait : (s.slot k u).wait = .none) (back : (s.slot k u).back = none) : Answers (exec (.park a) s) fun t =>
      (t.slot k u).st = .park ∧ (t.slot k u).cause = Cause.park.code ∧ (t.slot k u).pc = (s.slot k u).pc ∧
      (∀ r, (t.slot k u).xr r = (s.slot k u).xr r) ∧ (∀ r, t.xr r = s.xr r) ∧ s.cur.At t.cur (s.cur.pc + 4) true := by
  obtain ⟨e, n, -, slots⟩ := State.slot_trapAt_level flk (s.parkInfo k u) (by simp [State.parkInfo])
  have own : (s.trapAt k u (s.parkInfo k u)).slot s.curTile s.curSlot = s.cur := (slots _ _).trans (if_neg (by omega))
  obtain ⟨after, x, at_⟩ := State.done_of_other (State.trapAt_curTile flk _) (State.trapAt_curSlot flk _) own other
  rw [slots, if_pos ⟨rfl, rfl⟩] at after
  refine ⟨_, (exec_park_other priv notOwn named other).trans (by rw [State.parkOther_sleeping st wait back]), ?_, ?_, ?_, fun r => ?_, x, at_⟩
  all_goals rw [after]; rfl

end

/-- Settles O14: both words change the one slot their descriptor names, and are done. -/
theorem supervisorResume : Obligations.SupervisorResume := by
  intro s priv
  refine ⟨fun k u named other st skip stop => ⟨answers_eret priv named other st skip stop, fun tag => ?_⟩,
    fun a k u notOwn named other st flk wait back => answers_park_other priv notOwn named other st flk wait back⟩
  exact movesPc_done (len := 4) (by rw [exec_eret priv named, State.eretAt_other_tag tag])

end Sys2Proof.Machine
end

section
/-! Save and restore words: XSAVE and XLOAD at issue (O37). -/

open Sys2Proof

namespace Sys2Proof.Machine

/-! ### The save area (R244) -/

theorem saveArea_window {a : Word} (h : ∀ off, decodeWin a ≠ some (.package off)) : saveArea a = .error .window := by
  unfold saveArea
  split
  · next off hwin => exact absurd hwin (h off)
  · rfl

theorem saveArea_align {a : Word} {off : Nat} (h : decodeWin a = some (.package off)) (al : off % 65536 ≠ 0) : saveArea a = .error .align := by
  simp only [saveArea, h, if_pos al]

theorem saveArea_ok {a : Word} {off : Nat} (h : decodeWin a = some (.package off)) (al : off % 65536 = 0) : saveArea a = .ok off := by
  simp only [saveArea, h, al, ne_eq, not_true_eq_false, if_false]

/-! ### The checks of both words -/

section
variable {s : State} {i : Instr} {a b : Reg} (word : i = .xsave a b ∨ i = .xload a b)
include word

theorem traps_save_priv (low : s.cur.priv = false) (flk : s.cur.flk = 0) : Traps i s .priv (wordOf i) 0 := by
  refine ⟨_, ?_, trapped_trap s _ _ _ flk⟩
  rcases word with rfl | rfl
  · simp only [exec, execXsave, low]
    rfl
  · simp only [exec, execXload, low]
    rfl

variable (priv : s.cur.priv = true)
include priv

theorem traps_saveArea {c : Cause} (bad : saveArea (s.xr b) = .error c) (flk : s.cur.flk = 0) : Traps i s c (s.xr b) 0 := by
  refine ⟨_, ?_, trapped_trap s _ _ _ flk⟩
  rcases word with rfl | rfl
  · simp only [exec, execXsave, priv, bad]
    rfl
  · simp only [exec, execXload, priv, bad]
    rfl

end

/-- A launch is marked for pre-emption. -/
def State.marking (s : State) (lid : Nat) : State := s.updLaunch lid fun l => { l with marked := true }

/-- A saved die is no longer saved, but restored. -/
def Launch.placing (own : Nat) (l : Launch) : Launch :=
  { l with savedDies := l.savedDies.filter (· != own), restored := own :: l.restored }

theorem State.launch_updLaunch_same (s : State) (lid : Nat) (f : Launch → Launch) : (s.updLaunch lid f).launch lid = f (s.launch lid) :=
  tget_tset_same ..

/-- A saved die that has been placed counts as restored, and no longer as saved. -/
theorem State.loadDie_launch {s u : State} {lid own d : Nat} {area : List Byte} {bad : List Nat} (h : s.loadDie lid own d area bad = some u) :
    own ∉ (u.launch lid).savedDies ∧ own ∈ (u.launch lid).restored := by
  obtain ⟨w, rfl⟩ : ∃ w : State, u = w.updLaunch lid (Launch.placing own) := by
    obtain ⟨x, -, rfl⟩ := Option.map_eq_some_iff.1 h
    exact ⟨_, rfl⟩
  rw [State.launch_updLaunch_same]
  simp [Launch.placing]

/-- The state with die own of launch lid placed from the save area at off on the thread's die. -/
def State.restoring (s : State) (lid off own : Nat) : Option State :=
  let l := s.launch lid
  let p := (s.launch s.curT.lid).part
  (s.readArea p off (areaTotal l)).bind fun x =>
    s.loadDie lid own (tDie s.curTile) x (s.areaPoison p off ((s.areaKeys l (tDie s.curTile)).map Prod.fst))

theorem State.restoring_of_read (s : State) {lid off : Nat} {area : List Byte} (own : Nat)
    (h : s.readArea (s.launch s.curT.lid).part off (areaTotal (s.launch lid)) = some area) : s.restoring lid off own =
      s.loadDie lid own (tDie s.curTile) area (s.areaPoison (s.launch s.curT.lid).part off
        ((s.areaKeys (s.launch lid) (tDie s.curTile)).map Prod.fst)) := by
  simp only [State.restoring, h, Option.bind_some]

theorem State.restoring_launch {s u : State} {lid off own : Nat} (h : s.restoring lid off own = some u) :
    own ∉ (u.launch lid).savedDies ∧ own ∈ (u.launch lid).restored := by
  simp only [State.restoring, Option.bind_eq_some_iff] at h
  obtain ⟨x, -, placed⟩ := h
  exact State.loadDie_launch placed

/-- The rectangle and the ranges of a launch are free on a die. -/
def State.roomFor (s : State) (l : Launch) (d : Nat) : Bool := (l.tilesAt d).all s.tileFree && s.rangesFree l d

section
variable {s : State} {a b : Reg} {lid off : Nat} (hlid : wf (s.xr a) 0 16 = lid) (priv : s.cur.priv = true)
  (area : saveArea (s.xr b) = .ok off)
include hlid priv area

/-! ### XSAVE (R367) -/

theorem exec_xsave : exec (.xsave a b) s = .next (
    if (s.launch lid).holdsOn (tDie s.curTile) then (s.marking lid).block (.xsave lid (nw off))
    else s.trap .window (s.xr b) 0) := by
  simp only [exec, execXsave, priv, area, hlid]
  cases (s.launch lid).holdsOn (tDie s.curTile) <;> rfl

theorem answers_xsave (holds : (s.launch lid).holdsOn (tDie s.curTile) = true) : Answers (exec (.xsave a b) s) fun t => t.cur.st = .block ∧
    t.cur.wait = .xsave lid (BitVec.ofNat 64 off) ∧ t.cur.pc = s.cur.pc ∧ (∀ r, t.xr r = s.xr r) ∧
    (∀ k, t.launch k = if k = lid then { s.launch lid with marked := true } else s.launch k) ∧
    { t with tiles := s.tiles, launches := s.launches } = s ∧ OnlySlot { s with launches := t.launches } t s.curTile s.curSlot := by
  have cur : ((s.marking lid).block (.xsave lid (nw off))).cur = { s.cur with st := .block, wait := .xsave lid (nw off) } :=
    (s.marking lid).cur_block _
  refine ⟨(s.marking lid).block (.xsave lid (nw off)), (exec_xsave hlid priv area).trans (by rw [if_pos holds]), ?_, ?_, ?_, State.xr_of_x ?_,
    fun k => tget_tset .., rfl, State.onlySlot_updSlot ..⟩
  all_goals rw [cur]
  rfl

/-! ### XLOAD (R369) -/

theorem traps_xload_unsaved (none_ : (s.launch lid).savedDies = []) (flk : s.cur.flk = 0) : Traps (.xload a b) s .window (s.xr b) 0 :=
  ⟨_, by simp only [exec, execXload, priv, area, hlid, none_]; rfl, trapped_trap s _ _ _ flk⟩

variable {h : List Byte} (read : s.readPkg (s.launch s.curT.lid).part off 256 = some h) (good : saveHeaderOk h lid = true)

include read good

theorem exec_xload (saved : imgNum h 8 1 ∈ (s.launch lid).savedDies) : exec (.xload a b) s = .next (
    if s.roomFor (s.launch lid) (tDie s.curTile) then
      match s.restoring lid off (imgNum h 8 1) with
      | none => s.block .poll
      | some u => u.done 4
    else s.block .poll) := by
  have some_ : (s.launch lid).savedDies.isEmpty = false := List.isEmpty_eq_false_iff.2 (List.ne_nil_of_mem saved)
  have listed : (s.launch lid).savedDies.contains (imgNum h 8 1) = true := List.contains_iff_mem.2 saved
  simp only [exec, execXload, priv, area, hlid, read, good, some_, listed, Bool.not_true, Bool.false_eq_true, if_false]
  rw [← State.roomFor, ← State.restoring]
  cases s.roomFor (s.launch lid) (tDie s.curTile)
  · simp only [Bool.not_false, Bool.false_eq_true, if_true, if_false]
  · cases s.restoring lid off (imgNum h 8 1) <;> simp only [Bool.not_true, Bool.false_eq_true, if_true, if_false]

variable (saved : imgNum h 8 1 ∈ (s.launch lid).savedDies)
include saved

theorem waits_xload_taken (taken : s.roomFor (s.launch lid) (tDie s.curTile) = false) : Waits (.xload a b) s :=
  waits_block (w := .poll) ((exec_xload hlid priv area read good saved).trans (by simp only [taken, Bool.false_eq_true, if_false]))

variable (room : s.roomFor (s.launch lid) (tDie s.curTile) = true)
include room

theorem waits_xload_refused (none_ : s.restoring lid off (imgNum h 8 1) = none) : Waits (.xload a b) s :=
  waits_block (w := .poll) ((exec_xload hlid priv area read good saved).trans (by simp only [room, none_, if_true]))

theorem answers_xload {u : State} (some_ : s.restoring lid off (imgNum h 8 1) = some u) : Answers (exec (.xload a b) s) fun t =>
    imgNum h 8 1 ∉ (t.launch lid).savedDies ∧ imgNum h 8 1 ∈ (t.launch lid).restored ∧
    u.cur.At t.cur (u.cur.pc + 4) true ∧ OnlySlot u t u.curTile u.curSlot := by
  obtain ⟨unsaved, restored⟩ := State.restoring_launch some_
  have cur : (u.done 4).cur = u.cur.complete (u.cur.pc + 4) true := State.cur_updCur ..
  refine ⟨u.done 4, (exec_xload hlid priv area read good saved).trans (by simp only [room, some_, if_true]), unsaved, restored, ?_,
    State.onlySlot_updSlot ..⟩
  rw [cur]
  exact Slot.at_complete ..

end

/-- Settles O37: both words check level and save area alike, XSAVE marks its launch, XLOAD places the die or waits. -/
theorem saveAndRestoreWords : Obligations.SaveAndRestoreWords := by
  intro s a b lid l d p
  have hlid : wf (s.xr a) 0 16 = lid := wf_zero (s.xr a) 16
  refine ⟨fun low flk => ⟨traps_save_priv (.inl rfl) low flk, traps_save_priv (.inr rfl) low flk⟩, fun priv flk i word =>
    ⟨fun win => traps_saveArea word priv (saveArea_window win) flk, fun off win al => traps_saveArea word priv (saveArea_align win al) flk,
      fun off win al missing => ?_⟩, fun off priv win al => ?_⟩
  · have area := saveArea_ok win al
    obtain ⟨rfl, away⟩ | ⟨rfl, none_⟩ := missing
    · exact ⟨_, (exec_xsave hlid priv area).trans (by rw [if_neg (ne_true_of_eq_false away)]), trapped_trap s _ _ _ flk⟩
    · exact traps_xload_unsaved hlid priv area none_ flk
  · have area := saveArea_ok win al
    refine ⟨answers_xsave hlid priv area, fun h read good saved => ⟨waits_xload_taken hlid priv area read good saved, fun room bytes fetched => ?_⟩⟩
    have placed := s.restoring_of_read (imgNum h 8 1) fetched
    exact ⟨fun none_ => waits_xload_refused hlid priv area read good saved room (placed.trans none_),
      fun u some_ => answers_xload hlid priv area read good saved room (placed.trans some_)⟩

end Sys2Proof.Machine
end

section
/-! Message steps: a follower that takes a forwarded word of a full buffer gets the word its bellwether kept (refutes O46). -/

open Sys2Proof

namespace Sys2Proof.Machine

/-- A word forwarded from address 0. -/
def plainWord : FwdWord := { instr := .brk 0, pc := 0, next := 4, at_ := 0 }

/-- Slot 0 of tile 0 as the bellwether that keeps a word since the buffer of its follower in slot 1 holds 16 (R127). -/
def fullBuffer : State :=
  { ((State.reset.updSlot 0 0 fun sl => { sl.setFlk 1 with st := .run, flock := some (0, 0), pend := some plainWord }).updSlot 0 1 fun sl =>
      { sl.setFlk 2 with st := .run, flock := some (0, 0), stream := List.replicate 16 plainWord }) with
    ev := { State.reset.ev with num := 0, a := 1 } }

/-- The follower takes its oldest word, and the kept one takes the room it leaves (R127). -/
theorem forwardedWord_fullBuffer : ∃ t, exec .forwardedWord fullBuffer = .next t ∧ (t.slot 0 1).stream.length = 16 :=
  ⟨_, rfl, by decide⟩

/-- Refutes O46: a follower whose buffer of 16 words is full takes the first, and its bellwether forwards the word it kept (R127), so 16 words
are left where the statement says that the other 15 are. -/
theorem not_messageSteps : ¬ Obligations.MessageSteps := by
  intro h
  obtain ⟨-, -, -, -, -, -, -, -, -, -, -, -, forwarded, -⟩ := h fullBuffer
  have stream : (fullBuffer.slot 0 1).stream = plainWord :: List.replicate 15 plainWord := by decide
  obtain ⟨t, run, -, -, -, rest, -⟩ := forwarded plainWord (List.replicate 15 plainWord) stream (by decide)
  obtain ⟨u, run', kept⟩ := forwardedWord_fullBuffer
  obtain rfl : t = u := by
    rw [run] at run'
    exact Host.Outcome.next.inj run'
  have left : (t.slot 0 1).stream.length = 15 := congrArg List.length rest
  omega

end Sys2Proof.Machine
end

section
/-! Hurdle steps: an arrival once drained, its count at the root, the end of a phase and the release at a tile (clauses of O45). -/

open Sys2Proof

namespace Sys2Proof.Machine

/-! ### A table entry after its update -/

theorem State.root_updRoot_same (s : State) (d : Nat) (f : Root → Root) : (s.updRoot d f).root d = f (s.root d) := tget_tset_same ..

theorem State.root_updRoot_of_ne (s : State) {d x : Nat} (h : x ≠ d) (f : Root → Root) : (s.updRoot d f).root x = s.root x :=
  tget_tset_ne _ _ _ h

/-- A change of a tile that leaves its slots alone changes no slot. -/
theorem State.slot_updTile_of_slots (s : State) {t : Nat} {f : Tile → Tile} (h : (f (s.tile t)).slots = (s.tile t).slots) (k u : Nat) :
    (s.updTile t f).slot k u = s.slot k u := by
  rw [State.slot, State.slot, State.tile_updTile]
  split
  · next same =>
    rw [same]
    exact Tile.slot_congr h u
  · rfl

/-! ### The release of a phase of additions (R219) -/

theorem eraseDups_of_forall_eq {l : List Nat} {a : Nat} (ne : l ≠ []) (same : ∀ x ∈ l, x = a) : l.eraseDups = [a] := by
  obtain ⟨x, r, rfl⟩ := List.exists_cons_of_ne_nil ne
  obtain rfl := same x List.mem_cons_self
  have rest : r.filter (fun b => !b == x) = [] := List.filter_eq_nil_iff.2 fun b hb => by simp [same b (List.mem_cons_of_mem x hb)]
  rw [List.eraseDups_cons, rest, List.eraseDups_nil]

theorem mkRelease_add {cs : List Contrib} (ne : cs ≠ []) (add : ∀ c ∈ cs, c.op = some 0) :
    (mkRelease cs).value = (cs.map Contrib.val).foldl (· + ·) 0 ∧ (mkRelease cs).mix = false ∧ (mkRelease cs).none_ = false ∧
      (mkRelease cs).op = 0 := by
  have ops : (cs.filterMap Contrib.op).eraseDups = [0] := by
    refine eraseDups_of_forall_eq (fun none_ => ?_) fun x hx => ?_
    · obtain ⟨c, hc⟩ := List.exists_mem_of_ne_nil cs ne
      exact nomatch (List.filterMap_eq_nil_iff.1 none_ c hc).symm.trans (add c hc)
    · obtain ⟨c, hc, hx⟩ := List.mem_filterMap.1 hx
      exact (Option.some.inj ((add c hc).symm.trans hx)).symm
  have vals : (cs.map fun c => if c.op.isSome then c.val else hurIdentity 0) = cs.map Contrib.val :=
    List.map_congr_left fun c hc => by rw [add c hc]; rfl
  rw [mkRelease, ops]
  exact ⟨congrArg (hurCombine 0) vals, rfl, rfl, rfl⟩

/-! ### HURDLE_ARRIVE (R218) -/

theorem State.settle_of_pend {s : State} {t u : Nat} (pend : (s.slot t u).pend = none) : s.settle t u = s := by
  rw [State.settle, pend]

section
variable {s : State} {dom abort : Nat} {op : Option Nat} {drop : Bool} {val : Word} (wait : (s.slot s.ev.num s.ev.a).wait = .arrive dom drop op val abort)
include wait

theorem exec_hurdleArrive : exec .hurdleArrive s = .next (
    if s.drained s.ev.num s.ev.a then
      (s.finishArrive s.ev.num s.ev.a (domKey dom) dom op val abort drop).settle s.ev.num s.ev.a
    else s) := by
  simp only [exec, execHurdleArrive, wait]

variable (drained : s.drained s.ev.num s.ev.a = true)
include drained

theorem answers_hurdleArrive (hpair : s.paired s.ev.num = false) (pend : (s.slot s.ev.num s.ev.a).pend = none)
    (arr : ((s.tile s.ev.num).hurd (domKey dom)).arr = false) (dropped : ((s.tile s.ev.num).hurd (domKey dom)).drop = false) :
    Answers (exec .hurdleArrive s) fun t =>
      Sent s t (.hurArrive dom (s.contribution s.ev.num op val abort drop)) ∧
      ((t.tile s.ev.num).hurd (domKey dom)).arr = true ∧ ((t.tile s.ev.num).hurd (domKey dom)).drop = drop ∧
      (s.slot s.ev.num s.ev.a).At (t.slot s.ev.num s.ev.a) ((s.slot s.ev.num s.ev.a).pc + 4) true ∧
      (t.slot s.ev.num s.ev.a).xr = (s.slot s.ev.num s.ev.a).xr ∧ t.mem = s.mem ∧
      ∀ k u, k ≠ s.ev.num ∨ u ≠ s.ev.a → t.slot k u = s.slot k u := by
  obtain ⟨top, f, n, c, msg, due, made⟩ := State.finishArrive_made s.ev.a dom op val abort drop hpair arr dropped
  let t := ((s.updTile s.ev.num (Tile.arriving (domKey dom) drop top)).updSlot s.ev.num s.ev.a fun sl => sl.complete (sl.pc + 4) true).sending f n c
  have slots (k u : Nat) : t.slot k u = if k = s.ev.num ∧ u = s.ev.a then
      (s.slot s.ev.num s.ev.a).complete ((s.slot s.ev.num s.ev.a).pc + 4) true else s.slot k u := by
    have kept := s.slot_updTile_of_slots (t := s.ev.num) (f := Tile.arriving (domKey dom) drop top) rfl
    refine (State.slot_updSlot ..).trans ?_
    rw [kept, kept]
  have own := (slots s.ev.num s.ev.a).trans (if_pos ⟨rfl, rfl⟩)
  have hurd : (t.tile s.ev.num).hurd (domKey dom) = { (s.tile s.ev.num).hurd (domKey dom) with arr := true, drop := drop } := by
    obtain ⟨-, same, -⟩ := (s.updTile s.ev.num (Tile.arriving (domKey dom) drop top)).onlySlot_updSlot s.ev.num s.ev.a fun sl =>
      sl.complete (sl.pc + 4) true
    have kept := congrArg (Tile.hurd · (domKey dom)) (same s.ev.num)
    refine Eq.trans kept ?_
    dsimp only
    rw [State.tile_updTile_same]
    exact (Tile.hurd_arriving ..).trans (if_pos rfl)
  refine ⟨t, ?_, ⟨f, rfl, msg, due⟩, by rw [hurd], by rw [hurd], ?_, ?_, rfl, fun k u other => (slots k u).trans (if_neg (by omega))⟩
  · rw [exec_hurdleArrive wait, if_pos drained, made]
    exact congrArg _ (State.settle_of_pend (by rw [own]; exact pend))
  · rw [own]
    exact Slot.at_complete ..
  · rw [own]
    rfl

theorem answers_hurdleArrive_over (late : ((s.tile s.ev.num).hurd (domKey dom)).arr = true ∨ ((s.tile s.ev.num).hurd (domKey dom)).drop = true)
    (flk : (s.slot s.ev.num s.ev.a).flk = 0) : Answers (exec .hurdleArrive s) fun t =>
      (t.slot s.ev.num s.ev.a).st = .park ∧ (t.slot s.ev.num s.ev.a).cause = 11 ∧
      (t.slot s.ev.num s.ev.a).pc = (s.slot s.ev.num s.ev.a).pc ∧ t.flight = s.flight ∧ t.mem = s.mem := by
  let i : TrapInfo := { cause := .hover, pc := (s.slot s.ev.num s.ev.a).pc, resume := (s.slot s.ev.num s.ev.a).pc, addr := 0,
                        detail := domDetail dom, mflags := 0 }
  obtain ⟨e, n, -, slots⟩ := State.slot_trapAt_level flk i (Nat.zero_lt_succ 255)
  have own := (slots s.ev.num s.ev.a).trans (if_pos ⟨rfl, rfl⟩)
  refine ⟨s.trapAt s.ev.num s.ev.a i, ?_, ?_, ?_, ?_, State.trapAt_flight flk i, s.trapAt_mem ..⟩
  · rw [exec_hurdleArrive wait, if_pos drained, State.finishArrive_over late]
    exact congrArg _ (State.settle_of_pend (by rw [own]; rfl))
  all_goals rw [own]; rfl

end

/-! ### HURDLE_ROOT_COUNT (R333) -/

/-- The root's count of a contribution that is not a counter's. -/
theorem State.root_rootCount {s : State} {c : Contrib} (d : Nat) (own : c.counter = none) :
    ((s.rootCount d c).root d).arrived = (s.root d).arrived ++ [c] := by
  rw [State.rootCount, State.root_updRoot_same, own]
  rfl

theorem answers_hurdleRootCount {s : State} {d : Nat} {c : Contrib} (kind : s.ev.a = 0) (arrived : s.arrived = some (.hurArrive d c))
    (own : c.counter = none) : Answers (exec .hurdleRootCount s) fun t =>
      (t.root d).arrived = (s.root d).arrived ++
        [if domIsEntry d = false ∧ 2 ≤ domLevel d ∧ s.isReady (29 + domLevel d) = false then { c with abort := 0xFF } else c] ∧
      (∀ x, x ≠ d → t.root x = s.root x) ∧ { t with roots := s.roots, flight := s.flight } = s ∧ t.flight = s.taken.flight := by
  have net : s.overNet d c = if domIsEntry d = false ∧ 2 ≤ domLevel d ∧ s.isReady (29 + domLevel d) = false then { c with abort := 0xFF } else c := by
    have far : (domIsEntry d || decide (domLevel d < 2) || s.isReady (29 + domLevel d)) = true ↔
        ¬ (domIsEntry d = false ∧ 2 ≤ domLevel d ∧ s.isReady (29 + domLevel d) = false) := by
      simp only [Bool.or_eq_true, decide_eq_true_eq, not_and_or, Bool.not_eq_false, Nat.not_le, or_assoc]
    rw [State.overNet, if_congr far rfl rfl, ite_not]
  have unowned : (s.overNet d c).counter = none := by
    rw [net]
    split <;> exact own
  refine ⟨s.taken.rootCount d (s.overNet d c), by simp only [exec, execHurdleRootCount, kind, arrived], ?_,
    fun x other => s.taken.root_updRoot_of_ne other _, rfl, rfl⟩
  rw [State.root_rootCount d unowned, net]
  rfl

theorem answers_hurdleRootCount_elsewhere {s : State} (kind : s.ev.a = 3) : Answers (exec .hurdleRootCount s) fun t =>
    (s.ev.b, s.ev.c) ∈ (t.root s.ev.num).elsewhere ∧ (∀ x, x ≠ s.ev.num → t.root x = s.root x) ∧ { t with roots := s.roots } = s := by
  refine ⟨_, by simp only [exec, execHurdleRootCount, kind]; rfl, ?_, fun x other => s.root_updRoot_of_ne other _, rfl⟩
  rw [State.root_updRoot_same]
  exact List.mem_append_right _ List.mem_cons_self

/-! ### Messages sent one after another -/

/-- From s to t a message for each of l has joined those in flight, as `ok` says of it, and nothing but messages has been sent. -/
def Delivers (ok : Nat → Flight → Prop) (s : State) (l : List Nat) (t : State) : Prop :=
  (∀ f ∈ s.flight, f ∈ t.flight) ∧ (∀ x ∈ l, ∃ f ∈ t.flight, ok x f) ∧ { t with flight := s.flight, next := s.next, ctr := s.ctr } = s

theorem Delivers.now {ok : Nat → Flight → Prop} {s t : State} {l : List Nat} (h : Delivers ok s l t) : t.now = s.now := by
  obtain ⟨-, -, same⟩ := h
  have now := congrArg State.now same
  exact now

theorem delivers_foldl {ok : Nat → Flight → Prop} {g : State → Nat → State} {n : Nat} (step : ∀ s x, s.now = n → Delivers ok s [x] (g s x)) :
    ∀ (l : List Nat) (s : State), s.now = n → Delivers ok s l (l.foldl g s)
  | [], s, _ => ⟨fun f hf => hf, fun x hx => (List.not_mem_nil hx).elim, rfl⟩
  | x :: l, s, h => by
    have first := step s x h
    obtain ⟨kept, sent, same⟩ := delivers_foldl step l (g s x) (first.now.trans h)
    obtain ⟨kept', sent', same'⟩ := first
    refine ⟨fun f hf => kept f (kept' f hf), fun y hy => ?_, ?_⟩
    · obtain rfl | hy := List.mem_cons.1 hy
      · obtain ⟨f, hf, is⟩ := sent' y List.mem_cons_self
        exact ⟨f, kept f hf, is⟩
      · exact sent y hy
    · exact (congrArg (fun t : State => { t with flight := s.flight, next := s.next, ctr := s.ctr }) same).trans same'

theorem delivers_sendAt {ok : Nat → Flight → Prop} {s : State} {due x : Nat} {m : Msg} (h : ∀ n, ok x ⟨n, due, m⟩) :
    Delivers ok s [x] (s.sendAt due m) := by
  refine ⟨fun f hf => List.mem_append_left _ hf, fun y hy => ?_, rfl⟩
  obtain rfl := List.mem_singleton.1 hy
  exact ⟨_, List.mem_append_right _ List.mem_cons_self, h _⟩

theorem delivers_send {ok : Nat → Flight → Prop} {s : State} {min x : Nat} {m : Msg} (h : ∀ n due, ok x ⟨n, due, m⟩) :
    Delivers ok s [x] (s.send min m) := by
  refine ⟨fun f hf => List.mem_append_left _ hf, fun y hy => ?_, rfl⟩
  obtain rfl := List.mem_singleton.1 hy
  exact ⟨_, List.mem_append_right _ List.mem_cons_self, h _ _⟩

/-! ### A phase completes (R332, R333) -/

theorem domIsJob_of_level {d : Nat} (near : domLevel d ≤ 1) : domIsJob d = false := by
  cases job : domIsJob d
  · rfl
  · rw [domLevel, job, if_pos rfl] at near
    omega

/-- Cycles from the end of a phase of level 0 or 1 to its tiles. -/
def nearDown (d : Nat) : Nat := if domLevel d = 0 then 6 else 48

theorem State.sendRelease_near (s : State) {d : Nat} (entry : domIsEntry d = false) (near : domLevel d ≤ 1) (ts : List Nat) (r : Release) :
    s.sendRelease d ts r = (ts.map s.copies).flatten.foldl (fun s t => s.sendAt (s.now + nearDown d) (.hurRelease d t r)) s := by
  have job := domIsJob_of_level near
  obtain level | level : domLevel d = 0 ∨ domLevel d = 1 := by omega
  · simp only [State.sendRelease, State.hurDown, nearDown, entry, job, level, Bool.false_eq_true, if_false, if_true]
  · simp only [State.sendRelease, State.hurDown, nearDown, entry, job, level, Bool.false_eq_true, if_false, if_true, Nat.one_ne_zero]

theorem State.delivers_sendRelease (s : State) {d : Nat} (entry : domIsEntry d = false) (near : domLevel d ≤ 1) (ts : List Nat) (r : Release) :
    Delivers (fun x f => f.due = s.now + nearDown d ∧ f.msg = .hurRelease d x r) s (ts.map s.copies).flatten (s.sendRelease d ts r) := by
  rw [State.sendRelease_near s entry near]
  refine delivers_foldl (n := s.now) (fun x _ same => ?_) _ s rfl
  rw [same]
  exact delivers_sendAt fun _ => ⟨rfl, rfl⟩

/-- The end of a phase that nothing holds and no error met: the root starts the next one, and the release leaves for every tile that arrived. -/
theorem State.completePhase_free {s : State} {d : Nat} (free : ∀ x, s.holdsRelease d x = false) (clear : (s.root d).err = false) :
    ∃ f : Root → Root, (∀ r, (f r).arrived = [] ∧ (f r).phase = r.phase + 1) ∧ s.completePhase d =
      (s.updRoot d f).sendRelease d ((s.root d).arrived.filterMap Contrib.tile) (mkRelease (s.root d).arrived) := by
  have none_ (l : List Nat) : l.filter (s.holdsRelease d) = [] := List.filter_eq_nil_iff.2 fun x _ => by simp [free x]
  have all (l : List Nat) : (l.filter fun t => !([] : List Nat).contains t) = l := List.filter_eq_self.2 fun _ _ => rfl
  simp only [State.completePhase, none_, all, clear, Bool.false_eq_true, if_false, Nat.max_zero, List.map_nil, List.flatten_nil, List.foldl_nil]
  exact ⟨_, fun r => ⟨rfl, rfl⟩, rfl⟩

theorem hurdleRootCount_waits {s : State} (kind : s.ev.a = 2) (short : s.phaseFull s.ev.num = false) : exec .hurdleRootCount s = .next s := by
  simp only [exec, execHurdleRootCount, kind, short, Bool.false_eq_true, if_false]

theorem answers_hurdleRootCount_completes {s : State} (kind : s.ev.a = 2) (full : s.phaseFull s.ev.num = true)
    (free : ∀ x, s.holdsRelease s.ev.num x = false) (entry : domIsEntry s.ev.num = false) (near : domLevel s.ev.num ≤ 1)
    (clear : (s.root s.ev.num).err = false) : Answers (exec .hurdleRootCount s) fun t =>
      (t.root s.ev.num).arrived = [] ∧ (t.root s.ev.num).phase = (s.root s.ev.num).phase + 1 ∧ (∀ x, x ≠ s.ev.num → t.root x = s.root x) ∧
      (∀ c ∈ (s.root s.ev.num).arrived, ∀ x, c.tile = some x → ∀ y ∈ s.copies x, ∃ f ∈ t.flight, f.due = s.now + nearDown s.ev.num ∧
        f.msg = .hurRelease s.ev.num y (mkRelease (s.root s.ev.num).arrived)) ∧
      t.tiles = s.tiles ∧ t.mem = s.mem := by
  obtain ⟨f, new, done⟩ := State.completePhase_free free clear
  obtain ⟨none_, phase⟩ := new (s.root s.ev.num)
  obtain ⟨-, sent, same⟩ := (s.updRoot s.ev.num f).delivers_sendRelease entry near ((s.root s.ev.num).arrived.filterMap Contrib.tile)
    (mkRelease (s.root s.ev.num).arrived)
  rw [← done] at sent same
  have root (x : Nat) : (s.completePhase s.ev.num).root x = (s.updRoot s.ev.num f).root x := by
    have roots := congrArg (State.root · x) same
    exact roots
  have tiles := congrArg State.tiles same
  have mem := congrArg State.mem same
  refine ⟨s.completePhase s.ev.num, by simp only [exec, execHurdleRootCount, kind, full, if_true], ?_, ?_, fun x other => ?_, ?_, tiles, mem⟩
  · rw [root, State.root_updRoot_same, none_]
  · rw [root, State.root_updRoot_same, phase]
  · rw [root, State.root_updRoot_of_ne _ other]
  · exact fun c hc x hx y hy => sent y (List.mem_flatten.2 ⟨_, List.mem_map.2 ⟨x, List.mem_filterMap.2 ⟨c, hc, hx⟩, rfl⟩, hy⟩)

end Sys2Proof.Machine
end

section
/-! Hurdle steps at a tile: the release, the end of a timetable, and the beats (clauses of O45). -/

open Sys2Proof

namespace Sys2Proof.Machine

/-! ### HURDLE_RELEASE (R220) -/

theorem State.updTile_congr (s : State) {t : Nat} {f g : Tile → Tile} (h : f (s.tile t) = g (s.tile t)) : s.updTile t f = s.updTile t g := by
  simp only [State.updTile, h]

/-- A state whose dies have more trap messages, and whose count of messages has moved on. -/
def State.noting (s : State) (dies : Tbl Die) (next : Nat) : State := { s with dies := dies, next := next }

/-- The latch of a hurdle after a release (R220). -/
def HurState.released (r : Release) (h : HurState) : HurState :=
  ⟨false, h.drop, (h.rels + 1) % 2 ^ 32, r.value, BitVec.ofNat 8 r.abort, r.op, r.mix, r.none_⟩

/-- A tile once the latch of a domain has taken a release. -/
def Tile.latched (d : Nat) (r : Release) (tl : Tile) : Tile := { tl with hur := tset tl.hur (domKey d) ((tl.hurd (domKey d)).released r) }

/-- A tile whose exchange phase of a level begins: its phase bit and its count of steps (R220). -/
def Tile.stepped (l : Nat) (tl : Tile) : Tile :=
  { tl with phase := tl.phase ||| BitVec.ofNat 4 (2 ^ l), steps := tset tl.steps l ((tl.stepCount l + 1) % 2 ^ 64) }

/-- A tile with its timetables replaced. -/
def Tile.withTt (tt : Tbl TtState) (tl : Tile) : Tile := { tl with tt := tt }

/-- A tile once a release of a domain has reached it, but for its timetables. -/
def Tile.released (d : Nat) (r : Release) (tl : Tile) : Tile :=
  if domIsEntry d then tl.latched d r else (tl.latched d r).stepped (domLevel d)

theorem State.startTimetable_eq (s : State) (t lvl : Nat) : ∃ tt dies next,
    s.startTimetable t lvl = (s.updTile t (Tile.withTt tt)).noting dies next := by
  unfold State.startTimetable
  dsimp only
  split
  · exact ⟨_, _, _, congrArg (fun x : State => x.tileMsg _ _ _ _ _) (s.updTile_congr rfl)⟩
  · exact ⟨_, s.dies, s.next, s.updTile_congr rfl⟩

theorem State.startTimetable_none (s : State) (x : Nat) (f : Tile → Tile) :
    s.updTile x f = ((s.updTile x f).updTile x (Tile.withTt (f (s.tile x)).tt)).noting s.dies s.next :=
  ((s.updTile_updTile x f _).trans (s.updTile_congr rfl)).symm

theorem State.releaseAt_entry (s : State) {d : Nat} (entry : domIsEntry d = true) (x : Nat) (r : Release) :
    s.releaseAt d x r = (s.updTile x (Tile.released d r)).event x 2 := by
  have start : s.updTile x (Tile.released d r) = s.updTile x (Tile.latched d r) := s.updTile_congr (by rw [Tile.released, entry]; rfl)
  simp only [State.releaseAt, entry, if_true, start]
  rfl

theorem State.releaseAt_level (s : State) {d : Nat} (entry : domIsEntry d = false) (x : Nat) (r : Release) : s.releaseAt d x r =
    (if domLevel d ≤ 1 then (s.updTile x (Tile.released d r)).startTimetable x (domLevel d) else s.updTile x (Tile.released d r)).event x 2 := by
  have start : s.updTile x (Tile.released d r) = (s.updTile x (Tile.latched d r)).updTile x (Tile.stepped (domLevel d)) :=
    ((s.updTile_updTile x (Tile.latched d r) (Tile.stepped (domLevel d))).trans
      (s.updTile_congr (by rw [Tile.released, entry]; rfl))).symm
  simp only [State.releaseAt, entry, start, Bool.false_eq_true, if_false]
  rfl

/-- A release at a tile: its latch and phase, its timetables, and event 2. -/
def State.withRelease (s : State) (d x : Nat) (r : Release) (tt : Tbl TtState) (dies : Tbl Die) (next : Nat) : State :=
  (((s.updTile x (Tile.released d r)).updTile x (Tile.withTt tt)).noting dies next).event x 2

theorem State.releaseAt_eq (s : State) (d x : Nat) (r : Release) : ∃ tt dies next, s.releaseAt d x r = s.withRelease d x r tt dies next := by
  have none_ := s.startTimetable_none x (Tile.released d r)
  cases entry : domIsEntry d
  · rw [State.releaseAt_level s entry]
    split
    · obtain ⟨tt, dies, next, started⟩ := (s.updTile x (Tile.released d r)).startTimetable_eq x (domLevel d)
      exact ⟨tt, dies, next, by rw [started]; rfl⟩
    · exact ⟨_, _, _, congrArg (State.event · x 2) none_⟩
  · exact ⟨_, _, _, (State.releaseAt_entry s entry x r).trans (congrArg (State.event · x 2) none_)⟩

theorem State.tile_withRelease (s : State) (d x : Nat) (r : Release) (tt : Tbl TtState) (dies : Tbl Die) (next k : Nat) :
    (s.withRelease d x r tt dies next).tile k = if k = x then (((s.tile x).released d r).withTt tt).event 2 else s.tile k := by
  let a := s.updTile x (Tile.released d r)
  have last : (s.withRelease d x r tt dies next).tile k = if k = x then ((a.updTile x (Tile.withTt tt)).tile x).event 2
      else (a.updTile x (Tile.withTt tt)).tile k := State.tile_updTile ..
  rw [last, State.tile_updTile_same, State.tile_updTile_same, State.tile_updTile]
  split
  · rfl
  · next other => exact (State.tile_updTile ..).trans (if_neg other)

theorem Tile.hurd_released (d : Nat) (r : Release) (tl : Tile) : (tl.released d r).hurd (domKey d) = (tl.hurd (domKey d)).released r := by
  have latch : (tl.latched d r).hurd (domKey d) = (tl.hurd (domKey d)).released r := tget_tset_same ..
  rw [Tile.released]
  split <;> exact latch

theorem Tile.slots_released (d : Nat) (r : Release) (tl : Tile) : (tl.released d r).slots = tl.slots := by
  rw [Tile.released]
  split <;> rfl

/-- A phase word with one bit set. -/
theorem getLsbD_setPhase (x : BitVec 4) (l : Nat) {n : Nat} (h : n < 4) : (x ||| BitVec.ofNat 4 (2 ^ l)).getLsbD n = (x.getLsbD n || decide (n = l)) := by
  rw [BitVec.getLsbD_or, BitVec.getLsbD_ofNat, Nat.testBit_two_pow]
  simp [h, eq_comm]

section
variable {d : Nat} (r : Release) (tl : Tile)

theorem Tile.released_level (level : domIsEntry d = false) : tl.released d r = (tl.latched d r).stepped (domLevel d) := by
  rw [Tile.released, level]
  rfl

theorem Tile.phaseBit_released (level : domIsEntry d = false) {n : Nat} (h : n < 4) :
    (tl.released d r).phaseBit n = (tl.phaseBit n || decide (n = domLevel d)) := by
  rw [Tile.released_level r tl level]
  exact getLsbD_setPhase tl.phase (domLevel d) h

theorem Tile.stepCount_released (level : domIsEntry d = false) :
    (tl.released d r).stepCount (domLevel d) = (tl.stepCount (domLevel d) + 1) % 2 ^ 64 := by
  rw [Tile.released_level r tl level]
  exact tget_tset_same ..

theorem Tile.phase_released (entry : domIsEntry d = true) : (tl.released d r).phase = tl.phase := by
  rw [Tile.released, if_pos entry]
  rfl

end

section
variable {s : State} {d x : Nat} {r : Release} (arrived : s.arrived = some (.hurRelease d x r))
include arrived

theorem hurdleRelease_drops (left : (s.domLaunches d).any (s.holdsLaunch x) = false) : exec .hurdleRelease s = .next s.taken := by
  simp only [exec, execHurdleRelease, arrived, left, Bool.false_eq_true, if_false]

theorem answers_hurdleRelease (held : (s.domLaunches d).any (s.holdsLaunch x) = true) : Answers (exec .hurdleRelease s) fun t =>
    (t.tile x).hurd (domKey d) = ((s.tile x).hurd (domKey d)).released r ∧
    (domIsEntry d = false → (∀ n < 4, (t.tile x).phaseBit n = ((s.tile x).phaseBit n || decide (n = domLevel d))) ∧
      (t.tile x).stepCount (domLevel d) = ((s.tile x).stepCount (domLevel d) + 1) % 2 ^ 64) ∧
    (domIsEntry d = true → (t.tile x).phase = (s.tile x).phase) ∧
    (∀ u, (s.slot x u).st ≠ .free → (s.slot x u).st ≠ .out → (t.slot x u).evt.getLsbD 2 = true) ∧
    (∀ k, k ≠ x → t.tile k = s.tile k) ∧ t.mem = s.mem ∧ t.flight = s.taken.flight := by
  obtain ⟨tt, dies, next, released⟩ := s.taken.releaseAt_eq d x r
  have run : exec .hurdleRelease s = .next (s.taken.releaseAt d x r) := by
    simp only [exec, execHurdleRelease, arrived, held, if_true]
  rw [released] at run
  have tile := (s.taken.tile_withRelease d x r tt dies next x).trans (if_pos rfl)
  refine ⟨s.taken.withRelease d x r tt dies next, run, ?_, fun level => ?_, fun entry => ?_, fun u free out => ?_,
    fun k other => (s.taken.tile_withRelease d x r tt dies next k).trans (if_neg other), rfl, rfl⟩
  · rw [tile]
    exact Tile.hurd_released d r (s.tile x)
  · rw [tile]
    exact ⟨fun n h => Tile.phaseBit_released r (s.tile x) level h, Tile.stepCount_released r (s.tile x) level⟩
  · rw [tile]
    exact Tile.phase_released r (s.tile x) entry
  · have slot : (s.taken.withRelease d x r tt dies next).slot x u = (s.slot x u).event 2 := by
      rw [State.slot, tile, Tile.slot_event]
      exact congrArg (Slot.event · 2) (Tile.slot_congr (Tile.slots_released ..) u)
    rw [slot, Slot.event_evt free out]
    simp

end

/-! ### TIMETABLE_END (R336, R29) -/

/-- A tile whose timetable of a level has ended, and with it the exchange phase. -/
def Tile.endTimetable (l : Nat) (tl : Tile) : Tile :=
  { tl with phase := tl.phase &&& ~~~(BitVec.ofNat 4 (2 ^ l)), tt := tset tl.tt l { tl.tts l with run := false } }

theorem Tile.tts_endTimetable (l : Nat) (tl : Tile) : (tl.endTimetable l).tts l = { tl.tts l with run := false } := tget_tset_same ..

theorem timetableEnd_waits {s : State} (due : s.ttDue s.ev.num s.ev.a = false) : exec .timetableEnd s = .next s := by
  simp only [exec, execTimetableEnd, due, Bool.false_eq_true, if_false]

theorem answers_timetableEnd {s : State} (due : s.ttDue s.ev.num s.ev.a = true) : Answers (exec .timetableEnd s) fun t =>
    (∀ n, (t.tile s.ev.num).phaseBit n = ((s.tile s.ev.num).phaseBit n && decide (n ≠ s.ev.a))) ∧
    ((t.tile s.ev.num).tts s.ev.a).run = false ∧ (t.tile s.ev.num).slots = (s.tile s.ev.num).slots ∧ OnlyTile s t s.ev.num := by
  refine ⟨s.updTile s.ev.num (Tile.endTimetable s.ev.a), by simp only [exec, execTimetableEnd, due, if_true]; rfl, fun n => ?_, ?_, ?_,
    s.onlyTile_updTile ..⟩
  · rw [State.tile_updTile_same]
    exact getLsbD_clearPhase ..
  · rw [State.tile_updTile_same, Tile.tts_endTimetable]
  · rw [State.tile_updTile_same]
    rfl

/-! ### BEAT_SEND (R335, R338) -/

/-- A tile whose timetable of a level has injected its beats up to a cycle. -/
def Tile.sentUpTo (now l : Nat) (tl : Tile) : Tile := { tl with tt := tset tl.tt l { tl.tts l with sent := now - (tl.tts l).t0 + 1 } }

theorem Tile.tts_sentUpTo (now l : Nat) (tl : Tile) :
    (tl.sentUpTo now l).tts l = { tl.tts l with sent := now - (tl.tts l).t0 + 1 } := tget_tset_same ..

/-- The slice offset of a send entry's beat of this cycle. -/
def State.beatOfs (s : State) (t lvl w : Nat) (e : TtEntry) : Nat := e.ofs + w * (s.now - ((s.tile t).tts lvl).t0 - e.start)

/-- The tile a send entry names. -/
def State.beatDest (s : State) (t : Nat) (e : TtEntry) : Nat := s.copyTile t (tDie t) (e.dest / 256) (e.dest % 256)

/-- The beat of a slice with storage and without poison leaves with the slice's bytes. -/
theorem State.inject_clean {s : State} {t lvl w : Nat} {e : TtEntry} (usable : (s.tile t).unusable = false)
    (clean : poisonIn s.poison (s.sliceKey t (s.beatOfs t lvl w e)) w = none) : s.inject t lvl w e =
      s.sendAt (s.now + hops t (s.beatDest t e) + 2)
        (.beat lvl t (s.beatDest t e) w (readMem s.mem (s.sliceKey t (s.beatOfs t lvl w e)) w) s.now false) := by
  have whole : (s.placeDead (.slice t (s.beatOfs t lvl w e)) || (poisonIn s.poison (s.sliceKey t (s.beatOfs t lvl w e)) w).isSome) = false := by
    rw [clean, State.placeDead, usable]
    rfl
  rw [State.beatOfs] at whole
  simp only [State.inject, whole, Bool.false_eq_true, if_false]
  rfl

/-- The bytes of a beat of a tile's launch. -/
def State.beatWidth (s : State) (t : Nat) : Nat := (s.launch (s.tile t).lid).beatWidth

theorem answers_beatSend {s : State} {e : TtEntry} (now : s.sendsNow s.ev.num s.ev.a = [e]) (usable : (s.tile s.ev.num).unusable = false)
    (clean : poisonIn s.poison (s.sliceKey s.ev.num (s.beatOfs s.ev.num s.ev.a (s.beatWidth s.ev.num) e))
      (s.beatWidth s.ev.num) = none) : Answers (exec .beatSend s) fun t =>
    (∃ f, t.flight = s.flight ++ [f] ∧ f.due = s.now + hops s.ev.num (s.beatDest s.ev.num e) + 2 ∧
      f.msg = .beat s.ev.a s.ev.num (s.beatDest s.ev.num e) (s.beatWidth s.ev.num)
        (readMem s.mem (s.sliceKey s.ev.num (s.beatOfs s.ev.num s.ev.a (s.beatWidth s.ev.num) e))
          (s.beatWidth s.ev.num)) s.now false) ∧
    ((t.tile s.ev.num).tts s.ev.a).sent = s.now - ((s.tile s.ev.num).tts s.ev.a).t0 + 1 ∧ t.mem = s.mem ∧ ∀ k u, t.slot k u = s.slot k u := by
  let b := s.updTile s.ev.num (Tile.sentUpTo s.now s.ev.a)
  have tile : b.tile s.ev.num = (s.tile s.ev.num).sentUpTo s.now s.ev.a := s.tile_updTile_same ..
  have ofs : b.beatOfs s.ev.num s.ev.a (s.beatWidth s.ev.num) e = s.beatOfs s.ev.num s.ev.a (s.beatWidth s.ev.num) e := by
    rw [State.beatOfs, tile, Tile.tts_sentUpTo]
    rfl
  have dest : b.beatDest s.ev.num e = s.beatDest s.ev.num e := by
    rw [State.beatDest, State.copyTile, tile]
    rfl
  have run : exec .beatSend s = .next (b.inject s.ev.num s.ev.a (s.beatWidth s.ev.num) e) := by
    simp only [exec, execBeatSend, now, List.foldl_cons, List.foldl_nil]
    rfl
  rw [State.inject_clean (by rw [tile]; exact usable) (by rw [ofs]; exact clean), ofs, dest] at run
  refine ⟨_, run, ⟨_, rfl, rfl, rfl⟩, ?_, rfl, ?_⟩
  · exact (congrArg (fun tl : Tile => (tl.tts s.ev.a).sent) tile).trans (congrArg TtState.sent (Tile.tts_sentUpTo ..))
  · exact s.slot_updTile_of_slots rfl

/-! ### BEAT_RECEIVE (R338, R371) -/

/-- The receive window of a tile's level that holds this cycle. -/
def State.beatWindow (s : State) (dst lvl : Nat) : Option TtEntry :=
  (s.timetable dst lvl (if ((s.tile dst).tts lvl).run then ((s.tile dst).tts lvl).cur else 255)).find? fun e =>
    !e.send && decide (e.start ≤ s.now - ((s.tile dst).tts lvl).t0 ∧ s.now - ((s.tile dst).tts lvl).t0 ≤ e.stop)

/-- A marked range of bytes holds poison. -/
theorem poisonIn_markPoison (p : List Nat) (k : Nat) {n : Nat} (h : 0 < n) : (poisonIn (markPoison p k n) k n).isSome = true := by
  have marked : k / 16 ∈ markPoison p k n := by
    have first : 0 < (k + n - 1) / 16 + 1 - k / 16 := by omega
    refine List.mem_append_right _ ?_
    rw [if_neg (by omega)]
    exact List.mem_map.2 ⟨0, List.mem_range.2 first, Nat.zero_add _⟩
  have found : k / 16 ∈ (markPoison p k n).filter fun g => decide (k / 16 ≤ g ∧ g * 16 < k + n) :=
    List.mem_filter.2 ⟨marked, decide_eq_true ⟨Nat.le_refl _, by omega⟩⟩
  rw [poisonIn, List.isSome_head?]
  exact List.ne_nil_of_mem found

/-- A beat written to a slice, which poisons what it touches when it has an error. -/
def State.beatWrite (s : State) (dst ofs w data : Nat) (bad : Bool) : State :=
  if bad then { s.sliceStore dst ofs w data with poison := markPoison (s.sliceStore dst ofs w data).poison (s.sliceKey dst ofs) w }
  else s.sliceStore dst ofs w data

theorem State.beatWrite_eq (s : State) (dst ofs w data : Nat) (bad : Bool) :
    (s.beatWrite dst ofs w data bad).mem = writeMem s.mem (s.sliceKey dst ofs) w data ∧ (s.beatWrite dst ofs w data bad).tiles = s.tiles := by
  unfold State.beatWrite
  split <;> exact ⟨rfl, rfl⟩

section
variable {s : State} {lvl src dst w data x : Nat} {bad : Bool} (arrived : s.arrived = some (.beat lvl src dst w data x bad))
include arrived

theorem answers_beatReceive_late (none_ : s.beatWindow dst lvl = none) : Answers (exec .beatReceive s) fun t =>
    (t.tile dst).sel.sldr = min ((s.tile dst).sel.sldr + 1) (2 ^ 32 - 1) ∧ t.mem = s.mem ∧ ∀ k u, t.slot k u = s.slot k u := by
  have run : exec .beatReceive s = .next (s.taken.updTile dst Tile.discardBeat) := by
    have none' : s.taken.beatWindow dst lvl = none := none_
    rw [State.beatWindow] at none'
    simp only [exec, execBeatReceive, arrived, none']
  refine ⟨_, run, ?_, rfl, s.taken.slot_updTile_of_slots rfl⟩
  rw [State.tile_updTile_same]
  rfl

variable {e : TtEntry} (window : s.beatWindow dst lvl = some e) (usable : (s.tile dst).unusable = false)
  (whole : bad = true ∨ partialPoison s.poison (s.sliceKey dst (s.beatOfs dst lvl w e)) w = none)
include window usable whole

theorem exec_beatReceive : exec .beatReceive s = .next (s.taken.beatWrite dst (s.beatOfs dst lvl w e) w data bad) := by
  have window' : s.taken.beatWindow dst lvl = some e := window
  have usable' : (s.taken.tile dst).unusable = false := usable
  have clean : (!bad && (partialPoison s.taken.poison (s.taken.sliceKey dst (s.taken.beatOfs dst lvl w e)) w).isSome) = false := by
    obtain rfl | none_ := whole
    · rfl
    · exact (Bool.and_eq_false_iff).2 (.inr (congrArg Option.isSome none_))
  rw [State.beatWindow] at window'
  rw [State.beatOfs] at clean
  simp only [exec, execBeatReceive, arrived, window', State.placeDead, usable', clean, Bool.or_self, Bool.false_eq_true, if_false]
  rfl

theorem answers_beatReceive : Answers (exec .beatReceive s) fun t =>
    readMem t.mem (s.sliceKey dst (s.beatOfs dst lvl w e)) w = data % 256 ^ w ∧
    (∀ b, b < s.sliceKey dst (s.beatOfs dst lvl w e) ∨ s.sliceKey dst (s.beatOfs dst lvl w e) + w ≤ b → readByte t.mem b = readByte s.mem b) ∧
    t.tiles = s.tiles ∧ (bad = true → 0 < w → (poisonIn t.poison (s.sliceKey dst (s.beatOfs dst lvl w e)) w).isSome = true) := by
  obtain ⟨mem, tiles⟩ := s.taken.beatWrite_eq dst (s.beatOfs dst lvl w e) w data bad
  refine ⟨_, exec_beatReceive arrived window usable whole, ?_, fun b away => ?_, tiles, ?_⟩
  · rw [mem]
    exact readMem_writeMem ..
  · rw [mem]
    exact readByte_writeMem_out _ _ _ _ _ away
  · rintro rfl some_
    exact poisonIn_markPoison _ _ some_

end

end Sys2Proof.Machine
end

section
/-! Tree steps: a term, its round, the result at a tile and its extraction (clauses of O45). -/

open Sys2Proof

namespace Sys2Proof.Machine

/-! ### TREE_INJECT (R345, R346) -/

/-- The tile is a member of the domain a descriptor names. -/
def State.treeMember (s : State) (t : Nat) (d : Word) : Bool :=
  if tdDom d then s.entryHas t (tdEntry d) else nb (s.launch (s.tile t).lid).levels (tdLevel d)

/-- The domain a descriptor names at a tile. -/
def State.treeDom (s : State) (t : Nat) (d : Word) : Nat :=
  if tdDom d then entryDom (s.launch (s.tile t).lid).part (tdEntry d) else s.domOf t (tdLevel d)

/-- A tile with one more domain busy. -/
def Tile.injecting (k : Nat) (tl : Tile) : Tile := { tl with busy := tl.busy ++ [k] }

section
variable {s : State} {t : Nat} {v d : Word} (member : s.treeMember t d = true) (legal : treeIll d = false)
include member legal

theorem State.treeInject_eq : s.treeInject t v d =
    if (s.tile t).busy.contains (tdKey d) || s.twinFull t then .wait
    else .ok ((s.updTile t (Tile.injecting (tdKey d))).sendOut t ((s.updTile t (Tile.injecting (tdKey d))).treeUp (s.treeDom t d))
      [4, s.treeDom t d, v.toNat, d.toNat]
      (.treeTerm (s.treeDom t d) ((s.updTile t (Tile.injecting (tdKey d))).seenTile t) v d)) := by
  have named : (if tdDom d then !s.entryHas t (tdEntry d) else !nb (s.launch (s.tile t).lid).levels (tdLevel d)) = false := by
    cases dom : tdDom d <;> simpa [State.treeMember, dom] using member
  simp only [State.treeInject, named, legal, Bool.false_eq_true, if_false]
  rfl

end

section
variable {s : State} (member : s.treeMember s.ev.num (nw s.ev.b) = true) (legal : treeIll (nw s.ev.b) = false)
include member legal

theorem treeInject_waits (busy : tdKey (nw s.ev.b) ∈ (s.tile s.ev.num).busy) : exec .treeInject s = .next s := by
  have full : ((s.tile s.ev.num).busy.contains (tdKey (nw s.ev.b)) || s.twinFull s.ev.num) = true := by
    rw [List.contains_iff_mem.2 busy]
    rfl
  simp only [exec, execTreeInject, State.treeInject_eq member legal, full, if_true]

theorem answers_treeInject (hpair : s.paired s.ev.num = false) (free : tdKey (nw s.ev.b) ∉ (s.tile s.ev.num).busy) : Answers (exec .treeInject s) fun t =>
    Sent s t (.treeTerm (s.treeDom s.ev.num (nw s.ev.b)) (s.seenTile s.ev.num) (nw s.ev.a) (nw s.ev.b)) ∧
    (∀ n, n ∈ (t.tile s.ev.num).busy ↔ n ∈ (s.tile s.ev.num).busy ∨ n = tdKey (nw s.ev.b)) ∧ t.mem = s.mem ∧
    ∀ k u, t.slot k u = s.slot k u := by
  let b := s.updTile s.ev.num (Tile.injecting (tdKey (nw s.ev.b)))
  have room : ((s.tile s.ev.num).busy.contains (tdKey (nw s.ev.b)) || s.twinFull s.ev.num) = false := by
    rw [State.twinFull_of_not_paired hpair, Bool.or_false]
    simpa using free
  have pair : b.paired s.ev.num = false := (s.paired_updTile_same (f := Tile.injecting (tdKey (nw s.ev.b))) rfl rfl).trans hpair
  have seen : b.seenTile s.ev.num = s.seenTile s.ev.num := s.seenTile_updTile_same (f := Tile.injecting (tdKey (nw s.ev.b))) rfl rfl
  have tile : b.tile s.ev.num = (s.tile s.ev.num).injecting (tdKey (nw s.ev.b)) := s.tile_updTile_same ..
  refine ⟨b.send (b.treeUp (s.treeDom s.ev.num (nw s.ev.b)))
    (.treeTerm (s.treeDom s.ev.num (nw s.ev.b)) (s.seenTile s.ev.num) (nw s.ev.a) (nw s.ev.b)), ?_, b.sent_send .., fun n => ?_, rfl,
    s.slot_updTile_of_slots rfl⟩
  · simp only [exec, execTreeInject, State.treeInject_eq member legal, room, Bool.false_eq_true, if_false]
    rw [State.sendOut_unpaired pair, ← seen]
    rfl
  · have busy : (b.tile s.ev.num).busy = (s.tile s.ev.num).busy ++ [tdKey (nw s.ev.b)] := congrArg Tile.busy tile
    refine (iff_of_eq (congrArg (n ∈ ·) busy)).trans ?_
    rw [List.mem_append, List.mem_singleton]

end

/-! ### TREE_ROUND_COMPLETE (R347) -/

theorem State.round_updRound_same (s : State) (d : Nat) (f : Round → Round) : (s.updRound d f).round d = f (s.round d) := tget_tset_same ..

theorem State.round_updRound_of_ne (s : State) {d x : Nat} (h : x ≠ d) (f : Round → Round) : (s.updRound d f).round x = s.round x :=
  tget_tset_ne _ _ _ h

theorem answers_treeRoundComplete_term {s : State} {d x : Nat} {v desc : Word} (kind : s.ev.a = 0)
    (arrived : s.arrived = some (.treeTerm d x v desc)) : Answers (exec .treeRoundComplete s) fun t =>
      (t.round d).terms = (s.round d).terms ++ [(x + 1, v, desc)] ∧ (t.round d).lost = ((s.round d).lost || !s.isReady 33) ∧
      (∀ y, y ≠ d → t.round y = s.round y) ∧ { t with rounds := s.rounds, flight := s.flight } = s ∧ t.flight = s.taken.flight := by
  refine ⟨_, by simp only [exec, execTreeRoundComplete, kind, arrived]; rfl, ?_, ?_, fun y other => s.taken.round_updRound_of_ne other _, rfl, rfl⟩
  all_goals
    rw [State.round_updRound_same]
    rfl

theorem treeRoundComplete_waits {s : State} (kind : 2 ≤ s.ev.a) (short : s.roundFull s.ev.num = false) :
    exec .treeRoundComplete s = .next s := by
  obtain ⟨n, kind⟩ := Nat.exists_eq_add_of_le' kind
  simp only [exec, execTreeRoundComplete, kind, short, Bool.false_eq_true, if_false]

/-- The next round of a domain. -/
def Round.next (r : Round) : Round := { r with num := (r.num + 1) % 2 ^ 32, terms := [], lost := false, told := [] }

theorem State.delivers_completeRound (s : State) (d : Nat) : Delivers
    (fun x f => f.msg = .treeResult d x (roundResult (s.round d)).1 (nw ((roundResult (s.round d)).2 + ((s.round d).num + 1) % 2 ^ 32 * 2 ^ 32)))
    (s.updRound d Round.next) ((s.treeMembers d).map s.copies).flatten (s.completeRound d) :=
  delivers_foldl (n := s.now) (fun _ _ _ => delivers_send fun _ _ => rfl) _ _ rfl

theorem answers_treeRoundComplete {s : State} (kind : 2 ≤ s.ev.a) (full : s.roundFull s.ev.num = true) :
    Answers (exec .treeRoundComplete s) fun t =>
      (t.round s.ev.num).terms = [] ∧ (t.round s.ev.num).num = ((s.round s.ev.num).num + 1) % 2 ^ 32 ∧
      (∀ x ∈ s.treeMembers s.ev.num, ∀ y ∈ s.copies x, ∃ f ∈ t.flight, f.msg = .treeResult s.ev.num y (roundResult (s.round s.ev.num)).1
        (nw ((roundResult (s.round s.ev.num)).2 + ((s.round s.ev.num).num + 1) % 2 ^ 32 * 2 ^ 32))) ∧
      t.tiles = s.tiles ∧ t.mem = s.mem := by
  obtain ⟨n, kind⟩ := Nat.exists_eq_add_of_le' kind
  obtain ⟨-, sent, same⟩ := s.delivers_completeRound s.ev.num
  have rounds := congrArg (State.round · s.ev.num) same
  have round : (s.completeRound s.ev.num).round s.ev.num = (s.round s.ev.num).next :=
    Eq.trans rounds (State.round_updRound_same ..)
  have tiles := congrArg State.tiles same
  have mem := congrArg State.mem same
  refine ⟨s.completeRound s.ev.num, by simp only [exec, execTreeRoundComplete, kind, full, if_true], by rw [round]; rfl, by rw [round]; rfl,
    fun x hx y hy => sent y (List.mem_flatten.2 ⟨_, List.mem_map.2 ⟨x, hx, rfl⟩, hy⟩), tiles, mem⟩

/-! ### TREE_RESULT_PLACE (R347) -/

/-- A tile with one more result of a round. -/
def Tile.placing (x : Word × Word) (tl : Tile) : Tile := { tl with xq := tl.xq ++ [x] }

section
variable {s : State} {d x : Nat} {v st : Word} (arrived : s.arrived = some (.treeResult d x v st))
include arrived

theorem treeResultPlace_drops (left : (s.domLaunches d).any (s.holdsLaunch x) = false) : exec .treeResultPlace s = .next s.taken := by
  simp only [exec, execTreeResultPlace, arrived, left, Bool.false_eq_true, if_false]

theorem answers_treeResultPlace (held : (s.domLaunches d).any (s.holdsLaunch x) = true) : Answers (exec .treeResultPlace s) fun t =>
    (t.tile x).xq = (s.tile x).xq ++ [(v, st)] ∧ (t.tile x).slots = (s.tile x).slots ∧ OnlyTile s.taken t x := by
  refine ⟨s.taken.updTile x (Tile.placing (v, st)), by simp only [exec, execTreeResultPlace, arrived, held, if_true]; rfl, ?_, ?_,
    s.taken.onlyTile_updTile ..⟩
  all_goals
    rw [State.tile_updTile_same]
    rfl

end

/-! ### TREE_EXTRACT (R348) -/

/-- A tile whose oldest result has been taken, and so its domain is free (R345). -/
def Tile.extracted (k : Nat) (rest : List (Word × Word)) (tl : Tile) : Tile := { tl with xq := rest, busy := tl.busy.filter (· != k) }

theorem treeExtract_waits {s : State} (none_ : (s.tile s.ev.num).xq = []) : exec .treeExtract s = .next s := by
  simp only [exec, execTreeExtract, State.treeExtract, none_]

theorem answers_treeExtract {s : State} {v st : Word} {rest : List (Word × Word)} (oldest : (s.tile s.ev.num).xq = (v, st) :: rest) :
    Answers (exec .treeExtract s) fun t => (t.tile s.ev.num).xq = rest ∧
      (∀ n, n ∈ (t.tile s.ev.num).busy ↔ n ∈ (s.tile s.ev.num).busy ∧ n ≠ tdKey st) ∧ (t.tile s.ev.num).slots = (s.tile s.ev.num).slots ∧
      OnlyTile s t s.ev.num := by
  refine ⟨s.updTile s.ev.num (Tile.extracted (tdKey st) rest), by simp only [exec, execTreeExtract, State.treeExtract, oldest]; rfl, ?_,
    fun n => ?_, ?_, s.onlyTile_updTile ..⟩
  all_goals rw [State.tile_updTile_same]
  · rfl
  · simp [Tile.extracted]
  · rfl

end Sys2Proof.Machine
end

section
/-! Watchdog steps: the report of a tile or a phase over TIME, and O45 from the clauses of its steps. -/

open Sys2Proof

namespace Sys2Proof.Machine

/-! ### The report (R350, R361, R362) -/

/-- The fields of a message that names no thread: its code, its tile, ADDR and DETAIL. -/
theorem ef_trapEntry_noThread {code row col : Nat} (hc : code < 256) (hrow : row < 256) (hcol : col < 256) (slot die : Nat) (pc addr : Word)
    (tag lid detail : Nat) :
    let e := trapEntry code 1 row col slot die pc addr tag lid detail
    ef e 2 1 = code ∧ ef e 4 1 = row ∧ ef e 5 1 = col ∧ ef e 16 8 = addr.toNat ∧ ef e 28 4 = detail % 2 ^ 32 := by
  have hpc := pc.isLt
  have haddr := addr.isLt
  simp only [ef, nf, trapEntry, BitVec.toNat_ofNat]
  omega

theorem State.trq_queueMsg {s : State} {d : Nat} (room : (s.die d).trq.length < 64) (dest : Nat) (e : Entry) :
    ((s.queueMsg d dest e).die d).trq = (s.die d).trq ++ [(s.next, dest, e)] := by
  have die : (s.queueMsg d dest e).die d = { s.die d with trq := (s.die d).trq ++ [(s.next, dest, e)] } :=
    (tget_tset_same ..).trans (if_pos room)
  rw [die]

theorem watchdogStall_waits {s : State} (kind : s.ev.a = 2) (moves : s.tileStalls s.ev.num (s.tile s.ev.num) = false) :
    exec .watchdogStall s = .next s := by
  simp only [exec, execWatchdogStall, kind, moves, Bool.not_false, if_true]

/-- A tile whose stall has been reported. -/
def Tile.told (tl : Tile) : Tile := { tl with stallTold := true }

theorem answers_watchdogStall_tile {s : State} (kind : s.ev.a = 2) (stalls : s.tileStalls s.ev.num (s.tile s.ev.num) = true)
    (room : (s.die s.ev.b).trq.length < 64) : Answers (exec .watchdogStall s) fun t =>
      (t.tile s.ev.num).stallTold = true ∧ t.mem = s.mem ∧ (∀ k u, t.slot k u = s.slot k u) ∧
      ∃ e, (t.die s.ev.b).trq = (s.die s.ev.b).trq ++ [(s.next, 16 + (s.launch (s.tile s.ev.num).lid).part, e)] ∧ ef e 2 1 = 14 ∧
        ef e 4 1 = tRow s.ev.num ∧ ef e 5 1 = tCol s.ev.num ∧ ef e 28 4 = 2 ^ 11 := by
  let b := s.updTile s.ev.num Tile.told
  let e := trapEntry Cause.stall.code 1 (tRow s.ev.num) (tCol s.ev.num) 0 (b.logDie s.ev.b) 0 0 0 (s.tile s.ev.num).lid (2 ^ 11)
  have hrow : tRow s.ev.num < 128 := Nat.mod_lt _ (by decide)
  have hcol : tCol s.ev.num < 160 := Nat.mod_lt _ (by decide)
  obtain ⟨code, row, col, -, detail⟩ := ef_trapEntry_noThread (code := Cause.stall.code) (by decide) (row := tRow s.ev.num) (by omega)
    (col := tCol s.ev.num) (by omega) 0 (b.logDie s.ev.b) 0 0 0 (s.tile s.ev.num).lid (2 ^ 11)
  refine ⟨b.queueMsg s.ev.b (16 + (s.launch (s.tile s.ev.num).lid).part) e, ?_, ?_, rfl, s.slot_updTile_of_slots rfl, e,
    State.trq_queueMsg room .., code, row, col, detail⟩
  · simp only [exec, execWatchdogStall, kind, stalls, Bool.not_true, Bool.false_eq_true, if_false]
    rfl
  · exact congrArg Tile.stallTold (s.tile_updTile_same ..)

/-- The message of a stalled domain joins its die's queue; its ADDR is the number of the phase or round. -/
theorem State.trq_stallMsg {s : State} {d : Nat} (room : (s.die d).trq.length < 64) (x addr missing : Nat) :
    ∃ q, ((s.stallMsg x d addr missing).die d).trq = (s.die d).trq ++ [q] ∧ ef q.2.2 2 1 = 14 ∧ ef q.2.2 16 8 = addr % 2 ^ 64 := by
  have low (v lo : Nat) : nf v lo 8 < 256 := Nat.mod_lt _ (by decide)
  obtain ⟨code, -, -, num, -⟩ := ef_trapEntry_noThread (code := Cause.stall.code) (by decide) (low (Config.noTile s.ctr).toNat 0)
    (low (Config.noTile s.ctr).toNat 8) 0 (s.logDie d) 0 (nw addr) 0 (s.domLaunch x) (domDetail x + min missing 65535 * 2 ^ 16)
  exact ⟨_, State.trq_queueMsg (s := { s with ctr := s.ctr + 1 }) room .., code, num.trans (BitVec.toNat_ofNat ..)⟩

/-- A root that has reported its stall to a die. -/
def Root.telling (d : Nat) (r : Root) : Root := { r with told := d :: r.told }

theorem answers_watchdogStall_phase {s : State} (kind : s.ev.a = 0) (stalls : s.stallPhase s.ev.num = some s.ev.b)
    (room : (s.die s.ev.b).trq.length < 64) : Answers (exec .watchdogStall s) fun t =>
      s.ev.b ∈ (t.root s.ev.num).told ∧ t.mem = s.mem ∧ t.tiles = s.tiles ∧
      ∃ q e, (t.die s.ev.b).trq = (s.die s.ev.b).trq ++ [q] ∧ q.2.2 = e ∧ ef e 2 1 = 14 ∧
        ef e 16 8 = ((s.root s.ev.num).phase + 1) % 2 ^ 64 := by
  let b := s.updRoot s.ev.num (Root.telling s.ev.b)
  obtain ⟨q, trq, code, num⟩ := State.trq_stallMsg (s := b) room s.ev.num ((s.root s.ev.num).phase + 1)
    (s.expected s.ev.num - (s.root s.ev.num).arrived.length)
  refine ⟨b.stallMsg s.ev.num s.ev.b ((s.root s.ev.num).phase + 1) (s.expected s.ev.num - (s.root s.ev.num).arrived.length), ?_, ?_, rfl, rfl,
    q, q.2.2, trq, rfl, code, num⟩
  · simp only [exec, execWatchdogStall, kind, stalls, ne_eq, not_true_eq_false, if_false]
    rfl
  · have root : b.root s.ev.num = (s.root s.ev.num).telling s.ev.b := s.root_updRoot_same ..
    have told := congrArg Root.told root
    exact told ▸ List.mem_cons_self

/-- Settles O45: each step of the hurdles, the timetables and the tree has its lemma above, by the message or the cycle it acts on. -/
theorem hurdleAndTreeSteps : Obligations.HurdleAndTreeSteps := by
  refine ⟨fun cs => mkRelease_add, fun s => ⟨fun dom drop op val abort wait hpair pend => ⟨fun busy => ?_, fun drained arr dropped =>
    answers_hurdleArrive wait drained hpair pend arr dropped, fun drained late flk => answers_hurdleArrive_over wait drained late flk⟩,
    fun d c kind arrived => answers_hurdleRootCount kind arrived, answers_hurdleRootCount_elsewhere, hurdleRootCount_waits,
    answers_hurdleRootCount_completes,
    fun d x r arrived => ⟨hurdleRelease_drops arrived, answers_hurdleRelease arrived⟩,
    timetableEnd_waits, answers_timetableEnd,
    fun e now usable clean => answers_beatSend now usable clean,
    fun lvl src dst w data x bad arrived usable => ⟨answers_beatReceive_late arrived, fun e window whole => answers_beatReceive arrived window usable whole⟩,
    fun hpair member legal => ⟨treeInject_waits member legal, answers_treeInject member legal hpair⟩,
    fun d x v desc kind arrived => answers_treeRoundComplete_term kind arrived,
    treeRoundComplete_waits, answers_treeRoundComplete,
    fun d x v st arrived => ⟨treeResultPlace_drops arrived, answers_treeResultPlace arrived⟩,
    treeExtract_waits, fun v st rest => answers_treeExtract,
    watchdogStall_waits, answers_watchdogStall_tile, answers_watchdogStall_phase⟩⟩
  rw [exec_hurdleArrive wait, busy]
  rfl

end Sys2Proof.Machine
end

section
/-! Translation: what an agent does with a thread's request once it is performed, faulted, refused or answered (for O41). -/

open Sys2Proof

namespace Sys2Proof.Machine

/-! ### Answers at an agent (R143, R152, R360) -/

section
variable {s : State} {a : Ans} {k u : Nat} (who : a.req.who = .thread k u)
include who

theorem State.reply_thread (min : Nat) : s.reply min a = s.send min (.ans a) := by
  simp only [State.reply, who]

theorem State.agentAnswer_store (store : a.req.acc = .store) : s.agentAnswer a = s.send (s.backTime a.req) (.ans a) := by
  simp only [State.agentAnswer, store, bne_self_eq_false, Bool.false_and, Bool.false_eq_true, if_false, State.reply_thread who]

/-- A thread that is not parked for its access takes the answer as a message. -/
theorem State.agentAnswer_running (running : s.heldPark k u a.req.lid = false) (alone : a.req.peer = none) :
    s.agentAnswer a = s.send (s.backTime a.req) (.ans a) := by
  have askers : a.req.askers = [(k, u)] := by simp only [Req.askers, who, alone, Option.toList_none, List.append_nil]
  simp only [State.agentAnswer, askers, List.any_cons, List.any_nil, running, Bool.or_false, Bool.and_false, Bool.false_eq_true, if_false,
    State.reply_thread who]

end

/-! ### A request performed at its channel (R151, R158) -/

/-- The state in which a store has landed in PACKAGE memory. -/
def State.landed (s : State) (r : Req) (key : Nat) : State :=
  ((s.store key r.size r.data).land r.root 3 r.agent r.va r.size).spoil r key

/-- A landed store has changed bytes, poison and counters. -/
theorem State.landed_eq (s : State) (r : Req) (key : Nat) : ∃ p c,
    s.landed r key = { s with mem := writeMem s.mem key r.size r.data, poison := p, counters := c } := by
  unfold State.landed State.spoil
  split <;> exact ⟨_, _, rfl⟩

/-- What a performed store leaves: its answer on its way, its bytes written, all other bytes, the tiles and the fault buffer as they were. -/
structure StoreDone (s t : State) (r : Req) (key : Nat) : Prop where
  sent : Sent s t (.ans { req := r, status := 0, value := 0, flags := 0 })
  tiles : t.tiles = s.tiles
  held : t.held = s.held
  faults : t.faults = s.faults
  data : readMem t.mem key r.size = r.data % 256 ^ r.size
  rest : ∀ x, x < key ∨ key + r.size ≤ x → readByte t.mem x = readByte s.mem x

section
variable {s : State} {r : Req} {k u key : Nat} (who : r.who = .thread k u)
include who

theorem State.agentPerform_read (read : r.acc = .read) (running : s.heldPark k u r.lid = false) (alone : r.peer = none)
    (clean : poisonIn s.poison key r.size = none) : s.agentPerform r key =
      s.send (s.backTime r) (.ans { req := r, status := 0, value := readMem s.mem key r.size, flags := 0 }) := by
  have perform : s.perform r key false r.root 3 r.agent r.va = (s, { req := r, status := 0, value := readMem s.mem key r.size, flags := 0 }) := by
    simp only [State.perform, read, clean, Option.isSome_none, Bool.or_false, Bool.false_eq_true, if_false]
    rfl
  rw [State.agentPerform, perform]
  exact State.agentAnswer_running (a := { req := r, status := 0, value := readMem s.mem key r.size, flags := 0 }) who running alone

theorem State.agentPerform_store (store : r.acc = .store) (clean : partialPoison s.poison key r.size = none) : s.agentPerform r key =
      (s.landed r key).send ((s.landed r key).backTime r) (.ans { req := r, status := 0, value := 0, flags := 0 }) := by
  have perform : s.perform r key false r.root 3 r.agent r.va = (s.landed r key, { req := r, status := 0, value := 0, flags := 0 }) := by
    simp only [State.perform, store, clean, Option.isSome_none, Bool.or_false, Bool.false_eq_true, if_false]
    rfl
  rw [State.agentPerform, perform]
  exact State.agentAnswer_store (a := { req := r, status := 0, value := 0, flags := 0 }) who store

theorem storeDone_agentPerform (store : r.acc = .store) (clean : partialPoison s.poison key r.size = none) :
    StoreDone s (s.agentPerform r key) r key := by
  rw [State.agentPerform_store who store clean]
  obtain ⟨p, c, landed⟩ := s.landed_eq r key
  rw [landed]
  exact ⟨State.sent_send { s with mem := writeMem s.mem key r.size r.data, poison := p, counters := c } .., rfl, rfl, rfl,
    readMem_writeMem .., fun x => readByte_writeMem_out _ key x _ _⟩

end

/-! ### A fault of a posted store (R356, R357) -/

/-- Of a thread's store, a record names the generation, the reason and the level of the fault. -/
theorem State.faultRec_fields (s : State) {r : Req} {k u : Nat} (who : r.who = .thread k u) (store : r.acc = .store) {reason lvl : Nat}
    (hreason : reason < 256) (hlvl : lvl < 256) (tbl : Nat) :
    wf (s.faultRec r reason lvl tbl).2.1 0 16 = s.fbGen % 65536 ∧ wf (s.faultRec r reason lvl tbl).2.1 40 8 = reason ∧
    wf (s.faultRec r reason lvl tbl).2.1 48 8 = lvl := by
  have size : sizeCode r.size < 256 := by
    unfold sizeCode
    (repeat' split) <;> decide
  simp only [State.faultRec, State.faultKind, who, store, wf, nf, nw, BitVec.toNat_ofNat]
  omega

/-- What a fault of a thread's store leaves: the request held, one record of it, no message sent to it, and no byte and no tile changed. -/
structure FaultHeld (s t : State) (r : Req) (reason lvl tbl : Nat) : Prop where
  held : t.held = s.held ++ [r]
  mem : t.mem = s.mem
  tiles : t.tiles = s.tiles
  poison : t.poison = s.poison
  flight : t.flight = s.flight
  record : ∃ x, t.faults = s.faults ++ [x] ∧ x.1 = r.addr ∧ wf x.2.1 0 16 = s.fbGen % 65536 ∧ wf x.2.1 40 8 = reason ∧
    wf x.2.1 48 8 = lvl ∧ x.2.2.2 = nw tbl

/-- A fault with room in the buffer records and holds a thread's store; the first one also sends the notification (R358). -/
theorem State.pageFault_store {s : State} {r : Req} {k u : Nat} (who : r.who = .thread k u) (store : r.acc = .store) (gen : r.gen = s.fbGen)
    (room : s.faults.length < 1024) (reason lvl tbl : Nat) : ∃ dies next ctr, s.pageFault r reason lvl tbl =
      { s with faults := s.faults ++ [s.faultRec r reason lvl tbl], held := s.held ++ [r], dies := dies, next := next, ctr := ctr } := by
  simp only [State.pageFault, gen, ne_eq, not_true_eq_false, if_false, room, if_true, State.hold, who, store]
  split <;> exact ⟨_, _, _, rfl⟩

theorem faultHeld_pageFault {s : State} {r : Req} {k u : Nat} (who : r.who = .thread k u) (store : r.acc = .store) (gen : r.gen = s.fbGen)
    (room : s.faults.length < 1024) {reason lvl : Nat} (hreason : reason < 256) (hlvl : lvl < 256) (tbl : Nat) :
    FaultHeld s (s.pageFault r reason lvl tbl) r reason lvl tbl := by
  obtain ⟨dies, next, ctr, fault⟩ := State.pageFault_store who store gen room reason lvl tbl
  obtain ⟨generation, why, level⟩ := s.faultRec_fields who store hreason hlvl tbl
  rw [fault]
  exact ⟨rfl, rfl, rfl, rfl, rfl, _, rfl, rfl, generation, why, level, rfl⟩

/-! ### A leaf found (R354) -/

section
variable {s : State} {r : Req} {e lvl : Nat}

theorem State.leafPhys_allowed (owner : pteOwner e = (s.part r.root).owner) (w : r.acc ≠ .read → pteW e = true) :
    s.leafPhys r e lvl = some (pteAddr e + r.va % pageBytes lvl) := by
  refine if_neg ?_
  rintro (other | ⟨writes, locked⟩)
  · exact other owner
  · simp only [w (bne_iff_ne.1 writes), Bool.not_true, Bool.false_eq_true] at locked

theorem State.leafPhys_refused (writes : r.acc = .store) (bad : pteOwner e ≠ (s.part r.root).owner ∨ pteW e = false) :
    s.leafPhys r e lvl = none := by
  refine if_pos (bad.imp_right fun locked => ⟨?_, ?_⟩)
  · simp only [Req.writes, writes]
    rfl
  · simp only [locked, Bool.not_false]

theorem State.leafFound_allowed {pa : Nat} (phys : s.leafPhys r e lvl = some pa) (open_ : s.mgmt.quiesced.contains (hbmChan pa) = false) :
    s.leafFound r e lvl = s.sendAt s.now (.req { r with phys := some (hbmKey pa) }) := by
  simp only [State.leafFound, phys, open_, Bool.false_eq_true, if_false]

theorem State.leafFound_refused {k u : Nat} (who : r.who = .thread k u) (store : r.acc = .store) (phys : s.leafPhys r e lvl = none) :
    s.leafFound r e lvl = s.send (s.backTime r) (.ans { req := r, status := 7, value := 0, flags := 0 }) := by
  rw [State.leafFound, phys]
  exact State.agentAnswer_store (a := { req := r, status := 7, value := 0, flags := 0 }) who store

end

end Sys2Proof.Machine
end

section
/-! Package requests: a request at its agent, and one table read of a walk (R286, R354, R356, R357; clauses of O41). -/

open Sys2Proof

namespace Sys2Proof.Machine

/-- Every byte, every tile and every mark of poison stays. -/
def KeepsStorage (s t : State) : Prop := t.mem = s.mem ∧ t.tiles = s.tiles ∧ t.poison = s.poison

/-! ### PACKAGE_REQUEST: a translated request -/

section
variable {s : State} {r : Req} {k u : Nat} (arrived : s.arrived = some (.req r)) (who : r.who = .thread k u)
include arrived

theorem exec_packageRequest (ready : s.pkgReady r = true) : exec .packageRequest s = .next (s.taken.agentTake r) := by
  simp only [exec, execPackageRequest, arrived, ready, if_true]

theorem exec_packageRequest_translated {key : Nat} (ready : s.pkgReady r = true) (phys : r.phys = some key) :
    exec .packageRequest s = .next (s.taken.agentPerform r key) := by
  rw [exec_packageRequest arrived ready]
  simp only [State.agentTake, phys]

include who

theorem packageRequest_waits (early : s.pkgReady r = false) : exec .packageRequest s = .next s := by
  simp only [exec, execPackageRequest, arrived, early, Bool.false_eq_true, if_false, State.holdNotice, who]

section
variable {key : Nat} (ready : s.pkgReady r = true) (phys : r.phys = some key)
include ready phys

theorem answers_packageRequest_read (read : r.acc = .read) (running : s.heldPark k u r.lid = false) (alone : r.peer = none)
    (clean : poisonIn s.poison key r.size = none) : Answers (exec .packageRequest s) fun t =>
      Sent s.taken t (.ans { req := r, status := 0, value := readMem s.mem key r.size, flags := 0 }) ∧ KeepsStorage s t :=
  have performs := State.agentPerform_read (s := s.taken) who read running alone clean
  ⟨_, (exec_packageRequest_translated arrived ready phys).trans (congrArg Host.Outcome.next performs), s.taken.sent_send .., rfl, rfl, rfl⟩

theorem answers_packageRequest_store (store : r.acc = .store) (clean : partialPoison s.poison key r.size = none) :
    Answers (exec .packageRequest s) fun t =>
      Sent s.taken t (.ans { req := r, status := 0, value := 0, flags := 0 }) ∧ t.tiles = s.tiles ∧
      readMem t.mem key r.size = r.data % 256 ^ r.size ∧ ∀ x, x < key ∨ key + r.size ≤ x → readByte t.mem x = readByte s.mem x := by
  obtain ⟨sent, tiles, -, -, data, rest⟩ := storeDone_agentPerform (s := s.taken) who store clean
  exact ⟨_, exec_packageRequest_translated arrived ready phys, sent, tiles, data, rest⟩

end

end

/-! ### PACKAGE_REQUEST: a request to be translated -/

/-- A PACKAGE request as its agent begins to translate it, under a generation. -/
def Req.atAgent (r : Req) (gen : Nat) : Req := { r with grant := none, gen := gen }

theorem State.grantOf_package (s : State) {r : Req} (package : wf r.addr 56 8 = 4) : s.grantOf r = some none := if_pos package

theorem State.grantOf_uncovered {s : State} {r : Req} (pod : wf r.addr 56 8 ≠ 4) (ungranted : r.grant = none) (none_ : s.findGrant r = none) :
    s.grantOf r = none := by
  simp only [State.grantOf, pod, ungranted, none_, if_false, Option.map_none]

/-- What an agent does with a request whose grant and generation it has noted: a fault with no root, a leaf, or the start of a walk. -/
def State.translate (s : State) (r : Req) : State :=
  if !(s.part r.root).ptEn then s.pageFault r 4 3 0
  else match s.cached r with
    | some (lvl, e) => s.leafFound r e lvl
    | none => s.send 1 (.table { r with lvl := 3, tbl := (s.part r.root).ptAddr })

theorem State.translate_disabled {s : State} {r : Req} (disabled : (s.part r.root).ptEn = false) : s.translate r = s.pageFault r 4 3 0 := by
  simp only [State.translate, disabled, Bool.not_false, if_true]

theorem State.translate_uncached {s : State} {r : Req} (enabled : (s.part r.root).ptEn = true) (uncached : s.cached r = none) :
    s.translate r = s.send 1 (.table { r with lvl := 3, tbl := (s.part r.root).ptAddr }) := by
  simp only [State.translate, enabled, uncached, Bool.not_true, Bool.false_eq_true, if_false]

section
variable {s : State} {r : Req} (phys : r.phys = none) (first : s.heldBefore r = false)
include phys first

theorem State.agentTake_granted {g : Option Nat} (grant : s.grantOf r = some g) :
    s.agentTake r = s.translate { r with grant := g, gen := s.fbGen } := by
  unfold State.agentTake
  split
  · next k found => cases phys.symm.trans found
  · rw [if_neg (Bool.eq_false_iff.1 first), grant]
    rfl

theorem State.agentTake_uncovered (none_ : s.grantOf r = none) :
    s.agentTake r = s.agentAnswer { req := r, status := 13, value := 0, flags := 0 } := by
  simp only [State.agentTake, phys, first, none_, Bool.false_eq_true, if_false]
  rfl

end

section
variable {s : State} {r : Req} {k u : Nat} (arrived : s.arrived = some (.req r)) (who : r.who = .thread k u) (ready : s.pkgReady r = true)
  (phys : r.phys = none) (first : s.heldBefore r = false)
include arrived ready phys first

theorem exec_packageRequest_package (package : wf r.addr 56 8 = 4) :
    exec .packageRequest s = .next (s.taken.translate (r.atAgent s.fbGen)) := by
  rw [exec_packageRequest arrived ready, State.agentTake_granted (s := s.taken) phys first (State.grantOf_package _ package)]
  rfl

theorem answers_packageRequest_walks (package : wf r.addr 56 8 = 4) (enabled : (s.part r.part).ptEn = true)
    (uncached : s.cached (r.atAgent s.fbGen) = none) : Answers (exec .packageRequest s) fun t =>
      Sent s.taken t (.table { r.atAgent s.fbGen with lvl := 3, tbl := (s.part r.part).ptAddr }) ∧ KeepsStorage s t :=
  have walks := State.translate_uncached (s := s.taken) (r := r.atAgent s.fbGen) enabled uncached
  ⟨_, (exec_packageRequest_package arrived ready phys first package).trans (congrArg Host.Outcome.next walks), s.taken.sent_send ..,
    rfl, rfl, rfl⟩

include who

theorem answers_packageRequest_disabled (package : wf r.addr 56 8 = 4) (disabled : (s.part r.part).ptEn = false) (store : r.acc = .store)
    (room : s.faults.length < 1024) : Answers (exec .packageRequest s) fun t => t.held = s.held ++ [r.atAgent s.fbGen] ∧ KeepsStorage s t ∧
      ∃ x, t.faults = s.faults ++ [x] ∧ x.1 = r.addr ∧ wf x.2.1 0 16 = s.fbGen % 65536 ∧ wf x.2.1 40 8 = 4 := by
  obtain ⟨held, mem, tiles, poison, -, x, faults, addr, gen, reason, -⟩ :=
    faultHeld_pageFault (s := s.taken) (r := r.atAgent s.fbGen) who store rfl room (reason := 4) (lvl := 3) (by decide) (by decide) 0
  have faulted := State.translate_disabled (s := s.taken) (r := r.atAgent s.fbGen) disabled
  exact ⟨_, (exec_packageRequest_package arrived ready phys first package).trans (congrArg Host.Outcome.next faulted), held,
    ⟨mem, tiles, poison⟩, x, faults, addr, gen, reason⟩

theorem answers_packageRequest_uncovered (pod : wf r.addr 56 8 ≠ 4) (ungranted : r.grant = none) (none_ : s.findGrant r = none)
    (store : r.acc = .store) : Answers (exec .packageRequest s) fun t =>
      Sent s.taken t (.ans { req := r, status := 13, value := 0, flags := 0 }) ∧ KeepsStorage s t := by
  have none' : s.taken.grantOf r = none := State.grantOf_uncovered pod ungranted none_
  refine ⟨s.taken.send (s.taken.backTime r) (.ans { req := r, status := 13, value := 0, flags := 0 }), ?_, s.taken.sent_send .., rfl, rfl, rfl⟩
  rw [exec_packageRequest arrived ready, State.agentTake_uncovered (s := s.taken) phys first none']
  exact congrArg Host.Outcome.next (State.agentAnswer_store (a := { req := r, status := 13, value := 0, flags := 0 }) who store)

end

/-! ### TABLE_READ (R354) -/

/-- What a walk does next with what its table read finds. -/
def State.walkOn (s : State) (r : Req) : Walked → State
  | .fault n => s.pageFault r n r.lvl r.pte
  | .leaf e => (s.cacheLeaf r r.lvl e).leafFound r e r.lvl
  | .table tbl => s.send 1 (.table { r with lvl := r.lvl - 1, tbl := tbl })

/-- The entry a walk reads. -/
def State.entryAt (s : State) (r : Req) : Nat := readMem s.mem (hbmKey r.pte) 8

section
variable {s : State} {r : Req} (clean : poisonIn s.poison (hbmKey r.pte) 8 = none)
include clean

theorem State.tableStep_clean : s.tableStep r =
    if !pteV (s.entryAt r) then .fault 0
    else if pteBad (s.part r.root).hbase (s.part r.root).hlen (s.entryAt r) r.lvl then .fault 1
    else if pteLeaf (s.entryAt r) then .leaf (s.entryAt r) else .table (pteAddr (s.entryAt r)) := by
  have clean' : (poisonIn s.poison (hbmKey (r.tbl + 8 * pteIndex r.lvl r.va)) 8).isSome = false := by
    rw [← Req.pte, clean, Option.isSome_none]
  simp only [State.tableStep, clean', Bool.false_eq_true, if_false]
  rfl

theorem State.tableStep_invalid (v : pteV (s.entryAt r) = false) : s.tableStep r = .fault 0 := by
  rw [State.tableStep_clean clean, v]
  rfl

section
variable (v : pteV (s.entryAt r) = true) (good : pteBad (s.part r.root).hbase (s.part r.root).hlen (s.entryAt r) r.lvl = false)
include v good

theorem State.tableStep_valid : s.tableStep r = if pteLeaf (s.entryAt r) then .leaf (s.entryAt r) else .table (pteAddr (s.entryAt r)) := by
  simp only [State.tableStep_clean clean, v, good, Bool.not_true, Bool.false_eq_true, if_false]

theorem State.tableStep_pointer (pointer : pteLeaf (s.entryAt r) = false) : s.tableStep r = .table (pteAddr (s.entryAt r)) := by
  rw [State.tableStep_valid clean v good, pointer]
  rfl

theorem State.tableStep_leaf (leaf : pteLeaf (s.entryAt r) = true) : s.tableStep r = .leaf (s.entryAt r) := by
  rw [State.tableStep_valid clean v good, leaf]
  rfl

end

end

section
variable {s : State} {r : Req} (arrived : s.arrived = some (.table r))
include arrived

theorem exec_tableRead {w : Walked} (found : s.tableStep r = w) : exec .tableRead s = .next (s.taken.walkOn r w) := by
  have found' : s.taken.tableStep r = w := found
  simp only [exec, execTableRead, arrived, found']
  cases w <;> rfl

theorem answers_tableRead_fault {k u reason : Nat} (found : s.tableStep r = .fault reason) (who : r.who = .thread k u) (store : r.acc = .store)
    (gen : r.gen = s.fbGen) (room : s.faults.length < 1024) (hreason : reason < 256) (hlvl : r.lvl < 4) (hpte : r.pte < 2 ^ 64) :
    Answers (exec .tableRead s) fun t => t.held = s.held ++ [r] ∧ KeepsStorage s t ∧
      ∃ x, t.faults = s.faults ++ [x] ∧ x.1 = r.addr ∧ wf x.2.1 40 8 = reason ∧ wf x.2.1 48 8 = r.lvl ∧ x.2.2.2.toNat = r.pte := by
  obtain ⟨held, mem, tiles, poison, -, x, faults, addr, -, why, lvl, at_⟩ :=
    faultHeld_pageFault (s := s.taken) who store gen room hreason (Nat.lt_trans hlvl (by decide)) r.pte
  refine ⟨_, exec_tableRead arrived found, held, ⟨mem, tiles, poison⟩, x, faults, addr, why, lvl, ?_⟩
  rw [at_]
  exact (BitVec.toNat_ofNat ..).trans (Nat.mod_eq_of_lt hpte)

theorem answers_tableRead_pointer {tbl : Nat} (found : s.tableStep r = .table tbl) : Answers (exec .tableRead s) fun t =>
    Sent s.taken t (.table { r with lvl := r.lvl - 1, tbl := tbl }) ∧ KeepsStorage s t :=
  ⟨_, exec_tableRead arrived found, s.taken.sent_send .., rfl, rfl, rfl⟩

theorem answers_tableRead_leaf {e pa : Nat} (found : s.tableStep r = .leaf e) (phys : s.leafPhys r e r.lvl = some pa)
    (open_ : s.mgmt.quiesced.contains (hbmChan pa) = false) : Answers (exec .tableRead s) fun t =>
      Sent s.taken t (.req { r with phys := some (hbmKey pa) }) ∧ KeepsStorage s t ∧ (r.agent, r.root, r.lvl, r.va / pageBytes r.lvl, e) ∈ t.tlb := by
  have leaf : s.taken.walkOn r (.leaf e) = (s.taken.cacheLeaf r r.lvl e).sendAt s.now (.req { r with phys := some (hbmKey pa) }) :=
    State.leafFound_allowed (s := s.taken.cacheLeaf r r.lvl e) phys open_
  exact ⟨_, (exec_tableRead arrived found).trans (congrArg Host.Outcome.next leaf),
    (s.taken.cacheLeaf r r.lvl e).sent_sendAt _ _ (Nat.le_refl _), ⟨rfl, rfl, rfl⟩, List.mem_append_right _ (List.mem_singleton_self _)⟩

theorem answers_tableRead_refused {k u e : Nat} (found : s.tableStep r = .leaf e) (who : r.who = .thread k u) (store : r.acc = .store)
    (phys : s.leafPhys r e r.lvl = none) : Answers (exec .tableRead s) fun t =>
      Sent s.taken t (.ans { req := r, status := 7, value := 0, flags := 0 }) ∧ KeepsStorage s t := by
  have leaf : s.taken.walkOn r (.leaf e) = (s.taken.cacheLeaf r r.lvl e).send ((s.taken.cacheLeaf r r.lvl e).backTime r)
      (.ans { req := r, status := 7, value := 0, flags := 0 }) :=
    State.leafFound_refused (s := s.taken.cacheLeaf r r.lvl e) who store phys
  exact ⟨_, (exec_tableRead arrived found).trans (congrArg Host.Outcome.next leaf), (s.taken.cacheLeaf r r.lvl e).sent_send .., rfl, rfl, rfl⟩

end

end Sys2Proof.Machine
end

section
/-! Flush and invalidation: the generation, the held requests and the cached leaves (R355, R359), and O41 from the clauses of its steps. -/

open Sys2Proof

namespace Sys2Proof.Machine

/-! ### The generation of the fault buffer: a flush alone changes it -/

@[simp] theorem State.fbGen_ite (c : Prop) [Decidable c] (a b : State) : (if c then a else b).fbGen = if c then a.fbGen else b.fbGen :=
  apply_ite State.fbGen c a b

theorem State.fbGen_foldl {α : Type} {f : State → α → State} (h : ∀ s a, (f s a).fbGen = s.fbGen) (l : List α) (s : State) :
    (l.foldl f s).fbGen = s.fbGen :=
  List.foldlRecOn (motive := fun r => r.fbGen = s.fbGen) l f rfl fun b hb a _ => (h b a).trans hb

@[simp] theorem State.leaveFlock_fbGen (s : State) (t u detach : Nat) : (s.leaveFlock t u detach).fbGen = s.fbGen := by
  unfold State.leaveFlock
  split <;> rfl

@[simp] theorem State.keepMsg_fbGen (s : State) (t u : Nat) : (s.keepMsg t u).fbGen = s.fbGen := by
  simp only [State.keepMsg]
  split <;> rfl

@[simp] theorem State.trapAt_fbGen (s : State) (t u : Nat) (i : TrapInfo) : (s.trapAt t u i).fbGen = s.fbGen := by simp [State.trapAt]

@[simp] theorem State.fjAnswer_fbGen (s : State) (k ty status len data aux : Nat) : (s.fjAnswer k ty status len data aux).fbGen = s.fbGen := by
  unfold State.fjAnswer
  split <;> rfl

@[simp] theorem State.reply_fbGen (s : State) (min : Nat) (a : Ans) : (s.reply min a).fbGen = s.fbGen := by
  unfold State.reply
  (repeat' split) <;> simp

@[simp] theorem State.resumeHeld_fbGen (s : State) (a : Ans) (t u : Nat) : (s.resumeHeld a t u).fbGen = s.fbGen := by
  simp [State.resumeHeld, State.refuseThread]

@[simp] theorem State.agentAnswer_fbGen (s : State) (a : Ans) : (s.agentAnswer a).fbGen = s.fbGen := by
  simp [State.agentAnswer, State.fbGen_foldl]

@[simp] theorem State.perform_fbGen (s : State) (r : Req) (key : Nat) (dead : Bool) (part kind idx off : Nat) :
    (s.perform r key dead part kind idx off).1.fbGen = s.fbGen := by
  simp only [State.perform, State.spoil]
  (repeat' split) <;> rfl

@[simp] theorem State.agentPerform_fbGen (s : State) (r : Req) (key : Nat) : (s.agentPerform r key).fbGen = s.fbGen := by
  simp [State.agentPerform]

@[simp] theorem State.holdNotice_fbGen (s : State) (w : Who) (aux : Nat) : (s.holdNotice w aux).fbGen = s.fbGen := by
  unfold State.holdNotice
  (repeat' split) <;> rfl

@[simp] theorem State.hold_fbGen (s : State) (r : Req) (idx : Option Nat) : (s.hold r idx).fbGen = s.fbGen := by
  simp [State.hold, State.parkPage, State.fbGen_foldl]

@[simp] theorem State.pageFault_fbGen (s : State) (r : Req) (reason lvl tbl : Nat) : (s.pageFault r reason lvl tbl).fbGen = s.fbGen := by
  simp [State.pageFault, State.notifyFault, State.queueMsg]

@[simp] theorem State.cacheLeaf_fbGen (s : State) (r : Req) (lvl e : Nat) : (s.cacheLeaf r lvl e).fbGen = s.fbGen := rfl

@[simp] theorem State.flushLeaf_fbGen (s : State) (r : Req) (e lvl : Nat) : (s.flushLeaf r e lvl).fbGen = s.fbGen := by
  unfold State.flushLeaf
  split <;> simp

theorem State.flushOne_fbGen (s : State) (r : Req) : (s.flushOne r).fbGen = s.fbGen := by
  simp only [State.flushOne]
  (repeat' split) <;> simp

/-! ### FAULT_FLUSH (R359) -/

/-- The state in which a flush translates the held requests again: the next generation and an empty buffer. -/
def State.flushed (s : State) : State := { s with fbGen := (s.fbGen + 1) % 65536, faults := [], fbOvf := false, held := [] }

theorem faultFlush_other_generation {s : State} (other : s.ev.a % 65536 ≠ s.fbGen) : exec .faultFlush s = .next s :=
  congrArg Host.Outcome.next (if_pos other)

theorem exec_faultFlush {s : State} (current : s.ev.a % 65536 = s.fbGen) : exec .faultFlush s = .next (s.held.foldl State.flushOne s.flushed) :=
  congrArg Host.Outcome.next (if_neg (not_not_intro current))

theorem answers_faultFlush_generation {s : State} (current : s.ev.a % 65536 = s.fbGen) :
    Answers (exec .faultFlush s) fun t => t.fbGen = (s.fbGen + 1) % 65536 :=
  ⟨_, exec_faultFlush current, State.fbGen_foldl State.flushOne_fbGen ..⟩

theorem answers_faultFlush_empty {s : State} (current : s.ev.a % 65536 = s.fbGen) (none_ : s.held = []) : Answers (exec .faultFlush s) fun t =>
    t.faults = [] ∧ t.fbOvf = false ∧ { t with fbGen := s.fbGen, faults := s.faults, fbOvf := s.fbOvf } = s := by
  refine ⟨s.flushed, ?_, rfl, rfl, ?_⟩
  · rw [exec_faultFlush current, none_]
    rfl
  · simp only [State.flushed, ← none_]

theorem exec_faultFlush_one {s : State} {r : Req} (current : s.ev.a % 65536 = s.fbGen) (one : s.held = [r]) :
    exec .faultFlush s = .next (s.flushed.flushOne r) := by
  rw [exec_faultFlush current, one]
  rfl

/-! ### One held PACKAGE request at a flush -/

/-- A held PACKAGE request as a flush translates it again, under a generation. -/
def Req.again (r : Req) (gen : Nat) : Req := { r with phys := none, gen := gen, grant := none }

/-- What a flush does with a request whose grant and generation it has noted: the walk that PACKAGE_REQUEST starts is made at once. -/
def State.retranslate (s : State) (r : Req) : State :=
  if !(s.part r.root).ptEn then s.pageFault r 4 3 0
  else match s.cached r with
    | some (lvl, e) => s.flushLeaf r e lvl
    | none => match s.walkNow 5 { r with lvl := 3, tbl := (s.part r.root).ptAddr } with
      | (q, .leaf e) => (s.cacheLeaf q q.lvl e).flushLeaf q e q.lvl
      | (q, .fault n) => s.pageFault q n q.lvl q.pte
      | (q, .table _) => s.pageFault q 1 q.lvl q.pte

section
variable {s : State} {r : Req} (empty : s.held = []) (package : wf r.addr 56 8 = 4)
include empty package

theorem State.flushOne_package : s.flushOne r = s.retranslate (r.again s.fbGen) := by
  have first (q : Req) : s.heldBefore q = false := by
    rw [State.heldBefore, empty]
    rfl
  simp only [State.flushOne, first, package, State.grantOf, Bool.false_eq_true, if_false, if_true]
  rfl

theorem State.flushOne_disabled (disabled : (s.part r.part).ptEn = false) : s.flushOne r = s.pageFault (r.again s.fbGen) 4 3 0 := by
  have disabled' : (s.part (r.again s.fbGen).root).ptEn = false := disabled
  simp only [State.flushOne_package empty package, State.retranslate, disabled', Bool.not_false, if_true]

theorem State.flushOne_cached {lvl e : Nat} (enabled : (s.part r.part).ptEn = true) (cached : s.cached (r.again s.fbGen) = some (lvl, e)) :
    s.flushOne r = s.flushLeaf (r.again s.fbGen) e lvl := by
  have enabled' : (s.part (r.again s.fbGen).root).ptEn = true := enabled
  simp only [State.flushOne_package empty package, State.retranslate, enabled', cached, Bool.not_true, Bool.false_eq_true, if_false]

end

/-- A PACKAGE address of a thread means no place in die SRAM. -/
theorem State.reqPlace_package {s : State} {r : Req} {k u : Nat} (who : r.who = .thread k u) (package : wf r.addr 56 8 = 4) (d off : Nat) :
    s.reqPlace r ≠ some (.die d off) := by
  have row : decodeWin r.addr = if wf r.addr 48 8 = 0 then some (.package (wf r.addr 0 48)) else none := by
    simp only [decodeWin, package]
  rw [State.reqPlace, who]
  simp only [row]
  split <;> exact nofun

/-- The message is no request that has still to be performed. -/
def Msg.NoRequest (m : Msg) : Prop := ∀ r, m ≠ .req r ∧ m ≠ .table r

theorem State.openReqs_nil {s : State} (quiet : ∀ f ∈ s.flight, f.msg.NoRequest) (empty : s.held = []) : s.openReqs = [] := by
  rw [State.openReqs, empty, List.append_nil, List.filterMap_eq_nil_iff]
  intro f hf
  split
  · next r h => exact absurd h (quiet f hf r).1
  · next r h => exact absurd h (quiet f hf r).2
  · rfl

/-- With no other request open, a PACKAGE request follows none (R150). -/
theorem State.reqReady_alone {s : State} {r : Req} {k u : Nat} (who : r.who = .thread k u) (package : wf r.addr 56 8 = 4)
    (quiet : ∀ f ∈ s.flight, f.msg.NoRequest) (empty : s.held = []) : s.reqReady r = true := by
  have place := State.reqPlace_package (s := s) who package
  rw [State.reqReady, State.openReqs_nil quiet empty, List.any_nil, Bool.not_false, Bool.true_and]
  split
  · next d off h => exact absurd h (place d off)
  · rfl

section
variable {s : State} {r : Req} {k u e lvl : Nat} (who : r.who = .thread k u)
include who

theorem State.flushLeaf_refused (store : r.acc = .store) (phys : s.leafPhys r e lvl = none) :
    s.flushLeaf r e lvl = s.send (s.backTime r) (.ans { req := r, status := 7, value := 0, flags := 0 }) := by
  rw [State.flushLeaf, phys]
  exact State.agentAnswer_store (a := { req := r, status := 7, value := 0, flags := 0 }) who store

theorem State.flushLeaf_performed {pa : Nat} (phys : s.leafPhys r e lvl = some pa) (package : wf r.addr 56 8 = 4)
    (open_ : s.mgmt.quiesced.contains (hbmChan pa) = false) (quiet : ∀ f ∈ s.flight, f.msg.NoRequest) (empty : s.held = []) :
    s.flushLeaf r e lvl = s.agentPerform { r with phys := some (hbmKey pa) } (hbmKey pa) := by
  have taken : s.pkgReady { r with phys := some (hbmKey pa) } = true := by
    simp only [State.pkgReady, hbmKey, Nat.add_sub_cancel_left, open_, Bool.not_false]
  have alone : s.reqReady { r with phys := some (hbmKey pa) } = true := State.reqReady_alone who package quiet empty
  simp only [State.flushLeaf, phys, taken, alone, Bool.and_self, if_true]

end

theorem exec_faultFlush_cached {s : State} {r : Req} {lvl e : Nat} (current : s.ev.a % 65536 = s.fbGen) (one : s.held = [r])
    (package : wf r.addr 56 8 = 4) (enabled : (s.part r.part).ptEn = true)
    (cached : s.cached (r.again ((s.fbGen + 1) % 65536)) = some (lvl, e)) :
    exec .faultFlush s = .next (s.flushed.flushLeaf (r.again s.flushed.fbGen) e lvl) := by
  rw [exec_faultFlush_one current one, State.flushOne_cached (s := s.flushed) rfl package enabled cached]

section
variable {s : State} {r : Req} {k u : Nat} (current : s.ev.a % 65536 = s.fbGen) (one : s.held = [r]) (who : r.who = .thread k u)
  (store : r.acc = .store) (package : wf r.addr 56 8 = 4)
include current one who store package

theorem answers_faultFlush_disabled (disabled : (s.part r.part).ptEn = false) : Answers (exec .faultFlush s) fun t =>
    t.held = [r.again ((s.fbGen + 1) % 65536)] ∧ KeepsStorage s t ∧ t.flight = s.flight ∧
    ∃ x, t.faults = [x] ∧ x.1 = r.addr ∧ wf x.2.1 0 16 = (s.fbGen + 1) % 65536 ∧ wf x.2.1 40 8 = 4 := by
  obtain ⟨held, mem, tiles, poison, flight, x, faults, addr, gen, reason, -⟩ :=
    faultHeld_pageFault (s := s.flushed) (r := r.again s.flushed.fbGen) who store rfl (by decide : 0 < 1024)
      (reason := 4) (lvl := 3) (by decide) (by decide) 0
  have faulted : s.flushed.flushOne r = s.flushed.pageFault (r.again s.flushed.fbGen) 4 3 0 :=
    State.flushOne_disabled rfl package disabled
  exact ⟨_, (exec_faultFlush_one current one).trans (congrArg Host.Outcome.next faulted), held, ⟨mem, tiles, poison⟩,
    flight, x, faults, addr, gen.trans (Nat.mod_mod _ _), reason⟩

section
variable {lvl e : Nat} (enabled : (s.part r.part).ptEn = true) (cached : s.cached (r.again ((s.fbGen + 1) % 65536)) = some (lvl, e))
include enabled cached

theorem answers_faultFlush_refused (bad : pteOwner e ≠ (s.part r.part).owner ∨ pteW e = false) : Answers (exec .faultFlush s) fun t =>
    Sent s t (.ans { req := r.again ((s.fbGen + 1) % 65536), status := 7, value := 0, flags := 0 }) ∧ t.held = [] ∧ t.faults = [] ∧
    KeepsStorage s t := by
  have phys : s.flushed.leafPhys (r.again s.flushed.fbGen) e lvl = none := State.leafPhys_refused store bad
  have refused := State.flushLeaf_refused (s := s.flushed) (r := r.again s.flushed.fbGen) who store phys
  exact ⟨_, (exec_faultFlush_cached current one package enabled cached).trans (congrArg Host.Outcome.next refused), s.flushed.sent_send ..,
    rfl, rfl, rfl, rfl, rfl⟩

theorem answers_faultFlush_performed (owner : pteOwner e = (s.part r.part).owner) (w : pteW e = true)
    (open_ : s.mgmt.quiesced.contains (hbmChan (pteAddr e + r.va % pageBytes lvl)) = false) (quiet : ∀ f ∈ s.flight, f.msg.NoRequest)
    (clean : partialPoison s.poison (hbmKey (pteAddr e + r.va % pageBytes lvl)) r.size = none) : Answers (exec .faultFlush s) fun t =>
      StoreDone s.flushed t { r.again s.flushed.fbGen with phys := some (hbmKey (pteAddr e + r.va % pageBytes lvl)) }
        (hbmKey (pteAddr e + r.va % pageBytes lvl)) := by
  have phys : s.flushed.leafPhys (r.again s.flushed.fbGen) e lvl = some (pteAddr e + r.va % pageBytes lvl) :=
    State.leafPhys_allowed owner fun _ => w
  have performs := State.flushLeaf_performed (s := s.flushed) (r := r.again s.flushed.fbGen) who phys package open_ quiet rfl
  exact ⟨_, (exec_faultFlush_cached current one package enabled cached).trans (congrArg Host.Outcome.next performs),
    storeDone_agentPerform who store clean⟩

end

end

/-! ### XINV (R355) -/

/-- An invalidation leaves just the leaves it does not name. -/
theorem State.mem_dropLeaves (s : State) (p vpn : Nat) (all : Bool) (c : Nat × Nat × Nat × Nat × Nat) : c ∈ (s.dropLeaves p vpn all).tlb ↔
    c ∈ s.tlb ∧ ¬ (c.2.1 = p ∧ (all = true ∨ c.2.2.2.1 = vpn * 65536 / pageBytes c.2.2.1)) := by
  simp only [State.dropLeaves, List.mem_filter, Bool.not_eq_true', Bool.and_eq_false_iff, Bool.or_eq_false_iff, beq_eq_false_iff_ne, not_and_or,
    not_or, Bool.not_eq_true, ne_eq]

theorem answers_xinv {s : State} {i : Instr} {p vpn : Nat} {all : Bool} (run : exec i s = .next (s.xinv p vpn all)) :
    Answers (exec i s) fun t => t.xinvBusy = true ∧ Sent s t (.xinvDone p vpn all) ∧ KeepsStorage s t ∧
      ∀ c, c ∈ t.tlb ↔ c ∈ s.tlb ∧ ¬ (c.2.1 = p ∧ (all = true ∨ c.2.2.2.1 = vpn * 65536 / pageBytes c.2.2.1)) :=
  ⟨_, run, rfl, State.sent_send { s.dropLeaves p vpn all with xinvBusy := true } .., ⟨rfl, rfl, rfl⟩, s.mem_dropLeaves p vpn all⟩

theorem answers_xinvPage (s : State) : Answers (exec .xinvPage s) fun t =>
    t.xinvBusy = true ∧ Sent s t (.xinvDone s.ev.num (s.ev.a % 2 ^ 32) false) ∧ KeepsStorage s t ∧
    ∀ c, c ∈ t.tlb ↔ c ∈ s.tlb ∧ ¬ (c.2.1 = s.ev.num ∧ c.2.2.2.1 = s.ev.a % 2 ^ 32 * 65536 / pageBytes c.2.2.1) := by
  obtain ⟨t, run, busy, sent, keeps, leaves⟩ := answers_xinv (i := .xinvPage) (s := s) rfl
  simp only [Bool.false_eq_true, false_or] at leaves
  exact ⟨t, run, busy, sent, keeps, leaves⟩

theorem answers_xinvAll (s : State) : Answers (exec .xinvAll s) fun t => t.xinvBusy = true ∧ Sent s t (.xinvDone s.ev.num 0 true) ∧
    KeepsStorage s t ∧ ∀ c, c ∈ t.tlb ↔ c ∈ s.tlb ∧ c.2.1 ≠ s.ev.num := by
  obtain ⟨t, run, busy, sent, keeps, leaves⟩ := answers_xinv (i := .xinvAll) (s := s) rfl
  simp only [true_or, and_true] at leaves
  exact ⟨t, run, busy, sent, keeps, leaves⟩

section
variable {s : State} {p vpn : Nat} {all : Bool} (arrived : s.arrived = some (.xinvDone p vpn all))
include arrived

theorem xinvDone_waits (open_ : s.translatedDone = false) : exec .xinvDone s = .next s := by
  simp only [exec, execXinvDone, arrived, open_, Bool.false_eq_true, if_false]

theorem answers_xinvDone (done : s.translatedDone = true) : Answers (exec .xinvDone s) fun t =>
    t.xinvBusy = false ∧ { t with flight := s.flight, xinvBusy := s.xinvBusy, tlb := s.tlb } = s ∧ t.flight = s.taken.flight ∧
    ∀ c, c ∈ t.tlb ↔ c ∈ s.tlb ∧ ¬ (c.2.1 = p ∧ (all = true ∨ c.2.2.2.1 = vpn * 65536 / pageBytes c.2.2.1)) := by
  refine ⟨{ s.taken.dropLeaves p vpn all with xinvBusy := false }, ?_, rfl, rfl, rfl, s.mem_dropLeaves p vpn all⟩
  simp only [exec, execXinvDone, arrived, done, if_true]

end

/-- Settles O41: each step of translation has its lemma above, by the request, the table entry or the write it acts on. -/
theorem translationSteps : Obligations.TranslationSteps := by
  intro s took
  refine ⟨fun r k u arrived who => ⟨packageRequest_waits arrived who, fun key ready phys =>
      ⟨answers_packageRequest_read arrived who ready phys, answers_packageRequest_store arrived who ready phys⟩, fun ready phys first =>
      ⟨answers_packageRequest_walks arrived ready phys first, answers_packageRequest_disabled arrived who ready phys first,
        answers_packageRequest_uncovered arrived who ready phys first⟩⟩,
    fun r k u arrived who clean => ⟨fun v store gen room lvl at64 =>
        answers_tableRead_fault arrived (State.tableStep_invalid clean v) who store gen room (by decide) lvl at64, fun v good =>
      ⟨fun pointer => answers_tableRead_pointer arrived (State.tableStep_pointer clean v good pointer),
        fun leaf owner w => answers_tableRead_leaf arrived (State.tableStep_leaf clean v good leaf) (State.leafPhys_allowed owner w),
        fun leaf owner store => answers_tableRead_refused arrived (State.tableStep_leaf clean v good leaf) who store
          (State.leafPhys_refused store (.inl owner))⟩⟩,
    faultFlush_other_generation, fun current => ⟨answers_faultFlush_generation current, answers_faultFlush_empty current,
      fun r k u one who store package => ⟨answers_faultFlush_disabled current one who store package, fun lvl e enabled cached =>
        ⟨answers_faultFlush_refused current one who store package enabled cached, fun owner w open_ idle clean => ?_⟩⟩⟩,
    answers_xinvPage s, answers_xinvAll s, fun p vpn all arrived => ⟨xinvDone_waits arrived, answers_xinvDone arrived⟩⟩
  have quiet : ∀ f ∈ s.flight, f.msg.NoRequest := by
    intro f hf r
    have none_ := List.all_eq_true.1 idle f hf
    constructor <;> (intro msg; rw [msg] at none_; cases none_)
  obtain ⟨t, run, sent, -, held, faults, data, rest⟩ :=
    answers_faultFlush_performed current one who store package enabled cached owner w open_ quiet clean
  exact ⟨t, run, sent, held, faults, data, rest⟩

end Sys2Proof.Machine
end

section
/-! Storage loss: a slice bank of a layer that is no compute layer loses its counted errors (refutes O49). -/

open Sys2Proof

namespace Sys2Proof.Machine

/-- The bank that a slice loss at stack ev.num and layer ev.a concerns: for a layer that is no compute layer, one of the stack's first die. -/
def State.lossOfSlice (s : State) (key : Nat) : Bool :=
  lostBank (s.ev.num % 2) (s.ev.a % 8) (s.dieOfLayer (s.ev.num % 2) (s.ev.a % 8)) 0 (s.ev.c % 20480) key

/-- A slice loss on a layer that is no compute layer takes no storage out of use, but what is counted for the bank starts afresh (R385). -/
theorem exec_storageLoss_slice_memory {s : State} (slice : s.ev.b = 0) (memory : s.isCompute (s.ev.num % 2) (s.ev.a % 8) = false) :
    exec .storageLoss s = .next (s.forgetErrs s.lossOfSlice) := by
  have memory' : (s.forgetErrs s.lossOfSlice).isCompute (s.ev.num % 2) (s.ev.a % 8) = false := memory
  simp only [exec, execStorageLoss, slice]
  exact congrArg Host.Outcome.next (if_neg (Bool.eq_false_iff.1 memory'))

/-- One poisoned granule has been reported from the first bank of tile (0, 0) of die 0; layer 0 of its stack is a memory layer. -/
def countedBank : State := { State.reset with mgmt := { Mgmt.fresh with errLog := [(sliceBankKey 0 0, [(1, 0)])] } }

/-- Refutes O49: a slice loss that names memory layer 0 of stack 0 makes the core forget the error counted for a bank of die 0, where the statement
has nothing change. -/
theorem not_swapAndRoleSteps : ¬ Obligations.SwapAndRoleSteps := by
  intro h
  obtain ⟨-, -, -, -, ⟨-, -, memory, -⟩, -⟩ := h countedBank
  have layer : countedBank.isCompute (countedBank.ev.num % 2) (countedBank.ev.a % 8) = false := by decide
  have same : exec .storageLoss countedBank = .next countedBank := memory (by decide) layer
  rw [exec_storageLoss_slice_memory (by decide) layer] at same
  have forgotten : (countedBank.forgetErrs countedBank.lossOfSlice).mgmt.errLog = [] := by decide
  have kept : (countedBank.forgetErrs countedBank.lossOfSlice).mgmt.errLog = [(sliceBankKey 0 0, [(1, 0)])] :=
    congrArg (fun u => u.mgmt.errLog) (Host.Outcome.next.inj same)
  cases forgotten.symm.trans kept

end Sys2Proof.Machine
end

section
/-! Launch tables: what the end of a launch and the reservation of its tables leave, and what an image is read from (for O47). -/

open Sys2Proof

namespace Sys2Proof.Machine

/-! ### Folds -/

/-- A fold keeps every reading that each of its steps keeps. -/
theorem foldl_keeps {σ α β : Type} {g : σ → β} {f : σ → α → σ} (h : ∀ s a, g (f s a) = g s) (l : List α) (s : σ) :
    g (l.foldl f s) = g s :=
  List.foldlRecOn (motive := fun r => g r = g s) l f rfl fun b hb a _ => (h b a).trans hb

/-! ### One entry of a table after its update -/

theorem State.die_updDie_same (s : State) (d : Nat) (f : Die → Die) : (s.updDie d f).die d = f (s.die d) := tget_tset_same ..

theorem State.die_updDie_of_ne (s : State) {d e : Nat} (h : e ≠ d) (f : Die → Die) : (s.updDie d f).die e = s.die e := tget_tset_ne _ _ _ h

theorem State.queue_updQueue (s : State) (q k : Nat) (f : Queue → Queue) :
    (s.updQueue q f).queue k = if k = q then f (s.queue q) else s.queue k := tget_tset ..

/-! ### The image of a launch is read from memory and its partition alone (R316) -/

section
variable {s t : State} (mem : t.mem = s.mem) (poison : t.poison = s.poison)
include mem poison

theorem State.walkTable_congr (p : Part) (va : Nat) : ∀ n tbl, t.walkTable p va n tbl = s.walkTable p va n tbl := by
  have load (k : Nat) : t.load k 8 = s.load k 8 := congrArg (readMem · k 8) mem
  intro n
  induction n with
  | zero => exact fun _ => rfl
  | succ n ih => exact fun tbl => by rw [State.walkTable, State.walkTable, load, poison, ih]

theorem State.xlate_congr (parts : t.parts = s.parts) (p va : Nat) (w : Bool) : t.xlate p va w = s.xlate p va w := by
  have part : t.part p = s.part p := congrArg (tget Part.fresh · p) parts
  rw [State.xlate, State.xlate, part, State.walkTable_congr mem poison]

theorem State.readPkg_congr (parts : t.parts = s.parts) (p va n : Nat) : t.readPkg p va n = s.readPkg p va n := by
  simp only [State.readPkg, State.xlate_congr mem poison parts, mem, poison]

theorem State.imageOf_congr (parts : t.parts = s.parts) (l : Launch) : t.imageOf l = s.imageOf l := by
  have part : t.part l.part = s.part l.part := congrArg (tget Part.fresh · l.part) parts
  simp only [State.imageOf, State.readPkg_congr mem poison parts, part]

end

/-! ### Reserving tables (R289, R311) -/

/-- From state s to state t launch lid has got group-table entries and counters, and nothing else has changed. -/
structure Reserves (lid : Nat) (s t : State) : Prop where
  rest : { t with launches := s.launches, counters := s.counters, roots := s.roots } = s
  launch : ∃ es cs, t.launch lid = { s.launch lid with entries := es, ctrs := cs }

theorem Reserves.dies {lid : Nat} {s t : State} (h : Reserves lid s t) : t.dies = s.dies := (congrArg State.dies h.rest :)
theorem Reserves.flight {lid : Nat} {s t : State} (h : Reserves lid s t) : t.flight = s.flight := (congrArg State.flight h.rest :)
theorem Reserves.now {lid : Nat} {s t : State} (h : Reserves lid s t) : t.now = s.now := (congrArg State.now h.rest :)
theorem Reserves.tiles {lid : Nat} {s t : State} (h : Reserves lid s t) : t.tiles = s.tiles := (congrArg State.tiles h.rest :)
theorem Reserves.mem {lid : Nat} {s t : State} (h : Reserves lid s t) : t.mem = s.mem := (congrArg State.mem h.rest :)

theorem Reserves.refl (lid : Nat) (s : State) : Reserves lid s s := ⟨rfl, _, _, rfl⟩

theorem Reserves.trans {lid : Nat} {s t u : State} (h : Reserves lid s t) (h' : Reserves lid t u) : Reserves lid s u := by
  obtain ⟨rest, es, cs, launch⟩ := h
  obtain ⟨rest', es', cs', launch'⟩ := h'
  refine ⟨?_, es', cs', by rw [launch', launch]⟩
  rw [← rest'] at rest
  exact rest

theorem reserves_updLaunch {lid : Nat} {s : State} {f : Launch → Launch} (h : ∀ l, { f l with entries := l.entries, ctrs := l.ctrs } = l) :
    Reserves lid s (s.updLaunch lid f) := by
  let back (l : Launch) : Launch := { l with entries := (f (s.launch lid)).entries, ctrs := (f (s.launch lid)).ctrs }
  have same := congrArg back (h (s.launch lid))
  exact ⟨rfl, _, _, (s.launch_updLaunch_same lid f).trans same⟩

theorem reserves_armAt (lid : Nat) (s : State) (k r idx x armer : Nat) : Reserves lid s (s.armAt k r idx x armer) := by
  unfold State.armAt State.joinDom
  dsimp only
  split <;> exact ⟨rfl, _, _, rfl⟩

theorem reserves_bindOne {s t : State} {lid idx : Nat} {c : Option (Nat × Nat)} {r : Option Nat} (h : s.bindOne lid idx c r = some t) :
    Reserves lid s t := by
  obtain ⟨c, -, h⟩ := Option.bind_eq_some_iff.1 h
  obtain ⟨k, -, rfl⟩ := Option.map_eq_some_iff.1 h
  have bound : Reserves lid s ((s.updLaunch lid fun l => { l with ctrs := tset l.ctrs idx k }).updCounter k fun _ =>
      { Counter.fresh with index := idx, lid := lid }) :=
    (reserves_updLaunch (f := fun l => { l with ctrs := tset l.ctrs idx k }) fun _ => rfl).trans ⟨rfl, _, _, rfl⟩
  dsimp only
  split
  · exact bound.trans (reserves_armAt ..)
  · exact bound

theorem reserves_bindAll {s t : State} {lid idx : Nat} {l : List (List (Option (Nat × Nat)) × Option Nat)} (h : s.bindAll lid idx l = some t) :
    Reserves lid s t := by
  induction l generalizing s idx with
  | nil => cases h; exact .refl lid _
  | cons x l ih =>
    unfold State.bindAll at h
    split at h
    · cases h
    · next u hu =>
      have first := foldl_bind_keeps (P := Reserves lid _) (fun _ _ _ hb hc => hb.trans (reserves_bindOne hc)) (Reserves.refl lid _) hu
      exact first.trans (ih h)

theorem reserves_reserveTables {s t : State} {lid : Nat} {img : List Byte} {ss : List Section} (h : s.reserveTables lid img ss = some t) :
    Reserves lid s t :=
  (reserves_updLaunch (f := fun l => { l with entries := (l.readEntries img ss).map Prod.fst }) fun _ => rfl).trans (reserves_bindAll h)

/-! ### The end of a launch (R234, R303, R307) -/

/-- A launch whose parent has ended, if that was lid, has none. -/
def Launch.orphaned (lid : Nat) (l : Launch) : Launch := if l.parent == lid && lid != 0 then { l with parent := 0, ended := false } else l

/-- A launch's record once it has completed. -/
def Launch.finished (l : Launch) (now : Nat) (ended : Bool) (cycles : Nat) : Launch :=
  { l with st := .done, endSt := if ended || l.damaged then 1 else 0, cycles := cycles, ended := l.parent != 0, told := false, marked := false,
           t0 := now - cycles }

section
variable (s : State) (lid : Nat) (ended : Bool) (cycles : Nat)

theorem State.finishLaunch_rest : { s.finishLaunch lid ended cycles with
    queues := s.queues, launches := s.launches, preempt := s.preempt, lendBusy := s.lendBusy, lendStat := s.lendStat } = s := by
  simp only [State.finishLaunch]
  split <;> rfl

@[simp] theorem State.finishLaunch_tiles : (s.finishLaunch lid ended cycles).tiles = s.tiles :=
  (congrArg State.tiles (s.finishLaunch_rest lid ended cycles) :)
@[simp] theorem State.finishLaunch_dies : (s.finishLaunch lid ended cycles).dies = s.dies :=
  (congrArg State.dies (s.finishLaunch_rest lid ended cycles) :)
@[simp] theorem State.finishLaunch_counters : (s.finishLaunch lid ended cycles).counters = s.counters :=
  (congrArg State.counters (s.finishLaunch_rest lid ended cycles) :)

theorem State.launch_finishLaunch :
    (s.finishLaunch lid ended cycles).launch lid = ((s.launch lid).finished s.now ended cycles).orphaned lid := by
  have none_ : Launch.fresh.orphaned lid = Launch.fresh := by
    unfold Launch.orphaned
    split <;> rfl
  have all (l : Tbl Launch) : l.map (fun p => if p.2.parent == lid && lid != 0 then (p.1, { p.2 with parent := 0, ended := false }) else p) =
      l.map fun p => (p.1, p.2.orphaned lid) := by
    refine List.map_congr_left fun p _ => ?_
    unfold Launch.orphaned
    split <;> rfl
  simp only [State.finishLaunch, State.launch, all, tget_map _ _ none_]
  refine congrArg (Launch.orphaned lid) ?_
  split <;> exact State.launch_updLaunch_same ..

theorem Launch.orphaned_outcome (l : Launch) :
    (l.orphaned lid).st = l.st ∧ (l.orphaned lid).endSt = l.endSt ∧ (l.orphaned lid).cycles = l.cycles := by
  unfold Launch.orphaned
  split <;> exact ⟨rfl, rfl, rfl⟩

/-- A completed launch is done, with the STATUS and the CYCLES of its entry (R234). -/
theorem State.outcome_finishLaunch : let l := (s.finishLaunch lid ended cycles).launch lid
    l.st = .done ∧ l.endSt = (if ended || (s.launch lid).damaged then 1 else 0) ∧ l.cycles = cycles := by
  rw [State.launch_finishLaunch]
  exact Launch.orphaned_outcome lid _

end

end Sys2Proof.Machine
end

section
/-! Distribution and placement: what DISPATCH_DISTRIBUTE and LAUNCH_PLACED leave (R307, R312, R315 to R317; clauses of O47). -/

open Sys2Proof

namespace Sys2Proof.Machine

/-! ### DISPATCH_DISTRIBUTE (R317) -/

section
variable {s : State}

theorem dispatchDistribute_none (pick : s.pick = none) : exec .dispatchDistribute s = .next s := by
  simp only [exec, execDispatchDistribute, pick]

theorem answers_dispatchDistribute_err {q : Nat} (pick : s.pick = some (.queue q, .err)) : Answers (exec .dispatchDistribute s) fun t =>
    (∀ k, t.queue k = if k = q then { s.queue k with err := true, en := false } else s.queue k) ∧ { t with queues := s.queues } = s := by
  refine ⟨s.updQueue q fun d => { d with err := true, en := false }, ?_, fun k => ?_, rfl⟩
  · simp only [exec, execDispatchDistribute, pick]
  · rw [State.queue_updQueue]
    exact ite_congr rfl (fun same => by rw [same]) fun _ => rfl

/-- A launch's entry has left the pool of a die. -/
def State.unpooled (s : State) (d x : Nat) : State := s.updDie d fun y => { y with pool := y.pool.filter (· != x) }

theorem State.pool_unpooled (s : State) (d x : Nat) : ((s.unpooled d x).die d).pool = (s.die d).pool.filter (· != x) :=
  congrArg Die.pool (s.die_updDie_same d _)

/-- A launch as its distribution to dies leaves its record. -/
def State.placingOn (s : State) (x : Nat) (ds : List Nat) : Launch :=
  { s.launch x with st := .placing, dies := ds.map s.logDie, cur := ds, t0 := s.now }

/-- The tables of a launch reserved for its image, where it has one. -/
def State.reservedFor (s : State) (x : Nat) : Option (List Byte × List Section) → State
  | some (img, ss) => (s.reserveTables x img ss).getD s
  | none => s

theorem State.reserves_reservedFor (s : State) (x : Nat) (i : Option (List Byte × List Section)) : Reserves x s (s.reservedFor x i) := by
  match i with
  | none => exact .refl x s
  | some (img, ss) =>
    show Reserves x s ((s.reserveTables x img ss).getD s)
    cases tables : s.reserveTables x img ss with
    | none => exact .refl x s
    | some u => exact reserves_reserveTables tables

/-- A distributed launch is placing on its dies, its tables are reserved, and its placement follows. -/
theorem State.distribute_eq (s : State) (x : Nat) (ds : List Nat) : ∃ u, Reserves x (s.updLaunch x fun _ => s.placingOn x ds) u ∧
    s.distribute x ds = ({ u with distAt := u.now }).send 1 (.placed x) ∧
    (s.imageOf (s.placingOn x ds) = none → u = s.updLaunch x fun _ => s.placingOn x ds) := by
  let b := s.updLaunch x fun _ => s.placingOn x ds
  have image : b.imageOf (b.launch x) = s.imageOf (s.placingOn x ds) := by
    rw [State.launch_updLaunch_same]
    exact State.imageOf_congr rfl rfl rfl _
  exact ⟨b.reservedFor x (b.imageOf (b.launch x)), b.reserves_reservedFor x _, rfl, fun lost => by rw [image, lost]; rfl⟩

theorem exec_dispatchDistribute_go {d x : Nat} {ds : List Nat} (pick : s.pick = some (.pool d x, .go ds)) :
    exec .dispatchDistribute s = .next ((s.unpooled d x).distribute x ds) := by
  simp only [exec, execDispatchDistribute, pick]
  rfl

theorem answers_dispatchDistribute_go {d x : Nat} {ds : List Nat} (pick : s.pick = some (.pool d x, .go ds)) :
    Answers (exec .dispatchDistribute s) fun t =>
      (t.die d).pool = (s.die d).pool.filter (· != x) ∧ Sent s t (.placed x) ∧
      (t.launch x).st = .placing ∧ (t.launch x).dies = ds.map s.logDie ∧ (t.launch x).cur = ds ∧ (t.launch x).t0 = s.now ∧ t.distAt = s.now ∧
      (s.imageOf (s.placingOn x ds) = none → t.launch x = s.placingOn x ds) ∧ t.tiles = s.tiles ∧ t.mem = s.mem := by
  obtain ⟨u, reserves, run, lost⟩ := (s.unpooled d x).distribute_eq x ds
  obtain ⟨es, cs, launch⟩ := reserves.launch
  have now : u.now = s.now := reserves.now
  have record : u.launch x = { s.placingOn x ds with entries := es, ctrs := cs } := by
    rw [launch, State.launch_updLaunch_same]
    rfl
  refine ⟨({ u with distAt := u.now }).send 1 (.placed x), (exec_dispatchDistribute_go pick).trans (congrArg Host.Outcome.next run), ?_, ?_,
    congrArg Launch.st record, congrArg Launch.dies record, congrArg Launch.cur record, congrArg Launch.t0 record, now, fun none_ => ?_,
    reserves.tiles, reserves.mem⟩
  · rw [← State.pool_unpooled]
    exact congrArg (fun l => (tget Die.fresh l d).pool) reserves.dies
  · obtain ⟨f, sent, msg, due⟩ := ({ u with distAt := u.now } : State).sent_send 1 (.placed x)
    exact ⟨f, sent.trans (congrArg (· ++ [f]) reserves.flight), msg, now ▸ due⟩
  · have image : (s.unpooled d x).imageOf ((s.unpooled d x).placingOn x ds) = none := (State.imageOf_congr rfl rfl rfl _).trans none_
    have same : u.launch x = (s.unpooled d x).placingOn x ds := by rw [lost image, State.launch_updLaunch_same]
    exact same

theorem exec_dispatchDistribute_bad {d x : Nat} (pick : s.pick = some (.pool d x, .bad)) :
    exec .dispatchDistribute s = .next ((s.unpooled d x).finishLaunch x true 0) := by
  simp only [exec, execDispatchDistribute, pick]
  rfl

theorem answers_dispatchDistribute_bad {d x : Nat} (pick : s.pick = some (.pool d x, .bad)) : Answers (exec .dispatchDistribute s) fun t =>
    (t.die d).pool = (s.die d).pool.filter (· != x) ∧ (t.launch x).st = .done ∧ (t.launch x).endSt = 1 ∧ (t.launch x).cycles = 0 ∧
    t.tiles = s.tiles ∧ t.mem = s.mem := by
  obtain ⟨done, endSt, cycles⟩ := (s.unpooled d x).outcome_finishLaunch x true 0
  refine ⟨_, exec_dispatchDistribute_bad pick, ?_, done, endSt, cycles, State.finishLaunch_tiles .., State.finishLaunch_mem ..⟩
  rw [← State.pool_unpooled, State.die, State.finishLaunch_dies]
  rfl

end

/-! ### LAUNCH_PLACED (R312, R315) -/

/-- A change of storage alone: its bytes and its poison. -/
def Stores (s t : State) : Prop := ∃ m p, t = { s with mem := m, poison := p }

theorem Stores.trans {s t u : State} (h : Stores s t) (h' : Stores t u) : Stores s u := by
  obtain ⟨_, _, rfl⟩ := h
  obtain ⟨m, p, rfl⟩ := h'
  exact ⟨m, p, rfl⟩

theorem stores_foldl {α : Type} {f : State → α → State} (h : ∀ s a, Stores s (f s a)) (l : List α) (s : State) : Stores s (l.foldl f s) :=
  List.foldlRecOn (motive := Stores s) l f ⟨_, _, rfl⟩ fun b hb a _ => hb.trans (h b a)

theorem stores_loadBytes (s : State) (key : Nat → Nat) (off : Nat) (b : List Byte) : Stores s (s.loadBytes key off b) :=
  stores_foldl (fun _ _ => ⟨_, _, rfl⟩) _ s

theorem stores_loadLaunch (s : State) (l : Launch) (img : List Byte) (ss : List Section) : Stores s (s.loadLaunch l img ss) := by
  have bytes {α : Type} (key : State → α → Nat → Nat) (l : List α) (off : Nat) (b : List Byte) (s : State) :
      Stores s (l.foldl (fun s t => s.loadBytes (key s t) off b) s) := stores_foldl (fun _ _ => stores_loadBytes ..) l s
  have zeros (s : State) (k n : Nat) : Stores s (s.zeroRange k n) := ⟨_, _, rfl⟩
  simp only [State.loadLaunch]
  refine (((stores_foldl (fun _ _ => zeros ..) _ s).trans (stores_foldl (fun _ _ => ?_) _ _)).trans (stores_foldl (fun _ _ => ?_) _ _)).trans
    (stores_foldl (fun s x => ?_) _ _)
  · exact stores_foldl (fun _ _ => zeros ..) _ _
  · exact stores_foldl (fun _ _ => zeros ..) _ _
  · split
    · exact bytes State.sliceKey ..
    · exact bytes State.sliceKey ..
    · exact bytes State.groupByteKey ..
    · exact bytes State.groupByteKey ..
    · exact bytes State.dieByteKey ..
    · exact bytes State.dieByteKey ..
    · exact ⟨_, _, rfl⟩

section
variable {f : State → Nat → Tile → Tile} {P : Tile → Prop} {k : Nat} (h : ∀ s tl, P (f s k tl))
include h

/-- Updates of tiles in turn keep what every update of a tile gives. -/
theorem tile_foldl_updTile_keeps {s : State} (hs : P (s.tile k)) (l : List Nat) : P ((l.foldl (fun s t => s.updTile t (f s t)) s).tile k) :=
  List.foldlRecOn (motive := fun s : State => P (s.tile k)) l _ hs fun b hb t _ => by
    rw [State.tile_updTile]
    split
    · next same => exact same ▸ h ..
    · exact hb

/-- Each tile of a list that is updated in turn has what every update of it gives. -/
theorem tile_foldl_updTile {l : List Nat} (mem : k ∈ l) (s : State) : P ((l.foldl (fun s t => s.updTile t (f s t)) s).tile k) := by
  induction l generalizing s with
  | nil => cases mem
  | cons t l ih =>
    rcases List.mem_cons.1 mem with rfl | later
    · exact tile_foldl_updTile_keeps h (by rw [State.tile_updTile_same]; exact h ..) l
    · exact ih later _

end

theorem Tile.slot_cleared (tl : Tile) (u : Nat) : tl.cleared.slot u = (tl.slot u).freed := tget_map Slot.fresh Slot.freed rfl tl.slots u

/-- A tile of a launch that has just been placed holds it, with the phase bits of its levels, no thread and no entry (R312). -/
def Tile.Placed (x : Nat) (l : Launch) (tl : Tile) : Prop :=
  tl.lid = x ∧ tl.phase = BitVec.ofNat 4 l.levels ∧ tl.inbox = [] ∧ tl.parkCap = l.parkCap ∧ ∀ u, (tl.slot u).st = .free

theorem Launch.placed_tile0 (l : Launch) (x now : Nat) (rs : List (Nat × Nat × Nat × Nat × Bool × Nat)) (twin : Bool) (k : Nat) (tl : Tile) :
    (l.tile0 x now rs twin k tl).Placed x l :=
  ⟨rfl, rfl, rfl, rfl, fun u => congrArg Slot.st (tl.slot_cleared u)⟩

section
variable {s : State} {x : Nat} (arrived : s.arrived = some (.placed x))
include arrived

theorem launchPlaced_late (late : (s.launch x).st ≠ .placing) : exec .launchPlaced s = .next s.taken := by
  simp only [exec, execLaunchPlaced, arrived]
  exact congrArg Host.Outcome.next (if_pos late)

variable (placing : (s.launch x).st = .placing)
include placing

theorem exec_launchPlaced : exec .launchPlaced s = .next (match s.imageOf (s.launch x) with
    | some (img, ss) => if (s.launch x).allTiles.any s.fenced then s.taken.endUnrun x else s.taken.placeLaunch x img ss
    | none => s.taken.endUnrun x) := by
  have image : s.taken.imageOf (s.launch x) = s.imageOf (s.launch x) := State.imageOf_congr rfl rfl rfl _
  simp only [exec, execLaunchPlaced, arrived]
  refine congrArg Host.Outcome.next ((if_neg (not_not.2 placing)).trans ?_)
  rw [← image] <;> rfl

theorem answers_launchPlaced_lost (lost : s.imageOf (s.launch x) = none) : Answers (exec .launchPlaced s) fun t =>
    (t.launch x).st = .done ∧ (t.launch x).endSt = 1 ∧ t.tiles = s.tiles ∧ t.mem = s.mem := by
  have run := exec_launchPlaced arrived placing
  rw [lost] at run
  obtain ⟨done, endSt, -⟩ := (s.taken.releaseTables x).outcome_finishLaunch x true 0
  exact ⟨_, run, done, endSt, State.finishLaunch_tiles .., State.finishLaunch_mem ..⟩

theorem answers_launchPlaced {img : List Byte} {ss : List Section} (image : s.imageOf (s.launch x) = some (img, ss))
    (single : (s.launch x).twin = false) (whole : (s.launch x).allTiles.any s.fenced = false) : Answers (exec .launchPlaced s) fun t =>
      (t.launch x).st = .running ∧ ∀ k ∈ (s.launch x).tiles, (t.tile k).Placed x (s.launch x) := by
  let l : Launch := { s.launch x with st := .running, regions := (s.launch x).regions0 ss, tts := (s.launch x).readTts img ss }
  let f (b : State) (t : Nat) : Tile → Tile := l.tile0 x b.now (l.readRoutines img ss) false t
  obtain ⟨m, p, loaded⟩ := stores_loadLaunch (s.taken.updLaunch x fun _ => l) l img ss
  let b := l.tiles.foldl (fun b t => b.updTile t (f b t)) ((s.taken.updLaunch x fun _ => l).loadLaunch l img ss)
  have launches : b.launches = (s.taken.updLaunch x fun _ => l).launches :=
    (foldl_keeps (g := State.launches) (f := fun b t => b.updTile t (f b t)) (fun _ _ => rfl) _ _).trans (by rw [loaded])
  have alone : (s.taken.launch x).twin = false := single
  have parts : (s.taken.placeLaunch x img ss).launches = b.launches ∧ (s.taken.placeLaunch x img ss).tiles = b.tiles := by
    simp only [State.placeLaunch]
    rw [if_neg (Bool.eq_false_iff.1 alone)]
    exact ⟨rfl, rfl⟩
  have run := exec_launchPlaced arrived placing
  simp only [image, whole, Bool.false_eq_true, if_false] at run
  refine ⟨_, run, ?_, fun k hk => ?_⟩
  · rw [State.launch, parts.1, launches]
    exact congrArg Launch.st (s.taken.launch_updLaunch_same x fun _ => l)
  · rw [State.tile, parts.2]
    exact tile_foldl_updTile (P := Tile.Placed x (s.launch x)) (fun b tl => l.placed_tile0 x b.now _ false k tl) hk _

end

end Sys2Proof.Machine
end

section
/-! Completion and pre-emption requests: what a completed launch releases, the entry of a child, TAIL, and c:STARV (R27, R234, R307, R326,
R327; clauses of O47). -/

open Sys2Proof

namespace Sys2Proof.Machine

/-! ### What a launch releases (R27, R303) -/

/-- A tile once launch lid has been released. -/
def Tile.releasedBy (lid : Nat) (tl : Tile) : Tile := if tl.lid = lid then tl.cleared else tl

theorem Tile.lid_releasedBy {lid : Nat} (h : lid ≠ 0) (tl : Tile) : (tl.releasedBy lid).lid ≠ lid := by
  unfold Tile.releasedBy
  split
  · exact h.symm
  · next other => exact other

section
variable (s : State) (lid : Nat)

theorem State.tile_releaseLaunch (k : Nat) : (s.releaseLaunch lid).tile k = (s.tile k).releasedBy lid := by
  have none_ : Tile.fresh.releasedBy lid = Tile.fresh := by
    unfold Tile.releasedBy
    split <;> rfl
  have all : (s.releaseLaunch lid).tiles = s.tiles.map fun t => (t.1, t.2.releasedBy lid) := by
    refine List.map_congr_left fun t _ => ?_
    unfold Tile.releasedBy
    split <;> rfl
  rw [State.tile, all, tget_map _ _ none_, State.tile]

theorem State.launch_releaseLaunch : (s.releaseLaunch lid).launch lid = { s.launch lid with entries := [], ctrs := [] } :=
  State.launch_updLaunch_same ..

theorem State.counters_releaseLaunch : ∀ c ∈ (s.releaseLaunch lid).counters, c.2.lid ≠ lid := fun c hc => by
  simpa using (List.mem_filter.1 hc).2

/-- Released and completed, a launch holds no tile and no counter, and nothing in storage has changed. -/
theorem State.released_finishLaunch (h : lid ≠ 0) (ended : Bool) (cycles : Nat) : let t := (s.releaseLaunch lid).finishLaunch lid ended cycles
    (∀ k, (t.tile k).lid ≠ lid) ∧ (∀ c ∈ t.counters, c.2.lid ≠ lid) ∧ t.mem = s.mem := by
  refine ⟨fun k => ?_, fun c hc => ?_, State.finishLaunch_mem ..⟩
  · rw [State.tile, State.finishLaunch_tiles, ← State.tile, State.tile_releaseLaunch]
    exact Tile.lid_releasedBy h _
  · rw [State.finishLaunch_counters] at hc
    exact s.counters_releaseLaunch lid c hc

end

/-! ### LAUNCH_COMPLETE (R27) -/

section
variable {s : State}

theorem launchComplete_waits (busy : s.launchDone s.ev.num = false) : exec .launchComplete s = .next s := by
  simp only [exec, execLaunchComplete, busy, Bool.false_eq_true, if_false]

theorem answers_launchComplete (done : s.launchDone s.ev.num = true) (known : s.ev.num ≠ 0) : Answers (exec .launchComplete s) fun t =>
    (t.launch s.ev.num).st = .done ∧ (t.launch s.ev.num).endSt = (if (s.launch s.ev.num).damaged then 1 else 0) ∧
    (t.launch s.ev.num).cycles = s.now - (s.launch s.ev.num).t0 ∧ (∀ k, (t.tile k).lid ≠ s.ev.num) ∧
    (∀ c ∈ t.counters, c.2.lid ≠ s.ev.num) ∧ t.mem = s.mem := by
  obtain ⟨st, endSt, cycles⟩ := (s.releaseLaunch s.ev.num).outcome_finishLaunch s.ev.num false (s.now - (s.launch s.ev.num).t0)
  rw [State.launch_releaseLaunch] at endSt
  refine ⟨_, ?_, st, endSt, cycles, s.released_finishLaunch s.ev.num known false _⟩
  simp only [exec, execLaunchComplete, done, if_true]

/-! ### CHILD_COMPLETION_PLACE (R234) -/

theorem childCompletionPlace_waits (none_ : s.childNext = none) : exec .childCompletionPlace s = .next s := by
  simp only [exec, execChildCompletionPlace, none_]

theorem Launch.ef_entry {l : Launch} {x : Nat} (hx : x < 65536) (hend : l.endSt < 256) :
    ef (l.entry x) 0 2 = 3 ∧ ef (l.entry x) 2 2 = x ∧ ef (l.entry x) 4 1 = l.endSt ∧ ef (l.entry x) 16 8 = l.cycles % 2 ^ 64 := by
  have hchnd : l.chnd < 256 := Nat.mod_lt _ (by decide)
  simp only [ef, nf, Launch.entry, mkEntry, BitVec.toNat_ofNat]
  generalize l.chnd = c at *
  omega

theorem exec_childCompletionPlace {x k : Nat} (next : s.childNext = some x) (one : s.childTiles (s.launch x) = [k]) (lend : s.lendBusy ≠ x) :
    exec .childCompletionPlace s = .next
      ((s.placeInbox k ((s.launch x).entry x) (nw (s.launch x).carg)).updLaunch x fun l => { l with told := true }) := by
  simp only [exec, execChildCompletionPlace, next, one]
  exact congrArg Host.Outcome.next (if_neg lend)

theorem answers_childCompletionPlace {x k : Nat} (next : s.childNext = some x) (one : s.childTiles (s.launch x) = [k]) (lend : s.lendBusy ≠ x)
    (hx : x < 65536) (hend : (s.launch x).endSt < 256) : Answers (exec .childCompletionPlace s) fun t => (t.launch x).told = true ∧ t.mem = s.mem ∧
      ∃ e, (t.tile k).inbox = (s.tile k).inbox ++ [e] ∧ ef e 0 2 = 3 ∧ ef e 2 2 = x ∧ ef e 4 1 = (s.launch x).endSt ∧
        ef e 16 8 = (s.launch x).cycles % 2 ^ 64 := by
  refine ⟨_, exec_childCompletionPlace next one lend, congrArg Launch.told (State.launch_updLaunch_same ..), rfl, (s.launch x).entry x, ?_,
    Launch.ef_entry hx hend⟩
  exact (congrArg Tile.inbox (s.tile_placeInbox ..)).trans (Tile.inbox_place ..)

/-! ### QUEUE_TAIL_WRITE (R307) -/

theorem answers_queueTailWrite (s : State) :
    let d := s.queue s.ev.num
    let tail := s.ev.a % 2 ^ 32
    let far := 2 ^ d.lsize < (tail + 2 ^ 32 - d.head) % 2 ^ 32
    Answers (exec .queueTailWrite s) fun t => (¬ far → t.queue s.ev.num = { d with tail := tail }) ∧
      (far → t.queue s.ev.num = { d with tail := tail, err := true, en := false }) ∧ (∀ k, k ≠ s.ev.num → t.queue k = s.queue k) ∧
      { t with queues := s.queues } = s := by
  refine ⟨s.tailWrite s.ev.num s.ev.a, rfl, fun near => ?_, fun far => ?_, fun k other => ?_, rfl⟩
  · exact (tget_tset_same ..).trans (if_neg near)
  · exact (tget_tset_same ..).trans (if_pos far)
  · exact tget_tset_ne _ _ _ other

/-! ### PREEMPT_REQUEST (R326) -/

theorem preemptRequest_waits (none_ : s.preemptPick = none) : exec .preemptRequest s = .next s := by
  simp only [exec, execPreemptRequest, none_]

/-- A launch is the victim of a pre-emption request. -/
def State.requesting (s : State) (v : Nat) : State :=
  { s.updLaunch v fun l => { l with marked := true } with preempt := v, starvSeen := s.starvSeen ||| 2 }

theorem exec_preemptRequest {v d : Nat} (pick : s.preemptPick = some v)
    (one : (s.launch v).cur.filter (s.hasSup (s.launch v).part) = [d]) : exec .preemptRequest s =
      .next ((s.requesting v).updTile (s.supTile (s.launch v).part d) fun tl => tl.ready s.now 1 31 (nw v)) := by
  have dies : (s.launch v).cur.filter ((s.requesting v).hasSup (s.launch v).part) = [d] := one
  simp only [exec, execPreemptRequest, pick]
  exact congrArg (fun l => Host.Outcome.next (l.foldl (fun u d => u.updTile (u.supTile (s.launch v).part d) fun tl => tl.ready u.now 1 31 (nw v))
    (s.requesting v))) dies

/-- A readying from an inbox or an instruction sets the argument unless a later source has readied the slot in the same cycle (R20, R231). -/
theorem Routine.rarg_ready {r : Routine} {src : Nat} (by_ : r.lastBy ≤ src) (now : Nat) (arg : Word) : (r.ready now src arg).rarg = arg :=
  if_neg fun later => absurd later.2 (Nat.not_lt.2 by_)

theorem answers_preemptRequest {v d : Nat} (pick : s.preemptPick = some v)
    (one : (s.launch v).cur.filter (s.hasSup (s.launch v).part) = [d]) : Answers (exec .preemptRequest s) fun t =>
      t.preempt = v ∧ (t.launch v).marked = true ∧ t.mem = s.mem ∧
      (((s.tile (s.supTile (s.launch v).part d)).routine 31).vld = true → ((s.tile (s.supTile (s.launch v).part d)).routine 31).lastBy ≤ 1 →
        ((t.tile (s.supTile (s.launch v).part d)).routine 31).rdy = true ∧
        ((t.tile (s.supTile (s.launch v).part d)).routine 31).rarg = BitVec.ofNat 64 v) := by
  have victim := s.launch_updLaunch_same v fun l => { l with marked := true }
  refine ⟨_, exec_preemptRequest pick one, rfl, congrArg Launch.marked victim, rfl, fun vld by_ => ?_⟩
  have slot := Tile.routine_ready vld s.now 1 (nw v) 31
  rw [if_pos rfl] at slot
  rw [State.tile_updTile_same]
  exact ⟨congrArg Routine.rdy slot, (congrArg Routine.rarg slot).trans (Routine.rarg_ready by_ ..)⟩

/-! ### c:STARV (R327) -/

theorem State.starvSeen_noteWaits (s : State) : s.noteWaits.starvSeen =
    s.starvSeen ||| ((if ∃ c ∈ s.cands, s.candFit c = .wait then 1 else 0) + (if s.preempt = 0 then 0 else 2)) := by
  have waits : (s.cands.any fun c => match s.candFit c with | .wait => true | _ => false) = decide (∃ c ∈ s.cands, s.candFit c = .wait) := by
    rw [Bool.eq_iff_iff, List.any_eq_true, decide_eq_true_iff]
    refine exists_congr fun c => and_congr_right fun _ => ?_
    cases s.candFit c <;> simp
  have outstanding : 2 * b2n (s.preempt != 0) = if s.preempt = 0 then 0 else 2 := by
    by_cases h : s.preempt = 0 <;> simp [h, b2n]
  refine congrArg (s.starvSeen ||| ·) (congrArg₂ (· + ·) ((congrArg b2n waits).trans ?_) outstanding)
  simp [b2n]

theorem answers_starvInterval (s : State) : Answers (exec .starvInterval s) fun t => t.starvAt = s.now ∧ t.starvSeen = 0 ∧
    { t with starv := s.starv, starvAt := s.starvAt, starvSeen := s.starvSeen } = s ∧
    (s.starvSeen = 1 → t.starv = min (s.starv + 1) (2 ^ 32 - 1)) ∧ (s.starvSeen ≠ 1 → t.starv = s.starv) :=
  ⟨_, rfl, rfl, rfl, rfl, fun waited => if_pos waited, fun not_ => if_neg not_⟩

end

end Sys2Proof.Machine
end

section
/-! Pre-emption points and the end of a launch: a quiescent launch's flocks, a write of c:LEND, and the end of the drain (R328, R366; clauses of
O47). -/

open Sys2Proof

namespace Sys2Proof.Machine

/-! ### PREEMPTION_POINT (R366) -/

section
variable {s : State}

theorem preemptionPoint_waits (busy : s.quiescent s.ev.num s.ev.a = false) : exec .preemptionPoint s = .next s := by
  simp only [exec, execPreemptionPoint, busy, Bool.false_eq_true, if_false]

/-- A tile whose slots have left their flocks. -/
def Tile.unflocked (tl : Tile) : Tile := { tl with slots := tl.slots.map fun p => (p.1, p.2.unflock) }

theorem Tile.flk_unflocked (tl : Tile) (u : Nat) : (tl.unflocked.slot u).flk = 0 :=
  (congrArg Slot.flk (tget_map Slot.fresh Slot.unflock (by decide) tl.slots u)).trans (Slot.setFlk_flk _ 0)

@[simp] theorem State.dissolveOn_launches (s : State) (ts : List Nat) : (s.dissolveOn ts).launches = s.launches := by
  have apart (s : State) (t : Nat) :
      ((List.range 8).foldl (fun s u => if (s.slot t u).flk = 1 then s.dissolve t u else s) s).launches = s.launches :=
    foldl_keeps (g := State.launches) (fun s u => by split <;> rfl) _ s
  exact (foldl_keeps (g := State.launches) (f := fun s t => s.updTile t Tile.unflocked) (fun _ _ => rfl) ts _).trans
    (foldl_keeps (g := State.launches) apart ts s)

/-- On a tile whose flocks are dissolved no thread is a member of one (R130). -/
theorem State.flk_dissolveOn (s : State) {ts : List Nat} {k : Nat} (mem : k ∈ ts) (u : Nat) : ((s.dissolveOn ts).slot k u).flk = 0 :=
  tile_foldl_updTile (f := fun _ _ => Tile.unflocked) (P := fun tl => ∀ u, (tl.slot u).flk = 0) (fun _ => Tile.flk_unflocked) mem _ u

theorem answers_preemptionPoint (quiet : s.quiescent s.ev.num s.ev.a = true) : Answers (exec .preemptionPoint s) fun t =>
    (t.launch s.ev.num).atPoint = (s.launch s.ev.num).dieOwn s.ev.a :: (s.launch s.ev.num).atPoint ∧
    (∀ k ∈ (s.launch s.ev.num).tilesAt s.ev.a, ∀ u, (t.slot k u).flk = 0) ∧ t.mem = s.mem := by
  let b := s.dissolveOn ((s.launch s.ev.num).tilesAt s.ev.a)
  have same : b.launch s.ev.num = s.launch s.ev.num := by rw [State.launch, State.dissolveOn_launches, State.launch]
  have reached := b.launch_updLaunch_same s.ev.num fun l => { l with atPoint := l.dieOwn s.ev.a :: l.atPoint }
  rw [same] at reached
  refine ⟨_, ?_, congrArg Launch.atPoint reached, fun k hk u => s.flk_dissolveOn hk u, s.dissolveOn_mem _⟩
  simp only [exec, execPreemptionPoint, quiet, if_true]
  rfl

/-! ### LAUNCH_END (R328) -/

/-- A listed entry of a mapped table. -/
theorem tget_map_listed {α : Type} {d : α} {l : Tbl α} {k : Nat} (h : tget d l k ≠ d) (f : α → α) :
    tget d (l.map fun p => (p.1, f p.2)) k = f (tget d l k) := by
  induction l with
  | nil => exact absurd rfl h
  | cons p r ih =>
    obtain ⟨j, v⟩ := p
    by_cases hj : j = k
    · simp [tget, hj]
    · simp only [tget, hj, if_false, List.map_cons] at h ⊢
      exact ih h

/-- Everything of a state that the jobs of its pens have no part in. -/
def State.besidesPens (s : State) : State := { s with pens := [] }

theorem State.besidesPens_jobLoses (s : State) (r : Req) : (s.jobLoses r).besidesPens = s.besidesPens := by
  unfold State.jobLoses
  split <;> rfl

/-- A running launch with no pending child stops on its tiles and is ending (R328 steps 1 to 3). -/
theorem State.endLaunch_running {s : State} {lid : Nat} (running : (s.launch lid).st = .running)
    (childless : ∀ p ∈ s.launches, p.2.st ≠ .pending) : ∃ u : State,
      u.launches = s.launches ∧ u.tiles = s.tiles.map (fun t => (t.1, t.2.endWork lid)) ∧ u.lendBusy = s.lendBusy ∧ u.lendStat = s.lendStat ∧
      s.endLaunch lid = { u.updLaunch lid fun l => { l with st := .ending } with lendBusy := if u.lendBusy = 0 then lid else u.lendBusy } := by
  have kids : (s.launches.filter fun p => p.2.st == .pending && p.2.parent == lid) = [] :=
    List.filter_eq_nil_iff.2 fun p hp => by simp [childless p hp]
  let b : State := { s with
    dies := s.dies.map fun d => (d.1, d.2.unpool (([] : List Nat).contains ·)),
    tiles := s.tiles.map fun t => (t.1, t.2.endWork lid), pens := s.pens.map fun p => (p.1, p.2.endJobs lid),
    held := s.held.filter fun r => r.lid != lid }
  let u := (s.held.filter fun r => r.lid == lid).foldl (fun s r => s.jobLoses r) b
  have rest : u.besidesPens = b.besidesPens := foldl_keeps State.besidesPens_jobLoses _ b
  refine ⟨u, (congrArg State.launches rest :), (congrArg State.tiles rest :), (congrArg State.lendBusy rest :),
    (congrArg State.lendStat rest :), ?_⟩
  simp only [State.endLaunch, State.endChildren, running, kids, List.map_nil, List.foldl_nil]
  rfl

theorem State.ending_endLaunch {s : State} {lid : Nat} (running : (s.launch lid).st = .running)
    (childless : ∀ p ∈ s.launches, p.2.st ≠ .pending) : ((s.endLaunch lid).launch lid).st = .ending := by
  obtain ⟨u, -, -, -, -, eq⟩ := State.endLaunch_running running childless
  rw [eq]
  exact (congrArg Launch.st (u.launch_updLaunch_same lid fun l => { l with st := .ending }) :)

/-- A tile of an ending launch is held, its engines hold no entry, and every thread of it is stopped (R328). -/
def Tile.Ended (old tl : Tile) : Prop :=
  tl.held = true ∧ tl.seq = [] ∧ tl.mq = [] ∧ ∀ u, (old.slot u).st ≠ .free → (tl.slot u).stopped = true

theorem Tile.ended_endWork {tl : Tile} {lid : Nat} (own : tl.lid = lid) : tl.Ended (tl.endWork lid) := by
  let f (sl : Slot) : Slot := if sl.lid = lid ∧ sl.st ≠ .free then { sl with stopped := true } else { sl with stopped := true }
  have slots : (tl.endWork lid).slots = tl.slots.map fun p => (p.1, f p.2) := by
    simp only [Tile.endWork, own, if_true, Tile.stop, List.map_map]
    rfl
  refine ⟨by simp only [Tile.endWork, own, if_true]; rfl, by simp only [Tile.endWork, own, if_true], by simp only [Tile.endWork, own, if_true],
    fun u live => ?_⟩
  rw [Tile.slot, slots, tget_map_listed fun fresh => live (congrArg Slot.st fresh)]
  exact (apply_ite Slot.stopped _ _ _).trans (ite_self _)

theorem Tile.endWork_fresh {lid : Nat} (h : lid ≠ 0) : Tile.fresh.endWork lid = Tile.fresh := by
  simp only [Tile.endWork]
  rw [if_neg (by exact h.symm)]
  rfl

theorem launchEnd_refused (refused : s.endable s.ev.num (s.ev.a % 65536) = false) : exec .launchEnd s = .next { s with lendStat := 3 } := by
  simp only [exec, execLaunchEnd, State.lendWrite, refused, Bool.false_eq_true, if_false]

theorem answers_launchEnd {x : Nat} (named : s.ev.a % 65536 = x) (endable : s.endable s.ev.num x = true) (running : (s.launch x).st = .running)
    (childless : ∀ p ∈ s.launches, p.2.st ≠ .pending) : Answers (exec .launchEnd s) fun t =>
      (t.launch x).st = .ending ∧ t.lendBusy = x ∧ t.lendStat = 1 ∧ t.mem = s.mem ∧
      ∀ k, (s.tile k).lid = x → (s.tile k).Ended (t.tile k) := by
  have known : x ≠ 0 := by
    rintro rfl
    simp [State.endable] at endable
  let b : State := { s with lendBusy := x, lendStat := 1 }
  have ending := State.ending_endLaunch (s := b) running childless
  have still : (b.endLaunch x).endDone x = b.endLaunch x := by
    simp only [State.endDone, ending]
    exact if_neg fun ⟨_, done, _⟩ => nomatch done
  have run : exec .launchEnd s = .next (b.endLaunch x) := by
    simp only [exec, execLaunchEnd, State.lendWrite, named, endable, if_true]
    exact congrArg Host.Outcome.next still
  obtain ⟨u, -, tiles, busy, stat, eq⟩ := State.endLaunch_running (s := b) running childless
  refine ⟨_, run, ending, ?_, ?_, State.endLaunch_mem .., fun k own => ?_⟩
  · rw [eq, busy]
    exact if_neg known
  · rw [eq]
    exact stat
  · have tile : (b.endLaunch x).tile k = (s.tile k).endWork x := by
      rw [eq]
      refine (congrArg (tget Tile.fresh · k) tiles).trans ?_
      exact tget_map Tile.fresh (Tile.endWork · x) (Tile.endWork_fresh known) s.tiles k
    rw [tile]
    exact Tile.ended_endWork own

/-! ### LAUNCH_END_DONE (R328) -/

theorem launchEndDone_waits (busy : s.endDrained s.ev.num = false) : exec .launchEndDone s = .next s := by
  simp only [exec, execLaunchEndDone, busy, Bool.false_eq_true, if_false]

theorem State.endDone_rest (s : State) (lid : Nat) : { s.endDone lid with lendBusy := s.lendBusy, lendStat := s.lendStat } = s := by
  simp only [State.endDone]
  split <;> rfl

@[simp] theorem State.endDone_launches (s : State) (lid : Nat) : (s.endDone lid).launches = s.launches :=
  (congrArg State.launches (s.endDone_rest lid) :)
@[simp] theorem State.endDone_tiles (s : State) (lid : Nat) : (s.endDone lid).tiles = s.tiles :=
  (congrArg State.tiles (s.endDone_rest lid) :)

/-- The end that c:LEND counts as in progress is over once launch lid has completed (R328 step 5). -/
def State.lendOver (s : State) (lid : Nat) : Bool :=
  s.lendBusy != 0 && ((s.launch s.lendBusy).parent == lid && lid != 0) && (s.launch s.lendBusy).st == .done

/-- The state in which a launch's record is final and its queue has counted it. -/
def State.closed (s : State) (lid : Nat) (ended : Bool) (cycles : Nat) : State :=
  let u := match (s.launch lid).queue with
    | some q => s.updQueue q fun d => { d with cur := 0, head := (d.head + 1) % 2 ^ 32, done_ := (d.done_ + 1) % 2 ^ 32,
                                                ended := if ended then (d.ended + 1) % 2 ^ 16 else d.ended }
    | none => s
  u.updLaunch lid fun l => l.finished u.now ended cycles

theorem State.lendBusy_finishLaunch (s : State) (lid : Nat) (ended : Bool) (cycles : Nat) : (s.finishLaunch lid ended cycles).lendBusy =
    if (s.closed lid ended cycles).lendOver lid then 0 else (s.closed lid ended cycles).lendBusy := rfl

theorem State.lendStat_finishLaunch (s : State) (lid : Nat) (ended : Bool) (cycles : Nat) : (s.finishLaunch lid ended cycles).lendStat =
    if (s.closed lid ended cycles).lendOver lid && (s.closed lid ended cycles).lendStat == 1 then 2
    else (s.closed lid ended cycles).lendStat := rfl

theorem State.lend_closed (s : State) (lid : Nat) (ended : Bool) (cycles : Nat) : let u := s.closed lid ended cycles
    u.lendBusy = s.lendBusy ∧ u.lendStat = s.lendStat ∧ (u.launch lid).parent = (s.launch lid).parent := by
  unfold State.closed
  have parent (b : State) : ((b.updLaunch lid fun l => l.finished b.now ended cycles).launch lid).parent = (b.launch lid).parent :=
    (congrArg Launch.parent (b.launch_updLaunch_same lid fun l => l.finished b.now ended cycles) :)
  split <;> exact ⟨rfl, rfl, parent _⟩

/-- The end of a launch without a parent, of a write of c:LEND that names it, has no entry to wait for (R328 step 5). -/
theorem State.lend_finishLaunch {s : State} {lid : Nat} (known : lid ≠ 0) (alone : (s.launch lid).parent = 0) (busy : s.lendBusy = lid)
    (ended : Bool) (cycles : Nat) : let t := s.finishLaunch lid ended cycles
      t.lendBusy = lid ∧ t.lendStat = s.lendStat ∧ (t.launch lid).ended = false := by
  obtain ⟨named, stat, parent⟩ := s.lend_closed lid ended cycles
  have waiting : (s.closed lid ended cycles).lendOver lid = false := by
    simp [State.lendOver, named, busy, parent, alone, known.symm]
  refine ⟨?_, ?_, ?_⟩
  · rw [State.lendBusy_finishLaunch, waiting, named]
    exact busy
  · rw [State.lendStat_finishLaunch, waiting, stat]
    rfl
  · rw [State.launch_finishLaunch]
    simp [Launch.orphaned, Launch.finished, alone, known.symm]

theorem answers_launchEndDone (drained : s.endDrained s.ev.num = true) (known : s.ev.num ≠ 0) (alone : (s.launch s.ev.num).parent = 0) :
    Answers (exec .launchEndDone s) fun t => (t.launch s.ev.num).st = .done ∧ (t.launch s.ev.num).endSt = 1 ∧
      (∀ k, (t.tile k).lid ≠ s.ev.num) ∧
      (s.lendBusy = s.ev.num → t.lendBusy = 0 ∧ t.lendStat = if s.lendStat = 1 then 2 else s.lendStat) ∧ t.mem = s.mem := by
  let b := (s.releaseLaunch s.ev.num).finishLaunch s.ev.num true (s.now - (s.launch s.ev.num).t0)
  obtain ⟨st, endSt, -⟩ := (s.releaseLaunch s.ev.num).outcome_finishLaunch s.ev.num true (s.now - (s.launch s.ev.num).t0)
  obtain ⟨tiles, -, mem⟩ := s.released_finishLaunch s.ev.num known true (s.now - (s.launch s.ev.num).t0)
  have run : exec .launchEndDone s = .next (b.endDone s.ev.num) := by
    simp only [exec, execLaunchEndDone, drained, if_true]
    rfl
  refine ⟨_, run, ?_, ?_, ?_, fun busy => ?_, (b.endDone_mem _).trans mem⟩
  · rw [State.launch, State.endDone_launches]
    exact st
  · rw [State.launch, State.endDone_launches]
    exact endSt
  · intro k
    rw [State.tile, State.endDone_tiles]
    exact tiles k
  · have free : ((s.releaseLaunch s.ev.num).launch s.ev.num).parent = 0 := by rw [State.launch_releaseLaunch]; exact alone
    obtain ⟨named, stat, told⟩ := State.lend_finishLaunch (s := s.releaseLaunch s.ev.num) known free busy true (s.now - (s.launch s.ev.num).t0)
    have over_ : b.lendBusy = s.ev.num ∧ (b.launch s.ev.num).st = .done ∧ (!((b.launch s.ev.num).ended && !(b.launch s.ev.num).told)) = true :=
      ⟨named, st, by rw [told]; rfl⟩
    have freed : b.endDone s.ev.num = { b with lendBusy := 0, lendStat := if b.lendStat = 1 then 2 else b.lendStat } := if_pos over_
    rw [freed]
    exact ⟨rfl, by rw [stat]; rfl⟩

end

end Sys2Proof.Machine
end

section
/-! Saving and resuming: XSAVE and the resume of a restored launch (R366, R367, R369), and O47 from the clauses of its steps. -/

open Sys2Proof

namespace Sys2Proof.Machine

/-! ### XSAVE_WRITE (R367) -/

theorem stores_writeArea {s t : State} {p va : Nat} {gs : List (Nat × Nat)} (h : s.writeArea p va gs = some t) : Stores s t :=
  foldl_bind_keeps (P := Stores s) (fun u _ v hu hv => by
    obtain ⟨k, -, rfl⟩ := Option.map_eq_some_iff.1 hv
    exact hu.trans ⟨_, _, rfl⟩) ⟨_, _, rfl⟩ h

theorem stores_writeMemory {s t : State} {p va : Nat} {ks : List (Nat × Nat)} (h : s.writeMemory p va ks = some t) : Stores s t :=
  foldl_bind_keeps (P := Stores s) (fun u _ v hu hv => by
    obtain ⟨k, -, rfl⟩ := Option.map_eq_some_iff.1 hv
    refine hu.trans ?_
    dsimp only
    split <;> exact ⟨_, _, rfl⟩) ⟨_, _, rfl⟩ h

/-- A die that is saved is recorded with its launch's number and its own (R367). -/
theorem State.saved_saveDie (s : State) (lid d : Nat) : (s.launch lid).dieOwn d ∈ ((s.saveDie lid d).launch lid).savedDies ∧
    ∃ v ∈ (s.saveDie lid d).saved, v.lid = lid ∧ v.die = (s.launch lid).dieOwn d := by
  let own := (s.launch lid).dieOwn d
  let add (l : Launch) : Launch :=
    { l with savedDies := own :: l.savedDies, atPoint := l.atPoint.filter (· != own),
             st := if l.dies.all (own :: l.savedDies).contains then .saved else l.st }
  have record (b : State) : own ∈ ((b.updLaunch lid add).launch lid).savedDies := by
    rw [State.launch_updLaunch_same]
    exact List.mem_cons_self
  unfold State.saveDie
  dsimp only
  split <;> exact ⟨record _, _, List.mem_cons_self, rfl, rfl⟩

section
variable {s : State} {x : Nat} {area : Word} (waits : (s.slot s.ev.num s.ev.a).wait = .xsave x area)
include waits

theorem answers_xsaveWrite_lost {k : Nat} (over_ : (s.launch x).st = .done ∨ (s.launch x).damaged = true)
    (place : s.xlate (s.launch (s.slot s.ev.num s.ev.a).lid).part area.toNat true = some k) : Answers (exec .xsaveWrite s) fun t =>
      readMem t.mem k 8 = 0 ∧ (∀ b, b < k ∨ k + 8 ≤ b → readByte t.mem b = readByte s.mem b) ∧
      (s.slot s.ev.num s.ev.a).At (t.slot s.ev.num s.ev.a) ((s.slot s.ev.num s.ev.a).pc + 4) true ∧ t.launches = s.launches := by
  refine ⟨(s.store k 8 0).updSlot s.ev.num s.ev.a fun sl => sl.complete (sl.pc + 4) true, ?_, ?_, fun b out => ?_, ?_, rfl⟩
  · simp only [exec, execXsaveWrite, State.xsaveNow, waits, over_, if_true, place]
    rfl
  · exact readMem_writeMem ..
  · exact readByte_writeMem_out _ _ _ _ _ out
  · rw [State.slot_updSlot_same]
    exact Slot.at_complete ..

variable (live : (s.launch x).st ≠ .done) (whole : (s.launch x).damaged = false)
include live whole

theorem xsaveWrite_waits (early : (s.launch x).holdsOn (tDie s.ev.num) = false ∨ (s.launch x).dieOwn (tDie s.ev.num) ∉ (s.launch x).atPoint ∨
    s.swapsOf (s.launch x) (tDie s.ev.num) = true) : exec .xsaveWrite s = .next s := by
  have not_ : ((s.launch x).holdsOn (tDie s.ev.num) && (s.launch x).atPoint.contains ((s.launch x).dieOwn (tDie s.ev.num)) &&
      !s.swapsOf (s.launch x) (tDie s.ev.num)) = false := by
    rcases early with h | h | h <;> simp [h]
  simp only [exec, execXsaveWrite, State.xsaveNow, waits, live, whole, or_self, not_, Bool.false_eq_true, if_false, Option.getD_none]

theorem answers_xsaveWrite {s1 : State} (here : (s.launch x).holdsOn (tDie s.ev.num) = true)
    (reached : (s.launch x).dieOwn (tDie s.ev.num) ∈ (s.launch x).atPoint) (still : s.swapsOf (s.launch x) (tDie s.ev.num) = false)
    (written : ((s.writeMemory (s.launch (s.slot s.ev.num s.ev.a).lid).part area.toNat (s.areaKeys (s.launch x) (tDie s.ev.num))).bind fun y =>
      y.writeArea (s.launch (s.slot s.ev.num s.ev.a).lid).part area.toNat (s.saveImage x (tDie s.ev.num))) = some s1) :
    Answers (exec .xsaveWrite s) fun t => (s.launch x).dieOwn (tDie s.ev.num) ∈ (t.launch x).savedDies ∧
      (∃ v ∈ t.saved, v.lid = x ∧ v.die = (s.launch x).dieOwn (tDie s.ev.num)) ∧
      (t.slot s.ev.num s.ev.a).st = .run ∧ (t.slot s.ev.num s.ev.a).wait = .none ∧ t.mem = s1.mem := by
  obtain ⟨m, p, same⟩ : Stores s s1 := by
    obtain ⟨y, first, second⟩ := Option.bind_eq_some_iff.1 written
    exact (stores_writeMemory first).trans (stores_writeArea second)
  have launch : s1.launch x = s.launch x := by rw [same]; rfl
  obtain ⟨saved, kept⟩ := s1.saved_saveDie x (tDie s.ev.num)
  rw [launch] at saved kept
  have now_ : ((s.launch x).holdsOn (tDie s.ev.num) && (s.launch x).atPoint.contains ((s.launch x).dieOwn (tDie s.ev.num)) &&
      !s.swapsOf (s.launch x) (tDie s.ev.num)) = true := by
    simp [here, reached, still]
  have after : s.xsaveNow s.ev.num s.ev.a = some ((s1.saveDie x (tDie s.ev.num)).updSlot s.ev.num s.ev.a fun sl => sl.complete (sl.pc + 4) true) := by
    simp only [State.xsaveNow, waits]
    rw [if_neg (by simp [live, whole]), if_pos now_]
    exact congrArg (Option.map fun s1 => (s1.saveDie x (tDie s.ev.num)).updSlot s.ev.num s.ev.a fun sl => sl.complete (sl.pc + 4) true) written
  have mem := s1.saveDie_mem x (tDie s.ev.num)
  generalize s1.saveDie x (tDie s.ev.num) = left_ at *
  have run : exec .xsaveWrite s = .next (left_.updSlot s.ev.num s.ev.a fun sl => sl.complete (sl.pc + 4) true) := by
    simp only [exec, execXsaveWrite, after, Option.getD_some]
  have slot := left_.slot_updSlot_same s.ev.num s.ev.a fun sl => sl.complete (sl.pc + 4) true
  exact ⟨_, run, saved, kept, congrArg Slot.st slot, congrArg Slot.wait slot, mem⟩

end

/-! ### XLOAD_RESUME (R369) -/

/-- A tile on which no thread is stopped (R366). -/
def Tile.Resumed (tl : Tile) : Prop := tl.held = false ∧ ∀ u, (tl.slot u).stopped = false

theorem Tile.resumed_fresh : Tile.fresh.Resumed := ⟨rfl, fun _ => rfl⟩

theorem Slot.stopped_resumed (sl : Slot) : sl.resumed.stopped = false := by
  unfold Slot.resumed
  dsimp only
  split <;> rfl

/-- A tile that goes on. -/
def Tile.unheld (tl : Tile) : Tile := { tl with held := false, slots := tl.slots.map fun u => (u.1, u.2.resumed) }

theorem Tile.resumed_unheld (tl : Tile) : tl.unheld.Resumed :=
  ⟨rfl, fun u => (congrArg Slot.stopped (tget_map Slot.fresh Slot.resumed rfl tl.slots u)).trans (Slot.stopped_resumed _)⟩

theorem State.resumed_grant {s : State} {k : Nat} (h : (s.tile k).Resumed) (t : Nat) : ((s.grant t).tile k).Resumed := by
  unfold State.grant
  dsimp only
  split
  · exact h
  · split
    · next c r u _ _ =>
      rw [State.tile_updTile]
      split
      · next same =>
        subst same
        refine ⟨h.1, fun v => ?_⟩
        have slot := Tile.slot_updSlot (s.tile k) u v fun sl => sl.ofCtx (c.fromPark s.mem (s.parkKey k 0))
        refine (congrArg Slot.stopped slot :).trans ?_
        split
        · rfl
        · exact h.2 v
      · exact h
    · exact h

theorem State.grant_launches (s : State) (t : Nat) : (s.grant t).launches = s.launches := by
  unfold State.grant
  dsimp only
  repeat' split
  all_goals rfl

section
variable {s : State}

theorem xloadResume_waits (partly : (s.launch s.ev.num).restoredAll = false) : exec .xloadResume s = .next s := by
  simp only [exec, execXloadResume, partly, Bool.not_false, if_true]

/-- Every slot of a list of tiles is offered to the walkers that wait there. -/
def State.grantAll (s : State) (ts : List Nat) : State := ts.foldl (fun s t => (List.range 8).foldl (fun s _ => s.grant t) s) s

theorem State.grantAll_keeps {P : State → Prop} (h : ∀ s t, P s → P (s.grant t)) {s : State} (hs : P s) (ts : List Nat) : P (s.grantAll ts) :=
  List.foldlRecOn (motive := P) ts _ hs fun _ hb t _ => List.foldlRecOn (motive := P) (List.range 8) _ hb fun c hc _ _ => h c t hc

/-- The tiles of a launch go on. -/
def State.unhold (s : State) (ts : List Nat) : State := ts.foldl (fun s t => s.updTile t Tile.unheld) s

theorem State.unhold_keeps {β : Type} {g : State → β} (h : ∀ s t f, g (State.updTile s t f) = g s) (s : State) (ts : List Nat) :
    g (s.unhold ts) = g s := foldl_keeps (f := fun s t => s.updTile t Tile.unheld) (fun _ _ => h ..) ts s

/-- Every tile of a launch has resumed once each listed one has: a tile that is not listed has no thread. -/
theorem State.resumed_unhold {s : State} {lid k : Nat} (own : (s.tile k).lid = lid) :
    ((s.unhold ((s.tiles.filter fun t => t.2.lid == lid).map Prod.fst)).tile k).Resumed := by
  rcases tget_mem Tile.fresh s.tiles k with fresh | listed
  · exact tile_foldl_updTile_keeps (f := fun _ _ => Tile.unheld) (fun _ => Tile.resumed_unheld)
      (congrArg Tile.Resumed fresh ▸ Tile.resumed_fresh) _
  · have mine : ((s.tile k).lid == lid) = true := beq_iff_eq.2 own
    exact tile_foldl_updTile (f := fun _ _ => Tile.unheld) (fun _ => Tile.resumed_unheld)
      (List.mem_map.2 ⟨_, List.mem_filter.2 ⟨listed, mine⟩, rfl⟩) s

theorem answers_xloadResume (restored : (s.launch s.ev.num).restoredAll = true) (out : ∀ r ∈ s.roots, r.2.heldOut = false) :
    Answers (exec .xloadResume s) fun t => (t.launch s.ev.num).st = .running ∧ (t.launch s.ev.num).marked = false ∧
      (t.launch s.ev.num).restored = [] ∧ t.mem = s.mem ∧ ∀ k, (s.tile k).lid = s.ev.num → (t.tile k).Resumed := by
  let f (l : Launch) : Launch := { l with st := .running, marked := false, restored := [], atPoint := [] }
  let b := s.updLaunch s.ev.num f
  let ts := (s.tiles.filter fun t => t.2.lid == s.ev.num).map Prod.fst
  have none_ : (s.roots.filter fun r => r.2.heldOut && (b.domLaunches r.1).contains s.ev.num) = [] :=
    List.filter_eq_nil_iff.2 fun r hr => by simp [out r hr]
  have run : exec .xloadResume s = .next ((b.unhold ts).grantAll ts) := by
    simp only [exec, execXloadResume, restored, Bool.not_true, Bool.false_eq_true, if_false]
    exact congrArg (fun l : Tbl Root => Host.Outcome.next (l.foldl (fun u x => u.releaseOut s.ev.num x) ((b.unhold ts).grantAll ts))) none_
  have launches : ((b.unhold ts).grantAll ts).launches = b.launches :=
    State.grantAll_keeps (P := fun u => u.launches = b.launches) (fun u t hu => (u.grant_launches t).trans hu)
      (b.unhold_keeps (g := State.launches) (fun _ _ _ => rfl) ts) ts
  have record : ((b.unhold ts).grantAll ts).launch s.ev.num = f (s.launch s.ev.num) :=
    (congrArg (tget Launch.fresh · s.ev.num) launches).trans (s.launch_updLaunch_same s.ev.num f)
  refine ⟨_, run, congrArg Launch.st record, congrArg Launch.marked record, congrArg Launch.restored record, ?_, fun k own => ?_⟩
  · exact State.grantAll_keeps (P := fun u => u.mem = s.mem) (fun u t hu => (u.grant_mem t).trans hu)
      (b.unhold_keeps (g := State.mem) (fun _ _ _ => rfl) ts) ts
  · exact State.grantAll_keeps (P := fun u => (u.tile k).Resumed) (fun u t hu => State.resumed_grant hu t) (State.resumed_unhold (s := b) own) ts

end

/-- Settles O47: each step of the dispatcher, and of the end, the saving and the resuming of a launch, by the clauses proved above. -/
theorem launchSteps : Obligations.LaunchSteps := by
  unfold Obligations.LaunchSteps
  intro s
  refine ⟨dispatchDistribute_none, fun q => answers_dispatchDistribute_err, fun d x ds => answers_dispatchDistribute_go,
    fun d x => answers_dispatchDistribute_bad, fun x arrived => ⟨launchPlaced_late arrived, answers_launchPlaced_lost arrived,
      fun img ss placing image single whole => answers_launchPlaced arrived placing image single whole⟩,
    launchComplete_waits, answers_launchComplete, childCompletionPlace_waits, fun x k => answers_childCompletionPlace,
    answers_queueTailWrite s, preemptRequest_waits, fun v d => answers_preemptRequest, preemptionPoint_waits, answers_preemptionPoint,
    ⟨s.starvSeen_noteWaits, rfl⟩, answers_starvInterval s, ⟨launchEnd_refused, answers_launchEnd rfl⟩, launchEndDone_waits,
    answers_launchEndDone, fun x area waits => ⟨fun k => answers_xsaveWrite_lost waits, xsaveWrite_waits waits,
      fun s1 live whole => answers_xsaveWrite waits live whole⟩, xloadResume_waits, fun restored out => ?_⟩
  obtain ⟨t, run, st, marked, rest, mem, resumed⟩ := answers_xloadResume restored out
  exact ⟨t, run, st, marked, rest, mem, fun k u own => ⟨(resumed k own).1, (resumed k own).2 u⟩⟩

end Sys2Proof.Machine
end

section
/-! The reset state (R306, R312, R318, R324, R342, R408, R410): O58. -/

open Sys2Proof

namespace Sys2Proof.Machine

/-- Settles O58: the reset state lists nothing, so every tile, partition, queue, die and stack reads as a fresh one, with the values the rules
give it. -/
theorem resetState : Obligations.ResetState := by
  unfold Obligations.ResetState
  have slots (k u : Nat) : (State.reset.slot k u).st = .free := rfl
  have parts (p : Nat) : (State.reset.part p).valid = false ∧ (State.reset.part p).st = 0 := ⟨rfl, rfl⟩
  have queues (q : Nat) : (State.reset.queue q).en = false ∧ (State.reset.queue q).lsize = 4 ∧ (State.reset.queue q).plvl = 7 ∧
      (State.reset.queue q).tail = 0 := ⟨rfl, rfl, rfl, rfl⟩
  have dies (d : Nat) : (State.reset.die d).wdog = 0x4C4B ∧ (State.reset.die d).dthr = 64 := ⟨rfl, rfl⟩
  exact ⟨rfl, rfl, fun _ => rfl, rfl, rfl, rfl, rfl, rfl, slots, parts, queues, dies, fun _ _ => rfl, fun _ => rfl⟩

end Sys2Proof.Machine
end

section
/-! Moves and exchanges of tile groups: the map's entries after an exchange, and what a move leaves of the tiles (R318 to R320; clauses of O48). -/

open Sys2Proof

namespace Sys2Proof.Machine

/-! ### The map and the threads after an exchange (R318) -/

section
variable (s : State)

theorem State.physGroup_updDie_of_map {d : Nat} {f : Die → Die} (map : (f (s.die d)).map = (s.die d).map) (e g : Nat) :
    (s.updDie d f).physGroup e g = s.physGroup e g := by
  by_cases same : e = d
  · subst same
    rw [State.physGroup, State.die_updDie_same, map, State.physGroup]
  · rw [State.physGroup, State.die_updDie_of_ne s same, State.physGroup]

theorem State.dies_exchangeMap (d a b : Nat) : (s.exchangeMap d a b).dies =
    (s.updDie d fun x => { x with map := tset (tset x.map a (s.physGroup d b)) b (s.physGroup d a) }).dies := by
  unfold State.exchangeMap
  dsimp only
  refine (foldl_keeps (g := State.dies) (f := fun s i => s.swapUnits (groupTile (groupKey d a) i) (groupTile (groupKey d b) i))
    (fun _ _ => rfl) _ _).trans ?_
  exact foldl_keeps (g := State.dies) (f := fun (s : State) (p : Nat × Nat) => s.swapPens p.1 p.2) (fun _ _ => rfl) _ _

/-- An exchange changes the entries of the two groups it names, and nothing else of the map. -/
theorem State.physGroup_exchangeMap (d a b e g : Nat) : (s.exchangeMap d a b).physGroup e g =
    if e = d then if g = b then s.physGroup d a else if g = a then s.physGroup d b else s.physGroup d g else s.physGroup e g := by
  rw [State.physGroup, State.die, State.dies_exchangeMap, ← State.die]
  split
  · next same =>
    rw [same, State.die_updDie_same]
    dsimp only
    rw [tget_tset, tget_tset, State.physGroup, State.physGroup, State.physGroup]
  · next other => rw [State.die_updDie_of_ne s other, State.physGroup]

theorem State.slot_swapUnits (a b k u : Nat) : (s.swapUnits a b).slot k u = s.slot k u := by
  unfold State.swapUnits
  dsimp only
  rw [State.slot_updTile_of_slots _ rfl, State.slot_updTile_of_slots _ rfl]

theorem State.slot_exchangeMap (d a b k u : Nat) : (s.exchangeMap d a b).slot k u = s.slot k u := by
  have pens (l : List (Nat × Nat)) (s : State) : (l.foldl (fun s p => s.swapPens p.1 p.2) s).slot k u = s.slot k u :=
    foldl_keeps (g := fun s : State => s.slot k u) (f := fun s p => s.swapPens p.1 p.2) (fun _ _ => rfl) l s
  have units (l : List Nat) (s : State) : (l.foldl (fun s i => s.swapUnits (groupTile (groupKey d a) i) (groupTile (groupKey d b) i)) s).slot k u =
      s.slot k u := foldl_keeps (g := fun s : State => s.slot k u) (fun s i => s.slot_swapUnits _ _ k u) l s
  exact (units _ _).trans (pens _ _)

end

/-! ### GROUP_MAP_EXCHANGE (R318) -/

section
variable {s : State}

/-- Two groups of a die that the supervisor may exchange: neither holds a launch, and no move of the die is in progress. -/
def State.Exchangeable (s : State) (d a b : Nat) : Prop :=
  a < 320 ∧ b < 320 ∧ a ≠ b ∧ s.dieExists d = true ∧ s.groupHeld d a = false ∧ s.groupHeld d b = false ∧ (s.die d).move = none

theorem exec_groupMapExchange_of {p : Prop} [Decidable p] (h : p ↔ s.Exchangeable s.ev.num s.ev.a s.ev.b) :
    exec .groupMapExchange s = .next (if p then s.exchangeMap s.ev.num s.ev.a s.ev.b else s) := by
  have may : (decide (s.ev.a < 320 ∧ s.ev.b < 320 ∧ s.ev.a ≠ s.ev.b) && s.dieExists s.ev.num && !s.groupHeld s.ev.num s.ev.a &&
      !s.groupHeld s.ev.num s.ev.b && (s.die s.ev.num).move.isNone) = true ↔ p := by
    rw [h]
    simp only [State.Exchangeable, Bool.and_eq_true, decide_eq_true_eq, Bool.not_eq_true', Option.isNone_iff_eq_none, and_assoc]
  exact congrArg Host.Outcome.next (ite_congr (propext may) (fun _ => rfl) fun _ => rfl)

theorem groupMapExchange_refused (not_ : ¬ s.Exchangeable s.ev.num s.ev.a s.ev.b) : exec .groupMapExchange s = .next s :=
  (exec_groupMapExchange_of (p := False) (iff_of_false id not_)).trans (congrArg Host.Outcome.next (if_false ..))

theorem answers_groupMapExchange (may : s.Exchangeable s.ev.num s.ev.a s.ev.b) : Answers (exec .groupMapExchange s) fun t =>
    t.physGroup s.ev.num s.ev.a = s.physGroup s.ev.num s.ev.b ∧ t.physGroup s.ev.num s.ev.b = s.physGroup s.ev.num s.ev.a ∧
    (∀ e g, e ≠ s.ev.num ∨ (g ≠ s.ev.a ∧ g ≠ s.ev.b) → t.physGroup e g = s.physGroup e g) ∧ t.mem = s.mem ∧
    ∀ k u, t.slot k u = s.slot k u := by
  obtain ⟨-, -, differ, -⟩ := id may
  refine ⟨_, (exec_groupMapExchange_of (p := True) (iff_of_true trivial may)).trans (congrArg Host.Outcome.next (if_pos trivial)), ?_, ?_,
    fun e g outside => ?_, State.exchangeMap_mem .., s.slot_exchangeMap _ _ _⟩
  · rw [State.physGroup_exchangeMap, if_pos rfl, if_neg differ, if_pos rfl]
  · rw [State.physGroup_exchangeMap, if_pos rfl, if_pos rfl]
  · rw [State.physGroup_exchangeMap]
    rcases outside with other | ⟨na, nb⟩
    · exact if_neg other
    · rw [if_neg nb, if_neg na]
      split
      · next same => rw [same]
      · rfl

/-! ### TILE_MAP_MOVE (R319) -/

theorem State.setTmres_slots (s : State) (t st tag k : Nat) : ((s.setTmres t st tag).tile k).slots = (s.tile k).slots := by
  rw [State.setTmres, State.tile_updTile]
  split
  · next same => rw [same]
  · rfl

theorem State.slot_setTmres (s : State) (t st tag k u : Nat) : (s.setTmres t st tag).slot k u = s.slot k u :=
  congrArg (tget Slot.fresh · u) (s.setTmres_slots t st tag k)

theorem State.tile_setTmres (s : State) (t st tag : Nat) :
    ((s.setTmres t st tag).tile t).sel.tmres = st ∧ ((s.setTmres t st tag).tile t).sel.tmtag = tag ∧
    ∀ k, k ≠ t → (s.setTmres t st tag).tile k = s.tile k := by
  refine ⟨?_, ?_, fun k other => (State.tile_updTile ..).trans (if_neg other)⟩ <;> rw [State.setTmres, State.tile_updTile_same]

/-- The move that a write of c:TMREQ asks for. -/
def State.asked (s : State) (t v : Nat) : MapMove :=
  { grp := nf v 0 9, phys := nf v 9 9, force := nb v 18, tag := nf v 19 8, tile := t, from_ := s.next }

theorem State.tmreq_refused {t v : Nat} (st : s.moveStatus (tDie t) v ≠ 1) : s.tmreq t v = s.setTmres t (s.moveStatus (tDie t) v) (nf v 19 8) :=
  if_neg st

theorem State.tmreq_started {t v : Nat} (st : s.moveStatus (tDie t) v = 1) : s.tmreq t v =
    ((s.setTmres t (s.moveStatus (tDie t) v) (nf v 19 8)).updDie (tDie t) fun x =>
      { x with move := some (s.asked t v) }).sendWithin 50000 (.mapDone (tDie t)) :=
  if_pos st

theorem State.tiles_tmreq (s : State) (t v : Nat) : (s.tmreq t v).tiles = (s.setTmres t (s.moveStatus (tDie t) v) (nf v 19 8)).tiles := by
  by_cases st : s.moveStatus (tDie t) v = 1
  · rw [State.tmreq_started st]
    rfl
  · rw [State.tmreq_refused st]

theorem answers_tileMapMove (s : State) : let t0 := s.ev.num
    let d0 := tDie t0
    let st := s.moveStatus d0 s.ev.a
    Answers (exec .tileMapMove s) fun t => (t.tile t0).sel.tmres = st ∧ (t.tile t0).sel.tmtag = nf s.ev.a 19 8 ∧
      (∀ k, k ≠ t0 → t.tile k = s.tile k) ∧ (t.tile t0).slots = (s.tile t0).slots ∧ t.mem = s.mem ∧
      (st ≠ 1 → t.flight = s.flight ∧ t.dies = s.dies) ∧
      (st = 1 → SentBy s t 50000 (.mapDone d0) ∧ (∀ d g, t.physGroup d g = s.physGroup d g) ∧
        ∃ m, (t.die d0).move = some m ∧ m.grp = nf s.ev.a 0 9 ∧ m.phys = nf s.ev.a 9 9 ∧ m.force = nb s.ev.a 18 ∧ m.tile = t0) := by
  have tile (k : Nat) : (s.tmreq s.ev.num s.ev.a).tile k =
      (s.setTmres s.ev.num (s.moveStatus (tDie s.ev.num) s.ev.a) (nf s.ev.a 19 8)).tile k := congrArg (tget Tile.fresh · k) (s.tiles_tmreq ..)
  obtain ⟨res, tag, others⟩ := s.tile_setTmres s.ev.num (s.moveStatus (tDie s.ev.num) s.ev.a) (nf s.ev.a 19 8)
  refine ⟨s.tmreq s.ev.num s.ev.a, rfl, ?_, ?_, fun k other => ?_, ?_, State.tmreq_mem .., fun refused => ?_, fun started => ?_⟩
  · rw [tile]
    exact res
  · rw [tile]
    exact tag
  · rw [tile]
    exact others k other
  · rw [tile]
    exact State.setTmres_slots ..
  · rw [State.tmreq_refused refused]
    exact ⟨rfl, rfl⟩
  · rw [State.tmreq_started started]
    refine ⟨State.sentBy_sendWithin _ _ _ (by decide), fun d g => ?_, s.asked s.ev.num s.ev.a, ?_, rfl, rfl, rfl, rfl⟩
    · exact ((s.setTmres s.ev.num (s.moveStatus (tDie s.ev.num) s.ev.a) (nf s.ev.a 19 8)).physGroup_updDie_of_map
        (f := fun x => { x with move := some (s.asked s.ev.num s.ev.a) }) rfl d g :)
    · exact congrArg Die.move (State.die_updDie_same _ _ fun x => { x with move := some (s.asked s.ev.num s.ev.a) })

/-! ### TILE_MAP_MOVE_DONE (R320) -/

theorem Stores.dies {s t : State} (h : Stores s t) : t.dies = s.dies := by
  obtain ⟨_, _, rfl⟩ := h
  rfl

theorem Stores.slot {s t : State} (h : Stores s t) (k u : Nat) : t.slot k u = s.slot k u := by
  obtain ⟨_, _, rfl⟩ := h
  rfl

theorem stores_copyStorage (s old : State) (a b n : Nat) : Stores s (s.copyStorage old a b n) := by
  obtain ⟨m, p, same⟩ := stores_foldl (f := fun s c => { s with mem := writeByte s.mem (c.1 - a + b) c.2 }) (fun _ _ => ⟨_, _, rfl⟩)
    (old.mem.filter fun c => decide (a ≤ c.1 ∧ c.1 < a + n)) { s.zeroRange b n with
      poison := (s.zeroRange b n).poison ++ (old.poison.filter fun g => decide (a / 16 ≤ g ∧ g < (a + n) / 16)).map fun g => g - a / 16 + b / 16 }
  exact ⟨m, p, same⟩

/-- The storage of logical group g of die d as it was in state old follows the group to where the map now has it (R320 step 3). -/
def State.carried (s old : State) (d g : Nat) : State :=
  (List.range 64).foldl (fun s i => s.copyStorage old (old.groupByteKey (groupKey d g) (256 * i)) (s.groupByteKey (groupKey d g) (256 * i)) 65536)
    ((groupTiles d g).foldl (fun s t => s.copyStorage old (old.sliceKey t 0) (s.sliceKey t 0) 65536) s)

theorem stores_carried (s old : State) (d g : Nat) : Stores s (s.carried old d g) :=
  (stores_foldl (f := fun s t => s.copyStorage old (old.sliceKey t 0) (s.sliceKey t 0) 65536) (fun _ _ => stores_copyStorage ..) _ s).trans
    (stores_foldl (f := fun s i => s.copyStorage old (old.groupByteKey (groupKey d g) (256 * i)) (s.groupByteKey (groupKey d g) (256 * i)) 65536)
      (fun _ _ => stores_copyStorage ..) _ _)

/-- The traffic that move m held has its new group. -/
def State.regrouped (s : State) (m : MapMove) : State := { s.taken with flight := s.taken.flight.map (s.releaseHeld m) }

/-- The map has switched for move m, and die d has no move (R320 step 4). -/
def State.switched (s : State) (d : Nat) (m : MapMove) : State :=
  ((s.regrouped m).exchangeMap d m.grp (s.logOf d m.phys)).updDie d fun x => { x with move := none }

theorem State.move_switched (s : State) (d : Nat) (m : MapMove) : ((s.switched d m).die d).move = none :=
  congrArg Die.move (State.die_updDie_same _ d fun x => { x with move := none })

theorem State.physGroup_switched (s : State) (d : Nat) (m : MapMove) (g : Nat) : (s.switched d m).physGroup d g =
    if g = s.logOf d m.phys then s.physGroup d m.grp else if g = m.grp then s.physGroup d (s.logOf d m.phys) else s.physGroup d g := by
  rw [State.switched, State.physGroup_updDie_of_map _ rfl, State.physGroup_exchangeMap, if_pos rfl]
  rfl

theorem State.slot_switched (s : State) (d : Nat) (m : MapMove) (k u : Nat) : (s.switched d m).slot k u = s.slot k u := by
  have tiles : (s.switched d m).tiles = ((s.regrouped m).exchangeMap d m.grp (s.logOf d m.phys)).tiles := State.updDie_tiles ..
  have regrouped : (s.regrouped m).slot k u = s.slot k u := rfl
  rw [State.slot, State.tile, tiles, ← State.tile, ← State.slot, State.slot_exchangeMap, regrouped]

section
variable {d : Nat} (arrived : s.arrived = some (.mapDone d))
include arrived

theorem tileMapMoveDone_late (none_ : (s.die d).move = none) : exec .tileMapMoveDone s = .next s.taken := by
  simp only [exec, execTileMapMoveDone, arrived, none_]

variable {m : MapMove} (move : (s.die d).move = some m)
include move

theorem tileMapMoveDone_waits (busy : s.moveQuiet d m = false) : exec .tileMapMoveDone s = .next s := by
  simp only [exec, execTileMapMoveDone, arrived, move, busy, Bool.not_false, if_true]

theorem exec_tileMapMoveDone (quiet : s.moveQuiet d m = true) :
    exec .tileMapMoveDone s = .next (((s.switched d m).carried s d m.grp).setTmres m.tile 2 m.tag) := by
  simp only [exec, execTileMapMoveDone, arrived, move, quiet, Bool.not_true, Bool.false_eq_true, if_false]
  rfl

theorem answers_tileMapMoveDone (quiet : s.moveQuiet d m = true) (target : s.physGroup d (s.logOf d m.phys) = m.phys) :
    Answers (exec .tileMapMoveDone s) fun t =>
      (t.die d).move = none ∧ t.physGroup d m.grp = m.phys ∧ t.physGroup d (s.logOf d m.phys) = s.physGroup d m.grp ∧
      (∀ g, g ≠ m.grp → g ≠ s.logOf d m.phys → t.physGroup d g = s.physGroup d g) ∧
      (t.tile m.tile).sel.tmres = 2 ∧ (t.tile m.tile).sel.tmtag = m.tag ∧ ∀ k u, t.slot k u = s.slot k u := by
  have dies : (((s.switched d m).carried s d m.grp).setTmres m.tile 2 m.tag).dies = (s.switched d m).dies := (stores_carried _ _ _ _).dies
  have map (g : Nat) : (((s.switched d m).carried s d m.grp).setTmres m.tile 2 m.tag).physGroup d g =
      if g = s.logOf d m.phys then s.physGroup d m.grp else if g = m.grp then m.phys else s.physGroup d g := by
    rw [State.physGroup, State.die, dies, ← State.die, ← State.physGroup, State.physGroup_switched, target]
  obtain ⟨res, tag, -⟩ := ((s.switched d m).carried s d m.grp).tile_setTmres m.tile 2 m.tag
  refine ⟨_, exec_tileMapMoveDone arrived move quiet, ?_, ?_, ?_, fun g nm nl => ?_, res, tag, fun k v => ?_⟩
  · rw [State.die, dies]
    exact s.move_switched d m
  · rw [map]
    split
    · next one => rw [one, target]
    · exact if_pos rfl
  · rw [map, if_pos rfl]
  · rw [map, if_neg nl, if_neg nm]
  · rw [State.slot_setTmres, (stores_carried _ _ _ _).slot, State.slot_switched]

end

end

end Sys2Proof.Machine
end

section
/-! Twin copies: the comparison of their requests and the recovery from a mismatch (R330, R331, R383), and O48 from the clauses of its steps. -/

open Sys2Proof

namespace Sys2Proof.Machine

/-! ### What leaves the threads, the pairs and the mismatches alone -/

/-- From state s to state t storage, the requests of twin copies, the mismatches and every tile's threads are the same. -/
structure Spares (s t : State) : Prop where
  mem : t.mem = s.mem
  pairs : t.pairs = s.pairs
  slots : ∀ k, (t.tile k).slots = (s.tile k).slots
  twins : ∀ d, (t.die d).twins = (s.die d).twins

theorem Spares.trans {s t u : State} (h : Spares s t) (h' : Spares t u) : Spares s u :=
  ⟨h'.mem.trans h.mem, h'.pairs.trans h.pairs, fun k => (h'.slots k).trans (h.slots k), fun d => (h'.twins d).trans (h.twins d)⟩

theorem spares_foldl {α : Type} {f : State → α → State} (h : ∀ s a, Spares s (f s a)) (l : List α) (s : State) : Spares s (l.foldl f s) :=
  List.foldlRecOn (motive := Spares s) l f ⟨rfl, rfl, fun _ => rfl, fun _ => rfl⟩ fun b hb a _ => hb.trans (h b a)

section
variable (s : State)

theorem spares_send (n : Nat) (m : Msg) : Spares s (s.send n m) := ⟨rfl, rfl, fun _ => rfl, fun _ => rfl⟩

theorem spares_sendAt (n : Nat) (m : Msg) : Spares s (s.sendAt n m) := ⟨rfl, rfl, fun _ => rfl, fun _ => rfl⟩

theorem spares_updTile {t : Nat} {f : Tile → Tile} (h : (f (s.tile t)).slots = (s.tile t).slots) : Spares s (s.updTile t f) := by
  refine ⟨rfl, rfl, fun k => ?_, fun _ => rfl⟩
  rw [State.tile_updTile]
  split
  · next same => rw [same, h]
  · rfl

theorem State.twins_queueMsg (d dest : Nat) (e : Entry) (k : Nat) : ((s.queueMsg d dest e).die k).twins = (s.die k).twins := by
  let f (di : Die) : Die := if di.trq.length < 64 then { di with trq := di.trq ++ [(s.next, dest, e)] }
    else { di with trlost := min (di.trlost + 1) (2 ^ 32 - 1) }
  have same (di : Die) : (f di).twins = di.twins := by
    dsimp only [f]
    split <;> rfl
  have die : (s.queueMsg d dest e).die k = if k = d then f (s.die d) else s.die k := tget_tset ..
  rw [die]
  split
  · next here => rw [same, here]
  · rfl

theorem spares_record (code d row col : Nat) (addr : Word) (lid detail : Nat) : Spares s (s.record code d row col addr lid detail) :=
  ⟨rfl, rfl, fun _ => rfl, s.twins_queueMsg d 1 _⟩

theorem spares_fjSend (m : Msg) (ty len dpod dpkg t off aux data : Nat) : Spares s (s.fjSend m ty len dpod dpkg t off aux data) := by
  unfold State.fjSend
  dsimp only
  split
  · exact ⟨rfl, rfl, fun _ => rfl, fun _ => rfl⟩
  · exact ⟨rfl, rfl, fun _ => rfl, State.twins_queueMsg _ 0 2 _⟩

theorem spares_forward (t n : Nat) (m : Msg) : Spares s (s.forward t n m) := by
  unfold State.forward
  split
  · split
    · split
      · exact spares_send ..
      · exact spares_fjSend ..
    · exact spares_fjSend ..
    · exact spares_send ..
  · split
    · exact spares_fjSend ..
    · exact spares_send ..
  · exact spares_sendAt ..
  · exact spares_send ..

theorem spares_releasePair (q : TwinReq) (peer : Option (Nat × Nat)) (live : Nat) : Spares s (s.releasePair q peer live) := by
  unfold State.releasePair
  split
  · exact spares_forward ..
  · exact spares_updTile s rfl

/-- A unit's errors have taken it out of full use (R382 step 1). -/
theorem State.marginFlag_core (t : Nat) : Spares s (s.marginFlag t false) ∧ ((s.marginFlag t false).tile t).margin.st ≠ 0 := by
  have set (m : Margin) : Spares s (s.setMargin t false m) ∧ ((s.setMargin t false m).tile t).margin = m :=
    ⟨(spares_updTile s (f := fun tl => { tl with margin := m }) rfl :),
      (congrArg Tile.margin (s.tile_updTile_same t fun tl => { tl with margin := m }) :)⟩
  unfold State.marginFlag
  dsimp only
  split
  · next full =>
    obtain ⟨same, margin⟩ := set { s.unitMargin t false with
      mev := min ((s.unitMargin t false).mev + 1) 255, errs := [], st := 1 }
    refine ⟨same.trans (spares_record ..), ?_⟩
    exact (congrArg Margin.st margin :).trans_ne Nat.one_ne_zero
  · next flagged =>
    obtain ⟨same, margin⟩ := set { s.unitMargin t false with mev := min ((s.unitMargin t false).mev + 1) 255, errs := [] }
    exact ⟨same, (congrArg Margin.st margin :).trans_ne flagged⟩

end

/-! ### Storage copied to other keys -/

/-- The bytes of a list, written to the keys that lie as far behind b as their own behind a. -/
def State.copied (s : State) (a b : Nat) (l : List Host.Cell) : State := l.foldl (fun s c => { s with mem := writeByte s.mem (c.1 - a + b) c.2 }) s

section
variable {a b i : Nat}

theorem State.readByte_copied_out {l : List Host.Cell} (from_ : ∀ c ∈ l, a ≤ c.1) (other : ∀ c ∈ l, c.1 ≠ a + i) (s : State) :
    readByte (s.copied a b l).mem (b + i) = readByte s.mem (b + i) := by
  induction l generalizing s with
  | nil => rfl
  | cons c r ih =>
    obtain ⟨first, rest⟩ := List.forall_mem_cons.1 from_
    obtain ⟨not_, others⟩ := List.forall_mem_cons.1 other
    refine (ih rest others { s with mem := writeByte s.mem (c.1 - a + b) c.2 }).trans ?_
    exact (readByte_writeByte ..).trans (if_neg (by omega))

theorem State.readByte_copied {l : List Host.Cell} (rising : Rising l) (from_ : ∀ c ∈ l, a ≤ c.1) (s : State)
    (clear : readByte s.mem (b + i) = 0) : readByte (s.copied a b l).mem (b + i) = readByte l (a + i) := by
  induction l generalizing s with
  | nil => exact clear
  | cons c r ih =>
    obtain ⟨j, v⟩ := c
    obtain ⟨later, rising⟩ := rising
    obtain ⟨first, rest⟩ := List.forall_mem_cons.1 from_
    let u : State := { s with mem := writeByte s.mem (j - a + b) v }
    have written : readByte u.mem (b + i) = if b + i = j - a + b then v else readByte s.mem (b + i) := readByte_writeByte ..
    by_cases here : j = a + i
    · have kept := State.readByte_copied_out (b := b) rest (fun c hc => here ▸ (later c hc).ne') u
      rw [written, if_pos (by omega)] at kept
      exact kept.trans (by simp [readByte, tget, here])
    · rw [clear, if_neg (by omega)] at written
      exact (ih rising rest u written).trans (by simp [readByte, tget, here])

end

theorem readByte_filter {f : Host.Cell → Bool} {k : Nat} (keep : ∀ v, f (k, v) = true) (m : List Host.Cell) :
    readByte (m.filter f) k = readByte m k := by
  induction m with
  | nil => rfl
  | cons c r ih =>
    obtain ⟨j, v⟩ := c
    unfold readByte at ih ⊢
    by_cases here : j = k
    · subst here
      rw [List.filter_cons_of_pos (keep v)]
      simp only [tget, if_true]
    · by_cases hf : f (j, v) = true
      · rw [List.filter_cons_of_pos hf]
        simp only [tget, here, if_false, ih]
      · rw [List.filter_cons_of_neg hf]
        simp only [tget, here, if_false, ih]

theorem readByte_zeroRange {s : State} {b n i : Nat} (h : i < n) : readByte (s.zeroRange b n).mem (b + i) = 0 := by
  refine readByte_unlisted fun c hc same => ?_
  have outside := (List.mem_filter.1 hc).2
  simp only [Bool.not_eq_true', decide_eq_false_iff_not] at outside
  omega

theorem State.readByte_copyStorage {s old : State} {a b n i : Nat} (wf : memWf old.mem = true) (h : i < n) :
    readByte (s.copyStorage old a b n).mem (b + i) = readByte old.mem (a + i) := by
  have rising := ((memWf_iff _).1 wf).1.filter fun c => decide (a ≤ c.1 ∧ c.1 < a + n)
  have copied := State.readByte_copied (b := b) (i := i) rising (fun c hc => (decide_eq_true_iff.1 (List.mem_filter.1 hc).2).1)
    { s.zeroRange b n with poison := (s.zeroRange b n).poison ++
      (old.poison.filter fun g => decide (a / 16 ≤ g ∧ g < (a + n) / 16)).map fun g => g - a / 16 + b / 16 } (readByte_zeroRange h)
  exact copied.trans (readByte_filter (fun _ => by simp [h]) _)

/-! ### TWIN_PAIR_COMPARE (R330, R331) -/

section
variable {s : State}

theorem twinPairCompare_none (pick : s.pairPick = none) : exec .twinPairCompare s = .next s := by
  simp only [exec, execTwinPairCompare, pick]

theorem answers_twinPairCompare_agree {q r : TwinReq} {c : CtrReq} (pick : s.pairPick = some (q, r)) (agree : q.hash = r.hash)
    (msg : q.msg = some (.ctr c)) : Answers (exec .twinPairCompare s) fun t =>
      Sent s t (.ctr { c with peer := r.msg.bind Msg.asker }) ∧ t.pairs = (s.pairs.erase q).erase r ∧ t.tiles = s.tiles ∧ t.mem = s.mem := by
  let u : State := { s with pairs := (s.pairs.erase q).erase r }
  have run : exec .twinPairCompare s = .next (u.send q.min (.ctr { c with peer := r.msg.bind Msg.asker })) := by
    simp only [exec, execTwinPairCompare, pick, agree, if_true, State.releasePair, msg]
    rfl
  obtain ⟨f, flight, sent⟩ := u.sent_send q.min (.ctr { c with peer := r.msg.bind Msg.asker })
  exact ⟨_, run, ⟨f, flight, sent⟩, rfl, rfl, rfl⟩

theorem answers_twinPairCompare_differ {q r : TwinReq} (pick : s.pairPick = some (q, r)) (differ : q.hash ≠ r.hash) :
    Answers (exec .twinPairCompare s) fun t => t.pairs = s.pairs ∧ t.flight = s.flight ∧ t.tiles = s.tiles ∧
      t.mem = s.mem ∧ (t.die (tDie q.tile)).twins = (s.die (tDie q.tile)).twins ++ [(q.tile, q.seq)] ∧
      ∃ e, t.toMgmt = e :: s.toMgmt ∧ ef e 2 1 = 0x26 ∧ ef e 4 1 = tRow q.tile % 256 ∧ ef e 5 1 = tCol q.tile % 256 := by
  have row : tRow q.tile < 256 := (Nat.mod_lt _ (by decide)).trans (by decide : 128 < 256)
  have col : tCol q.tile < 256 := (Nat.mod_lt _ (by decide)).trans (by decide : 160 < 256)
  refine ⟨s.reportTwin q r, ?_, rfl, rfl, rfl, rfl, ?_, _, rfl, ?_⟩
  · simp only [exec, execTwinPairCompare, pick]
    exact congrArg Host.Outcome.next (if_neg differ)
  · let f (d : Die) : Die := { d with twins := d.twins ++ [(q.tile, q.seq)] }
    exact ((spares_record (s.updDie (tDie q.tile) f) ..).twins _).trans (congrArg Die.twins (s.die_updDie_same _ f))
  · obtain ⟨code, atRow, atCol, -⟩ := ef_trapEntry_noThread (code := 0x26) (by decide) row col 0 (s.logDie (tDie q.tile)) 0
      (if sameMsg q r then BitVec.allOnes 64 else nw q.seq) 0 (s.tile q.tile).lid
      (tRow (twinShift (s.launch (s.tile q.tile).lid) q.tile) + tCol (twinShift (s.launch (s.tile q.tile).lid) q.tile) * 2 ^ 8 +
        b2n (sameMsg q r) * 2 ^ 16)
    exact ⟨code, atRow.trans (Nat.mod_eq_of_lt row).symm, atCol.trans (Nat.mod_eq_of_lt col).symm⟩

end

/-! ### A kept copy (R383) -/

/-- State t is state s with the copy on tile live in the place of the one on tile dead, no mismatch and no request of tile p, and tile dead's core
flagged. -/
def State.Kept (s t : State) (p live dead : Nat) : Prop :=
  (∀ u, (t.slot dead u).x = (s.slot live u).x ∧ (t.slot dead u).pc = (s.slot live u).pc ∧ (t.slot dead u).st = (s.slot live u).st) ∧
  (∀ i, i < 65536 → readByte t.mem (s.sliceKey dead 0 + i) = readByte s.mem (s.sliceKey live 0 + i)) ∧
  (∀ x ∈ (t.die (tDie p)).twins, x.1 ≠ p) ∧ (∀ q ∈ t.pairs, q.tile ≠ p) ∧ (t.tile dead).margin.st ≠ 0

/-- The requests and the mismatches of tile p are dropped. -/
def State.unmatched (s : State) (p : Nat) : State :=
  ({ s with pairs := s.pairs.filter fun q => q.tile != p } : State).updDie (tDie p) fun d => { d with twins := d.twins.filter fun x => x.1 != p }

/-- Tile dead becomes a copy of tile live, its names moved by f, and its slice a copy of the other's. -/
def State.overwritten (s : State) (live dead : Nat) (f : Nat → Nat) : State :=
  let u := s.updTile dead fun o => o.copyOf (s.tile live) f
  u.copyStorage u (u.sliceKey live 0) (u.sliceKey dead 0) 65536

/-- The tile of the copy that is kept, and of the other one. -/
def State.liveTile (s : State) (p : Nat) (twin : Bool) : Nat := if twin then p + (s.launch (s.tile p).lid).twinOff else p
def State.deadTile (s : State) (p : Nat) (twin : Bool) : Nat := if twin then p else p + (s.launch (s.tile p).lid).twinOff

/-- What a tile that the kept copy names is called in the other one. -/
def State.counterpart (s : State) (p : Nat) (twin : Bool) (t : Nat) : Nat :=
  if twin then t - (s.launch (s.tile p).lid).twinOff else t + (s.launch (s.tile p).lid).twinOff

/-- The requests of the kept copy that wait at the mismatch go on, the answer to the other copy too. -/
def State.resent (s : State) (live : Nat) (f : Nat → Nat) (qs : List TwinReq) : State :=
  qs.foldl (fun s q => s.releasePair q (moveKey f (q.msg.bind Msg.asker)) live) s

theorem spares_resent (s : State) (live : Nat) (f : Nat → Nat) (qs : List TwinReq) : Spares s (s.resent live f qs) :=
  spares_foldl (f := fun s q => s.releasePair q (moveKey f (q.msg.bind Msg.asker)) live) (fun _ _ => spares_releasePair ..) qs s

theorem State.keepCopy_eq (s : State) (p : Nat) (twin : Bool) : s.keepCopy p twin =
    (((s.unmatched p).overwritten (s.liveTile p twin) (s.deadTile p twin) (s.counterpart p twin)).resent (s.liveTile p twin) (s.counterpart p twin)
      (s.pairs.filter fun q => q.tile == p && q.copy == twin)).marginFlag (s.deadTile p twin) false := by
  unfold State.keepCopy State.resent State.overwritten State.unmatched State.liveTile State.deadTile State.counterpart
  dsimp only

theorem State.sliceKey_unmatched (s : State) (p t off : Nat) : (s.unmatched p).sliceKey t off = s.sliceKey t off := by
  have map (e g : Nat) : (s.unmatched p).physGroup e g = s.physGroup e g :=
    (State.physGroup_updDie_of_map ({ s with pairs := s.pairs.filter fun q => q.tile != p } : State) (d := tDie p)
      (f := fun d => { d with twins := d.twins.filter fun x => x.1 != p }) rfl e g :)
  have loc : (s.unmatched p).dieLoc (tDie t) = s.dieLoc (tDie t) := rfl
  simp only [State.sliceKey, State.sliceFrame, map, loc]

theorem State.twins_unmatched (s : State) (p : Nat) : ∀ x ∈ ((s.unmatched p).die (tDie p)).twins, x.1 ≠ p := by
  have twins := congrArg Die.twins (({ s with pairs := s.pairs.filter fun q => q.tile != p } : State).die_updDie_same (tDie p)
    fun d => { d with twins := d.twins.filter fun x => x.1 != p })
  intro x hx
  rw [show ((s.unmatched p).die (tDie p)).twins = _ from twins] at hx
  simpa using (List.mem_filter.1 hx).2

section
variable (s : State) (live dead : Nat) (f : Nat → Nat)

theorem State.stores_overwritten : Stores (s.updTile dead fun o => o.copyOf (s.tile live) f) (s.overwritten live dead f) := stores_copyStorage ..

theorem State.tile_overwritten (k : Nat) :
    (s.overwritten live dead f).tile k = if k = dead then (s.tile dead).copyOf (s.tile live) f else s.tile k := by
  obtain ⟨m, p, same⟩ := s.stores_overwritten live dead f
  rw [same]
  exact s.tile_updTile dead k fun o => o.copyOf (s.tile live) f

theorem Tile.slot_copyOf (old kept : Tile) (u : Nat) : (old.copyOf kept f).slot u = (kept.slot u).moved f :=
  tget_map Slot.fresh (Slot.moved · f) rfl kept.slots u

theorem State.readByte_overwritten (wf : memWf s.mem = true) {i : Nat} (h : i < 65536) :
    readByte (s.overwritten live dead f).mem (s.sliceKey dead 0 + i) = readByte s.mem (s.sliceKey live 0 + i) := by
  let u := s.updTile dead fun o => o.copyOf (s.tile live) f
  exact State.readByte_copyStorage (s := u) (old := u) (a := s.sliceKey live 0) (b := s.sliceKey dead 0) wf h

end

/-- The copy on tile live has taken the place of the one on tile dead in every state that spares the threads and the storage it has overwritten. -/
theorem State.kept_of_spares {s t : State} {p live dead : Nat} {f : Nat → Nat} (wf : memWf s.mem = true)
    (same : Spares ((s.unmatched p).overwritten live dead f) t) (flagged : (t.tile dead).margin.st ≠ 0) : s.Kept t p live dead := by
  obtain ⟨m, poison, stored⟩ := (s.unmatched p).stores_overwritten live dead f
  refine ⟨fun u => ?_, fun i hi => ?_, fun x hx => ?_, fun q hq => ?_, flagged⟩
  · have slot : t.slot dead u = ((s.tile live).slot u).moved f := by
      rw [State.slot, Tile.slot, same.slots, State.tile_overwritten, if_pos rfl]
      exact Tile.slot_copyOf ..
    rw [slot]
    exact ⟨rfl, rfl, rfl⟩
  · rw [same.mem, ← s.sliceKey_unmatched p, ← s.sliceKey_unmatched p]
    exact (s.unmatched p).readByte_overwritten live dead f wf hi
  · rw [same.twins, stored] at hx
    exact s.twins_unmatched p x hx
  · rw [same.pairs, stored] at hq
    simpa using (List.mem_filter.1 hq).2

/-- Keeping a copy puts it in the place of the other one, and leaves the threads of its own tile. -/
theorem State.kept_keepCopy {s : State} {p : Nat} {twin : Bool} (wf : memWf s.mem = true) (differ : s.liveTile p twin ≠ s.deadTile p twin) :
    s.Kept (s.keepCopy p twin) p (s.liveTile p twin) (s.deadTile p twin) ∧
      ((s.keepCopy p twin).tile (s.liveTile p twin)).slots = (s.tile (s.liveTile p twin)).slots := by
  obtain ⟨told, flagged⟩ := (((s.unmatched p).overwritten (s.liveTile p twin) (s.deadTile p twin) (s.counterpart p twin)).resent
    (s.liveTile p twin) (s.counterpart p twin) (s.pairs.filter fun q => q.tile == p && q.copy == twin)).marginFlag_core (s.deadTile p twin)
  have same := (spares_resent ..).trans told
  rw [State.keepCopy_eq]
  refine ⟨State.kept_of_spares wf same flagged, ?_⟩
  rw [same.slots, State.tile_overwritten, if_neg differ]
  rfl

/-! ### A write of c:TWCTL (R383) -/

/-- The primary tile that a write on die d names. -/
def twinNamed (d v : Nat) : Nat := tileKey d (nf v 0 8) (nf v 8 8)

/-- The row, the column and the action of a write of c:TWCTL. -/
theorem nf_twctl (v : Nat) {j : Nat} (h : j < 4) : nf (v % 65536 + j * 2 ^ 16) 0 8 = nf v 0 8 ∧ nf (v % 65536 + j * 2 ^ 16) 8 8 = nf v 8 8 ∧
    nf (v % 65536 + j * 2 ^ 16) 16 2 = j := by
  simp only [nf]
  omega

/-- What action j of c:TWCTL does at a mismatch of primary tile p. -/
def State.recovered (s : State) (p : Nat) : Nat → State
  | 0 => s.keepCopy p false
  | 1 => s.keepCopy p true
  | 2 => s.endLaunch (s.tile p).lid
  | _ => s

theorem State.twctl_eq (s : State) (d v : Nat) {j : Nat} (h : j < 4) : s.twctl d (v % 65536 + j * 2 ^ 16) =
    if s.mismatched (twinNamed d v) then s.recovered (twinNamed d v) j else s := by
  obtain ⟨row, col, action⟩ := nf_twctl v h
  unfold State.twctl
  rw [row, col, action, ← twinNamed]
  dsimp only
  cases s.mismatched (twinNamed d v) <;> rfl

section
variable {s : State}

theorem exec_twinKeepPrimary : exec .twinKeepPrimary s =
    .next (if s.mismatched (twinNamed s.ev.num s.ev.a) then s.keepCopy (twinNamed s.ev.num s.ev.a) false else s) :=
  congrArg Host.Outcome.next (s.twctl_eq s.ev.num s.ev.a (j := 0) (by decide))

theorem exec_twinKeepTwin : exec .twinKeepTwin s =
    .next (if s.mismatched (twinNamed s.ev.num s.ev.a) then s.keepCopy (twinNamed s.ev.num s.ev.a) true else s) :=
  congrArg Host.Outcome.next (s.twctl_eq s.ev.num s.ev.a (j := 1) (by decide))

theorem exec_twinEndLaunch : exec .twinEndLaunch s =
    .next (if s.mismatched (twinNamed s.ev.num s.ev.a) then s.endLaunch (s.tile (twinNamed s.ev.num s.ev.a)).lid else s) :=
  congrArg Host.Outcome.next (s.twctl_eq s.ev.num s.ev.a (j := 2) (by decide))

theorem exec_twinNoAction : exec .twinNoAction s = .next s :=
  congrArg Host.Outcome.next ((s.twctl_eq s.ev.num s.ev.a (j := 3) (by decide)).trans (ite_self s))

theorem twin_unmismatched (none_ : s.mismatched (twinNamed s.ev.num s.ev.a) = false) :
    exec .twinKeepPrimary s = .next s ∧ exec .twinKeepTwin s = .next s ∧ exec .twinEndLaunch s = .next s := by
  rw [exec_twinKeepPrimary, exec_twinKeepTwin, exec_twinEndLaunch, none_]
  exact ⟨rfl, rfl, rfl⟩

variable {p : Nat} (named : twinNamed s.ev.num s.ev.a = p) (mismatch : s.mismatched p = true)
include named mismatch

theorem answers_twinKeep (wf : memWf s.mem = true) (apart : (s.launch (s.tile p).lid).twinOff ≠ 0) :
    let w := p + (s.launch (s.tile p).lid).twinOff
    Answers (exec .twinKeepPrimary s) (fun t => s.Kept t p p w ∧ (t.tile p).slots = (s.tile p).slots) ∧
    Answers (exec .twinKeepTwin s) fun t => s.Kept t p w p ∧ (t.tile w).slots = (s.tile w).slots := by
  subst named
  rw [exec_twinKeepPrimary, exec_twinKeepTwin, mismatch]
  exact ⟨⟨_, rfl, State.kept_keepCopy (twin := false) wf fun same => apart (Nat.left_eq_add.1 same)⟩,
    ⟨_, rfl, State.kept_keepCopy (twin := true) wf fun same => apart (Nat.add_eq_left.1 same)⟩⟩

theorem answers_twinEndLaunch (running : (s.launch (s.tile p).lid).st = .running) (childless : ∀ l ∈ s.launches, l.2.st ≠ .pending) :
    Answers (exec .twinEndLaunch s) fun t => (t.launch (s.tile p).lid).st = .ending ∧ t.mem = s.mem := by
  subst named
  rw [exec_twinEndLaunch, mismatch]
  exact ⟨_, rfl, State.ending_endLaunch running childless, State.endLaunch_mem ..⟩

end

/-- Settles O48: each step of the group map and of twin copies, by the clauses proved above. -/
theorem mapAndTwinSteps : Obligations.MapAndTwinSteps := by
  unfold Obligations.MapAndTwinSteps
  intro s
  exact ⟨answers_tileMapMove s,
    fun d arrived => ⟨tileMapMoveDone_late arrived, fun m move => ⟨tileMapMoveDone_waits arrived move, answers_tileMapMoveDone arrived move⟩⟩,
    ⟨groupMapExchange_refused, answers_groupMapExchange⟩, twinPairCompare_none,
    fun q r pick => ⟨fun c => answers_twinPairCompare_agree pick, answers_twinPairCompare_differ pick⟩, exec_twinNoAction,
    twin_unmismatched, answers_twinKeep rfl, answers_twinEndLaunch rfl⟩

end Sys2Proof.Machine
end
